-- ==== Sys2Proof/Word.lean ====
section
/-!
DEFINITION. The machine's words.
-/

namespace Sys2Proof

/-- A byte of memory. -/
abbrev Byte := BitVec 8

/-- A lane register of one lane, a lane mask, an instruction word. -/
abbrev Word32 := BitVec 32

/-- A uniform register, a device register, an address while it is computed. -/
abbrev Word64 := BitVec 64

/-- One lane register: the 32-bit value of each of a ladle's 32 lanes. -/
abbrev LaneVec := Vector Word32 32

end Sys2Proof
end

