-- ==== Sys2Proof/Config.lean ====
section
/-!
DEFINITION. The free values: what the spec leaves open. Each is a constant with no body, so a statement about it holds
whatever it is.
-/

namespace Sys2Proof.Config

/-- The n-th value the machine reads where the spec states none (log 6); State.free counts them. -/
opaque freeValue : Nat → Word64

/-- The result bits of `fsfu` for a function code and an operand, where R99 gives a bound and not the bits. They are
the same for the same operand in every run (R99), so they depend on nothing else (log 8). -/
opaque sfuValue : Nat → Word32 → Word32

/-- Core cycles that pass in the n-th step: the spec fixes no figure for a whole step (log 7). -/
opaque elapsed : Nat → Word64

/-- The frame that a slice chooses for a tile, before it is brought into a layer's size (R192, log 10). -/
opaque frameChoice : Nat → Nat → Nat

/-- Which slice of another package homes an address there: that package's own configuration says (R427). -/
opaque remoteHome : Nat → Nat → Nat

/-- In the n-th such read, a matrix word finds the old value of an 8-byte word of an allocation, or of global memory (R275). -/
opaque readsOld : Nat → Nat → Nat → Bool

/-- What is fused in the package: its part number, and the least security version of the firmware that its boot ROM accepts (R424, R426). -/
opaque partNumber : Word64
opaque fusedMinimum : BitVec 8

/-- The digests that measurements give (R425): that of the boot ROM, 1, and of the fused configuration, 4, and that of each firmware image,
by its number. -/
opaque measurement : Nat → Word64
opaque imageDigest : Nat → Word64

/-- Which of a partition's pinned tiles lose their pins when a way leaves PIN (R202, log 6): true for a tile that does. -/
opaque pinDropped : Nat → Nat → Bool

end Sys2Proof.Config
end

