-- ==== Sys2Proof/Syntax.lean ====
section
/-!
DEFINITION. The instruction type: one constructor per row of spec/opcode_table.json.
The first 188 constructors are instruction words; their arguments are the row's encoding fields, by the letters the
table gives them (k predicate or mask, h hold, d destination, a and b sources, l lookahead, i immediate, f fn).
The other 125 are the device's own events (spec/95_what_each_step_holds.md): they have no word, and their arguments
say which of the device's units, queues or tables the event concerns.
-/

namespace Sys2Proof

/-- One row of the opcode table. -/
inductive Instr where
  /-- IADD_I32 (R79). -/
  | iaddI32 (k : BitVec 3) (h : BitVec 2) (d a b : BitVec 6)
  /-- IADD_SAT_I32 (R79). -/
  | iaddSatI32 (k : BitVec 3) (h : BitVec 2) (d a b : BitVec 6)
  /-- IADD_SAT_N32 (R79). -/
  | iaddSatN32 (k : BitVec 3) (h : BitVec 2) (d a b : BitVec 6)
  /-- ISUB_I32 (R79). -/
  | isubI32 (k : BitVec 3) (h : BitVec 2) (d a b : BitVec 6)
  /-- ISUB_SAT_I32 (R79). -/
  | isubSatI32 (k : BitVec 3) (h : BitVec 2) (d a b : BitVec 6)
  /-- ISUB_SAT_N32 (R79). -/
  | isubSatN32 (k : BitVec 3) (h : BitVec 2) (d a b : BitVec 6)
  /-- IMUL_LO (R79). -/
  | imulLo (k : BitVec 3) (h : BitVec 2) (d a b : BitVec 6)
  /-- IMUL_HI_I32 (R79). -/
  | imulHiI32 (k : BitVec 3) (h : BitVec 2) (d a b : BitVec 6)
  /-- IMUL_HI_N32 (R79). -/
  | imulHiN32 (k : BitVec 3) (h : BitVec 2) (d a b : BitVec 6)
  /-- IMAD (R79). -/
  | imad (k : BitVec 3) (h : BitVec 2) (d a b : BitVec 6)
  /-- IMIN_I32 (R79). -/
  | iminI32 (k : BitVec 3) (h : BitVec 2) (d a b : BitVec 6)
  /-- IMAX_I32 (R79). -/
  | imaxI32 (k : BitVec 3) (h : BitVec 2) (d a b : BitVec 6)
  /-- IMIN_N32 (R79). -/
  | iminN32 (k : BitVec 3) (h : BitVec 2) (d a b : BitVec 6)
  /-- IMAX_N32 (R79). -/
  | imaxN32 (k : BitVec 3) (h : BitVec 2) (d a b : BitVec 6)
  /-- AND (R79). -/
  | and (k : BitVec 3) (h : BitVec 2) (d a b : BitVec 6)
  /-- OR (R79). -/
  | or (k : BitVec 3) (h : BitVec 2) (d a b : BitVec 6)
  /-- XOR (R79). -/
  | xor (k : BitVec 3) (h : BitVec 2) (d a b : BitVec 6)
  /-- ANDN (R79). -/
  | andn (k : BitVec 3) (h : BitVec 2) (d a b : BitVec 6)
  /-- SHL (R80). -/
  | shl (k : BitVec 3) (h : BitVec 2) (d a b : BitVec 6)
  /-- SHR (R80). -/
  | shr (k : BitVec 3) (h : BitVec 2) (d a b : BitVec 6)
  /-- SHA (R80). -/
  | sha (k : BitVec 3) (h : BitVec 2) (d a b : BitVec 6)
  /-- ROT (R80). -/
  | rot (k : BitVec 3) (h : BitVec 2) (d a b : BitVec 6)
  /-- CLZ (R81). -/
  | clz (k : BitVec 3) (h : BitVec 2) (d a : BitVec 6)
  /-- POPC (R81). -/
  | popc (k : BitVec 3) (h : BitVec 2) (d a : BitVec 6)
  /-- BREV (R81). -/
  | brev (k : BitVec 3) (h : BitVec 2) (d a : BitVec 6)
  /-- FFS (R81). -/
  | ffs (k : BitVec 3) (h : BitVec 2) (d a : BitVec 6)
  /-- BFX_I32 (R82). -/
  | bfxI32 (k : BitVec 3) (h : BitVec 2) (d a b : BitVec 6)
  /-- BFX_N32 (R82). -/
  | bfxN32 (k : BitVec 3) (h : BitVec 2) (d a b : BitVec 6)
  /-- BFI (R82). -/
  | bfi (k : BitVec 3) (h : BitVec 2) (d a b : BitVec 6)
  /-- ICMP (R83). -/
  | icmp (k : BitVec 3) (h f : BitVec 2) (a b : BitVec 6)
  /-- ICMPN (R83). -/
  | icmpn (k : BitVec 3) (h f : BitVec 2) (a b : BitVec 6)
  /-- SEL (R85). -/
  | sel (k : BitVec 3) (h : BitVec 2) (d a b : BitVec 6)
  /-- KAND (R84). -/
  | kand (k : BitVec 3) (h : BitVec 2) (a b : BitVec 3)
  /-- KOR (R84). -/
  | kor (k : BitVec 3) (h : BitVec 2) (a b : BitVec 3)
  /-- KXOR (R84). -/
  | kxor (k : BitVec 3) (h : BitVec 2) (a b : BitVec 3)
  /-- KANDN (R84). -/
  | kandn (k : BitVec 3) (h : BitVec 2) (a b : BitVec 3)
  /-- IADDI (R87). -/
  | iaddi (k : BitVec 3) (d a : BitVec 6) (i : BitVec 10)
  /-- IMULI (R87). -/
  | imuli (k : BitVec 3) (d a : BitVec 6) (i : BitVec 10)
  /-- ANDI (R87). -/
  | andi (k : BitVec 3) (d a : BitVec 6) (i : BitVec 10)
  /-- ORI (R87). -/
  | ori (k : BitVec 3) (d a : BitVec 6) (i : BitVec 10)
  /-- XORI (R87). -/
  | xori (k : BitVec 3) (d a : BitVec 6) (i : BitVec 10)
  /-- SHIFTI (R87). -/
  | shifti (k : BitVec 3) (d a : BitVec 6) (t : BitVec 2) (n : BitVec 5)
  /-- ICMPI (R83). -/
  | icmpi (k f : BitVec 3) (a : BitVec 6) (i : BitVec 10)
  /-- MOVI (R88). -/
  | movi (k : BitVec 3) (d : BitVec 6) (i : BitVec 16)
  /-- MOVHI (R88). -/
  | movhi (k : BitVec 3) (d : BitVec 6) (i : BitVec 16)
  /-- MOV (R89). -/
  | mov (k : BitVec 3) (h : BitVec 2) (d a : BitVec 6)
  /-- MOV_BROADCAST (R89). -/
  | movBroadcast (k : BitVec 3) (h : BitVec 2) (d a : BitVec 6)
  /-- MOV_FROM_MASK (R89). -/
  | movFromMask (k : BitVec 3) (h : BitVec 2) (d : BitVec 6) (a : BitVec 3)
  /-- FADD (R90). -/
  | fadd (k : BitVec 3) (h f : BitVec 2) (d a b : BitVec 6)
  /-- FSUB (R90). -/
  | fsub (k : BitVec 3) (h f : BitVec 2) (d a b : BitVec 6)
  /-- FMUL (R90). -/
  | fmul (k : BitVec 3) (h f : BitVec 2) (d a b : BitVec 6)
  /-- FFMA (R90). -/
  | ffma (k : BitVec 3) (h f : BitVec 2) (d a b : BitVec 6)
  /-- FFMS (R90). -/
  | ffms (k : BitVec 3) (h f : BitVec 2) (d a b : BitVec 6)
  /-- FMIN (R91). -/
  | fmin (k : BitVec 3) (h : BitVec 2) (d a b : BitVec 6)
  /-- FMAX (R91). -/
  | fmax (k : BitVec 3) (h : BitVec 2) (d a b : BitVec 6)
  /-- FMINNUM (R91). -/
  | fminnum (k : BitVec 3) (h : BitVec 2) (d a b : BitVec 6)
  /-- FMAXNUM (R91). -/
  | fmaxnum (k : BitVec 3) (h : BitVec 2) (d a b : BitVec 6)
  /-- FCMP (R92). -/
  | fcmp (k : BitVec 3) (h f : BitVec 2) (a b : BitVec 6)
  /-- FABS (R93). -/
  | fabs (k : BitVec 3) (h : BitVec 2) (d a : BitVec 6)
  /-- FNEG (R93). -/
  | fneg (k : BitVec 3) (h : BitVec 2) (d a : BitVec 6)
  /-- FCOPYSIGN (R93). -/
  | fcopysign (k : BitVec 3) (h : BitVec 2) (d a b : BitVec 6)
  /-- FCLASS (R93). -/
  | fclass (k : BitVec 3) (h : BitVec 2) (d a : BitVec 6)
  /-- FCVT (R96). -/
  | fcvt (k : BitVec 3) (h r : BitVec 2) (d a c : BitVec 6)
  /-- FRND (R95). -/
  | frnd (k : BitVec 3) (h r : BitVec 2) (d a : BitVec 6)
  /-- FSFU (R99). -/
  | fsfu (k : BitVec 3) (l : BitVec 4) (d a f : BitVec 6)
  /-- FDOT2 (R94). -/
  | fdot2 (k : BitVec 3) (h f : BitVec 2) (d a b : BitVec 6)
  /-- LSHF (R100). -/
  | lshf (k : BitVec 3) (h f : BitVec 2) (d a b : BitVec 6)
  /-- LRED (R101). -/
  | lred (k : BitVec 3) (l : BitVec 4) (d a : BitVec 6) (p : BitVec 5)
  /-- LSCAN (R102). -/
  | lscan (k : BitVec 3) (l : BitVec 4) (d a : BitVec 6) (e : BitVec 1) (p : BitVec 5)
  /-- VOTE (R104). -/
  | vote (k : BitVec 3) (h f : BitVec 2) (a : BitVec 6)
  /-- LDS (R140). -/
  | lds (k : BitVec 3) (l : BitVec 4) (d a : BitVec 6) (s : BitVec 5) (c : BitVec 1)
  /-- LDS2 (R140). -/
  | lds2 (k : BitVec 3) (l : BitVec 4) (d a : BitVec 6) (s : BitVec 5) (c : BitVec 1)
  /-- LDSF (R140). -/
  | ldsf (k : BitVec 3) (l : BitVec 4) (d a : BitVec 6) (s : BitVec 5) (c : BitVec 1)
  /-- STS (R140). -/
  | sts (k : BitVec 3) (d a : BitVec 6) (s : BitVec 5) (c : BitVec 1)
  /-- STS2 (R140). -/
  | sts2 (k : BitVec 3) (d a : BitVec 6) (s : BitVec 5) (c : BitVec 1)
  /-- STSF (R140). -/
  | stsf (k : BitVec 3) (d a : BitVec 6) (s : BitVec 5) (c : BitVec 1)
  /-- LDP (R140). -/
  | ldp (k : BitVec 3) (l : BitVec 4) (d a : BitVec 6) (s : BitVec 5) (c : BitVec 1)
  /-- STP (R140). -/
  | stp (k : BitVec 3) (d a : BitVec 6) (s : BitVec 5) (c : BitVec 1)
  /-- LDG (R142). -/
  | ldg (k : BitVec 3) (l : BitVec 4) (d a : BitVec 6) (s : BitVec 5) (c : BitVec 1)
  /-- LDG2 (R142). -/
  | ldg2 (k : BitVec 3) (l : BitVec 4) (d a : BitVec 6) (s : BitVec 5) (c : BitVec 1)
  /-- STG (R143). -/
  | stg (k : BitVec 3) (d a : BitVec 6) (s : BitVec 5) (c : BitVec 1)
  /-- STG2 (R143). -/
  | stg2 (k : BitVec 3) (d a : BitVec 6) (s : BitVec 5) (c : BitVec 1)
  /-- LDGS (R145). -/
  | ldgs (k : BitVec 3) (l : BitVec 4) (d a : BitVec 6) (s : BitVec 5) (c : BitVec 1)
  /-- STGS (R145). -/
  | stgs (k : BitVec 3) (d a : BitVec 6) (s : BitVec 5) (c : BitVec 1)
  /-- ATOM (R389). -/
  | atom (k : BitVec 3) (l : BitVec 4) (p : BitVec 3) (d a : BitVec 6) (s : BitVec 3)
  /-- ATOMB (R389). -/
  | atomb (k : BitVec 3) (l : BitVec 4) (p : BitVec 3) (d a : BitVec 6) (s : BitVec 3)
  /-- REDG (R392). -/
  | redg (k p : BitVec 3) (d a : BitVec 6) (s : BitVec 3)
  /-- ATOMS (R391). -/
  | atoms (k : BitVec 3) (l : BitVec 4) (p : BitVec 3) (d a : BitVec 6) (s : BitVec 3)
  /-- TOUCHG (R147). -/
  | touchg (k : BitVec 3) (a : BitVec 6) (s : BitVec 5) (c : BitVec 1)
  /-- SADD (R108). -/
  | sadd (d a b : BitVec 6)
  /-- SADD_SAT_I64 (R108). -/
  | saddSatI64 (d a b : BitVec 6)
  /-- SADD_SAT_N64 (R108). -/
  | saddSatN64 (d a b : BitVec 6)
  /-- SSUB (R108). -/
  | ssub (d a b : BitVec 6)
  /-- SSUB_SAT_I64 (R108). -/
  | ssubSatI64 (d a b : BitVec 6)
  /-- SSUB_SAT_N64 (R108). -/
  | ssubSatN64 (d a b : BitVec 6)
  /-- SMUL_LO (R108). -/
  | smulLo (d a b : BitVec 6)
  /-- SMUL_HI_I64 (R108). -/
  | smulHiI64 (d a b : BitVec 6)
  /-- SMUL_HI_N64 (R108). -/
  | smulHiN64 (d a b : BitVec 6)
  /-- SAND (R108). -/
  | sand (d a b : BitVec 6)
  /-- SOR (R108). -/
  | sor (d a b : BitVec 6)
  /-- SXOR (R108). -/
  | sxor (d a b : BitVec 6)
  /-- SANDN (R108). -/
  | sandn (d a b : BitVec 6)
  /-- SSHL (R108). -/
  | sshl (d a b : BitVec 6)
  /-- SSHR (R108). -/
  | sshr (d a b : BitVec 6)
  /-- SSHA (R108). -/
  | ssha (d a b : BitVec 6)
  /-- SROT (R108). -/
  | srot (d a b : BitVec 6)
  /-- SMIN_I64 (R108). -/
  | sminI64 (d a b : BitVec 6)
  /-- SMAX_I64 (R108). -/
  | smaxI64 (d a b : BitVec 6)
  /-- SMIN_N64 (R108). -/
  | sminN64 (d a b : BitVec 6)
  /-- SMAX_N64 (R108). -/
  | smaxN64 (d a b : BitVec 6)
  /-- SCMP (R108). -/
  | scmp (f : BitVec 2) (d a b : BitVec 6)
  /-- SSEL (R108). -/
  | ssel (d a b : BitVec 6)
  /-- SCLZ (R108). -/
  | sclz (d a : BitVec 6)
  /-- SPOPC (R108). -/
  | spopc (d a : BitVec 6)
  /-- SBREV (R108). -/
  | sbrev (d a : BitVec 6)
  /-- SFFS (R108). -/
  | sffs (d a : BitVec 6)
  /-- SADDI (R109). -/
  | saddi (d a : BitVec 6) (i : BitVec 13)
  /-- SLI (R109). -/
  | sli (d : BitVec 6) (i : BitVec 13)
  /-- SHI (R109). -/
  | shi (d : BitVec 6) (i : BitVec 13)
  /-- SANDI (R109). -/
  | sandi (d a : BitVec 6) (i : BitVec 13)
  /-- SSHIFTI (R109). -/
  | sshifti (d a : BitVec 6) (t : BitVec 2) (n : BitVec 6)
  /-- SMOV (R111). -/
  | smov (d a : BitVec 6)
  /-- SMOV_FROM_MASK (R111). -/
  | smovFromMask (d : BitVec 6) (k : BitVec 3)
  /-- SMOV_TO_MASK (R111). -/
  | smovToMask (k : BitVec 3) (a : BitVec 6)
  /-- SMOV_SPECIAL (R111). -/
  | smovSpecial (d n : BitVec 6)
  /-- B (R118). -/
  | b (d : BitVec 21)
  /-- BS (R118). -/
  | bs (s : BitVec 4) (n : BitVec 1) (d : BitVec 20)
  /-- BK (R119). -/
  | bk (k : BitVec 3) (m : BitVec 2) (d : BitVec 19)
  /-- CALL (R118). -/
  | call (d : BitVec 21)
  /-- JMP (R120). -/
  | jmp (a : BitVec 6)
  /-- CALLI (R120). -/
  | calli (a : BitVec 6)
  /-- RET (R120). -/
  | ret
  /-- LOOP (R122). -/
  | loop (n : BitVec 5) (c i t : BitVec 6)
  /-- BAR (R126). -/
  | bar (l k : BitVec 2) (i : BitVec 4)
  /-- RGET (R130). -/
  | rget (d : BitVec 6)
  /-- RREL (R130). -/
  | rrel
  /-- WAITA (R397). -/
  | waita (f : BitVec 2) (d a b : BitVec 6)
  /-- SLD (R148). -/
  | sld (f : BitVec 2) (d a b : BitVec 6) (l : BitVec 4)
  /-- SST (R148). -/
  | sst (f : BitVec 2) (d a b : BitVec 6)
  /-- SPATTR (R134). -/
  | spattr (a b : BitVec 6)
  /-- FENCE (R396). -/
  | fence (s : BitVec 3) (k : BitVec 2)
  /-- DIST (R217). -/
  | dist (d a b : BitVec 6) (l : BitVec 4)
  /-- DIST_H (R217). -/
  | distH (d a b : BitVec 6) (l : BitVec 4)
  /-- PIN (R219). -/
  | pin (a b : BitVec 6)
  /-- PIN_R (R219). -/
  | pinR (n a b : BitVec 6)
  /-- UNPIN (R221). -/
  | unpin (a b : BitVec 6)
  /-- UNPIN_R (R221). -/
  | unpinR (n a b : BitVec 6)
  /-- RWB (R222). -/
  | rwb (a b : BitVec 6)
  /-- RWB_R (R222). -/
  | rwbR (n a b : BitVec 6)
  /-- RINV (R222). -/
  | rinv (a b : BitVec 6)
  /-- RINV_R (R222). -/
  | rinvR (n a b : BitVec 6)
  /-- TOUCH (R218). -/
  | touch (a b : BitVec 6)
  /-- TOUCH_R (R218). -/
  | touchR (n a b : BitVec 6)
  /-- CHAIN (R234). -/
  | chain (a : BitVec 6)
  /-- CHAINQ (R305). -/
  | chainq (d a : BitVec 6) (l : BitVec 4)
  /-- BPOST (R347). -/
  | bpost (v : BitVec 2) (d a b : BitVec 6) (l : BitVec 4)
  /-- BREAD (R350). -/
  | bread (d a : BitVec 6) (l : BitVec 4)
  /-- BVOP_TEST (R351). -/
  | bvopTest (d : BitVec 6) (v : BitVec 2) (b : BitVec 6)
  /-- BVOP_COUNT (R351). -/
  | bvopCount (d : BitVec 6) (v : BitVec 2)
  /-- BVOP_WORD (R351). -/
  | bvopWord (d : BitVec 6) (v : BitVec 2) (b : BitVec 6)
  /-- BVOP_AND (R351). -/
  | bvopAnd (d a b : BitVec 2)
  /-- SPAWN (R403). -/
  | spawn (d a b : BitVec 6)
  /-- EXIT (R164). -/
  | exit
  /-- EXIT_ABORT (R164). -/
  | exitAbort
  /-- TRAP (R162). -/
  | trap (c : BitVec 3) (a : BitVec 6) (i : BitVec 13)
  /-- TSYS_NOP (R163). -/
  | tsysNop
  /-- TSYS_TRET (R163). -/
  | tsysTret
  /-- TSYS_TMASK (R163). -/
  | tsysTmask (d a : BitVec 6)
  /-- TSYS_BKPT (R163). -/
  | tsysBkpt
  /-- MMZ (R291). -/
  | mmz (z : BitVec 3)
  /-- MM (R294). -/
  | mm (z : BitVec 3) (s : BitVec 2) (a b : BitVec 6) (p : BitVec 5) (t : BitVec 1) (k : BitVec 2)
  /-- MMR (R312). -/
  | mmr (z : BitVec 3) (s : BitVec 2) (a b : BitVec 6) (p : BitVec 5) (t : BitVec 1) (k : BitVec 2)
  /-- WLOAD (R292). -/
  | wload (s : BitVec 2) (a b : BitVec 6) (p : BitVec 5) (t g : BitVec 1)
  /-- MSTORE (R297). -/
  | mstore (z : BitVec 3) (s : BitVec 2) (a b : BitVec 6) (c p : BitVec 1)
  /-- MSTT (R297). -/
  | mstt (z : BitVec 3) (s : BitVec 2) (a b : BitVec 6) (c p : BitVec 1)
  /-- MSETM_ROW (R290). -/
  | msetmRow (s : BitVec 2) (a b : BitVec 6)
  /-- MSETM_COL (R290). -/
  | msetmCol (s : BitVec 2) (a b : BitVec 6)
  /-- MSETM_DEPTH (R290). -/
  | msetmDepth (s : BitVec 2) (a : BitVec 6)
  /-- MSETM_FULL (R290). -/
  | msetmFull (s : BitVec 2)
  /-- MBATCH (R300). -/
  | mbatch (a : BitVec 6)
  /-- MWAIT (R301). -/
  | mwait (a : BitVec 6)
  /-- RNSF (R311). -/
  | rnsf (z : BitVec 3) (s : BitVec 2) (a b : BitVec 6) (g : BitVec 1)
  /-- RNSR (R313). -/
  | rnsr (z : BitVec 3) (s : BitVec 2) (a b : BitVec 6) (t c p : BitVec 1)
  /-- RNSQ (R314). -/
  | rnsq (z : BitVec 3) (a : BitVec 6) (c : BitVec 1)
  /-- AMAX (R303). -/
  | amax (d a : BitVec 6) (l : BitVec 4)
  /-- AMAX_CLR (R303). -/
  | amaxClr (d a : BitVec 6) (l : BitVec 4)
  /-- SYSR (R114). -/
  | sysr (d : BitVec 6) (n : BitVec 13)
  /-- SYSW (R114). -/
  | sysw (d a : BitVec 6) (n : BitVec 13)
  /-- TRAP_PERMIT_RETRY (R157). -/
  | trapPermitRetry (ladle : Nat)
  /-- DEMAND_MISS_NOTIFICATION (R161). -/
  | demandMissNotification (ladle : Nat)
  /-- HANDLER_DEFERRAL_EXPIRY (R175). -/
  | handlerDeferralExpiry (ladle : Nat)
  /-- LONG_RESULT_LANDING (R57). -/
  | longResultLanding (ladle n : Nat)
  /-- BARRIER_RELEASE (R126). -/
  | barrierRelease (n : Nat)
  /-- RGET_GRANT (R38). -/
  | rgetGrant (core : Nat)
  /-- REGISTER_EXAMINATION (R47). -/
  | registerExamination (core : Nat)
  /-- EXIT_RETIRE (R164). -/
  | exitRetire (ladle : Nat)
  /-- BANK_GRANT (R150). -/
  | bankGrant (n : Nat)
  /-- GLOBAL_ACCESS_SLOT (R191). -/
  | globalAccessSlot (n : Nat)
  /-- SYNC_ACCESS_SLOT (R145). -/
  | syncAccessSlot (n : Nat)
  /-- ATOMIC_GROUP_SLOT (R389). -/
  | atomicGroupSlot (n : Nat)
  /-- DISTANCE_REQUEST_SLOT (R216). -/
  | distanceRequestSlot (n : Nat)
  /-- REPLICA_MERGE (R207). -/
  | replicaMerge (slice tile : Nat)
  /-- REPLICA_DROP (R222). -/
  | replicaDrop (n : Nat)
  /-- MISS_DATA_ARRIVAL (R189). -/
  | missDataArrival (slice tile : Nat)
  /-- MOTION_LANDING (R181). -/
  | motionLanding (slice tile : Nat)
  /-- BOUNDARY_MOVE (R186). -/
  | boundaryMove (slice : Nat)
  /-- WRITE_BACK (R188). -/
  | writeBack (slice : Nat)
  /-- BOARD_OPERATION_SLOT (R348). -/
  | boardOperationSlot (n : Nat)
  /-- BOARD_READ_SLOT (R350). -/
  | boardReadSlot (n : Nat)
  /-- AMAX_FOLD (R265). -/
  | amaxFold (n : Nat)
  /-- AMAX_READ_SLOT (R303). -/
  | amaxReadSlot (n : Nat)
  /-- REDG_CONTRIBUTION (R394). -/
  | redgContribution (n : Nat)
  /-- REDG_RETRY (R395). -/
  | redgRetry (cluster : Nat)
  /-- WAITA_WATCH_TEST (R398). -/
  | waitaWatchTest (slice n : Nat)
  /-- WAITA_RETRY (R398). -/
  | waitaRetry (ladle : Nat)
  /-- WAITA_WAKE (R397). -/
  | waitaWake (ladle : Nat)
  /-- FENCE_COMPLETE (R396). -/
  | fenceComplete (ladle : Nat)
  /-- MATRIX_WORD_START (R270). -/
  | matrixWordStart (cluster : Nat)
  /-- MATRIX_STEP (R294). -/
  | matrixStep (cluster : Nat)
  /-- BATCH_COMPLETE (R238). -/
  | batchComplete (cluster : Nat)
  /-- COPY (R234). -/
  | copyEntry (cluster chain : Nat)
  /-- MCAST (R279). -/
  | mcastEntry (cluster chain : Nat)
  /-- SIGNAL (R234). -/
  | signalEntry (cluster chain : Nat)
  /-- LOOP_ENTRY (R280). -/
  | loopEntry (cluster chain : Nat)
  /-- COND (R280). -/
  | condEntry (cluster chain : Nat)
  /-- REDUCE (R282). -/
  | reduceEntry (cluster chain : Nat)
  /-- WAITW (R280). -/
  | waitwEntry (cluster chain : Nat)
  /-- END (R234). -/
  | endEntry (cluster chain : Nat)
  /-- CHAIN_TRANSFER (R278). -/
  | chainTransfer (cluster chain : Nat)
  /-- WAITW_WAKE (R280). -/
  | waitwWake (cluster chain : Nat)
  /-- LAUNCH_PORT (R410). -/
  | launchPort (part : Nat) (viaPF : Bool) (link offset size : Nat) (record : List (BitVec 64))
  /-- GRAPH_LOAD (R357). -/
  | graphLoad (part : Nat)
  /-- DISPATCH (R360). -/
  | dispatch (part : Nat)
  /-- VERSION_RESERVATION (R208). -/
  | versionReservation (casting : Nat)
  /-- CASTING_COMPLETE (R363). -/
  | castingComplete (casting : Nat)
  /-- COMMIT_ASSIGNMENT (R364). -/
  | commitAssignment (casting : Nat)
  /-- COMMIT_MESSAGE (R210). -/
  | commitMessage (slice casting : Nat)
  /-- DISCARD_MESSAGE (R210). -/
  | discardMessage (slice casting : Nat)
  /-- HORIZON_MESSAGE (R377). -/
  | horizonMessage (slice : Nat)
  /-- COMMITTED (R363). -/
  | committed (casting : Nat)
  /-- SPAWN_RECORD_ENQUEUE (R403). -/
  | spawnRecordEnqueue (part : Nat)
  /-- CASTING_FAULT (R166). -/
  | castingFault (n : Nat)
  /-- DISCARD_ACKNOWLEDGED (R166). -/
  | discardAcknowledged (casting : Nat)
  /-- TRANSLATION_WALK (R421). -/
  | translationWalk (n : Nat)
  /-- TRANSLATION_RECORD_WRITE (R420). -/
  | translationRecordWrite (part : Nat)
  /-- TQ_TAIL (R420). -/
  | tqTail (part : Nat) (value : BitVec 64)
  /-- TQ_ANSWER_RESUME (R420). -/
  | tqAnswerResume (part : Nat) (seq : BitVec 32)
  /-- TQ_ANSWER_ABORT (R420). -/
  | tqAnswerAbort (part : Nat) (seq : BitVec 32)
  /-- PREEMPT_CTL_SAVE (R170). -/
  | preemptCtlSave (part : Nat) (all : Bool) (cluster : Nat)
  /-- PREEMPT_CTL_DISCARD (R170). -/
  | preemptCtlDiscard (part : Nat) (all : Bool) (cluster : Nat)
  /-- PREEMPTION_START (R173). -/
  | preemptionStart (casting : Nat)
  /-- PREEMPTION_SAVE (R172). -/
  | preemptionSave (casting : Nat)
  /-- COLUMN_DUE (R229). -/
  | columnDue (die column : Nat)
  /-- REALIGNMENT_START (R229). -/
  | realignmentStart (die column : Nat) (forced : Bool)
  /-- REALIGNMENT_END (R229). -/
  | realignmentEnd (die column : Nat)
  /-- GOVERNOR_EXAMINATION (R225). -/
  | governorExamination (die : Nat) (temps : List (Nat × Nat)) (power : Nat)
  /-- HASH_CTL_GO (R197). -/
  | hashCtlGo (die : Nat)
  /-- DRAIN_MESSAGE (R197). -/
  | drainMessage (die slice : Nat)
  /-- SWITCH_MESSAGE (R197). -/
  | switchMessage (die slice : Nat)
  /-- REHOME_REPLAY (R198). -/
  | rehomeReplay (n : Nat)
  /-- BT_DATA (R196). -/
  | btData (die : Nat) (value : BitVec 64)
  /-- SLICE_RETIRE (R212). -/
  | sliceRetire (die slice : Nat)
  /-- RETIREMENT_PROCEED (R212). -/
  | retirementProceed (die : Nat)
  /-- SPLIT_REGISTER_WRITE (R201). -/
  | splitRegisterWrite (part die : Nat) (value : BitVec 64)
  /-- SPLIT_CHANGE_SLOT (R202). -/
  | splitChangeSlot (part die slice : Nat)
  /-- FMT_SYNC (R254). -/
  | fmtSync (part : Nat)
  /-- FMT_TABLE_LOAD (R254). -/
  | fmtTableLoad (part : Nat)
  /-- SD_CTL (R422). -/
  | sdCtl (part : Nat)
  /-- SHOOTDOWN_COMPLETE (R422). -/
  | shootdownComplete (part : Nat)
  /-- BOARD_CFG (R423). -/
  | boardCfg (value : BitVec 64)
  /-- BRD_RESET (R423). -/
  | brdReset (part : Nat) (value : BitVec 64)
  /-- BOARD_RESET_SLOT (R423). -/
  | boardResetSlot (board : Nat)
  /-- PART_CTL_RESET (R418). -/
  | partCtlReset (part : Nat)
  /-- PART_CTL_EN (R418). -/
  | partCtlEn (part : Nat) (enable : Bool)
  /-- RNS_INJECT (R316). -/
  | rnsInject (value : BitVec 64)
  /-- RNS_CTL_MF (R325). -/
  | rnsCtlMf (cluster : Nat) (mf : Bool)
  /-- RNS_CTL_RETIRED (R326). -/
  | rnsCtlRetired (cluster : Nat) (retired : BitVec 6)
  /-- ERROR_POLICY_EXAMINATION (R342). -/
  | errorPolicyExamination
  /-- SCRUB_READ (R340): the casting whose version frame holds the sector, or 0, and the sector. -/
  | scrubRead (slice : Nat) (sector : Nat × Nat) (correctable uncorrectable : Bool)
  /-- SCRUB_WRITE (R340). -/
  | scrubWrite (slice : Nat)
  /-- WINDOW_HALVING (R370). -/
  | windowHalving
  /-- CLUSTER_OWNER_CHOICE (R371). -/
  | clusterOwnerChoice (cluster : Nat)
  /-- SERVICE_EXAMINATION (R372). -/
  | serviceExamination
  /-- GANG_READY_POST (R368). -/
  | gangReadyPost (graph mould : Nat)
  /-- GANG_ABORT_OPERATION (R368). -/
  | gangAbortOperation (graph mould : Nat)
  /-- GANG_WATCHDOG_EXPIRY (R368). -/
  | gangWatchdogExpiry (graph mould : Nat)
  /-- GANG_START (R368). -/
  | gangStart (graph mould : Nat)
  /-- GANG_ABORT (R368). -/
  | gangAbort (graph mould : Nat)
  /-- HOST_PHYSICAL_WINDOW_ACCESS (R408). -/
  | hostPhysicalWindowAccess (link : Nat) (write : Bool) (offset : Nat) (bytes : List (BitVec 8))
  /-- HOST_MEMORY_WINDOW_ACCESS (R419). -/
  | hostMemoryWindowAccess (part : Nat) (write : Bool) (offset : Nat) (bytes : List (BitVec 8))
  /-- REGISTER_WRITE (R117). -/
  | registerWrite (number : BitVec 13) (value : BitVec 64) (viaVF : Bool) (part : Nat)
  /-- LINK_TRAINED (R406). -/
  | linkTrained (link : Nat)
  /-- BRING_UP (R232). -/
  | bringUp (verified : Bool) (version : BitVec 8) (failed : List (Nat × Nat))
  /-- GET_VERSION (R425). -/
  | getVersion
  /-- GET_CAPABILITIES (R425). -/
  | getCapabilities
  /-- NEGOTIATE_ALGORITHMS (R425). -/
  | negotiateAlgorithms (ecdsaP384 sha384 : Bool)
  /-- GET_DIGESTS (R425). -/
  | getDigests
  /-- GET_CERTIFICATE (R425). -/
  | getCertificate (slot : Nat)
  /-- CHALLENGE (R425). -/
  | challenge (nonce : Nat)
  /-- GET_MEASUREMENTS (R425). -/
  | getMeasurements (index : Nat)
  /-- IDENTIFY (R426). -/
  | identify
  /-- SENSORS (R426). -/
  | sensors
  /-- ERRORS (R426). -/
  | errorsQuery
  /-- STAGE_FIRMWARE (R426). -/
  | stageFirmware (image : Nat)
  /-- RESET (R426). -/
  | resetPackage
  /-- NYSTRA_PORT_FAILURE (R427). -/
  | nystraPortFailure (port : Nat)
  /-- RDMA_WRITE (R431): a queue pair's port and the partition that owns it. -/
  | rdmaWrite (pair : Nat × Nat) (va : BitVec 64) (bytes : List (BitVec 8))
  /-- RDMA_READ (R431): the same. -/
  | rdmaRead (pair : Nat × Nat) (va : BitVec 64) (length : Nat)
  /-- MATRIX_WORD_COMPLETE (R302). -/
  | matrixWordComplete (cluster : Nat)
  /-- OPPORTUNISTIC_REPLAY (R334). -/
  | opportunisticReplay (ladle : Nat) (mismatch : Bool)
  /-- SHADOW_COMPARISON (R335). -/
  | shadowComparison (ladle : Nat) (mismatch : Bool)
  /-- VF_ENABLE (R406). -/
  | vfEnable (link : Nat) (enable : Bool)
  /-- HOST_MEMORY_COMPLETION (R143). -/
  | hostMemoryCompletion (n : Nat)
  deriving DecidableEq, Repr

end Sys2Proof
end

