-- ==== Sys2Proof/Machine/State.lean ====
section
/-!
DEFINITION. The state of one KK9-A768 package, as plain data, and the state right after reset (R232).
Tables with a numbered key are `FMap`s: lists of (key, value), keys strictly rising, an unlisted key at its table's
default. Each field's docstring names the rule that gives it.
-/

namespace Sys2Proof.Machine

/-- A table by number: keys strictly rising, no entry equal to the table's default. -/
abbrev FMap (α : Type) := List (Nat × α)

/-- Bytes by address, addresses strictly rising, no entry equal to what an unlisted address reads as. -/
abbrev Memory := List Host.Cell

/-- Why a step cannot go on. No step of this device ends so: every stop the spec describes (R154) is a next state. -/
inductive Fault where
  deriving DecidableEq, Repr

/-- Why an instruction has no meaning here. -/
inductive Refusal where
  /-- Raised by an arm of `exec` whose instruction has not been given its meaning yet. Safe: the machine stops. -/
  | notModelled (mnemonic : String)
  deriving DecidableEq, Repr

/-- The causes of a casting fault (R165). -/
inductive Cause where
  | illegal | undeclaredWrite | memoryOrder | address | peerGone | alignment | padBound | format | uncorrectable
  | checkMismatch | abort | unhandledTrap | translationAbort | residue | gangAbort | descriptor | pinQuota
  deriving DecidableEq, Repr

/-- A barrier level (R31, R65). -/
abbrev Level := BitVec 2

/-- The kinds of access a translation is asked for (R421); a touch asks as a read does, and drops a tile that does not translate
(R147, R216). -/
inductive AccessKind where
  | read | write | fetch | sync | touch
  deriving DecidableEq, Repr

/-- What a split waits for (R29). -/
inductive Blocked where
  | ready
  /-- A barrier wait: until `phase` of the barrier has been released (R126); `arrives` when the wait is of an `aw`. -/
  | barrier (level : Level) (id : Nat) (phase : Nat) (arrives : Bool)
  /-- An earlier arrival is outstanding: arrive again once `phase` has been released (R126). -/
  | barrierAgain (level : Level) (id : Nat) (phase : Nat)
  /-- `waita` on a scratchpad word of a ladle, or on a global word (R397); `old` is the value the .ne forms compare with. -/
  | waitaPad (ladle off : Nat) (old : Option Word32) (sd : BitVec 6)
  | waitaGlobal (pa : Nat) (old : Option Word32) (sd : BitVec 6)
  /-- A `waita` whose word has met its condition: the word it will write (R398). -/
  | waitaMet (value : Word32) (sd : BitVec 6)
  | mwait (n : Nat)
  | rget (sd : BitVec 6)
  /-- A refused trap permit's back-off (R157). -/
  | backoff (wait : Nat)
  /-- The loop buffer is busy (R124). -/
  | loopBusy
  /-- A page walk for the access at `va` (R422). -/
  | walk (va : Nat) (kind : AccessKind)
  /-- An `exit` that has issued and not retired (R164). -/
  | exitWait
  /-- A fence that waits for acknowledgements (R396): its scope and kind, and the first request made after it. -/
  | fence (scope : BitVec 3) (kind : BitVec 2) (upTo : Nat)
  /-- An instruction held in the comparison buffer: it acts only once the shadow has reached the same outcome (R335). -/
  | comparing
  deriving DecidableEq, Repr

/-- A split (R25 to R29). -/
structure Split where
  pc : Word64
  mask : Word32
  /-- Its slot, 0 to 3, or parked. -/
  slot : Option Nat
  /-- When it was parked: the ladle's parking counter (R26). -/
  parkedAt : Nat
  blocked : Blocked
  /-- It runs the ladle's loop (R124). -/
  looping : Bool
  /-- The trap handler runs in it (R158). -/
  handler : Bool
  /-- Its next instruction has been compared with the shadow's, and may act (R335). -/
  cleared : Bool := false
  /-- When its page walk began to wait: the number of that step (R422). -/
  walkSince : Nat := 0
  deriving DecidableEq, Repr

/-- The loop buffer (R122 to R125). -/
structure LoopBuf where
  addr : Word64
  words : List Word32
  rem : Word64
  steps : Word64
  stride : Word64
  pass : Nat
  index : Nat
  count : BitVec 6
  /-- Suspended by a trap inside the body (R125). -/
  suspended : Bool
  deriving DecidableEq, Repr

/-- Where a long result lands (R57, R58). -/
inductive Dest where
  | lane (d : BitVec 6)
  | lanePair (d : BitVec 6)
  | uniform (d : BitVec 6)
  | uniformPair (d : BitVec 6)
  /-- A status word in s[sd] and a view in bv[n] (R347). -/
  | post (d : BitVec 6) (bv : BitVec 2)
  deriving DecidableEq, Repr

/-- One access that a race tag records: the ladle, its casting, and its arrival counts at the access, at casting and
at cluster-gang barriers (R151, R379). -/
structure TagRec where
  ladle : Nat
  casting : Nat
  arrivals : Nat
  gangArrivals : Nat
  deriving DecidableEq, Repr

/-- A race tag: the last writer and the readers since (R151, R379). -/
structure Tag where
  writer : Option TagRec
  readers : List TagRec
  deriving DecidableEq, Repr

/-- Who makes an access: the ladle and casting, where they run, the address a report will carry, and the barrier counts
at issue (R379). -/
structure Who where
  ladle : Nat
  casting : Nat
  part : Nat
  cluster : Nat
  rank : Nat
  core : Nat
  pc : Word64
  arrivals : Nat
  waited : Nat
  gangArrivals : Nat
  gangWaited : Nat
  deriving DecidableEq, Repr

/-- A ladle's scratchpad allocation (R132, R133, R151), and the byte of its core's scratchpad where it starts. -/
structure Pad where
  base : Nat
  size : Nat
  bytes : Memory
  attrs : FMap (BitVec 9)
  tags : FMap Tag
  deriving DecidableEq, Repr

/-- A ladle's part in one barrier (R32, R126, R128). -/
structure BarRec where
  /-- Lanes whose splits have arrived at the phase that is open for this ladle. -/
  lanes : Word32
  /-- Phases the ladle has arrived at. -/
  arrived : Nat
  /-- The last phase counted as waited through. -/
  waited : Nat
  deriving DecidableEq, Repr

/-- An entry of the replay queue (R334): operands, mask, mode and result of a completed lane instruction. -/
structure Replay where
  pc : Word64
  instr : Instr
  operands : List LaneVec
  masks : List Word32
  scalars : List Word64
  active : Word32
  fmode : Word32
  result : LaneVec
  maskResult : Word32
  exceptions : BitVec 5
  deriving DecidableEq, Repr

/-- An outward operation in the comparison buffer (R335): its place in the issue order, the address of its instruction, the requests it holds
back, and its outcome, which the shadow has to produce too: the addresses and data, or the branch's outcome and the split mask. -/
structure ShadowItem where
  order : Nat
  pc : Word64
  requests : List Nat
  outcome : List Word64
  deriving DecidableEq, Repr

/-- A value in the load-value queue (R335): its place in the issue order, the pending result that will bring it, and the value once it is
there. -/
structure ShadowValue where
  order : Nat
  pend : Option Nat
  vals : List Word64
  deriving DecidableEq, Repr

/-- The trailing shadow (R335): its own registers, the values that wait for it in the load-value queue, and the
comparison buffer. -/
structure Shadow where
  v : Vector LaneVec 64
  s : Vector Word64 64
  k : Vector Word32 8
  values : List ShadowValue
  buffer : List ShadowItem
  /-- It is in the trap handler: it enters and leaves it with its ladle. -/
  handler : Bool := false
  /-- Operations and values that have entered them. -/
  count : Nat := 0
  deriving DecidableEq, Repr

/-- One lane's part of a request: the bytes it touches, lowest first (physical addresses, or offsets in a scratchpad
allocation), the first bit and the width inside them, its page's format descriptor, the place of its scale byte and whether that
byte's page has RPL = 1, and its operands. -/
structure LaneOp where
  lane : Nat
  bytes : List Nat
  bit : Nat
  width : Nat
  desc : Nat
  scale : Option Nat
  x : Word64
  y : Word64
  scaleRpl : Bool := false
  deriving DecidableEq, Repr

/-- What a request does at its place of performance (R383). -/
inductive ReqKind where
  | load (elem : Bool) | store (elem : Bool)
  | syncLoad | syncStore
  | atomic (bit : Bool) (aop : BitVec 3)
  | redg (aop : BitVec 3) (index : Word32)
  | dist (home : Bool) | touch | pin | unpin | rwb | rinv
  | post | boardRead
  /-- The first test of a global `waita` (R398). -/
  | waitTest (old : Option Word32)
  /-- A replica's dirty bytes on their way to the home (R207). -/
  | merge
  | fold | amaxRead (clear : Bool)
  deriving DecidableEq, Repr

/-- Where a request is performed: a home slice, a ladle's scratchpad, host memory, a board, an amax slot. -/
inductive Place where
  | slice (n : Nat) | remote (pkg : Nat) | pad (ladle : Nat) | host (link : Nat) | board (n : Nat) | amax (n : Nat)
  deriving DecidableEq, Repr

/-- What a part of a scratchpad access has done while other parts of it wait: the allocation, the bytes that nothing else has written since and
the tags, as they stood before (R380). -/
structure Undone where
  pad : Nat
  ladle : Nat
  write : Bool
  bytes : List (Nat × Byte)
  tags : List (Nat × Tag)
  deriving DecidableEq, Repr

/-- A request of a ladle that waits for its slot or grant. -/
structure Req where
  id : Nat
  who : Who
  kind : ReqKind
  place : Place
  /-- The tile it promotes. -/
  tile : Nat
  bypass : Bool
  replica : Bool
  /-- Its page has RPL = 1. -/
  rpl : Bool
  /-- The pending result it fills. -/
  pend : Option Nat
  ops : List LaneOp
  /-- Held by the trailing shadow's comparison buffer (R335). -/
  held : Bool
  /-- Its instruction's place in the ladle's order: one number for all requests of an instruction and for what they cause. -/
  order : Nat := 0
  /-- A fold that an engine's write causes, with the number of its matrix word or chain (R265, R384). -/
  engine : Option Nat := none
  /-- The peer selector that names its target at the grant (R13, R135). -/
  peer : Option Word64 := none
  /-- When it reached its arbiter, once it has (R150, R182); and whether it has waited there for 4 cycles (R150). -/
  arrived : Option Nat := none
  overdue : Bool := false
  /-- Slices whose column realigns and in whose rings 1 to 4 its data lie: it returns when those realignments have ended (R230). -/
  late : List Nat := []
  /-- The engine that makes it: 5 the matrix unit, 6 the copy engine; none for a core's (R150). 7 is a reader from outside, whose reply waits
  (R230). -/
  unit : Option Nat := none
  /-- It is one tile's request of an instruction on distance (R216). -/
  ranged : Bool := false
  /-- What the parts of its access that have been granted have done (R150, R380). -/
  undo : List Undone := []
  deriving DecidableEq, Repr

/-- An `lred` or `lscan` that has not landed (R101 to R103): the operation, `lscan` or `lred` and whether it is exclusive, the %fmode it
issued with, and x[0..31] after the stages that are done. -/
structure ScanRec where
  op : BitVec 5
  scan : Bool
  exclusive : Bool
  fmode : Word32
  x : List Word32
  done : Nat
  deriving DecidableEq, Repr

/-- An access of an engine that stands at its arbiter (R150, R182, R278): its chain or matrix word is its request's `engine`. One that has its
grant waits for the other requests of its access, and for data that a realignment holds back, which it has read already: for each element its
key, its code and its scale byte (R230). -/
structure Standing where
  req : Req
  granted : Bool
  data : List (Nat × Nat × Option Nat)
  deriving DecidableEq, Repr

/-- A pending long result (R57 to R61, R172). -/
structure Pending where
  id : Nat
  dest : Dest
  /-- Remaining count of each lane; a uniform destination uses entry 0. -/
  counts : Vector Nat 32
  /-- Lanes not yet landed. -/
  lanes : Word32
  /-- The long instruction's own address. -/
  pc : Word64
  /-- The results: one value per lane, or the uniform value and the second register of a pair. -/
  vals : List Word64
  view : BitVec 256
  /-- Requests whose data are still outstanding. -/
  missing : Nat
  /-- IEEE exceptions, in the order NV DZ OF UF NX, and the enables that %fmode held at issue (R76). -/
  exceptions : BitVec 5
  enables : BitVec 5
  /-- The lookahead of the long instruction (R156). -/
  look : Nat
  /-- A global load, for demand-miss notifications (R161). -/
  globalLoad : Bool
  /-- The number of the first request that brings its data: one for each tile group, in order. -/
  first : Nat
  /-- The requests that bring its data, in the order of R141, and the numbers of those that have returned (R144). -/
  groups : List Req
  back : List Nat
  /-- An `lred` or `lscan` in flight: what its stages work on (R103). -/
  scan : Option ScanRec
  /-- A casting fault to be taken at the landing point (R61). -/
  fault : Option Cause
  /-- Suspended by a handler (R61). -/
  suspended : Bool
  deriving DecidableEq, Repr

/-- A ladle (R23, R24). -/
structure Ladle where
  uid : Nat
  casting : Nat
  part : Nat
  rank : Nat
  cluster : Nat
  /-- 0 to 3 a vector core, 4 the control core. -/
  core : Nat
  /-- Ladle slot of its core. -/
  place : Nat
  /-- %casting, %mould, %nladle, and the work identifier of lane 0. -/
  index : Nat
  mould : Nat
  nladle : Nat
  wid : Word64
  /-- Occupies its slot: dispatched and not exited. -/
  live : Bool
  /-- Its casting has been stopped: it issues nothing (R166, R171). -/
  stopped : Bool
  /-- Held at entry until a gang start (R368). -/
  heldAtEntry : Bool
  /-- Half placement (R336); lanes 16-31 outside the program (R333). -/
  half : Bool
  lowLanes : Bool
  /-- Its mould declares 32 extended registers (R37), is a gang mould (R31); its graph is privileged (R116). -/
  mayExtend : Bool
  gangMould : Bool
  privileged : Bool
  v : Vector LaneVec 64
  ext : Bool
  /-- The register blocks of its shadow and of its extended grant (R36, R37); its base block has its slot's number (R35). -/
  shadowBlock : Option Nat
  extBlocks : List Nat
  s : Vector Word64 64
  k : Vector Word32 8
  bv : Vector (BitVec 256) 4
  piPass : Nat
  tpc : Word64
  tvec : Word64
  tcause : Word64
  fmode : Word32
  /-- The issuing split, and the others. -/
  sp : Split
  splits : List Split
  parkCounter : Nat
  loop : Option LoopBuf
  pend : List Pending
  nextPend : Nat
  permit : Bool
  backoff : Nat
  handlerActive : Bool
  /-- Instructions issued in the handler; since a pre-emption began to wait for it, when `deferred` is set (R175). -/
  handlerIssued : Nat
  deferred : Bool
  pad : Pad
  arrivals : Nat
  waited : Nat
  gangArrivals : Nat
  gangWaited : Nat
  bars : FMap BarRec
  replay : List Replay
  shadow : Option Shadow
  deriving DecidableEq, Repr

/-- A barrier above the ladle level: its group (casting, gang or mould), completed and released phases, and the ladles
that have arrived at the open phase (R31, R32, R126). -/
structure Barrier where
  level : Level
  id : Nat
  group : Nat
  completed : Nat
  released : Nat
  arrived : List Nat
  /-- Phases of a mould barrier that every member on another package has arrived at. -/
  remote : Nat
  deriving DecidableEq, Repr

/-- A fault on its way to the ready pool (R166). -/
structure FaultRec where
  casting : Nat
  cause : Cause
  pc : Word64
  rank : Nat
  cluster : Nat
  core : Nat
  deriving DecidableEq, Repr

/-- A range entry of a graph image (R355). -/
structure Range where
  mult : BitVec 16
  lenArg : BitVec 3
  la : Bool
  baseArg : BitVec 3
  ba : Bool
  base : Word64
  stride : Word64
  len : BitVec 40
  deriving DecidableEq, Repr

/-- A mould descriptor (R354). -/
structure Mould where
  code : Word64
  count : Nat
  args : Nat
  scratch : Nat
  restartable : Bool
  gang : Bool
  check : BitVec 2
  extended : Bool
  pack : Bool
  control : Bool
  ladles : Nat
  w1 : Nat
  w2 : Nat
  reads : List Range
  writes : List Range
  /-- Start board, its package, watchdog, rank and members of a gang mould (word 4). -/
  board : Nat
  package : Nat
  watchdog : Nat
  rank : Nat
  members : Nat
  deriving DecidableEq, Repr

/-- How far a mould of a graph has come (R358, R360): ready or not, since which slot and which cycle, the first casting index
that has not been taken from the ready order, and the castings committed. -/
structure MouldRun where
  ready : Bool
  since : Nat
  clock : Word64
  next : Nat
  committed : Nat
  deriving DecidableEq, Repr

/-- A loaded graph (R357). -/
structure Graph where
  uid : Nat
  part : Nat
  image : Word64
  moulds : List Mould
  edges : List (Nat × Nat)
  policy : Word64
  args : Vector Word64 8
  priority : Nat
  completion : Word64
  value : Word64
  /-- Record word 0x20: interrupt and vector; the function and the link it came through (R411, R414). -/
  ci : Bool
  vector : Nat
  function : Nat
  link : Nat
  privileged : Bool
  /-- Its moulds by index; one that is not listed has not become ready. -/
  runs : FMap MouldRun
  /-- It can no longer commit (R16); and its castings, mould and index, that ended without a relaunch. -/
  dead : Bool
  lost : List (Nat × Nat)
  deriving DecidableEq, Repr

/-- A casting that is or was the head of a priority of a partition, and the time since which it has been (R360). -/
structure Head where
  graph : Nat
  mould : Nat
  index : Nat
  since : Word64
  deriving DecidableEq, Repr

/-- Where a casting stands. -/
inductive CastState where
  | ready | resident | completed | committing | committed | faulted | discarding | discarded
  | saved | suspended | heldBack
  deriving DecidableEq, Repr

/-- A translation suspension (R169, R420). -/
structure Suspension where
  va : Nat
  kind : AccessKind
  reason : Nat
  seq : Word32
  pc : Word64
  rank : Nat
  cluster : Nat
  core : Nat
  /-- The number of the chain or matrix word whose access did not translate. -/
  unit : Option Nat := none
  /-- Further chains and matrix words of the casting that have met such a page since (R284). -/
  further : List Nat := []
  /-- The host has answered with resume before the casting was saved (R169). -/
  answered : Bool := false
  deriving DecidableEq, Repr

/-- A weight slot (R274). -/
structure WeightSlot where
  valid : Bool
  format : BitVec 4
  along : Bool
  scales : List Byte
  /-- The number of its codebook, and the codebook's entries as they were copied. -/
  book : Nat
  codebook : List (BitVec 16)
  elems : FMap Word32
  deriving DecidableEq, Repr

/-- A queued matrix word with what it captured at issue (R288, R277). -/
structure QEntry where
  instr : Instr
  addr : Word64
  src1 : Word64
  src2 : Word64
  pc : Word64
  batch : Nat
  started : Bool
  steps : Nat
  /-- The first request its ladle makes after it: earlier ones are performed first (R306). -/
  after : Nat
  /-- The loop address add at issue (R277, R288). -/
  add : Word64 := 0
  deriving DecidableEq, Repr

/-- A cluster's matrix state (R267). -/
structure Matrix where
  /-- Element (i, n) of tile z, at 9216 z + 96 i + n: F32 bits, or six residues, channel 0 lowest. -/
  z : FMap (BitVec 48)
  residue : Vector Bool 8
  my : Vector (BitVec 96) 4
  mx : Vector (BitVec 96) 4
  md : Vector (BitVec 48) 4
  slots : FMap WeightSlot
  queue : List QEntry
  closed : Nat
  completed : Nat
  opened : Nat
  depth : Vector Nat 8
  status : Vector Word64 8
  /-- Bytes that drains of the open batches have overwritten, each with its batch, its allocation, or 0 for global memory, its address
  and the value before (R275). -/
  olds : List (Nat × Nat × Nat × Byte)
  deriving DecidableEq, Repr

/-- A chain of a copy engine (R278 to R284). -/
structure Chain where
  /-- The ladle whose allocation holds the entries (R304). -/
  source : Nat
  start : Nat
  off : Nat
  pass : Nat
  /-- The enclosing LOOP, once it has been met, and its strides. -/
  loop : Option Nat
  srcStride : Word64
  dstStride : Word64
  /-- The words of the entry in progress, once it has been fetched. -/
  entry : List Word64
  /-- The first request its ladle makes after the `chain`: earlier ones are performed first (R304). -/
  after : Nat
  /-- Progress inside the entry in progress: source bytes, or elements (R284). -/
  progress : Nat
  waiting : Bool
  who : Who
  /-- A WAITW in progress: the allocation, offset, condition and value of its test, and whether a write has met it (R280). -/
  watch : Option (Nat × Nat × Nat × Word32) := none
  met : Bool := false
  /-- An access of its entry has failed a check: the walk has stopped (R281). -/
  failed : Bool := false
  deriving DecidableEq, Repr

/-- A casting (R19, R359, R375). -/
structure Casting where
  uid : Nat
  part : Nat
  graph : Nat
  mould : Nat
  index : Nat
  dispatchNo : Nat
  /-- The slot of its latest dispatch or resume (R372). -/
  placedAt : Nat
  state : CastState
  cluster : Nat
  /-- Its placement: 0 opportunistic, 1 shadow, 2 half (R333). -/
  placement : Nat
  /-- It has issued an unversioned write (R375). -/
  unversioned : Bool
  /-- Slices whose slice scratch it has accessed since it came to its cluster (R201, R212). -/
  scratchSlices : List Nat
  spawns : List (List Word64)
  relaunches : Nat
  /-- The cluster of the fault that its relaunch keeps away from (R339). -/
  avoid : Option Nat
  /-- The slot and the cycle at which it became ready (R360, R372). -/
  readyAt : Nat
  readyClock : Word64
  /-- Version frames not reserved yet: slice, tile and declared bytes (R208). -/
  reservation : List (Nat × Nat × BitVec 256)
  commitNo : Nat
  /-- Slices whose acknowledgement is awaited. -/
  awaited : List Nat
  fault : Option FaultRec
  suspension : Option Suspension
  /-- A pre-emption request in progress: true for save (R170, R173). -/
  preempt : Option Bool
  /-- It is to be saved along with a suspended casting of its gang (R21, R170). -/
  along : Bool
  started : Bool
  saveSlot : Option Nat
  mxsBlock : Option Nat
  saved : List Ladle
  savedMatrix : Option Matrix
  savedChains : List Chain
  /-- Plain loads to be sent again on resume, numbered from their pending result's first (R171). -/
  resend : List Req
  /-- RETIRED of the cluster it left with residue tiles (R329). -/
  retired : Option (BitVec 6)
  deriving DecidableEq, Repr

/-- A version frame (R209): its written bytes by offset, the declared bytes, the race tags of its sectors, and the sectors of it that cannot
be read (R338, R363); and the aligned 64-bit words of it that hold a correctable error (R337, R340). -/
structure Frame where
  casting : Nat
  tile : Nat
  bytes : FMap Byte
  declared : BitVec 256
  tags : FMap Tag
  lost : List Nat := []
  errors : List Nat := []
  deriving DecidableEq, Repr

/-- A buffered contribution of a reduction stream (R394). -/
structure Contribution where
  target : Nat
  seq : Nat
  last : Bool
  op : BitVec 3
  x : Word64
  deriving DecidableEq, Repr

/-- A watch of a global `waita` (R398). -/
structure Watch where
  ladle : Nat
  pa : Nat
  old : Option Word32
  deriving DecidableEq, Repr

/-- A replica tile: its bytes, which of them are dirty, and its poisoned sectors (R206, R338). -/
structure Replica where
  tile : Nat
  bytes : List Byte
  dirty : BitVec 256
  poison : List Nat := []
  deriving DecidableEq, Repr

/-- A home slice (R183 to R212). -/
structure Slice where
  /-- Resident tile numbers, distance 0 first: a tile's distance is its place. -/
  chain : List Nat
  /-- Pinned tiles with their partitions. -/
  pins : List (Nat × Nat)
  /-- Tiles in motion, with the ring each left. -/
  motion : List (Nat × Nat)
  /-- Queued boundary moves: tile and boundary. -/
  cascade : List (Nat × Nat)
  miss : List Nat
  writeBack : List Nat
  dirty : List Nat
  poison : List Nat
  stamps : FMap Word32
  frames : List Frame
  horizon : Nat
  cursors : FMap Nat
  buffer : List Contribution
  watches : List Watch
  replicas : List Replica
  /-- Aligned 64-bit words that hold a correctable error (R337, R340). -/
  errors : List Nat
  /-- The scrubber's sector with an outstanding corrected write, of committed data (0) or of a casting's version frame, and whether a write has
  come between. -/
  scrub : Option (Nat × Nat × Bool)
  /-- It has drained for a home change (R197). -/
  drained : Bool
  deriving DecidableEq, Repr

/-- A notice board (R345). -/
structure Board where
  members : Nat
  level : Word32
  mask : BitVec 256
  values : FMap (Word64 × Word32)
  assigned : Bool
  owner : Nat
  deriving DecidableEq, Repr

/-- A launch record with where it came from (R410, R411). -/
structure LaunchRec where
  words : List Word64
  function : Nat
  link : Nat
  privileged : Bool
  deriving DecidableEq, Repr

/-- The launch-queue counts of LQ_STATUS (R410). -/
structure LqCounts where
  dropped : BitVec 16
  rejected : BitVec 16
  lost : BitVec 16
  deriving DecidableEq, Repr

/-- A cached translation (R422): a copy of a leaf entry, in the cache of a cluster, or at 64 + d in that of die d. -/
structure TlbEntry where
  cluster : Nat
  part : Nat
  /-- First virtual address, log2 of the size, and the leaf entry's fields (R255). -/
  base : Nat
  log : Nat
  pa : Nat
  fmt : Nat
  rpl : Bool
  x : Bool
  w : Bool
  r : Bool
  deriving DecidableEq, Repr

/-- A column's bus (R224 to R230). -/
structure Column where
  temp : Nat
  cap : Nat
  due : Bool
  retrain : Bool
  deriving DecidableEq, Repr

/-- A gang mould's start on this package (R368). -/
structure GangStart where
  graph : Nat
  mould : Nat
  posted : Bool
  watchdog : Bool
  /-- Outcome received: true start, false abort. -/
  outcome : Option Bool
  /-- Its castings have been released. -/
  started : Bool
  deriving DecidableEq, Repr

/-- A home change or retirement in progress on a die (R197, R212). -/
structure HomeChange where
  die : Nat
  retire : Option Nat
  switched : List Nat
  deriving DecidableEq, Repr

/-- A split change in progress (R202): the partition, the die, the new value, the slices still to apply it. -/
structure SplitChange where
  part : Nat
  die : Nat
  value : Word64
  left : List Nat
  deriving DecidableEq, Repr

/-- A reply of the management side (R425, R426), or of a host read; an error answers a request that names nothing the package has. -/
inductive Reply where
  | version | capabilities | algorithms (accepted : Bool) | digests | certificate (slot : Nat) | challenge (nonce : Nat)
  | measurement (index : Nat) (value : Word64)
  | identify (part : Word64) (version : Word64) (pkg : Word64)
  | error
  | sensors (hot0 hot1 : Nat) (clock : Word64) (power : Nat)
  | errors (ue last live0 live1 : Word64)
  | staged
  | data (bytes : List Byte)
  deriving DecidableEq, Repr

/-- A place where a stored word can hold an error (R337, R338): a ladle's registers or scratchpad, a casting's version frame in a
slice, a cluster's weight buffer, a board of this package, a slice's tag stores, a sector in a slice's rings, or one in HBM. -/
inductive Stored where
  | registers (uid : Nat) | pad (uid : Nat) | frame (slice casting tile : Nat) | weights (cluster : Nat) | board (board : Nat)
  | tags (slice : Nat) | ring (slice sector : Nat) | hbm (sector : Nat)
  deriving DecidableEq, Repr

/-- Who meets an error in a stored word (R337, R338): a ladle, at the instruction it stands at or in a request that it has sent; the matrix word
that runs in a cluster; a chain; or a scrubber or a write-back. -/
inductive Reader where
  | ladle (uid : Nat) (request : Option Nat) | matrix (cluster : Nat) | chain (cluster n : Nat) | scrubber
  deriving DecidableEq, Repr

/-- What comes from outside the package's own instructions and events: a request reaches its arbiter, or has waited there for 4
cycles (R150, R182); the members of a mould barrier on other packages have arrived (R126, R368); another package's request is
performed here (R428); a board of another package has come to a state (R348); another member's ready or abort operation, and the
outcome of a start board homed elsewhere (R368); an access meets an error in a stored word (R337, R338); a request to another
package is lost beyond resend (R427); a host reads or writes a BAR through a link, function 0 being the physical function and p + 1 virtual
function p, or sets a function's MSI-X enable and mask (R407 to R410, R414); a Tveduth command of any code comes (R426); the ready pool accepts
launches (R232, step 7). -/
inductive Outside where
  | arrive (id : Nat) | overdue (id : Nat)
  | barrierArrival (graph mould id : Nat)
  | fabricAccess (r : Req)
  | remoteBoard (key : Nat) (b : Board)
  | gangOperation (key slot : Nat) (ready : Bool)
  | gangOutcome (key : Nat) (start : Bool)
  | bitError (at_ : Stored) (reader : Reader) (uncorrectable : Bool)
  | lost (id : Nat)
  | hostRead (link function bar offset size : Nat)
  | hostWrite (link function bar offset size : Nat) (value : Word64)
  | msixControl (link function : Nat) (enable mask : Bool)
  | tveduth (code : Nat)
  | accept
  deriving DecidableEq, Repr

/-- Who moves next: an issue of a ladle's split, by uid and slot, an event of the device, or the world outside. -/
inductive Move where
  | issue (ladle slot : Nat)
  | event (i : Instr)
  | outside (o : Outside)
  deriving DecidableEq, Repr

/-- The package. -/
structure State where
  me : Ladle
  rest : List Ladle
  nextUid : Nat
  castings : List Casting
  graphs : List Graph
  barriers : List Barrier
  nextCommit : Nat
  lastCommit : Nat
  launch : FMap (List LaunchRec)
  lq : FMap LqCounts
  spawned : FMap (List LaunchRec)
  reportSeq : FMap (BitVec 16)
  tqSeq : FMap Word32
  tqWaiting : FMap (List (List Word64))
  faults : List FaultRec
  /-- Owner of each cluster: its partition plus 1, 0 for none (R369); W_p and PART_CONSUMED of each partition (R370). -/
  owners : FMap Nat
  windows : FMap Word64
  consumed : FMap Word64
  /-- By partition and priority: the head, and castings that have stopped lower priorities and wait still (R360). -/
  heads : FMap (List Head)
  gangs : List GangStart
  rgetQueue : FMap (List (Nat × BitVec 6))
  matrix : FMap Matrix
  chains : FMap (List Chain)
  slices : FMap Slice
  sideband : FMap (Word32 × BitVec 4)
  requests : List Req
  retry : FMap (List Req)
  rehomed : List Req
  /-- Requests that have been performed in a slice and return when the realignments that hold their data end: the slice, the request, and
  the values of its answer (R230). -/
  returning : List (Nat × Req × List (Nat × Word64))
  /-- Accesses of the matrix units and copy engines that stand at their arbiters (R150, R182). -/
  standing : List Standing
  nextReq : Nat
  /-- Input ports of each slice's crosspoint, the least recently granted first (R182); the requester that each scratchpad bank, 32
  times the core's number plus the bank, granted last (R150). -/
  portOrder : FMap (List Nat)
  bankLast : FMap Nat
  mem : Memory
  scratchTags : FMap Tag
  boards : FMap Board
  boardResets : List (Nat × Word64)
  /-- The slice that now homes the boards and amax slots of a slice, where a retirement has moved them (R212, R346). -/
  boardHomes : FMap Nat
  amax : FMap Word32
  fmt : FMap (List Word64)
  codebooks : FMap (BitVec 16)
  regs : FMap Word64
  /-- The active home configuration, by the numbers of its staged registers; and the bucket tables (R195, R196). -/
  home : FMap Word64
  buckets : FMap (BitVec 5)
  bucketsStaged : FMap (BitVec 5)
  homeChanges : List HomeChange
  splitChanges : List SplitChange
  fmtLoads : List Nat
  /-- Shootdowns in progress: the partition, and the first request sent after it began (R422). -/
  shootdowns : List (Nat × Nat)
  /-- The waits in a global `waita` that used a translation which a shootdown in progress has dropped: the partition, the ladle and the word's
  physical address (R422). -/
  shootdownWaits : List (Nat × Nat × Nat)
  routes : FMap (BitVec 16)
  /-- Ports of Nystra that have failed (R427). -/
  failedPorts : BitVec 16
  tlb : List TlbEntry
  columns : FMap Column
  power : Nat
  /-- What each core's cycle counter reads beyond the service counter (R112), and the service counter (R7). -/
  cyc : FMap Word64
  service : Word64
  policyPrev : FMap Nat
  links : Vector Bool 2
  vfEnable : Vector Bool 2
  accepting : Bool
  /-- Bring-up has come to its step 6: the links are enabled; or the package is in recovery mode until it is reset (R232, R424). -/
  enabled : Bool
  recovery : Bool
  /-- Vector cores that bring-up took out of service (R232): 5 times the cluster plus the core. -/
  outOfService : List Nat
  /-- MSI-X messages that have been sent: function, vector and link; and per link, function and vector, at (link · 32 + function) · 64 + vector,
  the table's address, and its data with the vector control above it, and the pending bits; per link and function the capability's enable and
  function mask (R414). -/
  msix : List (Nat × Nat × Nat)
  msixTable : FMap (Word64 × Word64)
  msixPending : FMap Bool
  msixEnable : FMap (Bool × Bool)
  replies : List Reply
  /-- The staged firmware image, and the number of the one that runs (R425, R426). -/
  firmware : Option Nat
  image : Nat
  /-- The model's own: the moves to come, whether requests wait for their slots, free values read, steps made. -/
  agenda : List Move
  hold : Bool
  free : Nat
  ticks : Nat
  deriving DecidableEq, Repr

/-- A split at entry (R23). -/
def Split.entry (pc : Word64) : Split where
  pc := pc
  mask := 0xffffffff#32
  slot := some 0
  parkedAt := 0
  blocked := .ready
  looping := false
  handler := false

/-- A ladle with every register at its entry value, in no casting (R23; log 2 for the values before any dispatch). -/
def Ladle.idle : Ladle where
  uid := 0
  casting := 0
  part := 0
  rank := 0
  cluster := 0
  core := 0
  place := 0
  index := 0
  mould := 0
  nladle := 0
  wid := 0
  live := false
  stopped := false
  heldAtEntry := false
  half := false
  lowLanes := false
  mayExtend := false
  gangMould := false
  privileged := false
  v := Vector.replicate 64 (Vector.replicate 32 0#32)
  ext := false
  shadowBlock := none
  extBlocks := []
  s := Vector.replicate 64 0#64
  k := Vector.replicate 8 0#32
  bv := Vector.replicate 4 0#256
  piPass := 0
  tpc := 0
  tvec := 0
  tcause := 0
  fmode := 0
  sp := Split.entry 0
  splits := []
  parkCounter := 0
  loop := none
  pend := []
  nextPend := 0
  permit := false
  backoff := 64
  handlerActive := false
  handlerIssued := 0
  deferred := false
  pad := { base := 0, size := 0, bytes := [], attrs := [], tags := [] }
  arrivals := 0
  waited := 0
  gangArrivals := 0
  gangWaited := 0
  bars := []
  replay := []
  shadow := none

/-- The machine right after reset: bring-up has ended (R232), no casting is resident, every register at its reset value. -/
def State.reset : State where
  me := Ladle.idle
  rest := []
  nextUid := 1
  castings := []
  graphs := []
  barriers := []
  nextCommit := 1
  lastCommit := 0
  launch := []
  lq := []
  spawned := []
  reportSeq := []
  tqSeq := []
  tqWaiting := []
  faults := []
  owners := []
  windows := []
  consumed := []
  heads := []
  gangs := []
  rgetQueue := []
  matrix := []
  chains := []
  slices := []
  sideband := []
  requests := []
  retry := []
  rehomed := []
  returning := []
  standing := []
  nextReq := 0
  portOrder := []
  bankLast := []
  mem := []
  scratchTags := []
  boards := []
  boardResets := []
  boardHomes := []
  amax := []
  fmt := []
  codebooks := []
  regs := []
  home := []
  buckets := []
  bucketsStaged := []
  homeChanges := []
  splitChanges := []
  fmtLoads := []
  shootdowns := []
  shootdownWaits := []
  routes := []
  failedPorts := 0
  tlb := []
  columns := []
  power := 0
  cyc := []
  service := 0
  policyPrev := []
  links := Vector.replicate 2 true
  vfEnable := Vector.replicate 2 false
  accepting := true
  enabled := true
  recovery := false
  outOfService := []
  msix := []
  msixTable := []
  msixPending := []
  msixEnable := []
  replies := []
  firmware := none
  image := 0
  agenda := []
  hold := false
  free := 0
  ticks := 0

end Sys2Proof.Machine
end

