-- ==== Sys2Proof/Machine/Bits.lean ====
section
/-!
DEFINITION. Bit fields, extensions, clamps and counts on words (R52, R73, R79 to R82, R108).
-/

namespace Sys2Proof.Machine

/-- Bits [hi:lo] of a word, as a number. -/
def bitsOf {w : Nat} (x : BitVec w) (hi lo : Nat) : Nat := (x.extractLsb' lo (hi + 1 - lo)).toNat

/-- A word with bits [hi:lo] replaced. -/
def putBits {w : Nat} (x : BitVec w) (hi lo : Nat) (v : Nat) : BitVec w :=
  let m : BitVec w := BitVec.ofNat w ((2 ^ (hi + 1 - lo) - 1) * 2 ^ lo)
  (x &&& ~~~m) ||| (BitVec.ofNat w (v * 2 ^ lo) &&& m)

/-- One bit as a number. -/
def bit (b : Bool) : Nat := if b then 1 else 0

/-- A truth value as a register holds it: 1 or 0. -/
def boolWord (b : Bool) : Word64 := if b then 1 else 0

/-- SatS: clamp to the signed range of `w` bits (R79, R108). -/
def satS (w : Nat) (x : Int) : BitVec w :=
  BitVec.ofInt w (max (-(2 ^ (w - 1) : Nat) : Int) (min x (((2 ^ (w - 1) : Nat) : Int) - 1)))

/-- SatN: clamp to the unsigned range of `w` bits (R79, R108). -/
def satN (w : Nat) (x : Int) : BitVec w :=
  BitVec.ofInt w (max 0 (min x (((2 ^ w : Nat) : Int) - 1)))

/-- The upper half of a product of integers, as a word (R79, R108). -/
def mulHi (w : Nat) (x y : Int) : BitVec w := BitVec.ofInt w (x * y / ((2 ^ w : Nat) : Int))

/-- Shift left; an amount of the width or more gives 0 (R80, R108). -/
def shiftL {w : Nat} (x : BitVec w) (n : Nat) : BitVec w := if w ≤ n then 0 else x <<< n

/-- Shift right with zeros (R80, R108). -/
def shiftR {w : Nat} (x : BitVec w) (n : Nat) : BitVec w := if w ≤ n then 0 else x >>> n

/-- Shift right with the sign bit, by at most the width minus 1 (R80, R108). -/
def shiftA {w : Nat} (x : BitVec w) (n : Nat) : BitVec w := x.sshiftRight (min n (w - 1))

/-- Rotate left by the amount modulo the width (R80, R108). -/
def rotL {w : Nat} (x : BitVec w) (n : Nat) : BitVec w := x.rotateLeft (n % w)

/-- A shift by its kind: 0 shl, 1 shr, 2 sha, 3 rot (R52, R80). -/
def shiftBy {w : Nat} (kind : BitVec 2) (x : BitVec w) (n : Nat) : BitVec w :=
  match kind.toNat with
  | 0 => shiftL x n
  | 1 => shiftR x n
  | 2 => shiftA x n
  | _ => rotL x n

/-- Leading zero bits among the lowest `n` bits, counted from bit n - 1 down. -/
def leadingZeros {w : Nat} (x : BitVec w) : Nat → Nat
  | 0 => 0
  | n + 1 => if x.getLsbD n then 0 else 1 + leadingZeros x n

/-- The number of set bits among the lowest `n`. -/
def popCount {w : Nat} (x : BitVec w) : Nat → Nat
  | 0 => 0
  | n + 1 => bit (x.getLsbD n) + popCount x n

/-- Set bits of a word. -/
def popc {w : Nat} (x : BitVec w) : Nat := popCount x w

/-- Bit order reversed (R81, R108). -/
def reverseBits {w : Nat} (x : BitVec w) : BitVec w := x.reverse

/-- The lowest set bit's number at or above w - n; `w` when there is none (R81, R108). -/
def findFirst {w : Nat} (x : BitVec w) : Nat → Nat
  | 0 => w
  | n + 1 => if x.getLsbD (w - (n + 1)) then w - (n + 1) else findFirst x n

/-- Bit field extraction (R82): position, width and signedness from the descriptor. -/
def bitFieldExtract (signed : Bool) (x desc : Word32) : Word32 :=
  let p := bitsOf desc 4 0
  let w := min (min (bitsOf desc 13 8) 32) (32 - p)
  let f := x.toNat / 2 ^ p % 2 ^ w
  if w = 0 then 0
  else if signed && decide (2 ^ (w - 1) ≤ f) then BitVec.ofInt 32 ((f : Int) - ((2 ^ w : Nat) : Int))
  else BitVec.ofNat 32 f

/-- Bit field insertion (R82): up to 16 bits carried in the descriptor's upper half. -/
def bitFieldInsert (x desc : Word32) : Word32 :=
  let p := bitsOf desc 4 0
  let w := min (min (bitsOf desc 12 8) 16) (32 - p)
  let mask := BitVec.ofNat 32 ((2 ^ w - 1) * 2 ^ p)
  (x &&& ~~~mask) ||| (BitVec.ofNat 32 (bitsOf desc 31 16 * 2 ^ p) &&& mask)

/-- The set bits of a mask below `n`, in increasing order. -/
def bitsSet {w : Nat} (x : BitVec w) (n : Nat) : List Nat := (List.range n).filter (fun i => x.getLsbD i)

/-- A mask with the bits of a list set. -/
def maskOf (w : Nat) (l : List Nat) : BitVec w := l.foldl (fun m i => m ||| BitVec.ofNat w (2 ^ i)) 0

/-- A mask by a predicate on the 32 lanes. -/
def laneMask (f : Nat → Bool) : Word32 := maskOf 32 ((List.range 32).filter f)

/-- Signed less-than of numbers modulo 2^w around a base: `x` lies 1 to 2^(w-1) - 1 above `y` (R376). -/
def modNewer (w x y : Nat) : Bool :=
  let d := (x + 2 ^ w - y % 2 ^ w) % 2 ^ w
  decide (1 ≤ d) && decide (d < 2 ^ (w - 1))

end Sys2Proof.Machine
end

