-- ==== Sys2Proof/Machine/FMap.lean ====
section
/-!
DEFINITION. Tables by number and memory, in one canonical form: keys strictly rising and no entry equal to the default.
-/

namespace Sys2Proof.Machine

/-- The entry at key `k`, or the default. -/
def FMap.get (d : α) (m : FMap α) (k : Nat) : α :=
  match m with
  | [] => d
  | (k', v) :: r => if k' = k then v else FMap.get d r k

/-- Put an entry at the place of its key. -/
def FMap.insert (k : Nat) (v : α) (m : FMap α) : FMap α :=
  match m with
  | [] => [(k, v)]
  | (k', v') :: r => if k < k' then (k, v) :: (k', v') :: r else if k' = k then (k, v) :: r else (k', v') :: FMap.insert k v r

/-- Take the entry of a key away. -/
def FMap.erase (k : Nat) (m : FMap α) : FMap α := m.filter (fun e => e.1 != k)

/-- Write an entry; writing the default removes it. -/
def FMap.set [DecidableEq α] (d : α) (m : FMap α) (k : Nat) (v : α) : FMap α :=
  if v = d then FMap.erase k m else FMap.insert k v m

/-- Change the entry at a key by a function. -/
def FMap.modify [DecidableEq α] (d : α) (m : FMap α) (k : Nat) (f : α → α) : FMap α :=
  FMap.set d m k (f (FMap.get d m k))

/-- The canonical form. -/
abbrev FMap.wf (d : α) (m : FMap α) : Prop := m.Pairwise (fun a b => a.1 < b.1) ∧ ∀ e ∈ m, e.2 ≠ d

/-- The byte at an address; a byte that nothing has written reads 0 (log 3). -/
def Memory.read (m : Memory) (a : Nat) : Byte := FMap.get 0#8 m a

/-- Write one byte. -/
def Memory.write (m : Memory) (a : Nat) (b : Byte) : Memory := FMap.set 0#8 m a b

/-- The canonical form of memory. -/
abbrev Memory.wf (m : Memory) : Prop := FMap.wf (0#8 : Byte) m

/-- `n` bytes from `a`, little-endian (R5). -/
def Memory.readN (m : Memory) (a : Nat) : Nat → Nat
  | 0 => 0
  | n + 1 => (m.read a).toNat + 256 * Memory.readN m (a + 1) n

/-- Store the low `n` bytes of a value at `a`, little-endian (R5). -/
def Memory.writeN (m : Memory) (a : Nat) (n : Nat) (x : Nat) : Memory :=
  match n with
  | 0 => m
  | n + 1 => Memory.writeN (m.write a (BitVec.ofNat 8 x)) (a + 1) n (x / 256)

/-- A 32-bit word. -/
def Memory.read32 (m : Memory) (a : Nat) : Word32 := BitVec.ofNat 32 (m.readN a 4)

/-- A 64-bit word. -/
def Memory.read64 (m : Memory) (a : Nat) : Word64 := BitVec.ofNat 64 (m.readN a 8)

/-- Store a list of bytes from `a` up. -/
def Memory.writeBytes (m : Memory) (a : Nat) (bs : List Byte) : Memory :=
  match bs with
  | [] => m
  | b :: r => Memory.writeBytes (m.write a b) (a + 1) r

/-- The bytes of an address range. -/
def Memory.readBytes (m : Memory) (a n : Nat) : List Byte := (List.range n).map (fun i => m.read (a + i))

end Sys2Proof.Machine
end

