-- ==== Sys2Proof/Machine/Regs.lean ====
section
/-!
DEFINITION. The device registers by number: their reset values, which numbers are assigned, who may read and write them,
and which bits they hold (R114 to R116, R167, R170, R196, R200, R228, R253, R276, R315, R316, R341, R369, R415, R416,
R423, R424, R427, R406).
-/

namespace Sys2Proof.Machine

/-- The reset value of the hash mask of bucket bit `i` (R195): bits i, i + 12 and i + 24 below bit 31. -/
def hmaskReset (i : Nat) : Word64 :=
  BitVec.ofNat 64 (2 ^ i + 2 ^ (i + 12) + if i + 24 < 31 then 2 ^ (i + 24) else 0)

/-- A die offset in GiB, in the place of DOM_BASE and DOM_LIMIT (R194, R196). -/
def gib (n : Nat) : Word64 := BitVec.ofNat 64 (n * 2 ^ 30)

/-- The reset value of register `n` of the home-selection block of a die (R196). -/
def homeReset (n : Nat) : Word64 :=
  if n < 12 then hmaskReset n
  else if n = 0x11 then gib 192
  else if n = 0x12 then gib 192
  else if n = 0x13 then gib 384
  else if n = 0x1b then 0xffffffff
  else 0

/-- The value a device register holds after reset, by number. -/
def regReset (n : Nat) : Word64 :=
  if 0x200 ≤ n ∧ n < 0x2c0 then (if n % 8 = 1 then 6 else if n % 8 = 6 then 20 else 0)
  else if 0x300 ≤ n ∧ n < 0x360 then (if n % 4 = 1 then 64 else if n % 4 = 2 then 3 else 0)
  else if 0x400 ≤ n ∧ n < 0x440 then homeReset (n % 0x20)
  else if 0x440 ≤ n ∧ n < 0x470 then 0x0003000200000000
  else if n = 0x480 ∨ n = 0x490 then 0x6e69645f
  else if n = 0x4a1 then 3200
  else if n = 0x800 then 3
  else if n = 0x801 then 0x03100400
  else if 0x900 ≤ n ∧ n < 0xa80 then (if n % 16 = 2 then 6 else 0)
  else if n = 0xc30 then 1
  else 0

/-- Read the value a register holds. Registers at their reset value are not listed. -/
def State.reg (s : State) (n : Nat) : Word64 :=
  FMap.get (regReset n) s.regs n

/-- Make a register hold a value. -/
def State.setReg (s : State) (n : Nat) (v : Word64) : State :=
  { s with regs := FMap.set (regReset n) s.regs n v }

/-- A register number the spec assigns, at 0x0100 and above. -/
def regAssigned (n : Nat) : Bool :=
  (decide (0x200 ≤ n) && decide (n < 0x2c0))
  || (decide (0x2c0 ≤ n) && decide (n < 0x2d8))
  || (decide (0x300 ≤ n) && decide (n < 0x360))
  || (decide (0x400 ≤ n) && decide (n < 0x440) && (decide (n % 0x20 ≤ 0xc) || decide (0x10 ≤ n % 0x20 ∧ n % 0x20 ≤ 0x1b)))
  || (decide (0x440 ≤ n) && decide (n < 0x470))
  || [0x480, 0x481, 0x482, 0x490, 0x491, 0x492, 0x4a0, 0x4a1].contains n
  || (decide (0x500 ≤ n) && decide (n < 0x560) && decide (n % 4 ≠ 3))
  || (decide (0x580 ≤ n) && decide (n < 0x5b0))
  || (decide (0x600 ≤ n) && decide (n < 0x700) && decide (n % 4 ≠ 3))
  || decide (n = 0x700)
  || (decide (0x800 ≤ n) && decide (n ≤ 0x804))
  || (decide (0x810 ≤ n) && decide (n < 0x890))
  || (decide (0x900 ≤ n) && decide (n < 0xa80) && decide (n % 16 ≠ 15))
  || (decide (0xb00 ≤ n) && decide (n < 0xbc0))
  || [0xc00, 0xc01, 0xc10, 0xc11, 0xc12, 0xc20, 0xc30].contains n

/-- Registers no `sysw` may write (R116). -/
def regReadOnly (n : Nat) : Bool :=
  (decide (0x200 ≤ n) && decide (n < 0x2c0) && decide (n % 8 = 2))
  || (decide (0x300 ≤ n) && decide (n < 0x360) && decide (n % 4 = 3))
  || (decide (0x400 ≤ n) && decide (n < 0x440) && decide (n % 0x20 = 0x1b))
  || [0x482, 0x492, 0x4a0, 0xc30].contains n
  || (decide (0x900 ≤ n) && decide (n < 0xa80) && decide (n % 16 = 3))

/-- Whether an unprivileged ladle of partition `p` may read device register `n` (R116). -/
def regOpen (p n : Nat) : Bool :=
  (decide (0x440 ≤ n) && decide (n < 0x470) && decide ((n - 0x440) / 2 = p))
  || [0x480, 0x481, 0x482, 0x490, 0x491, 0x492, 0x4a0, 0x4a1].contains n
  || (decide (0x500 ≤ n) && decide (n < 0x560) && decide ((n - 0x500) / 4 = p))
  || (decide (0x580 ≤ n) && decide (n < 0x5b0) && decide ((n - 0x580) / 2 = p))
  || (decide (0x300 ≤ n) && decide (n < 0x360) && decide ((n - 0x300) / 4 = p))

/-- Bits [hi:lo] set. -/
def fieldMask (hi lo : Nat) : Word64 := BitVec.ofNat 64 ((2 ^ (hi + 1 - lo) - 1) * 2 ^ lo)

/-- The bits of a register that a write stores; the others are reserved and read zero (R8). -/
def regBits (n : Nat) : Word64 :=
  if 0x200 ≤ n ∧ n < 0x2c0 then
    match n % 8 with
    | 0 => fieldMask 56 12
    | 1 => fieldMask 4 0
    | 4 => fieldMask 0 0 ||| fieldMask 13 8 ||| fieldMask 63 32
    | 5 => fieldMask 56 12
    | 6 => fieldMask 4 0
    | 7 => fieldMask 15 0
    | _ => fieldMask 63 0
  else if 0x2c0 ≤ n ∧ n < 0x2d8 then fieldMask 13 8 ||| fieldMask 2 0
  else if 0x300 ≤ n ∧ n < 0x360 then
    (match n % 4 with | 0 => fieldMask 10 0 | 1 => fieldMask 10 0 | 2 => fieldMask 2 0 | _ => fieldMask 63 0)
  else if 0x400 ≤ n ∧ n < 0x440 then
    let i := n % 0x20
    if i < 12 then fieldMask 30 0 else if i = 0xc then 0 else if i < 0x18 then fieldMask 39 30
    else if i = 0x18 then fieldMask 13 0 else if i = 0x19 then fieldMask 4 0 else if i = 0x1a then fieldMask 4 0 else fieldMask 31 0
  else if 0x440 ≤ n ∧ n < 0x470 then fieldMask 51 48 ||| fieldMask 33 33 ||| fieldMask 31 0
  else if n = 0x480 ∨ n = 0x490 then fieldMask 31 0
  else if n = 0x481 ∨ n = 0x491 then fieldMask 7 0
  else if n = 0x4a0 then fieldMask 2 0
  else if n = 0x4a1 then fieldMask 11 0
  else if 0x500 ≤ n ∧ n < 0x560 then (if n % 4 = 2 then 0 else fieldMask 56 13)
  else if 0x580 ≤ n ∧ n < 0x5b0 then (if n % 2 = 0 then fieldMask 56 21 else fieldMask 7 0)
  else if 0x600 ≤ n ∧ n < 0x700 then
    (match n % 4 with
     | 0 => fieldMask 13 8 ||| fieldMask 0 0
     | 1 => fieldMask 63 63 ||| fieldMask 58 34 ||| fieldMask 31 0
     | _ => fieldMask 47 0)
  else if n = 0x700 then fieldMask 63 63 ||| fieldMask 60 56 ||| fieldMask 26 16 ||| fieldMask 14 8 ||| fieldMask 6 0
  else if n = 0x800 then fieldMask 16 16 ||| fieldMask 13 8 ||| fieldMask 1 0
  else if n = 0x801 then fieldMask 27 0
  else if n = 0x803 then fieldMask 63 54 ||| fieldMask 47 3
  else if n = 0x804 then fieldMask 63 0
  else if 0x800 ≤ n ∧ n < 0x890 then fieldMask 31 0
  else if 0x900 ≤ n ∧ n < 0xa80 then
    match n % 16 with
    | 0 => fieldMask 51 17
    | 1 => fieldMask 56 12
    | 2 => fieldMask 3 0
    | 5 => fieldMask 0 0 ||| fieldMask 13 8
    | 6 => 0
    | 7 => fieldMask 56 16
    | 8 => fieldMask 31 0
    | 9 => fieldMask 51 3
    | 11 => 0
    | 12 => 0
    | 13 => fieldMask 0 0
    | 14 => fieldMask 56 36
    | _ => fieldMask 63 0
  else if 0xb00 ≤ n ∧ n < 0xbc0 then fieldMask 51 16
  else if n = 0xc00 then fieldMask 11 0
  else if n = 0xc10 ∨ n = 0xc11 then fieldMask 9 0
  else if n = 0xc12 then fieldMask 15 0
  else if n = 0xc20 then fieldMask 23 0
  else fieldMask 63 0

/-- An empty slice: after reset every slice is live with no tile resident (R232). -/
def Slice.empty : Slice :=
  { chain := [], pins := [], motion := [], cascade := [], miss := [], writeBack := [], dirty := [], poison := [],
    stamps := [], frames := [], horizon := 0, cursors := [], buffer := [], watches := [], replicas := [], errors := [],
    scrub := none, drained := false }

/-- Slice `n` of the package is slice n mod 32 of die n / 32. -/
def State.sliceOf (s : State) (n : Nat) : Slice := FMap.get Slice.empty s.slices n

/-- Change one slice. -/
def State.modSlice (s : State) (n : Nat) (f : Slice → Slice) : State :=
  { s with slices := FMap.set Slice.empty s.slices n (f (s.sliceOf n)) }

/-- The key of a column: die and number (R224). -/
def columnKey (die column : Nat) : Nat := 160 * die + column

def Column.start : Column := { temp := 0, cap := 0, due := false, retrain := false }

def State.column (s : State) (die column : Nat) : Column := FMap.get Column.start s.columns (columnKey die column)

/-- The column of a vector core realigns: the core issues nothing and its banks move no data (R224, R230). -/
def State.retrains (s : State) (cluster core : Nat) : Bool :=
  decide (core < 4) && (s.column (cluster / 32) (32 + 4 * (cluster % 32) + core)).retrain

end Sys2Proof.Machine
end

