-- ==== Sys2Proof/Machine/Ops.lean ====
section
/-!
DEFINITION. The named operations on the issuing ladle: registers, masks, the program counter and the loop buffer,
casting faults, entering and leaving a trap handler, and the landing of long results.
-/

namespace Sys2Proof.Machine

/-- The three outcomes of an arm, for this machine. -/
abbrev Result := Host.Outcome State Fault Refusal

/-- Change the issuing ladle. -/
def State.mapMe (s : State) (f : Ladle → Ladle) : State := { s with me := f s.me }

/-- Change every ladle of the package that a test picks. -/
def State.mapLadles (s : State) (p : Ladle → Bool) (f : Ladle → Ladle) : State :=
  { s with me := if p s.me then f s.me else s.me, rest := s.rest.map (fun l => if p l then f l else l) }

/-- All ladles. -/
def State.ladles (s : State) : List Ladle := s.me :: s.rest

/-- The ladle of a uid. -/
def State.ladle? (s : State) (uid : Nat) : Option Ladle := s.ladles.find? (fun l => l.uid == uid)

/-- Change the ladle of a uid. -/
def State.modLadle (s : State) (uid : Nat) (f : Ladle → Ladle) : State := s.mapLadles (fun l => l.uid == uid) f

/-! ### Uniform registers, masks, lane registers -/

/-- Read a uniform register. -/
def Ladle.getS (l : Ladle) (r : BitVec 6) : Word64 := l.s.get r.toFin

/-- Write a uniform register. -/
def Ladle.setS (l : Ladle) (r : BitVec 6) (x : Word64) : Ladle := { l with s := l.s.set r.toNat x r.isLt }

/-- The register after `r` in a pair. -/
def nextReg (r : BitVec 6) : BitVec 6 := r + 1

/-- The ladle is a control ladle (R24). -/
def Ladle.control (l : Ladle) : Bool := l.core == 4

/-- A mask as read: k0 is all ones; a control core's masks have lane 0 alone (R23, R24). -/
def Ladle.getK (l : Ladle) (k : BitVec 3) : Word32 :=
  let m := if k = 0 then 0xffffffff#32 else l.k.get k.toFin
  if l.control then (if k = 0 then m else m &&& 1#32) else m

/-- Write the bits of a mask that `lanes` selects; k0 is fixed (R55, R86). -/
def Ladle.setK (l : Ladle) (k : BitVec 3) (lanes val : Word32) : Ladle :=
  if k = 0 then l
  else { l with k := l.k.set k.toNat ((l.k.get k.toFin &&& ~~~lanes) ||| (val &&& lanes)) k.isLt }

/-- A lane register. -/
def Ladle.getV (l : Ladle) (r : BitVec 6) : LaneVec := l.v.get r.toFin

/-- One lane of a lane register. -/
def laneAt (row : LaneVec) (j : Nat) : Word32 := if h : j < 32 then row[j] else 0

/-- A row with the lanes of a mask replaced by a function of the lane. -/
def putLanes (old : LaneVec) (lanes : Word32) (f : Nat → Word32) : LaneVec :=
  Vector.ofFn (fun j : Fin 32 => if lanes.getLsbD j then f j else old[j])

/-- Write the lanes of a mask. -/
def Ladle.setV (l : Ladle) (r : BitVec 6) (lanes : Word32) (f : Nat → Word32) : Ladle :=
  { l with v := l.v.set r.toNat (putLanes (l.getV r) lanes f) r.isLt }

/-- The lanes an instruction with predicate `k` acts on (R54). -/
def Ladle.active (l : Ladle) (k : BitVec 3) : Word32 := l.sp.mask &&& l.getK k

/-- The lanes that take part in exchanges and memory accesses: lanes 0-15 alone in a half mould (R105, R333, R336). -/
def Ladle.programLanes (l : Ladle) (lanes : Word32) : Word32 := if l.lowLanes then lanes &&& 0xffff#32 else lanes

/-- A register number names v32-v63 (R37). -/
def extended (r : BitVec 6) : Bool := r.getLsbD 5

/-! ### Blocking and splits (R26 to R30) -/

/-- Park the issuing split, blocked (R29). -/
def Ladle.block (l : Ladle) (b : Blocked) : Ladle :=
  { l with sp := { l.sp with blocked := b, slot := none, parkedAt := l.parkCounter }, parkCounter := l.parkCounter + 1 }

/-- All live splits of a ladle. -/
def Ladle.allSplits (l : Ladle) : List Split := l.sp :: l.splits

/-- Lanes that have not exited. -/
def Ladle.liveLanes (l : Ladle) : Word32 := l.allSplits.foldl (fun m x => m ||| x.mask) 0

/-- Change the splits of a ladle that a test picks. -/
def Ladle.mapSplits (l : Ladle) (p : Split → Bool) (f : Split → Split) : Ladle :=
  { l with sp := if p l.sp then f l.sp else l.sp, splits := l.splits.map (fun x => if p x then f x else x) }

/-- The lowest-numbered free slot (R25). -/
def Ladle.freeSlot (l : Ladle) : Option Nat :=
  [0, 1, 2, 3].find? (fun n => !(l.allSplits.any (fun x => x.slot == some n)))

/-- The parked split that has waited longest among those not blocked (R26). -/
def Ladle.longestParked (l : Ladle) : Option Nat :=
  let c := (l.allSplits.filter (fun x => x.slot == none && x.blocked == .ready && x.mask != 0)).map (·.parkedAt)
  c.foldl (fun (m : Option Nat) a => match m with | none => some a | some b => some (min a b)) none

/-- Give a free slot to the parked split that is due one (R26). -/
def Ladle.fillSlot (l : Ladle) : Ladle :=
  match l.freeSlot, l.longestParked with
  | some n, some t => l.mapSplits (fun x => x.slot == none && x.parkedAt == t && x.blocked == .ready) (fun x => { x with slot := some n })
  | _, _ => l

/-- Give out slots until none is free or no split waits: at most four times. -/
def Ladle.fillSlots (l : Ladle) : Ladle := l.fillSlot.fillSlot.fillSlot.fillSlot

/-! ### The program counter and the loop buffer (R122, R125) -/

/-- The byte address AddressAdd of the running loop: pass times stride (R122). -/
def Ladle.addressAdd (l : Ladle) : Word64 :=
  match l.loop with
  | some b => if l.sp.looping then BitVec.ofNat 64 b.pass * b.stride else 0
  | none => 0

/-- Set the issuing split's program counter. -/
def Ladle.setPc (l : Ladle) (pc : Word64) : Ladle := { l with sp := { l.sp with pc := pc } }

/-- The address of the body's first word, and the address after the body. -/
def LoopBuf.first (b : LoopBuf) : Word64 := b.addr + 4
def LoopBuf.after (b : LoopBuf) : Word64 := b.addr + 4 + BitVec.ofNat 64 (4 * b.words.length)

/-- Splits that waited for the loop buffer are ready (R124). -/
def Ladle.freeLoop (l : Ladle) : Ladle :=
  (Ladle.mapSplits { l with loop := none, piPass := 0 } (fun x => x.blocked == .loopBusy)
    (fun x => { x with blocked := .ready })).fillSlots

/-- After the last body word of a pass: count down, write s[sc], and go round or leave (R122). -/
def Ladle.endPass (l : Ladle) (b : LoopBuf) : Ladle :=
  let rem := b.rem - 1
  let l := l.setS b.count rem
  if rem = 0 then
    Ladle.freeLoop { l with sp := { l.sp with pc := b.after, looping := false } }
  else
    { l with loop := some { b with rem := rem, pass := b.pass + 1, index := 0 }, piPass := b.pass + 1,
             sp := { l.sp with pc := b.first } }

/-- The program counter after an instruction that does not move it: the next word, or the loop's next word. -/
def Ladle.advance (l : Ladle) : Ladle :=
  match l.loop with
  | some b =>
    if l.sp.looping then
      if b.index + 1 < b.words.length then
        { l with loop := some { b with index := b.index + 1 }, sp := { l.sp with pc := l.sp.pc + 4 } }
      else l.endPass b
    else l.setPc (l.sp.pc + 4)
  | none => l.setPc (l.sp.pc + 4)

/-- The destination is a lane register. -/
def Dest.isLane : Dest → Bool
  | .lane _ => true
  | .lanePair _ => true
  | _ => false

/-- Count an issued instruction: in the open windows of the issuing split's lanes and of every uniform destination (R58),
and in a handler's instructions (R175). Suspended results do not advance (R61). What a window has counted is its lookahead
less the count that remains (`Pending.window`). -/
def Ladle.issued (l : Ladle) : Ladle :=
  { l with
    handlerIssued := if l.handlerActive then l.handlerIssued + 1 else l.handlerIssued,
    pend := l.pend.map (fun p =>
      if p.suspended then p
      else { p with
        counts := Vector.ofFn (fun j : Fin 32 => if !p.dest.isLane || l.sp.mask.getLsbD j then p.counts[j] - 1 else p.counts[j]) }) }

/-- Issue the instruction: count it, change the issuing ladle, go to the next word. -/
def State.done (s : State) (f : Ladle → Ladle) : State := s.mapMe (fun l => (f l.issued).advance)

/-- Issue an instruction that moves the issuing split to an address; a branch in a loop body has no word (R123). -/
def State.jump (s : State) (pc : Word64) (f : Ladle → Ladle) : State := s.mapMe (fun l => (f l.issued).setPc pc)

/-! ### Casting faults (R166) -/

/-- Raise a casting fault on the issuing ladle, with the address its report will carry. -/
def State.castFaultAt (s : State) (c : Cause) (pc : Word64) : State :=
  { s with faults := s.faults ++ [{ casting := s.me.casting, cause := c, pc := pc, rank := s.me.rank,
                                    cluster := s.me.cluster, core := s.me.core }],
           me := { s.me with stopped := true } }

/-- Raise a casting fault at the issuing split's instruction: it has no effect, and the ladle issues nothing more. -/
def State.castFault (s : State) (c : Cause) : State := s.castFaultAt c s.me.sp.pc

/-- Raise a casting fault for a ladle that is not issuing, as for a request at its slot. -/
def State.raiseFor (s : State) (casting rank cluster core : Nat) (c : Cause) (pc : Word64) : State :=
  { s.mapLadles (fun l => l.casting == casting && l.rank == rank && l.live) (fun l => { l with stopped := true }) with
      faults := s.faults ++ [{ casting := casting, cause := c, pc := pc, rank := rank, cluster := cluster, core := core }] }

/-- A lane-set word: illegal on a control core and when it names v32-v63 without the extended block (R24, R37, R49). -/
def State.laneWord (s : State) (regs : List (BitVec 6)) (f : State → State) : State :=
  if s.me.control || (regs.any extended && !s.me.ext) then s.castFault .illegal else f s

/-- A matrix or residue word: legal on a control core only (R49). -/
def State.controlWord (s : State) (f : State → State) : State :=
  if s.me.control then f s else s.castFault .illegal

/-! ### Blocking -/

/-- Block the issuing split and let a parked one take its slot. -/
def State.blockMe (s : State) (b : Blocked) : State := s.mapMe (fun l => (l.block b).fillSlots)

/-! ### Entering a trap handler and returning from it (R155 to R163) -/

/-- Fields of %tcause (R156). -/
def causeM (t : Word64) : Bool := t.getLsbD 63
def setCauseM (t : Word64) (m : Bool) : Word64 := putBits t 63 63 (bit m)

/-- The handler's word address field of %tvec, as a byte address (R155). -/
def handlerAddress (tvec : Word64) : Word64 := BitVec.ofNat 64 (bitsOf tvec 56 2 * 4)

/-- Trap permits held on a core. -/
def State.permitsHeld (s : State) (cluster core : Nat) : Nat :=
  (s.ladles.filter (fun l => l.permit && l.live && l.cluster == cluster && l.core == core)).length

/-- Trap permits of a core: 4 on a vector core, 1 on a control core (R157). -/
def permitsOf (core : Nat) : Nat := if core = 4 then 1 else 4

/-- The ladle holds a permit, or its core has one free (R157). -/
def State.permitFree (s : State) : Bool :=
  s.me.permit || decide (s.permitsHeld s.me.cluster s.me.core < permitsOf s.me.core)

/-- Where a stop is taken: at the instruction itself, or at the landing point of a long one (R158). -/
inductive StopAt where
  | own
  | landing (pc : Word64) (window : Nat)
  deriving DecidableEq, Repr

/-- The value %tcause takes at handler entry: class, code, M = 1, and the landing fields (R156, R158). -/
def causeWord (cls code : Nat) (l : Bool) (window : Nat) (offset : Word64) : Word64 :=
  putBits (putBits (putBits (putBits (putBits (putBits 0 63 63 1) 60 56 cls) 51 48 window) 47 47 (bit l)) 46 22
    offset.toNat) 12 0 code

/-- The split in which a handler starts has a slot. A landing trap may find it parked; DESIGN CHOICE (log 83): it then takes a free slot, or
that of the split in slot 3, which is parked in its place. -/
def Ladle.takeSlot (l : Ladle) : Ladle :=
  if l.sp.slot.isSome then l
  else
    match (List.range 4).find? (fun n => !l.splits.any (fun x => x.slot == some n)) with
    | some n => { l with sp := { l.sp with slot := some n } }
    | none =>
      { l with sp := { l.sp with slot := some 3 }, parkCounter := l.parkCounter + 1,
               splits := l.splits.map (fun x => if x.slot = some 3 then { x with slot := none, parkedAt := l.parkCounter } else x) }

/-- The issuing ladle with its handler entered: the one shared description of taking a trap (R158, R159), which its trailing shadow enters
with it (R335). A nested entry does
not start the count of a pre-emption that waits for the handler again (R175). -/
def Ladle.enterHandler (l : Ladle) (cls code : Nat) (where_ : StopAt) : Ladle :=
  let l := l.takeSlot
  let tpc := l.sp.pc
  let tc := match where_ with
    | .own => causeWord cls code false 0 0
    | .landing a w => causeWord cls code true (min w 15) ((a - tpc).sshiftRight 2)
  { l with
    tpc := tpc, tcause := tc, permit := true, backoff := 64, handlerActive := true,
    handlerIssued := if l.deferred then l.handlerIssued else 0,
    pend := l.pend.map (fun p => { p with suspended := true }),
    loop := l.loop.map (fun b => { b with suspended := b.suspended || l.sp.looping }), shadow := l.shadow.map (fun x => { x with handler := true }),
    sp := { l.sp with pc := handlerAddress l.tvec, handler := true, looping := false, cleared := false } }

/-- Take an in-ladle trap: convert it, back off, or enter the handler (R157, R158, R160). DESIGN CHOICE (log 84): the wait that refusals double
is the ladle's, one for all its splits, as the permit is. -/
def State.takeTrap (s : State) (cls code : Nat) (where_ : StopAt) : State :=
  if causeM s.me.tcause || decide (bitsOf s.me.tvec 56 2 = 0) then s.castFault .unhandledTrap
  else if s.permitFree then s.mapMe (fun l => l.enterHandler cls code where_)
  else s.mapMe (fun l => { (l.block (.backoff l.backoff)).fillSlots with backoff := min (2 * l.backoff) 4096 })

/-- The handler is over: M = 0, the permit is free, suspended results and the suspended loop go on, held splits are
released (R163, R164); a pre-emption that waited for it stops the ladle here (R175). -/
def Ladle.endHandler (l : Ladle) : Ladle :=
  { l with
    tcause := setCauseM l.tcause false, permit := false, handlerActive := false, handlerIssued := 0,
    stopped := l.stopped || l.deferred, deferred := false,
    pend := l.pend.map (fun p => { p with suspended := false }),
    loop := l.loop.map (fun b => { b with suspended := false }), shadow := l.shadow.map (fun x => { x with handler := false }),
    splits := l.splits.map (fun x => { x with handler := false }),
    sp := { l.sp with handler := false, looping := match l.loop with | some b => l.sp.looping || (l.sp.handler && b.suspended) | none => false } }

/-- Resume at %tpc (R163). DESIGN CHOICE (log 57): the loop goes on at the body word where it was suspended (R125), whatever %tpc the
handler has left. -/
def Ladle.trapReturn (l : Ladle) : Ladle := l.endHandler.setPc l.tpc

/-! ### Arithmetic exceptions (R75, R76) -/

/-- The flag bits of %fmode, in the order NV, DZ, OF, UF, NX. -/
def fmodeEnables (m : Word32) : BitVec 5 := m.extractLsb' 8 5

/-- OR exceptions into the flag bits. -/
def raiseFlags (m : Word32) (e : BitVec 5) : Word32 := m ||| (e.zeroExtend 32 <<< 16)

/-- Complete an instruction whose lanes raised `e`: a trap when one is enabled, else the effect and the flags (R76). -/
def State.arith (s : State) (e : BitVec 5) (f : Ladle → Ladle) : State :=
  let en := fmodeEnables s.me.fmode &&& e
  if en ≠ 0 then s.takeTrap 3 en.toNat .own
  else s.done (fun l => { f l with fmode := raiseFlags l.fmode e })

/-! ### Long results (R56 to R61) -/

/-- The value a pending result brings to lane `j` of its (first) register. -/
def Pending.laneVal (p : Pending) (j : Nat) : Word64 := p.vals.getD j 0

/-- Write a result to its destination, in the lanes given. -/
def Ladle.deliver (l : Ladle) (p : Pending) (lanes : Word32) : Ladle :=
  match p.dest with
  | .lane d => l.setV d lanes (fun j => (p.laneVal j).setWidth 32)
  | .lanePair d =>
    (l.setV d lanes (fun j => (p.laneVal j).setWidth 32)).setV (nextReg d) lanes (fun j => (p.laneVal j).extractLsb' 32 32)
  | .uniform d => l.setS d (p.laneVal 0)
  | .uniformPair d => (l.setS d (p.laneVal 0)).setS (nextReg d) (p.laneVal 1)
  | .post d n => { l.setS d (p.laneVal 0) with bv := l.bv.set n.toNat p.view n.isLt }

/-- In shadow placement a value from outside the registers also goes into the load-value queue, in issue order: the place of one that a
long instruction will bring is kept at its issue (R335). -/
def Ladle.queueValue (l : Ladle) (pend : Option Nat) (vals : List Word64) : Ladle :=
  { l with shadow := l.shadow.map (fun x =>
      { x with values := x.values ++ [{ order := x.count, pend := pend, vals := vals }], count := x.count + 1 }) }

/-- The value of a long instruction is there. -/
def Ladle.fillValue (l : Ladle) (id : Nat) (vals : List Word64) : Ladle :=
  { l with shadow := l.shadow.map (fun x =>
      { x with values := x.values.map (fun v => if v.pend = some id then { v with pend := none, vals := vals } else v) }) }

/-- The issuing ladle has a trailing shadow (R335). -/
def State.shadowed (s : State) : Bool := s.me.shadow.isSome

/-- The comparison buffer holds 16 operations, the load-value queue 64 values. -/
def State.shadowFull (s : State) : Bool :=
  s.shadowed && (match s.me.shadow with | some x => decide (16 ≤ x.buffer.length) | none => false)

def State.valuesFull (s : State) : Bool :=
  s.shadowed && (match s.me.shadow with | some x => decide (64 ≤ x.values.length) | none => false)

/-- An operation of the issuing split enters the comparison buffer, with its outcome. -/
def State.compareLater (s : State) (requests : List Nat) (outcome : List Word64) : State :=
  if s.shadowed then
    s.mapMe (fun l => { l with shadow := l.shadow.map (fun x =>
        { x with buffer := x.buffer ++ [{ order := x.count, pc := l.sp.pc, requests := requests, outcome := outcome }], count := x.count + 1 }) })
  else s

/-- An outward operation waits while the comparison buffer is full. -/
def State.outward (s : State) (f : State → State) : State := if s.shadowFull then s else f s

/-- An outward operation that makes no request: in shadow placement its split waits in the comparison buffer, and acts once the shadow
has reached the same outcome. -/
def State.compared (s : State) (outcome : List Word64) (f : State → State) : State :=
  if !s.shadowed then f s
  else if s.me.sp.cleared then f (s.mapMe (fun l => { l with sp := { l.sp with cleared := false } }))
  else if s.shadowFull then s
  else (s.compareLater [] outcome).mapMe (fun l => { l with sp := { l.sp with blocked := .comparing } })

/-- A uniform register takes a value from outside the registers. -/
def Ladle.setOutside (l : Ladle) (d : BitVec 6) (x : Word64) : Ladle := (l.setS d x).queueValue none [x, 0]

/-- The lanes of a pending result that stand at their landing point. -/
def Pending.dueLanes (p : Pending) (all : Bool) : Word32 :=
  if p.dest.isLane then p.lanes &&& laneMask (fun j => all || decide (p.counts.toList.getD j 0 = 0))
  else if all || decide (p.counts.toList.getD 0 0 = 0) then p.lanes else 0

/-- The result can land now: it is not suspended, its data are there, and some lane is due. -/
def Pending.lands (p : Pending) (all : Bool) : Bool :=
  !p.suspended && decide (p.missing = 0) && decide (p.dueLanes all ≠ 0)

/-- A result leaves the pending list, and its value will not come. -/
def Ladle.dropPending (l : Ladle) (id : Nat) : Ladle :=
  { l with pend := l.pend.filter (fun q => q.id != id),
           shadow := l.shadow.map (fun x => { x with values := x.values.filter (fun v => v.pend != some id) }) }

/-- The count that remains for a result's due lanes: of the lowest of them, or of the ladle for a uniform destination. -/
def Pending.remaining (p : Pending) (lanes : Word32) : Nat :=
  p.counts.toList.getD (if p.dest.isLane then (bitsSet lanes 32).headD 0 else 0) 0

/-- Instructions issued in the window of a result's due lanes after the long instruction (R58, R156). -/
def Pending.window (p : Pending) (lanes : Word32) : Nat := p.look - p.remaining lanes

/-- Make the split that holds some of the lanes the issuing one: the issuing one itself where it holds any. -/
def Ladle.selectLanes (l : Ladle) (lanes : Word32) : Ladle :=
  if l.sp.mask &&& lanes ≠ 0 then l
  else match l.splits.find? (fun x => x.mask &&& lanes != 0) with
    | some x => { l with sp := x, splits := l.sp :: l.splits.erase x }
    | none => l

/-- The enabled exceptions of a result, for which its landing traps (R76). -/
def Pending.traps (p : Pending) : BitVec 5 := p.exceptions &&& p.enables

/-- A result can land now. One that traps does so in the split that holds its lanes, when that split is not backing off. -/
def Ladle.landable (l : Ladle) (all : Bool) (p : Pending) : Bool :=
  p.lands all && (decide (p.traps = 0) || p.fault.isSome || (l.selectLanes (p.dueLanes all)).sp.blocked == .ready)

/-- The due lanes of a result are written, and its flags raised; the result is over when no lane is left (R57, R58, R76). -/
def Ladle.landed (l : Ladle) (p : Pending) (all : Bool) : Ladle :=
  let lanes := p.dueLanes all
  let left := p.lanes &&& ~~~lanes
  let l := (l.deliver p lanes)
  let l := if left = 0 then l.fillValue p.id p.vals else l
  { l with
    fmode := raiseFlags l.fmode p.exceptions,
    pend := if left = 0 then l.pend.filter (fun q => q.id != p.id)
            else l.pend.map (fun q => if q.id = p.id then { q with lanes := left, exceptions := 0 } else q) }

/-- Land one result: its fault, or the trap of its exceptions, is taken here (R61, R76), the trap in the split that holds the due
lanes, whose next instruction is the one not yet issued (R158); else its due lanes are written. -/
def State.land (s : State) (p : Pending) (all : Bool) : State :=
  let lanes := p.dueLanes all
  if let some c := p.fault then (s.mapMe (fun l => l.dropPending p.id)).castFaultAt c p.pc
  else if p.traps ≠ 0 then
    let t := (s.mapMe (fun l => l.selectLanes lanes)).takeTrap 3 p.traps.toNat (.landing p.pc (p.window lanes))
    if t.me.stopped || t.me.sp.blocked == .ready then t.mapMe (fun l => l.dropPending p.id) else t
  else s.mapMe (fun l => l.landed p all)

/-- Land the first result that is due; `all` closes the windows (R59). DESIGN CHOICE (log 58): results that land together do so in the
order of their instructions' issue, so that the later instruction's value stays in a shared destination. -/
def State.landOne (s : State) (all : Bool) : State :=
  match s.me.pend.find? (fun p => s.me.landable all p) with
  | none => s
  | some p => s.land p all

/-- Land due results until none is due, at most `n` times; a stop ends it. -/
def State.landDue (all : Bool) : Nat → State → State
  | 0, s => s
  | n + 1, s =>
    if s.me.pend.any (fun p => s.me.landable all p) && !s.me.stopped then State.landDue all n (s.landOne all)
    else s

/-- Land what is due now. A ladle holds at most 16 results, each landing lane by lane at most 32 times. -/
def State.settle (s : State) : State := State.landDue false 64 s

/-- A result whose data have not come keeps a window open (R59). -/
def Ladle.dataOutstanding (l : Ladle) : Bool := l.pend.any (fun p => !p.suspended && decide (p.missing ≠ 0))

/-- Some result has not landed, of those no handler has suspended. -/
def Ladle.windowsOpen (l : Ladle) : Bool := l.pend.any (fun p => !p.suspended)

/-- An instruction that closes every window (R59): it waits for outstanding data, lands everything, then acts. -/
def State.closing (s : State) (f : State → State) : State :=
  if s.me.dataOutstanding then s
  else
    let t := State.landDue true 64 s
    if t.me.stopped || t.me.sp.blocked != .ready || (t.me.handlerActive && !s.me.handlerActive) || t.me.sp.pc != s.me.sp.pc
        || t.me.windowsOpen then t
    else f t

/-- A long instruction waits while 16 results are pending (R60), and one that brings a value from outside the registers also while the
load-value queue is full (R335). -/
def State.long (s : State) (f : State → State) : State := if 16 ≤ s.me.pend.length then s else f s
def State.longValue (s : State) (f : State → State) : State := if 16 ≤ s.me.pend.length ∨ s.valuesFull = true then s else f s

/-- A new pending result of the issuing instruction, with lookahead `n` in every lane. -/
def Ladle.newPending (l : Ladle) (dest : Dest) (n : BitVec 4) (lanes : Word32) (vals : List Word64) : Pending where
  id := l.nextPend
  dest := dest
  counts := Vector.replicate 32 n.toNat
  lanes := lanes
  pc := l.sp.pc
  vals := vals
  view := 0
  missing := 0
  exceptions := 0
  enables := fmodeEnables l.fmode
  look := n.toNat
  globalLoad := false
  first := 0
  groups := []
  back := []
  scan := none
  fault := none
  suspended := false

/-- Put a result in the pending list and go to the next word; what its issue makes due lands (R57). -/
def State.issueLong (s : State) (p : Pending) : State :=
  (s.done (fun l => { l with pend := l.pend ++ [p], nextPend := l.nextPend + 1 })).settle

end Sys2Proof.Machine
end

