-- ==== Sys2Proof/Machine/Flags.lean ====
section
/-!
DEFINITION. Floating point and its exception flags: IEEE 754-2019 with tininess after rounding, every result the exact
value rounded once (R75 to R78, R90 to R99, R244). Exceptions are five bits, NV DZ OF UF NX from bit 4 down.
-/

namespace Sys2Proof.Machine

/-- The exceptions a lane raises. -/
abbrev Exc := BitVec 5

def excNV : Exc := 16#5
def excDZ : Exc := 8#5
def excOF : Exc := 4#5
def excUF : Exc := 2#5
def excNX : Exc := 1#5

/-- A set of exceptions that holds `e` when a condition holds. -/
def excIf (c : Bool) (e : Exc) : Exc := if c then e else 0

/-- Rounding directions: the four of %fmode (R75), and ties away from zero (R72). -/
inductive Round where
  | ne | tz | up | dn | na
  deriving DecidableEq, Repr

/-- The rounding mode %fmode holds (R75). -/
def fmodeRound (m : Word32) : Round :=
  match bitsOf m 1 0 with
  | 0 => .ne
  | 1 => .tz
  | 2 => .up
  | _ => .dn

/-- The rounding of `fcvt` and `frnd` by fn (R72, R95). -/
def fnRound (fn : BitVec 2) (m : Word32) : Round :=
  match fn.toNat with
  | 0 => fmodeRound m
  | 1 => .ne
  | 2 => .tz
  | _ => .na

/-- What the highest exponent codes of a format mean (R244): infinities and NaNs; one NaN magnitude; numbers only. -/
inductive FmtKind where
  | ieee | oneNan | plain
  deriving DecidableEq, Repr

/-- A binary floating format: exponent bits, fraction bits, bias. -/
structure FloatFmt where
  eb : Nat
  fb : Nat
  bias : Nat
  kind : FmtKind
  deriving DecidableEq, Repr

def f64 : FloatFmt := ⟨11, 52, 1023, .ieee⟩
def f32 : FloatFmt := ⟨8, 23, 127, .ieee⟩
def bf16 : FloatFmt := ⟨8, 7, 127, .ieee⟩
def f16 : FloatFmt := ⟨5, 10, 15, .ieee⟩
def f8e4 : FloatFmt := ⟨4, 3, 7, .oneNan⟩
def f8e5 : FloatFmt := ⟨5, 2, 15, .ieee⟩
def f6e3 : FloatFmt := ⟨3, 2, 3, .plain⟩
def f4e2 : FloatFmt := ⟨2, 1, 1, .plain⟩

/-- A datum: a NaN, signalling or quiet; an infinity; or (-1)^neg · m · 2^e. -/
inductive Num where
  | nan (signalling : Bool)
  | inf (neg : Bool)
  | fin (neg : Bool) (m : Nat) (e : Int)
  deriving DecidableEq, Repr

def Num.isNan : Num → Bool
  | .nan _ => true
  | _ => false

def Num.isSignalling : Num → Bool
  | .nan s => s
  | _ => false

def Num.isInf : Num → Bool
  | .inf _ => true
  | _ => false

def Num.isZero : Num → Bool
  | .fin _ 0 _ => true
  | _ => false

def Num.isNeg : Num → Bool
  | .nan _ => false
  | .inf n => n
  | .fin n _ _ => n

def Num.neg : Num → Num
  | .nan s => .nan s
  | .inf n => .inf (!n)
  | .fin n m e => .fin (!n) m e

/-- Multiplied by a power of two, exactly. -/
def Num.scale (x : Num) (k : Int) : Num :=
  match x with
  | .fin n m e => .fin n m (e + k)
  | y => y

namespace FloatFmt

/-- The exponent of the last place of the subnormals. -/
def qmin (f : FloatFmt) : Int := 1 - (f.bias : Int) - (f.fb : Int)

/-- The magnitude code of infinity, of the largest finite value, and of the canonical NaN (R244). -/
def infCode (f : FloatFmt) : Nat := (2 ^ f.eb - 1) * 2 ^ f.fb
def maxCode (f : FloatFmt) : Nat :=
  match f.kind with
  | .ieee => f.infCode - 1
  | .oneNan => 2 ^ (f.eb + f.fb) - 2
  | .plain => 2 ^ (f.eb + f.fb) - 1
def nanCode (f : FloatFmt) : Nat :=
  match f.kind with
  | .ieee => f.infCode + 2 ^ (f.fb - 1)
  | .oneNan => 2 ^ (f.eb + f.fb) - 1
  | .plain => 0

/-- A code with its sign bit. -/
def signed (f : FloatFmt) (neg : Bool) (code : Nat) : Nat := bit neg * 2 ^ (f.eb + f.fb) + code

/-- The datum a code stands for (R244). -/
def decode (f : FloatFmt) (x : Nat) : Num :=
  let neg := decide (x / 2 ^ (f.eb + f.fb) % 2 = 1)
  let c := x % 2 ^ (f.eb + f.fb)
  let e := c / 2 ^ f.fb
  let m := c % 2 ^ f.fb
  if f.kind = .ieee ∧ f.infCode ≤ c then
    if m = 0 then .inf neg else .nan (decide (m < 2 ^ (f.fb - 1)))
  else if f.kind = .oneNan ∧ f.maxCode < c then .nan false
  else if e = 0 then .fin neg m f.qmin
  else .fin neg (m + 2 ^ f.fb) (f.qmin + (e : Int) - 1)

end FloatFmt

/-- `m / 2^s` rounded in a direction, and whether it was inexact. -/
def roundShift (mode : Round) (neg : Bool) (m s : Nat) : Nat × Bool :=
  let q := m / 2 ^ s
  let r := m % 2 ^ s
  let up := match mode with
    | .ne => decide (2 ^ s < 2 * r) || (decide (2 * r = 2 ^ s) && decide (q % 2 = 1))
    | .tz => false
    | .up => !neg && decide (r ≠ 0)
    | .dn => neg && decide (r ≠ 0)
    | .na => decide (2 ^ s ≤ 2 * r)
  (if up then q + 1 else q, decide (r ≠ 0))

/-- `m · 2^e` as a multiple of `2^q`, rounded. -/
def quantize (mode : Round) (neg : Bool) (m : Nat) (e q : Int) : Nat × Bool :=
  if q ≤ e then (m * 2 ^ (e - q).toNat, false) else roundShift mode neg m (q - e).toNat

/-- Overflow goes to infinity in this direction (IEEE 754-2019). -/
def overflowsToInf (mode : Round) (neg : Bool) : Bool :=
  match mode with
  | .ne => true
  | .na => true
  | .tz => false
  | .up => !neg
  | .dn => neg

namespace FloatFmt

/-- The code of a finite value (-1)^neg · m · 2^e rounded once to the format, and its exceptions (R76, R97, R98). -/
def roundFin (f : FloatFmt) (mode : Round) (neg : Bool) (m : Nat) (e : Int) : Nat × Exc :=
  if m = 0 then (f.signed neg 0, 0)
  else
    let free : Int := e + ((Nat.log2 m : Nat) : Int) - (f.fb : Int)
    let q := max free f.qmin
    let r := quantize mode neg m e q
    let code := (q - f.qmin).toNat * 2 ^ f.fb + r.1
    let unbounded := (quantize mode neg m e free).1
    let tiny := decide (free < f.qmin) && !(decide (free + 1 = f.qmin) && decide (unbounded = 2 ^ (f.fb + 1)))
    if f.maxCode < code then
      (f.signed neg (if f.kind = .ieee ∧ overflowsToInf mode neg then f.infCode else f.maxCode), excOF ||| excNX)
    else (f.signed neg code, excIf r.2 excNX ||| excIf (tiny && r.2) excUF)

/-- The code of a datum rounded to the format. A NaN is canonical, with NV where `invalid` holds. An infinity in a
format without one is the largest finite value, with OF and NX (R98). -/
def round (f : FloatFmt) (mode : Round) (x : Num) (invalid : Bool) : Nat × Exc :=
  match x with
  | .nan _ => (f.nanCode, excIf invalid excNV)
  | .inf n => if f.kind = .ieee then (f.signed n f.infCode, 0) else (f.signed n f.maxCode, excOF ||| excNX)
  | .fin n m e => f.roundFin mode n m e

end FloatFmt

/-- The exact sum of two data, and whether it is an invalid operation. An exact zero sum is +0, or -0 toward -∞ (R90). -/
def addNum (mode : Round) (x y : Num) : Num × Bool :=
  match x, y with
  | .nan a, .nan b => (.nan false, a || b)
  | .nan a, _ => (.nan false, a)
  | _, .nan b => (.nan false, b)
  | .inf a, .inf b => if a = b then (.inf a, false) else (.nan false, true)
  | .inf a, .fin _ _ _ => (.inf a, false)
  | .fin _ _ _, .inf b => (.inf b, false)
  | .fin a m d, .fin b n e =>
    let q := min d e
    let u : Int := (m * 2 ^ (d - q).toNat : Nat)
    let v : Int := (n * 2 ^ (e - q).toNat : Nat)
    let t := (if a then -u else u) + (if b then -v else v)
    if t = 0 then (.fin (if a = b then a else decide (mode = .dn)) 0 q, false)
    else (.fin (decide (t < 0)) t.natAbs q, false)

/-- The exact product of two data, and whether it is an invalid operation. -/
def mulNum (x y : Num) : Num × Bool :=
  match x, y with
  | .nan a, .nan b => (.nan false, a || b)
  | .nan a, _ => (.nan false, a)
  | _, .nan b => (.nan false, b)
  | .inf a, .inf b => (.inf (a != b), false)
  | .inf a, .fin b n _ => if n = 0 then (.nan false, true) else (.inf (a != b), false)
  | .fin a m _, .inf b => if m = 0 then (.nan false, true) else (.inf (a != b), false)
  | .fin a m d, .fin b n e => (.fin (a != b) (m * n) (d + e), false)

/-- x · y + z, rounded once; ∞ · 0 is invalid whatever z is (R90). -/
def fmaNum (mode : Round) (x y z : Num) : Num × Bool :=
  let p := mulNum x y
  let s := addNum mode p.1 z
  (s.1, p.2 || s.2)

/-- The five operations of R90. -/
inductive FOp where
  | add | sub | mul | fma | fms
  deriving DecidableEq, Repr

/-- One operation of R90 in one format, on codes. -/
def fop (f : FloatFmt) (op : FOp) (mode : Round) (a b c : Nat) : Nat × Exc :=
  let x := f.decode a
  let y := f.decode b
  let z := f.decode c
  let r := match op with
    | .add => addNum mode x y
    | .sub => addNum mode x y.neg
    | .mul => mulNum x y
    | .fma => fmaNum mode x y z
    | .fms => fmaNum mode x y z.neg
  f.round mode r.1 r.2

/-- One operation of R90 on a lane, by fn: 0 f32, 1 bf16x2, 2 f16x2; the halves of a packed form are independent. -/
def fopLane (fn : BitVec 2) (op : FOp) (mode : Round) (a b c : Word32) : Word32 × Exc :=
  if fn = 0 then
    let r := fop f32 op mode a.toNat b.toNat c.toNat
    (BitVec.ofNat 32 r.1, r.2)
  else
    let f := if fn = 1 then bf16 else f16
    let lo := fop f op mode (bitsOf a 15 0) (bitsOf b 15 0) (bitsOf c 15 0)
    let hi := fop f op mode (bitsOf a 31 16) (bitsOf b 31 16) (bitsOf c 31 16)
    (BitVec.ofNat 32 (hi.1 * 65536 + lo.1), lo.2 ||| hi.2)

/-- F32 addition on words. -/
def addF32 (mode : Round) (a b : Word32) : Word32 × Exc := fopLane 0 .add mode a b 0

/-- A number by which F32 data other than NaN are ordered, with -0 and +0 equal. -/
def f32Key (x : Word32) : Int := if x.getLsbD 31 then -((bitsOf x 30 0 : Nat) : Int) else ((bitsOf x 30 0 : Nat) : Int)

/-- The same with -0 below +0 (R91). -/
def f32Key0 (x : Word32) : Int := if x.getLsbD 31 then -((bitsOf x 30 0 : Nat) : Int) - 1 else ((bitsOf x 30 0 : Nat) : Int)

def f32IsNan (x : Word32) : Bool := (f32.decode x.toNat).isNan
def f32IsSnan (x : Word32) : Bool := (f32.decode x.toNat).isSignalling

/-- The canonical F32 NaN (R78). -/
def nan32 : Word32 := 0x7fc00000#32

/-- fmin, fmax, fminnum and fmaxnum (R91): `greater` picks the maximum, `num` the number forms. -/
def minMaxF32 (greater num : Bool) (a b : Word32) : Word32 × Exc :=
  let e := excIf (f32IsSnan a || f32IsSnan b) excNV
  let pick := if (if greater then decide (f32Key0 b < f32Key0 a) else decide (f32Key0 a < f32Key0 b)) then a else b
  if f32IsNan a && f32IsNan b then (nan32, e)
  else if f32IsNan a then (if num then b else nan32, e)
  else if f32IsNan b then (if num then a else nan32, e)
  else (pick, e)

/-- fcmp by fn: 0 eq, 1 lt, 2 le, 3 un (R92). -/
def cmpF32 (fn : BitVec 2) (a b : Word32) : Bool × Exc :=
  let anyNan := f32IsNan a || f32IsNan b
  let anySnan := f32IsSnan a || f32IsSnan b
  match fn.toNat with
  | 0 => (!anyNan && decide (f32Key a = f32Key b), excIf anySnan excNV)
  | 1 => (!anyNan && decide (f32Key a < f32Key b), excIf anyNan excNV)
  | 2 => (!anyNan && decide (f32Key a ≤ f32Key b), excIf anyNan excNV)
  | _ => (anyNan, excIf anySnan excNV)

/-- fclass (R93). -/
def classF32 (x : Word32) : Word32 :=
  let n := x.getLsbD 31
  let e := bitsOf x 30 23
  let m := bitsOf x 22 0
  if e = 255 then
    if m = 0 then (if n then 1#32 else 0x80#32)
    else if m < 2 ^ 22 then 0x100#32 else 0x200#32
  else if e = 0 then
    if m = 0 then (if n then 8#32 else 0x10#32) else (if n then 4#32 else 0x20#32)
  else if n then 2#32 else 0x40#32

/-- fdot2 (R94): two exact products, one rounding to F32. -/
def dot2 (f : FloatFmt) (mode : Round) (a b : Word32) : Word32 × Exc :=
  let p0 := mulNum (f.decode (bitsOf a 15 0)) (f.decode (bitsOf b 15 0))
  let p1 := mulNum (f.decode (bitsOf a 31 16)) (f.decode (bitsOf b 31 16))
  let s := addNum mode p0.1 p1.1
  let r := f32.round mode s.1 (p0.2 || p1.2 || s.2)
  (BitVec.ofNat 32 r.1, r.2)

/-- frnd (R95): an integral F32 value; no NX. -/
def rndF32 (mode : Round) (a : Word32) : Word32 × Exc :=
  match f32.decode a.toNat with
  | .nan s => (nan32, excIf s excNV)
  | .inf _ => (a, 0)
  | .fin n m e =>
    if m = 0 ∨ 0 ≤ e then (a, 0)
    else (BitVec.ofNat 32 (f32.roundFin .ne n (quantize mode n m e 0).1 0).1, 0)

/-- fcvt to an integer (R97): rounded, then saturated to [lo, hi]. -/
def cvtInt (mode : Round) (lo hi : Int) (a : Word32) : Word32 × Exc :=
  match f32.decode a.toNat with
  | .nan _ => (0, excNV)
  | .inf n => (BitVec.ofInt 32 (if n then lo else hi), excNV)
  | .fin n m e =>
    let r := quantize mode n m e 0
    let v : Int := if n then -(r.1 : Int) else (r.1 : Int)
    if v < lo then (BitVec.ofInt 32 lo, excNV)
    else if hi < v then (BitVec.ofInt 32 hi, excNV)
    else (BitVec.ofInt 32 v, excIf r.2 excNX)

/-- fcvt from an integer (R96). -/
def cvtFromInt (mode : Round) (v : Int) : Word32 × Exc :=
  let r := f32.roundFin mode (decide (v < 0)) v.natAbs 0
  (BitVec.ofNat 32 r.1, r.2)

/-- fcvt from F32 to a narrower format (R97, R98): in the formats without NaN, a NaN raises NV. -/
def cvtNarrow (f : FloatFmt) (mode : Round) (a : Word32) : Word32 × Exc :=
  let x := f32.decode a.toNat
  let r := f.round mode x (x.isSignalling || decide (f.kind = .plain))
  (BitVec.ofNat 32 r.1, r.2)

/-- fcvt from a narrower format to F32, exact (R98). -/
def cvtWiden (f : FloatFmt) (code : Nat) : Word32 × Exc :=
  let x := f.decode code
  let r := f32.round .ne x x.isSignalling
  (BitVec.ofNat 32 r.1, r.2)

/-- fcvt by code (R96). Codes above 0x11 have no word (R66); they give the operand. -/
def cvtLane (code : BitVec 6) (mode : Round) (a : Word32) : Word32 × Exc :=
  match code.toNat with
  | 0x00 => cvtFromInt mode a.toInt
  | 0x01 => cvtFromInt mode a.toNat
  | 0x02 => cvtInt mode (-(2 ^ 31 : Nat)) ((2 ^ 31 : Nat) - 1) a
  | 0x03 => cvtInt mode 0 ((2 ^ 32 : Nat) - 1) a
  | 0x04 => cvtNarrow f16 mode a
  | 0x05 => cvtWiden f16 (bitsOf a 15 0)
  | 0x06 => cvtWiden f16 (bitsOf a 31 16)
  | 0x07 => cvtNarrow bf16 mode a
  | 0x08 => cvtWiden bf16 (bitsOf a 15 0)
  | 0x09 => cvtWiden bf16 (bitsOf a 31 16)
  | 0x0a => cvtNarrow f8e4 mode a
  | 0x0b => cvtNarrow f8e5 mode a
  | 0x0c => cvtNarrow f6e3 mode a
  | 0x0d => cvtNarrow f4e2 mode a
  | 0x0e => cvtWiden f8e4 (bitsOf a 7 0)
  | 0x0f => cvtWiden f8e5 (bitsOf a 7 0)
  | 0x10 => cvtWiden f6e3 (bitsOf a 5 0)
  | 0x11 => cvtWiden f4e2 (bitsOf a 3 0)
  | _ => (a, 0)

end Sys2Proof.Machine
end

