-- ==== Sys2Proof/Machine/Numbers.lean ====
section
/-!
DEFINITION. Element formats, block scales, codebooks and format descriptors (R242 to R259), and the conversions of the
memory paths (R142, R258): every one rounds to nearest even and raises nothing.
-/

namespace Sys2Proof.Machine

/-- Bits of an element by format code (R242). -/
def fmtBits (fmt : Nat) : Nat :=
  match fmt with
  | 2 => 16
  | 3 => 16
  | 4 => 8
  | 5 => 8
  | 6 => 6
  | 7 => 4
  | 8 => 4
  | 9 => 8
  | 10 => 4
  | _ => 32

/-- The floating format of a code, for those that have one (R242). -/
def fmtFloat (fmt : Nat) : FloatFmt :=
  match fmt with
  | 2 => bf16
  | 3 => f16
  | 4 => f8e4
  | 5 => f8e5
  | 6 => f6e3
  | 7 => f4e2
  | _ => f32

/-- Formats that always carry scales (R247). -/
def fmtScaled (fmt : Nat) : Bool := decide (4 ≤ fmt) && decide (fmt ≤ 7)

/-- Sign extension of a small code. -/
def signExtend (x w : Nat) : Int := if 2 ^ (w - 1) ≤ x then (x : Int) - ((2 ^ w : Nat) : Int) else (x : Int)

/-! ### Descriptors (R250 to R252) -/

/-- The four words of descriptor `i` of partition `p`: entry 0 is fixed, the others are the device's copies. -/
def State.descWords (s : State) (p i : Nat) : List Word64 :=
  if i = 0 then [0x8000000000000000#64, 0, 0, 0] else FMap.get [] s.fmt (p * 256 + i)

/-- A decoded descriptor. -/
structure Desc where
  words : List Word64
  fmt : Nat
  placement : Nat
  pitch : Nat
  ae : Bool
  slot : Nat
  codebook : Nat
  data : Nat
  scale : Nat
  deriving DecidableEq, Repr

/-- Descriptor `i` of partition `p` (R250). -/
def State.desc (s : State) (p i : Nat) : Desc :=
  let ws := s.descWords p i
  let w0 := ws.getD 0 0
  { words := ws, fmt := bitsOf w0 59 56, placement := bitsOf w0 55 54, pitch := bitsOf w0 35 16, ae := w0.getLsbD 15,
    slot := bitsOf w0 14 8, codebook := bitsOf w0 7 0,
    data := bitsOf (ws.getD 1 0) 56 0, scale := bitsOf (ws.getD 2 0) 56 0 }

/-- A descriptor is malformed for an access, through a scratchpad page or a global one (R251). -/
def Desc.malformed (d : Desc) (pad : Bool) : Bool :=
  let w0 := d.words.getD 0 0
  let w1 := d.words.getD 1 0
  let w2 := d.words.getD 2 0
  !w0.getLsbD 63
  || decide (10 < d.fmt) || decide (1 < d.placement)
  || decide (bitsOf w0 62 60 ≠ 0) || decide (bitsOf w0 53 36 ≠ 0) || decide (bitsOf w1 63 57 ≠ 0)
  || decide (bitsOf w2 63 57 ≠ 0) || decide (d.words.getD 3 0 ≠ 0)
  || (fmtScaled d.fmt && decide (d.placement = 0))
  || (decide (d.placement = 1) && !(decide (4 ≤ d.fmt) && decide (d.fmt ≤ 8)))
  || (decide (d.placement = 1) && (decide (d.pitch = 0) || decide (d.pitch % 48 ≠ 0)))
  || (d.ae && (decide (d.fmt = 0) || decide (d.fmt = 9) || decide (d.fmt = 10)))
  || (pad && (decide (bitsOf w1 56 19 ≠ 0) || decide (bitsOf w2 56 19 ≠ 0)))
  || decide (8 * d.data % fmtBits d.fmt ≠ 0)

/-- The element index of a bit address, when it is not negative, and the address of its scale byte (R248). -/
def Desc.scaleAt (d : Desc) (loc : Nat) : Option Nat :=
  if loc < 8 * d.data then none
  else
    let e := (loc - 8 * d.data) / fmtBits d.fmt
    some (d.scale + e / d.pitch * (d.pitch / 48) + e % d.pitch / 48)

/-- Entry `c` of codebook `id` of partition `p` (R246). -/
def State.bookEntry (s : State) (p id : Nat) (c : Nat) : BitVec 16 := FMap.get 0 s.codebooks ((p * 256 + id) * 16 + c)

/-! ### Decoding (R142, R244, R246) -/

/-- The exact value of an element before its scale. `book` gives codebook entries. -/
def elemNum (fmt : Nat) (book : Nat → BitVec 16) (code : Nat) : Num :=
  if fmt = 9 ∨ fmt = 10 then
    let v := signExtend code (fmtBits fmt)
    .fin (decide (v < 0)) v.natAbs 0
  else if fmt = 8 then bf16.decode (book code).toNat
  else (fmtFloat fmt).decode code

/-- A value times 2^(e - 127); a scale of 0xff makes a NaN (R247). -/
def scaleNum (x : Num) (scale : Option Nat) : Num :=
  match scale with
  | none => x
  | some e => if e = 255 then .nan false else x.scale ((e : Int) - 127)

/-- What a load of an element gives a lane (R142). DEDUCED (log 74): an F32 element that is a NaN gives the canonical NaN, as the rule's bullet on
NaN elements of any format has it, and any other its 32 bits unchanged; raw 32-bit words are no elements of a number format. -/
def loadElem (fmt : Nat) (book : Nat → BitVec 16) (scale : Option Nat) (code : Nat) : Word32 :=
  if fmt = 0 then BitVec.ofNat 32 code
  else if fmt = 1 then (match f32.decode code with | .nan _ => nan32 | _ => BitVec.ofNat 32 code)
  else if fmt = 9 ∨ fmt = 10 then BitVec.ofInt 32 (signExtend code (fmtBits fmt))
  else BitVec.ofNat 32 (f32.round .ne (scaleNum (elemNum fmt book code) scale) false).1

/-! ### Encoding (R142, R246) -/

/-- Compare the finite values (-1)^a m 2^d and (-1)^b n 2^e: the first is at most the second. -/
def finLe (x y : Num) : Bool :=
  match x, y with
  | .fin a m d, .fin b n e =>
    let q := min d e
    let u : Int := (m * 2 ^ (d - q).toNat : Nat)
    let v : Int := (n * 2 ^ (e - q).toNat : Nat)
    decide ((if a then -u else u) ≤ (if b then -v else v))
  | _, _ => false

/-- x ≤ y for data that are not NaN. -/
def numLe (x y : Num) : Bool :=
  match x, y with
  | .inf true, _ => true
  | _, .inf false => true
  | .inf false, _ => false
  | _, .inf true => false
  | _, _ => finLe x y

/-- |x|. -/
def Num.abs : Num → Num
  | .nan s => .nan s
  | .inf _ => .inf false
  | .fin _ m e => .fin false m e

/-- The first of a list of codes whose entry is best: `better c b` says that c is strictly better than b. -/
def bestCode (better : Nat → Nat → Bool) : List Nat → Option Nat
  | [] => none
  | c :: r => some (r.foldl (fun b x => if better x b then x else b) c)

/-- The code R246 chooses for the value `y`. -/
def bookCode (book : Nat → BitVec 16) (y : Num) : Nat :=
  let e := fun c => bf16.decode (book c).toNat
  let codes := List.range 16
  let finite := codes.filter (fun c => !(e c).isNan && !(e c).isInf)
  if y.isNan then (codes.find? (fun c => (e c).isNan)).getD 0
  else if y.isInf || finite.isEmpty then
    match codes.find? (fun c => e c == .inf y.isNeg) with
    | some c => c
    | none =>
      let lt := fun c b => !(numLe (e b) (e c))
      (bestCode (fun c b => if y.isNeg then lt c b else lt b c) (codes.filter (fun c => !(e c).isNan))).getD 0
  else
    let dist := fun c => (addNum .ne (e c) y.neg).1.abs
    (bestCode (fun c b => !(finLe (dist b) (dist c))) finite).getD 0

/-- Clamp a signed integer to `w` bits. -/
def clampS (w : Nat) (v : Int) : Nat := (satS w v).toNat

/-- The code a store writes for a lane value (R142). -/
def storeElem (fmt : Nat) (book : Nat → BitVec 16) (scale : Option Nat) (x : Word32) : Nat :=
  if fmt ≤ 1 then x.toNat
  else if fmt = 9 ∨ fmt = 10 then clampS (fmtBits fmt) x.toInt
  else
    let y := match scale with
      | none => f32.decode x.toNat
      | some e => if e = 255 then .nan false else (f32.decode x.toNat).scale (127 - (e : Int))
    if fmt = 8 then bookCode book y else ((fmtFloat fmt).round .ne y false).1

/-! ### Choosing a block's scale byte (R259) -/

/-- The largest finite value of a format; for C4, the largest finite magnitude in the codebook. -/
def fmtMax (fmt : Nat) (book : Nat → BitVec 16) : Num :=
  if fmt = 8 then
    (List.range 16).foldl (fun m c =>
      let e := bf16.decode (book c).toNat
      if e.isNan || e.isInf then m else if finLe m e.abs then e.abs else m) (.fin false 0 0)
  else (fmtFloat fmt).decode (fmtFloat fmt).maxCode

/-- The scale byte for a block whose largest magnitude is `m`. -/
def scaleByte (fmt : Nat) (book : Nat → BitVec 16) (m : Num) : Nat :=
  match m.abs, fmtMax fmt book with
  | .nan _, _ => 255
  | .fin _ 0 _, _ => 127
  | _, .fin _ 0 _ => 127
  | .inf _, _ => 254
  | .fin _ a d, .fin _ b e =>
    let e0 : Int := (d + (Nat.log2 a : Nat)) - (e + (Nat.log2 b : Nat))
    let big := if finLe (.fin false a d) (.fin false b (e + e0)) then e0 else e0 + 1
    (min (max (127 + big) 0) 254).toNat
  | _, _ => 127

end Sys2Proof.Machine
end

