-- ==== Sys2Proof/Machine/Translate.lean ====
section
/-!
DEFINITION. Physical addresses, windows, page tables and the translation caches (R193 to R195, R205, R255, R415, R421,
R422).
-/

namespace Sys2Proof.Machine

/-- The size of space 0x0 (R193), and of one die's part of it. -/
def hbmLimit : Nat := 0xc000000000
def dieBytes : Nat := 0x6000000000

/-- The space field of a physical address (R415). -/
def spaceOf (pa : Nat) : Nat := pa / 2 ^ 48 % 16

/-- HBM of another package (R415). -/
def isRemote (pa : Nat) : Bool := decide (8 ≤ spaceOf pa)
def isHost (pa : Nat) : Bool := decide (spaceOf pa = 2) || decide (spaceOf pa = 3)
def isScratch (pa : Nat) : Bool := decide (spaceOf pa = 1)
def isHbm (pa : Nat) : Bool := decide (spaceOf pa = 0)

/-- The package of a remote address, and its space-0 address there. -/
def remotePkg (pa : Nat) : Nat := pa / 2 ^ 41 % 1024
def remoteAddr (pa : Nat) : Nat := pa % 2 ^ 41

/-- The number of this package (R427). -/
def State.pkg (s : State) : Nat := bitsOf (s.reg 0xc10) 9 0

/-- A package this one can reach: a live port in its route mask (R427). -/
def State.routed (s : State) (pkg : Nat) : Bool := decide (FMap.get 0 s.routes pkg ≠ 0)

/-- The die an HBM byte belongs to, and its offset there (R193). -/
def dieOf (pa : Nat) : Nat := pa / dieBytes
def dieOffset (pa : Nat) : Nat := pa % dieBytes
def tileOf (pa : Nat) : Nat := pa / 256
def sectorOf (pa : Nat) : Nat := pa / 64

/-- Fields of a slice-scratch address (R205). -/
def scratchDie (pa : Nat) : Nat := pa / 2 ^ 31 % 2
def scratchSlice (pa : Nat) : Nat := pa / 2 ^ 26 % 32
def scratchOrdinal (pa : Nat) : Nat := pa / 2 ^ 22 % 16

/-- The distinct sectors of a list of bytes. -/
def sectorsOf (bytes : List Nat) : List Nat := (bytes.map sectorOf).eraseDups

/-- The distinct tiles of a list of bytes. -/
def tilesOf (bytes : List Nat) : List Nat := (bytes.map tileOf).eraseDups

/-- An active home-selection value of a die (R195 to R197). -/
def State.homeReg (s : State) (die i : Nat) : Word64 :=
  FMap.get (regReset (0x400 + 0x20 * die + i)) s.home (0x400 + 0x20 * die + i)

/-- The reset bucket tables (R195). -/
def bucketReset (key : Nat) : BitVec 5 :=
  match key / 4096 % 4 with
  | 0 => BitVec.ofNat 5 (key % 16)
  | 1 => BitVec.ofNat 5 (16 + key % 16)
  | _ => 0

/-- The active and the staged entry of a bucket: key = die · 16384 + domain · 4096 + bucket. DESIGN CHOICE (log 91): an entry that software has not
staged is the active one, so that it follows a retirement's moves, and one that it has staged stays as it is. -/
def State.bucket (s : State) (key : Nat) : BitVec 5 := FMap.get (bucketReset key) s.buckets key
def State.bucketStaged (s : State) (key : Nat) : BitVec 5 := FMap.get (s.bucket key) s.bucketsStaged key

/-- The domain of a die offset under given bases and limits (R194). -/
def domainBy (base limit : Nat → Nat) (off : Nat) : Option Nat :=
  [0, 1, 2, 3].find? (fun k => decide (base k ≤ off) && decide (off < limit k))

def State.domainOf (s : State) (die off : Nat) : Option Nat :=
  domainBy (fun k => (s.homeReg die (0x10 + 2 * k)).toNat) (fun k => (s.homeReg die (0x11 + 2 * k)).toNat) off

/-- The parity of a number of at most 32 bits, by folding it in half five times. -/
def parity32 (x : Nat) : Nat :=
  let x := x ^^^ (x / 2 ^ 16)
  let x := x ^^^ (x / 2 ^ 8)
  let x := x ^^^ (x / 2 ^ 4)
  let x := x ^^^ (x / 2 ^ 2)
  let x := x ^^^ (x / 2)
  x % 2

/-- The bucket of a tile of a die (R195): bit i is the parity of the masked tile-number bits. -/
def bucketBits (mask : Nat → Word64) (t : Nat) : Nat :=
  (List.range 12).foldl (fun b i => b + parity32 (t &&& (mask i).toNat) * 2 ^ i) 0

def State.bucketOf (s : State) (die off : Nat) : Nat := bucketBits (fun i => s.homeReg die i) (off / 256)

/-- The home slice of an HBM byte, numbered 32 · die + slice (R195). -/
def State.homeOf (s : State) (pa : Nat) : Nat :=
  let die := dieOf pa
  let off := dieOffset pa
  let k := (s.domainOf die off).getD 0
  32 * die + (s.bucket (die * 16384 + k * 4096 + s.bucketOf die off)).toNat

/-- The slice of die `e` that serves replica tiles of an HBM byte (R206). -/
def State.replicaSlice (s : State) (pa e : Nat) : Nat :=
  let k := (s.domainOf (dieOf pa) (dieOffset pa)).getD 0
  32 * e + (s.bucket (e * 16384 + k * 4096 + s.bucketOf e (dieOffset pa))).toNat

/-! ### Sectors that cannot be read, and corrections (R337, R338, R341) -/

/-- The slice of a tile of HBM or of slice scratch (R193, R205). -/
def State.sliceOfTile (s : State) (tile : Nat) : Nat :=
  if isScratch (256 * tile) then 32 * scratchDie (256 * tile) + scratchSlice (256 * tile) else s.homeOf (256 * tile)

/-- A byte of HBM or of slice scratch lies in a poisoned sector (R338). -/
def State.poisoned (s : State) (pa : Nat) : Bool :=
  (isHbm pa || isScratch pa) && (s.sliceOf (s.sliceOfTile (tileOf pa))).poison.contains (sectorOf pa)

/-- One of the sectors of `n` bytes from `pa` on is poisoned. -/
def State.poisonedIn (s : State) (pa n : Nat) : Bool :=
  (sectorsOf ((List.range n).map (pa + ·))).any (fun k => s.poisoned (64 * k))

/-- A saturating 32-bit counter register rises by one. -/
def State.countReg (s : State) (n : Nat) : State := s.setReg n (BitVec.ofNat 64 (min (2 ^ 32 - 1) ((s.reg n).toNat + 1)))

/-- The register of a slice's corrections. -/
def sliceCe (n : Nat) : Nat := 0x810 + n

/-- An access to a byte of a slice meets a correctable error in its word: the word is corrected in place, and counted. -/
def State.correct (s : State) (n a : Nat) : State :=
  if (s.sliceOf n).errors.contains (a / 8) then
    (s.countReg (sliceCe n)).modSlice n (fun x => { x with errors := x.errors.filter (· != a / 8) })
  else s

/-- No stored word of a slice holds a correctable error. -/
def State.noErrors (s : State) : Bool := s.slices.all (fun e => e.2.errors.isEmpty && e.2.frames.all (fun f => f.errors.isEmpty))

/-- The words that bytes of a slice lie in are corrected where they hold an error (R337). -/
def State.correctBytes (s : State) (pas : List Nat) : State :=
  if s.noErrors then s else pas.foldl (fun t a => t.correct (t.sliceOfTile (tileOf a)) a) s

/-! ### The configuration that a home change brings (R196, R197, R212) -/

/-- The domain of a die offset under the staged registers. -/
def State.domainStaged (s : State) (die off : Nat) : Option Nat :=
  domainBy (fun k => (s.reg (0x410 + 0x20 * die + 2 * k)).toNat) (fun k => (s.reg (0x411 + 0x20 * die + 2 * k)).toNat) off

/-- Slices of a die that some bucket of a domain maps to, in increasing order. -/
def State.domainSlices (s : State) (die k : Nat) : List Nat :=
  let used := (List.range 4096).foldl (fun (m : BitVec 32) b => m ||| BitVec.ofNat 32 (2 ^ (s.bucket (die * 16384 + k * 4096 + b)).toNat)) 0
  (List.range 32).filter (fun n => used.getLsbD n)

/-- Where the buckets of a retiring slice go: the domain's other slices, from the first above it on, wrapping. -/
def State.receivers (s : State) (die k slice : Nat) : List Nat :=
  let l := (s.domainSlices die k).filter (fun n => n != slice && (s.reg (0x41b + 0x20 * die)).getLsbD n)
  l.filter (slice < ·) ++ l.filter (· < slice)

/-- The bucket entry after a slice of the die has retired (R212, step 5). -/
def State.bucketRetired (s : State) (die slice key : Nat) : BitVec 5 :=
  let k := key / 4096 % 4
  if (s.bucket key).toNat ≠ slice then s.bucket key
  else
    let goal := s.receivers die k slice
    let j := ((List.range (key % 4096)).filter (fun b => decide ((s.bucket (die * 16384 + k * 4096 + b)).toNat = slice))).length
    match goal with
    | [] => s.bucket key
    | _ => BitVec.ofNat 5 (goal.getD (j % goal.length) 0)

/-- The home slice of an HBM byte under the configuration that a change in progress on its die brings, and the slice of die
`e` that will serve its replica. DESIGN CHOICE (log 92): the staged registers are read as they stand while the change goes on; a write to one of
them after GO changes it. -/
def State.nextSlice (s : State) (h : HomeChange) (pa e : Nat) : Nat :=
  let off := dieOffset pa
  match h.retire with
  | some r =>
    let k := (s.domainOf (dieOf pa) off).getD 0
    32 * e + (s.bucketRetired e r (e * 16384 + k * 4096 + s.bucketOf e off)).toNat
  | none =>
    let k := ((if dieOf pa = e then s.domainStaged e off else s.domainOf (dieOf pa) off)).getD 0
    32 * e + (s.bucketStaged (e * 16384 + k * 4096 + bucketBits (fun i => s.reg (0x400 + 0x20 * e + i)) (off / 256))).toNat

/-- A domain of a die is not empty (R194). -/
def State.domainLive (s : State) (die k : Nat) : Bool :=
  decide ((s.homeReg die (0x10 + 2 * k)).toNat < (s.homeReg die (0x11 + 2 * k)).toNat)

/-- A slice serves a domain of its die: some bucket of it maps there. -/
def State.sliceInDomain (s : State) (die k slice : Nat) : Bool :=
  s.domainLive die k && (List.range 4096).any (fun b => decide ((s.bucket (die * 16384 + k * 4096 + b)).toNat = slice))

/-! ### Split registers (R200) -/

/-- The split register of partition `p` as slice `n` applies it: a change in progress holds in the slices that have taken
it (R202). -/
def State.split (s : State) (p n : Nat) : Word64 :=
  match s.splitChanges.find? (fun c => decide (c.part = p) && decide (c.die = n / 32)) with
  | some c => if c.left.contains n then s.reg (0x440 + 2 * p + n / 32) else c.value
  | none => s.reg (0x440 + 2 * p + n / 32)
def splitDomains (w : Word64) : BitVec 4 := w.extractLsb' 48 4
def splitChain (w : Word64) : Bool := w.getLsbD 33
def splitPin (w : Word64) : BitVec 16 := w.extractLsb' 16 16
def splitScratch (w : Word64) : BitVec 16 := w.extractLsb' 0 16

/-- A split register's DOMAINS take in a slice of its die. -/
def State.splitCovers (s : State) (w : Word64) (die slice : Nat) : Bool :=
  [0, 1, 2, 3].any (fun k => (splitDomains w).getLsbD k && s.sliceInDomain die k slice)

/-! ### Address faults of a physical address -/

/-- A physical address that no access of partition `p` can reach (R193, R194, R205, R415, R427): an address fault. -/
def State.paBad (s : State) (p pa : Nat) : Bool :=
  if isRemote pa then
    decide (remotePkg pa = s.pkg) || !s.routed (remotePkg pa) || decide (hbmLimit ≤ remoteAddr pa)
  else if isHost pa then false
  else if isScratch pa then
    let d := scratchDie pa
    let w := s.split p (32 * d + scratchSlice pa)
    decide (pa / 2 ^ 32 % 65536 ≠ 0)
    || decide (popc (splitScratch w) ≤ scratchOrdinal pa)
    || !(s.reg (0x41b + 0x20 * d)).getLsbD (scratchSlice pa)
    || !s.splitCovers w d (scratchSlice pa)
  else if isHbm pa then decide (hbmLimit ≤ pa) || (s.domainOf (dieOf pa) (dieOffset pa)).isNone
  else true

/-- The place in memory of a slice-scratch byte: its way's number in the place of the way ordinal (R205). -/
def State.memKey (s : State) (p pa : Nat) : Nat :=
  if isScratch pa then
    let ways := bitsSet (splitScratch (s.split p (32 * scratchDie pa + scratchSlice pa))) 16
    pa - scratchOrdinal pa * 2 ^ 22 + ways.getD (scratchOrdinal pa) 0 * 2 ^ 22
  else pa

/-! ### Windows and page tables (R415, R421) -/

/-- A physical address lies in a window of partition `p`. -/
def State.inWindows (s : State) (p pa : Nat) : Bool :=
  [0, 1, 2, 3].any (fun k =>
    decide ((s.reg (0xb00 + 8 * p + 2 * k)).toNat ≤ pa) && decide (pa < (s.reg (0xb01 + 8 * p + 2 * k)).toNat))

/-- A leaf entry as a translation uses it. -/
structure Leaf where
  base : Nat
  log : Nat
  pa : Nat
  fmt : Nat
  rpl : Bool
  x : Bool
  w : Bool
  r : Bool
  deriving DecidableEq, Repr

/-- An access kind is permitted (R421). -/
def permitted (r w x : Bool) (k : AccessKind) : Bool :=
  match k with
  | .read => r
  | .write => w
  | .sync => w
  | .fetch => x
  | .touch => r

/-- log2 of the page size at a level, and the index and table entries there (R421). -/
def levelLog (level : Nat) : Nat :=
  match level with
  | 0 => 44
  | 1 => 30
  | 2 => 21
  | _ => 16

def levelEntries (level : Nat) : Nat :=
  match level with
  | 0 => 8192
  | 1 => 16384
  | 2 => 512
  | _ => 32

/-- Nonzero reserved bits of an entry (R255, R421). -/
def entryReserved (level : Nat) (lo hi : Word64) : Bool :=
  if lo.getLsbD 1 then
    decide (bitsOf hi 55 41 ≠ 0) || decide (bitsOf hi 39 0 ≠ 0) || decide (bitsOf lo 63 52 ≠ 0)
    || decide (bitsOf lo 15 6 ≠ 0) || lo.getLsbD 2 || decide (bitsOf lo 51 0 % 2 ^ levelLog level / 65536 ≠ 0)
  else decide (hi ≠ 0) || decide (bitsOf lo 63 52 ≠ 0) || decide (bitsOf lo 8 2 ≠ 0)

/-- Why a walk finds no leaf where an entry of the tables cannot be read (R338): its reader faults; it is no reason of a translation record. -/
def walkPoison : Nat := 9

/-- The walk from a table at a level, `n` levels from the end: a leaf, or the reason it suspends (R421). The entry that is read and the byte that
is asked for lie in the partition's windows too, where a table or a page goes on past one (R417). -/
def State.walkFrom (s : State) (p va : Nat) (kind : AccessKind) : Nat → Nat → Except Nat Leaf
  | 0, _ => .error 0
  | n + 1, t =>
    let level := 3 - n
    let a := t + 16 * (va / 2 ^ levelLog level % levelEntries level)
    if !s.inWindows p t || !s.inWindows p a then .error 2
    else if s.poisonedIn a 16 then .error walkPoison
    else
      let lo := s.mem.read64 a
      let hi := s.mem.read64 (a + 8)
      if !lo.getLsbD 0 || entryReserved level lo hi then .error 0
      else if lo.getLsbD 1 then
        if level = 0 then .error 0
        else
          let pa := bitsOf lo 51 16 * 65536
          if !s.inWindows p pa || !s.inWindows p (pa + va % 2 ^ levelLog level) then .error 2
          else if !permitted (lo.getLsbD 3) (lo.getLsbD 4) (lo.getLsbD 5) kind then .error 1
          else .ok { base := va / 2 ^ levelLog level * 2 ^ levelLog level, log := levelLog level, pa := pa,
                     fmt := bitsOf hi 63 56, rpl := hi.getLsbD 40, x := lo.getLsbD 5, w := lo.getLsbD 4, r := lo.getLsbD 3 }
      else State.walkFrom s p va kind n (bitsOf lo 51 9 * 512)

/-- The walk of a virtual address in partition `p` (R421). -/
def State.walk (s : State) (p va : Nat) (kind : AccessKind) : Except Nat Leaf :=
  s.walkFrom p va kind 4 (s.reg (0x900 + 16 * p)).toNat

/-- The entries that a walk reads, from a table on. -/
def State.walkEntries (s : State) (p va : Nat) : Nat → Nat → List Nat
  | 0, _ => []
  | n + 1, t =>
    let level := 3 - n
    let a := t + 16 * (va / 2 ^ levelLog level % levelEntries level)
    if !s.inWindows p t || !s.inWindows p a then []
    else
      let lo := s.mem.read64 a
      a :: (if lo.getLsbD 0 && !lo.getLsbD 1 then State.walkEntries s p va n (bitsOf lo 51 9 * 512) else [])

/-- A walk corrects the words of the entries that it reads (R337). -/
def State.correctWalk (s : State) (p va : Nat) : State :=
  if s.noErrors then s
  else s.correctBytes ((s.walkEntries p va 4 (s.reg (0x900 + 16 * p)).toNat).flatMap (fun a => (List.range 16).map (a + ·)))

/-- The physical address of a byte under a leaf. -/
def Leaf.addr (l : Leaf) (va : Nat) : Nat := l.pa + (va - l.base)

/-- A cached leaf of a cluster that permits an access (R422), to a byte in the partition's windows (R417). -/
def State.cached (s : State) (cluster p va : Nat) (kind : AccessKind) : Option Leaf :=
  (s.tlb.find? (fun e => decide (e.cluster = cluster) && decide (e.part = p) && decide (e.base ≤ va)
      && decide (va < e.base + 2 ^ e.log) && permitted e.r e.w e.x kind && s.inWindows p (e.pa + (va - e.base)))).map
    (fun e => { base := e.base, log := e.log, pa := e.pa, fmt := e.fmt, rpl := e.rpl, x := e.x, w := e.w, r := e.r })

/-- The translation that a cluster's walk finds: its die's cache answers before the tables are read (R422). -/
def State.translate (s : State) (cluster p va : Nat) (kind : AccessKind) : Except Nat Leaf :=
  match s.cached (64 + cluster / 32) p va kind with
  | some l => .ok l
  | none => s.walk p va kind

/-- What the walk of a cluster corrects: the entries that it reads, where its die's cache does not answer. -/
def State.correctTables (s : State) (cluster p va : Nat) (kind : AccessKind) : State :=
  if (s.cached (64 + cluster / 32) p va kind).isSome then s else s.correctWalk p va

/-- Keep a leaf in a cache of `n` entries, in place of its older copy. DESIGN CHOICE (log 76): a full cache drops the entry it took first. -/
def State.keepLeaf (s : State) (cache n p : Nat) (l : Leaf) : State :=
  let e : TlbEntry := { cluster := cache, part := p, base := l.base, log := l.log, pa := l.pa, fmt := l.fmt, rpl := l.rpl,
                        x := l.x, w := l.w, r := l.r }
  let mine := s.tlb.filter (fun o => decide (o.cluster = cache)
    && !(decide (o.part = p) && decide (o.base = l.base) && decide (o.log = l.log)))
  { s with tlb := (e :: mine).take n ++ s.tlb.filter (fun o => !decide (o.cluster = cache)) }

/-- Cache a leaf in a cluster's cache of 2,048 entries and in its die's of 65,536 (R422). -/
def State.cacheLeaf (s : State) (cluster p : Nat) (l : Leaf) : State :=
  (s.keepLeaf (64 + cluster / 32) 65536 p l).keepLeaf cluster 2048 p l

/-- The physical address a virtual one stands for, by a walk of its own: the ready pool, the host windows and the
engines' tables use it, and read the tables themselves (R168, R413, R419; DESIGN CHOICE, log 76). -/
def State.walkAddr (s : State) (p va : Nat) (kind : AccessKind) : Option Nat :=
  match s.walk p va kind with
  | .ok l => if s.paBad p (l.addr va) then none else some (s.memKey p (l.addr va))
  | .error _ => none

end Sys2Proof.Machine
end

