-- ==== Sys2Proof/Machine/Slice.lean ====
section
/-!
DEFINITION. A home slice: its recency chain and rings (R179 to R190, R199 to R204), dirty sectors and commit stamps
(R210, R211), version frames (R208, R209), and the race checks (R151, R376 to R379).
-/

namespace Sys2Proof.Machine

/-! ### Distances and rings -/

/-- The ring of a distance (R179). -/
def ringOf (d : Nat) : Nat :=
  if d < 1024 then 0 else if d < 5120 then 1 else if d < 21504 then 2 else if d < 87040 then 3 else 4

/-! ### Where a tile is held (R192, R193) -/

/-- The SRAM layer that holds a tile in ring `r` from 1 up: 0 to 3 are layers 1 to 4. -/
def layerOf (tile r : Nat) : Nat := (tile + r) % 4

/-- Tiles that a ring from 1 to 4 puts in each layer of the column: a quarter of its tiles. -/
def ringTiles (r : Nat) : Nat :=
  match r with
  | 0 => 1024
  | 1 => 4096
  | 2 => 16384
  | 3 => 65536
  | _ => 262144
def layerTiles (r : Nat) : Nat := ringTiles r / 4

/-- The frame a slice has chosen for a tile within its ring and layer: the choice is the slice's own (log 10). -/
def frameOf (n tile r : Nat) : Nat := Sys2Proof.Config.frameChoice n tile % layerTiles r

/-- The bank of a column part that holds sector `i` of the tile in frame `f`. -/
def bankOf (f i : Nat) : Nat := (4 * f + i) % 16

/-- The HBM stack of a tile, within its home die. -/
def stackOf (pa : Nat) : Nat := dieOffset pa / 4096 % 4

/-- Ways of slice `n` that a partition takes for pinning or scratch (R199, R200). -/
def State.waysTaken (s : State) (n p : Nat) : BitVec 16 :=
  let w := s.split p n
  if splitPin w ||| splitScratch w = 0 then 0
  else if s.splitCovers w (n / 32) (n % 32) then splitPin w ||| splitScratch w else 0

/-- Chain ways of a slice (R199). -/
def State.chainWays (s : State) (n : Nat) : Nat :=
  16 - popc ((List.range 24).foldl (fun m p => m ||| s.waysTaken n p) (0 : BitVec 16))

/-- Places of a slice's chain: 87,040 + 16,384 c - v (R185). -/
def State.chainPlaces (s : State) (n : Nat) : Nat := 87040 + (16384 * s.chainWays n - (s.sliceOf n).frames.length)

/-- A partition's pin quota in a slice (R203). -/
def State.pinQuota (s : State) (n p : Nat) : Nat := 16384 * popc (splitPin (s.split p n))

/-- The place of a tile in a chain: its distance (R180). -/
def distanceIn (tile : Nat) : List Nat → Nat → Option Nat
  | [], _ => none
  | t :: r, d => if t = tile then some d else distanceIn tile r (d + 1)

def Slice.distance (x : Slice) (tile : Nat) : Option Nat := distanceIn tile x.chain 0

def Slice.pinned (x : Slice) (tile : Nat) : Bool := x.pins.any (fun e => e.1 == tile)
def Slice.resident (x : Slice) (tile : Nat) : Bool := x.chain.contains tile || x.pinned tile

/-- The four sectors of a tile. -/
def tileSectors (tile : Nat) : List Nat := [4 * tile, 4 * tile + 1, 4 * tile + 2, 4 * tile + 3]

/-! ### The horizon and the side band (R211, R376) -/

/-- Castings that are dispatched or saved and not yet committed or discarded (R211, R376); cluster 0x100 marks one that was
aborted before its dispatch (R362). -/
def Casting.live (c : Casting) : Bool :=
  match c.state with
  | .faulted => decide (c.cluster ≠ 0x100)
  | .ready => false
  | .committed => false
  | .discarded => false
  | .heldBack => false
  | _ => true

/-- The horizon H: the smallest dispatch number, as numbers of 48 bits go (R211, R363). -/
def State.horizon (s : State) : Nat :=
  let live := (s.castings.filter Casting.live).map (·.dispatchNo)
  match live with
  | [] => s.nextCommit
  | d :: r => r.foldl (fun a b => if modNewer 48 a b then b else a) d

/-- A stamp not greater than H in the modular comparison (R211). -/
def settled (stamp : Word32) (h : Nat) : Bool := !modNewer 32 stamp.toNat (h % 2 ^ 32)

/-- The later of two stamps; 0, which a settled stamp becomes, is the earliest. -/
def laterStamp (a b : Word32) : Word32 := if a = 0 then b else if b = 0 then a else if modNewer 32 b.toNat a.toNat then b else a

/-- The stamp a sector carries: the slice's own while the tile is resident, else what a refill would give (R211). -/
def State.stampOf (s : State) (n sector : Nat) : Word32 :=
  let x := s.sliceOf n
  let tile := sector / 4
  if x.resident tile then FMap.get 0 x.stamps sector
  else
    let sb := FMap.get (0, 0) s.sideband tile
    if sb.2.getLsbD (sector % 4) then sb.1 else 0

/-- Give the sectors of a tile the stamps a refill brings (R211). -/
def State.refillStamps (s : State) (n tile : Nat) : State :=
  (tileSectors tile).foldl (fun t sec =>
    t.modSlice n (fun x => { x with stamps := FMap.set 0 x.stamps sec (s.stampOf n sec) })) s

/-- The side-band stamp and mask of a tile that is written back with its slice's stamps; a stamp of 0 has been settled for good (R211,
R376). -/
def State.sidebandOf (s : State) (n tile : Nat) : Word32 × BitVec 4 :=
  let x := s.sliceOf n
  let st := (tileSectors tile).map (fun sec => FMap.get 0 x.stamps sec)
  let latest := st.foldl laterStamp 0
  let m : BitVec 4 := (List.range 4).foldl (fun m i =>
    let v := st.getD i 0
    if v = latest ∨ (v ≠ 0 ∧ settled v s.horizon = false) then m ||| BitVec.ofNat 4 (2 ^ i) else m) 0
  (latest, m)

/-- Take the stamps of a tile away from its slice, with the errors of the copy that leaves; and its dirty marks. -/
def Slice.forgetStamps (x : Slice) (tile : Nat) : Slice :=
  { x with stamps := x.stamps.filter (fun e => e.1 / 4 != tile), errors := x.errors.filter (fun w => w / 32 != tile) }
def Slice.clean (x : Slice) (tile : Nat) : Slice := { x with dirty := x.dirty.filter (fun d => d / 4 != tile) }

/-- A slice holds a dirty sector of a tile. -/
def Slice.holdsDirty (x : Slice) (tile : Nat) : Bool := x.dirty.any (fun d => d / 4 == tile)

/-- The metadata of a tile that is written back: those of its sectors now (R211). -/
def State.writeSideband (s : State) (n tile : Nat) : State :=
  ({ s with sideband := FMap.set (0, 0) s.sideband tile (s.sidebandOf n tile) } : State).modSlice n (fun x => x.forgetStamps tile)

/-- A tile stops being resident: where it is written back, its side-band metadata are those of its sectors now; those of a clean tile stay as
they are (R188, R211). -/
def State.leaveStamps (s : State) (n tile : Nat) : State :=
  if (s.sliceOf n).holdsDirty tile then s.writeSideband n tile else s.modSlice n (fun x => x.forgetStamps tile)

/-- A tile in the write-back queue has gone to HBM (R188). -/
def State.writeBackTile (s : State) (n tile : Nat) : State :=
  s.modSlice n (fun x => { x.clean tile with writeBack := x.writeBack.filter (· != tile) })

/-- The queue of 128 tiles has room: the oldest goes to HBM where it has none (R188). -/
def State.queueRoomAt (s : State) (n : Nat) : State :=
  match (s.sliceOf n).writeBack with
  | t :: r => if 127 ≤ r.length then s.writeBackTile n t else s
  | [] => s

/-- A tile that is no longer resident leaves its metadata; its dirty sectors go into the write-back queue, and a clean tile is
dropped (R188). -/
def State.queueWriteBack (s : State) (n tile : Nat) : State :=
  let t := s.leaveStamps n tile
  if (s.sliceOf n).holdsDirty tile then
    (t.queueRoomAt n).modSlice n (fun x => { x with writeBack := x.writeBack ++ [tile] })
  else t

/-! ### The ports of a slice (R182), its boards and amax slots (R212, R264, R346) -/

/-- The slice that homes what a slice's board SRAM held at reset (R212, R264, R346). -/
def State.boardHome (s : State) (n : Nat) : Nat := FMap.get n s.boardHomes n

/-- The slice that homes a board of this package, and the one that homes an amax slot (R264, R346). -/
def State.homeOfBoard (s : State) (board : Nat) : Nat := s.boardHome (board / 2048 * 32 + board % 32)
def State.homeOfAmax (s : State) (slot : Nat) : Nat := s.boardHome (slot / 64 * 32 + slot % 32)

/-- The service port, the fabric port and the die-link port of a die's crossbar; 33 is the host port. -/
def servicePort : Nat := 35
def fabricPort : Nat := 34

def diePort : Nat := 32

/-- The input ports of a slice's crosspoint, the least recently granted first; after reset by number. -/
def State.ports (s : State) (n : Nat) : List Nat := FMap.get (List.range 36) s.portOrder n

/-- A port has been granted: it is the most recently granted. -/
def State.portGranted (s : State) (n port : Nat) : State :=
  { s with portOrder := FMap.set (List.range 36) s.portOrder n ((s.ports n).filter (· != port) ++ [port]) }

/-- Requests do not wait for their slots (log 5), and none stands at an arbiter: what comes to a port of a slice wins its slot there (R182). -/
def State.quiet (s : State) : Bool := !s.hold && s.standing.isEmpty && s.requests.all (fun r => r.arrived.isNone)

/-- The bus of a slice's column moves no data: it realigns (R229). -/
def State.busStill (s : State) (sl : Nat) : Bool := (s.column (sl / 32) (sl % 32)).retrain

/-! ### Written sectors -/

/-- A write to a sector, committed or of a casting's version frame, comes between the scrubber's read of it and its write (R340). -/
def State.interveneIn (s : State) (n casting sector : Nat) : State :=
  if (s.sliceOf n).scrub = none then s
  else s.modSlice n (fun x => { x with scrub := x.scrub.map (fun e => if e.1 = casting ∧ e.2.1 = sector then (e.1, e.2.1, true) else e) })

/-- A write to a committed sector. -/
def State.intervene (s : State) (n sector : Nat) : State := s.interveneIn n 0 sector

/-- Mark a sector written: dirty where its tile is held, and known to the scrubber (R184, R188, R340). -/
def State.touchSector (s : State) (n sector : Nat) : State :=
  let x := s.sliceOf n
  let t := s.intervene n sector
  if x.resident (sector / 4) && !x.dirty.contains sector then
    t.modSlice n (fun x => { x with dirty := x.dirty ++ [sector] })
  else t

/-! ### Watches of global waita (R398) -/

/-- Every request that has been sent and has not been performed for its maker. -/
def State.sent (s : State) : List Req := s.requests ++ s.rehomed ++ s.retry.flatMap (·.2) ++ s.returning.map (·.2.1)

/-- The first test of a `waita`. -/
def ReqKind.isWaitTest : ReqKind → Bool
  | .waitTest _ => true
  | _ => false

/-- The test of a `waita` of a ladle, at the word's address, is on its way: it decides by itself whether its split has its value. -/
def State.testing (s : State) (uid : Nat) (pc : Word64) : Bool :=
  s.sent.any (fun r => r.who.ladle == uid && r.kind.isWaitTest && r.who.pc == pc)

/-- A word meets the condition of a `waita`: nonzero, or different from the value at issue (R397). -/
def waitaMeets (old : Option Word32) (w : Word32) : Bool :=
  match old with
  | none => w != 0
  | some o => w != o

/-- A split waits in one global `waita`. -/
def Split.waitsGlobal (x : Split) (pa : Nat) (old : Option Word32) : Bool :=
  match x.blocked with
  | .waitaGlobal p o _ => decide (p = pa) && decide (o = old)
  | _ => false

/-- A split has the value of its global `waita`. -/
def Split.takeGlobal (x : Split) (v : Word32) : Split :=
  match x.blocked with
  | .waitaGlobal _ _ sd => { x with blocked := .waitaMet v sd }
  | _ => x

/-- The splits of a ladle that watch in one global `waita` have their value; one whose own test is on its way waits for that. -/
def State.wakeWaiters (s : State) (uid pa : Nat) (old : Option Word32) (v : Word32) : State :=
  s.modLadle uid (fun l => l.mapSplits (fun x => x.waitsGlobal pa old && !s.testing uid x.pc) (fun x => x.takeGlobal v))

/-- The split whose own test has met its condition has its value. -/
def State.wakeTester (s : State) (w : Who) (pa : Nat) (old : Option Word32) (v : Word32) : State :=
  s.modLadle w.ladle (fun l => l.mapSplits (fun x => x.waitsGlobal pa old && x.pc == w.pc) (fun x => x.takeGlobal v))

/-- Leave a watch at the home of a word, when one of its 128 is free. -/
def State.watch (s : State) (n uid pa : Nat) (old : Option Word32) : State :=
  let w : Watch := { ladle := uid, pa := pa, old := old }
  if (s.sliceOf n).watches.length < 128 ∧ (s.sliceOf n).watches.contains w = false then
    s.modSlice n (fun x => { x with watches := x.watches ++ [w] })
  else s

/-- The splits that a watch serves take cause 0x09: its word cannot be read (R338). -/
def State.watchFault (s : State) (w : Watch) : State :=
  match s.ladle? w.ladle with
  | some l =>
    (l.allSplits.filter (fun x => x.waitsGlobal w.pa w.old && !s.testing l.uid x.pc)).foldl (fun t x =>
      t.raiseFor l.casting l.rank l.cluster l.core .uncorrectable x.pc) s
  | none => s

/-- Test one watch: when its word meets its condition, its splits have their value and the watch ends. The test reads the word as any reader
does (R337, R338). -/
def State.testWatch (s : State) (n : Nat) (w : Watch) : State :=
  let ended := fun (t : State) => t.modSlice n (fun x => { x with watches := x.watches.erase w })
  if s.poisoned w.pa then ended (s.watchFault w)
  else
    let v := s.mem.read32 w.pa
    let t := s.correct n w.pa
    if waitaMeets w.old v then ended (t.wakeWaiters w.ladle w.pa w.old v) else t

/-- Test the watches on a tile, at the slot of a write to it. -/
def State.testWatches (s : State) (n tile : Nat) : State :=
  ((s.sliceOf n).watches.filter (fun w => tileOf w.pa == tile)).foldl (fun t w => t.testWatch n w) s

/-! ### Committed writes -/

/-- All 64 bytes of a sector are among some bytes. -/
def wholeSector (sector : Nat) (bytes : List Nat) : Bool := (List.range 64).all (fun i => bytes.contains (64 * sector + i))

/-- A write of all 64 bytes of a sector clears its poison mark in a slice (R338). -/
def State.clearPoison (s : State) (n sector : Nat) (bytes : List Nat) : State :=
  if (s.sliceOf n).poison.contains sector && wholeSector sector bytes then
    s.modSlice n (fun x => { x with poison := x.poison.filter (· != sector) })
  else s

/-- A sector cannot be read: its mark stays with it until a write of all its bytes. -/
def Slice.poisonSector (x : Slice) (sector : Nat) : Slice :=
  if x.poison.contains sector then x else { x with poison := x.poison ++ [sector] }

/-- Write committed bytes, before any watch looks at them: a word that holds a correctable error where it is resident is corrected (R337). -/
def State.putBytes (s : State) (bs : List (Nat × Byte)) : State :=
  let t : State := { s with mem := bs.foldl (fun m e => m.write e.1 e.2) s.mem }
  let own := (bs.map (·.1)).filter (fun a => isHbm a || isScratch a)
  ((sectorsOf own).foldl (fun t k => (t.touchSector (t.sliceOfTile (k / 4)) k).clearPoison (t.sliceOfTile (k / 4)) k own) t).correctBytes own

/-- The watches on the tiles of written bytes look at them, once for the slot (R389, R394, R398). -/
def State.watchBytes (s : State) (pas : List Nat) : State :=
  (tilesOf (pas.filter (fun a => isHbm a || isScratch a))).foldl (fun t k => t.testWatches (t.sliceOfTile k) k) s

/-- Write committed bytes at their home slots: synchronising stores, host writes and merges (R145, R381). -/
def State.commitBytes (s : State) (bs : List (Nat × Byte)) : State := (s.putBytes bs).watchBytes (bs.map (·.1))

/-- A value of `n` bytes by address, little-endian (R5). -/
def wordBytes (pa n x : Nat) : List (Nat × Byte) := (List.range n).map (fun i => (pa + i, BitVec.ofNat 8 (x / 256 ^ i)))

/-- Write a value of `n` bytes to committed memory. -/
def State.commitWord (s : State) (pa n x : Nat) : State := s.commitBytes (wordBytes pa n x)

/-! ### Replicas (R206, R207) -/

/-- The maker of what the device does by itself. -/
def Who.device : Who :=
  { ladle := 0, casting := 0, part := 0, cluster := 0, rank := 0, core := 0, pc := 0, arrivals := 0, waited := 0,
    gangArrivals := 0, gangWaited := 0 }

/-- The bytes of a replica under its dirty mask. -/
def Replica.dirtyBytes (q : Replica) : List (Nat × Byte) :=
  ((List.range 256).filter (fun i => q.dirty.getLsbD i)).map (fun i => (256 * q.tile + i, q.bytes.getD i 0))

/-- The poisoned sectors of a replica that have a dirty byte: the home's become poisoned where they are merged (R338). -/
def Replica.dirtyPoison (q : Replica) : List Nat := q.poison.filter (fun k => q.dirtyBytes.any (fun e => sectorOf e.1 == k))

/-- Merged bytes at their home: the poison of sectors that could not be read goes with them. -/
def State.mergeBytes (s : State) (bs : List (Nat × Byte)) (poison : List Nat) : State :=
  poison.foldl (fun t k => t.modSlice (t.homeOf (64 * k)) (·.poisonSector k)) (s.commitBytes bs)

/-- A tile holds a miss register: one that has one already takes no other (R189). -/
def Slice.takeMiss (x : Slice) (tile : Nat) : Slice := if x.miss.contains tile then x else { x with miss := x.miss ++ [tile] }

/-- An access that promotes nothing uses a tile: one that is not resident takes a miss register, for which the oldest miss has been served
where none is free (R189). -/
def State.useMiss (s : State) (n tile : Nat) : State :=
  if (s.sliceOf n).resident tile then s
  else s.modSlice n (fun x => (if x.miss.contains tile then x else { x with miss := x.miss.drop (x.miss.length - 1023) }).takeMiss tile)

/-- Merge a replica's dirty bytes into its home, as one synchronising write: at once where nothing stands in its way at the home's
die-link port (R182), else as a request to the home, in the order of the instruction that causes it (R207, R222, R223); the request marks the bytes of a poisoned sector in
their `desc`. DESIGN CHOICE (log 80): the merge promotes no tile. -/
def State.sendMerge (s : State) (who : Who) (order : Nat) (q : Replica) : State :=
  let home := s.homeOf (256 * q.tile)
  if q.dirty = 0 then s
  else if s.quiet then ((s.portGranted home diePort).useMiss home q.tile).mergeBytes q.dirtyBytes q.dirtyPoison
  else
    { s with
      requests := s.requests ++ [{
        id := s.nextReq, order := order, who := who, kind := .merge, place := .slice home, tile := q.tile,
        bypass := true, replica := false, rpl := false, pend := none, held := false,
        ops := q.dirtyBytes.map (fun e => { lane := 0, bytes := [e.1], bit := 0, width := 8, desc := bit (q.dirtyPoison.contains (sectorOf e.1)),
                                            scale := none, x := e.2.setWidth 64, y := 0 }) }],
      nextReq := s.nextReq + 1 }

/-! ### Promotion and eviction (R180, R186 to R190) -/

/-- A tile leaves the chain: a replica is merged, dirty sectors are queued for write-back, clean tiles are dropped. Its eviction
waits in the cascade queue, as the one at boundary 4 (R187). -/
def State.evict (s : State) (n tile : Nat) : State :=
  let x := s.sliceOf n
  let out := fun (x : Slice) => { x with
    replicas := x.replicas.filter (fun q => q.tile != tile), chain := x.chain.filter (· != tile),
    cascade := (x.cascade ++ [(tile, 4)]).drop (x.cascade.length + 1 - 256) }
  match x.replicas.find? (fun r => r.tile == tile) with
  | some r => (s.sendMerge .device s.nextReq r).modSlice n (fun x => (out x).forgetStamps tile)
  | none => (s.queueWriteBack n tile).modSlice n out

/-- Evict from the chain's last place until it fits (R185). -/
def State.trim (s : State) (n : Nat) : Nat → State
  | 0 => s
  | k + 1 =>
    let x := s.sliceOf n
    if s.chainPlaces n < x.chain.length then
      match x.chain.getLast? with
      | some t => (s.evict n t).trim n k
      | none => s
    else s

/-- The first distance past boundary `b` (R179). -/
def pastBoundary (b : Nat) : Nat :=
  match b with
  | 0 => 1024
  | 1 => 5120
  | 2 => 21504
  | _ => 87040

/-- Boundary moves of a promotion from ring `r`, 4 for a new tile: at each boundary that it crosses, the tile that it has pushed
past (R186). `chain` is the chain after it. -/
def boundaryMoves (chain : List Nat) (r : Nat) : List (Nat × Nat) :=
  (List.range r).filterMap (fun b => (chain[pastBoundary b]?).map (fun t => (t, b)))

/-- A partition's requests promote at a slice (R203). -/
def State.promotes (s : State) (n p : Nat) : Bool := splitChain (s.split p n)

/-- A tile enters the chain at distance 0: from HBM, from the write-back queue, whose entry is cancelled, or from a pin (R180, R188, R221).
-/
def State.enterChain (s : State) (n tile : Nat) : State :=
  (s.modSlice n (fun x => { x with
    chain := tile :: x.chain, writeBack := x.writeBack.filter (· != tile),
    cascade := x.cascade ++ boundaryMoves (tile :: x.chain) 4 })).trim n ((s.sliceOf n).chain.length + 1)

/-- A request uses a tile at its arbiter slot: one that is not resident takes a miss register, and a promoting request brings the tile
to distance 0 (R180, R189). -/
def State.promote (s : State) (n tile p : Nat) (bypass : Bool) : State :=
  let x := s.sliceOf n
  if x.pinned tile then s
  else
    let stay := bypass || !s.promotes n p
    match x.distance tile with
    | some d =>
      let r := ringOf d
      if stay then s
      else s.modSlice n (fun x =>
        let chain := tile :: x.chain.erase tile
        { x with
          chain := chain,
          motion := if r = 0 then x.motion else x.motion ++ [(tile, r)],
          cascade := x.cascade ++ boundaryMoves chain r })
    | none =>
      if stay then s.modSlice n (fun x => x.takeMiss tile)
      else ((s.refillStamps n tile).modSlice n (fun x => x.takeMiss tile)).enterChain n tile

/-- The cascade queue has room for the boundary moves of a tile that comes to distance 0 from ring `r`, and for the eviction that a `new`
tile causes in a full chain; and then the write-back queue has room (R187, R188). -/
def State.entryRoom (s : State) (n tile r : Nat) (new : Bool) : Bool :=
  let x := s.sliceOf n
  let full := new && decide (s.chainPlaces n ≤ x.chain.length)
  decide (x.cascade.length + (boundaryMoves (tile :: x.chain.erase tile) r).length + bit full ≤ 256)
  && (!full || decide (x.writeBack.length < 128))

/-- A miss register is free, or the tile has one (R189). -/
def Slice.missRoom (x : Slice) (tile : Nat) : Bool := x.miss.contains tile || decide (x.miss.length < 1024)

/-- The front can grant a request for a tile: a tile that is not resident needs a miss register, a climb the motion buffer, and what
moves in the chain the cascade and write-back queues (R187 to R190). -/
def State.frontReady (s : State) (n tile p : Nat) (bypass : Bool) : Bool :=
  let x := s.sliceOf n
  let stay := bypass || !s.promotes n p
  if x.pinned tile then true
  else
    match x.distance tile with
    | some d => stay || decide (ringOf d = 0) || (decide (x.motion.length < 64) && s.entryRoom n tile (ringOf d) false)
    | none => x.missRoom tile && (stay || s.entryRoom n tile 4 true)

/-- Time passes until the front can grant one more request: a tile in motion lands, queued moves are made, a miss is served, and the
oldest write-back goes to HBM. Engine accesses find their room so (log 82), but none while the column realigns (R229). -/
def State.waitFront (s : State) (n tile p : Nat) (bypass : Bool) : State :=
  if s.frontReady n tile p bypass || s.busStill n then s
  else (s.modSlice n (fun x => { x with
    motion := x.motion.drop (x.motion.length - 63), cascade := x.cascade.drop (x.cascade.length - 251),
    miss := x.miss.drop (x.miss.length - 1023) })).queueRoomAt n

/-! ### Tiles on the move between homes (R197, R212) -/

/-- A change of homes in progress on the die of slice `n` takes the tile away from it; `replica` for a replica tile. -/
def State.leaving (s : State) (n tile : Nat) : Bool :=
  match s.homeChanges.find? (fun h => decide (h.die = n / 32)) with
  | none => false
  | some h => if h.retire.isSome then false else decide (s.nextSlice h (256 * tile) (n / 32) ≠ n)

/-- A slice that has drained holds a request for a tile that is leaving it (R197). -/
def State.holdsTile (s : State) (n tile : Nat) : Bool := (s.sliceOf n).drained && s.leaving n tile

/-- A slice takes new version reservations for a tile: no home change moves the tile, and the slice is not retiring (R212). -/
def State.takesFrames (s : State) (n tile : Nat) : Bool :=
  !(s.leaving n tile) && !(s.homeChanges.any (fun h => h.retire == some (n % 32) && decide (h.die = n / 32)))

/-! ### Version frames (R208, R209) -/

def Slice.frame? (x : Slice) (casting tile : Nat) : Option Frame :=
  x.frames.find? (fun f => f.casting == casting && f.tile == tile)

/-- The version byte a casting holds, if it has written it. -/
def State.versionByte (s : State) (n casting pa : Nat) : Option Byte :=
  match (s.sliceOf n).frame? casting (tileOf pa) with
  | some f => (f.bytes.find? (fun e => e.1 == pa % 256)).map (·.2)
  | none => none

/-- A plain read of a byte by a casting: its own version where it holds the byte, else committed data (R143). -/
def State.plainByte (s : State) (n casting pa : Nat) : Byte := (s.versionByte n casting pa).getD (s.mem.read pa)

/-- A word of a casting's version frame that holds a correctable error is corrected in place, and counted (R337). -/
def State.correctFrame (s : State) (n casting a : Nat) : State :=
  match (s.sliceOf n).frame? casting (tileOf a) with
  | some f =>
    if f.errors.contains (a / 8) then
      (s.countReg (sliceCe n)).modSlice n (fun x => { x with frames := x.frames.map (fun f =>
        if f.casting = casting ∧ f.tile = tileOf a then { f with errors := f.errors.filter (· != a / 8) } else f) })
    else s
  | none => s

/-- A plain write of a byte into a casting's version (R209), between the scrubber's read of the frame's sector and its write (R340). -/
def State.writeVersion (s : State) (n casting pa : Nat) (b : Byte) : State :=
  (s.interveneIn n casting (sectorOf pa)).modSlice n (fun x => { x with frames := x.frames.map (fun f =>
    if f.casting = casting ∧ f.tile = tileOf pa then { f with bytes := FMap.insert (pa % 256) b f.bytes } else f) })

/-! ### Races within a casting (R151, R379) -/

/-- An earlier access recorded in a tag is not ordered before an access of `w` by a casting barrier; in a scratchpad, between
castings of one gang, by a cluster-gang barrier (R379). -/
def Who.unordered (w : Who) (pad : Bool) (r : TagRec) : Bool :=
  r.ladle != w.ladle &&
    (if pad && r.casting != w.casting then decide (w.gangWaited ≤ r.gangArrivals) else decide (w.waited ≤ r.arrivals))

/-- A plain access races with what a tag records. -/
def Tag.races (t : Tag) (w : Who) (pad write : Bool) : Bool :=
  (match t.writer with | some r => w.unordered pad r | none => false)
  || (write && t.readers.any (w.unordered pad))

/-- The record an access leaves. -/
def Who.tagRec (w : Who) : TagRec :=
  { ladle := w.ladle, casting := w.casting, arrivals := w.arrivals, gangArrivals := w.gangArrivals }

/-- A tag after a plain access that does not race. -/
def Tag.record (t : Tag) (w : Who) (write : Bool) : Tag :=
  if write then { writer := some w.tagRec, readers := [] }
  else { t with readers := w.tagRec :: t.readers.filter (fun r => r.ladle != w.ladle) }

def Tag.none : Tag := { writer := Option.none, readers := [] }

/-! ### Races between castings (R376, R378) -/

/-- A stamp is newer than a dispatch number; one that was settled at a horizon its slice has received is 0 (R376). -/
def stampNewer (stamp : Word32) (dispatch : Nat) : Bool := decide (stamp ≠ 0) && modNewer 32 stamp.toNat (dispatch % 2 ^ 32)

/-- The dispatch number of a casting. -/
def State.dispatchNoOf (s : State) (uid : Nat) : Nat := ((s.castings.find? (fun c => c.uid == uid)).map (·.dispatchNo)).getD 0

/-- A sector of a casting's version frame cannot be read (R338). -/
def State.versionLost (s : State) (n casting sector : Nat) : Bool :=
  match (s.sliceOf n).frame? casting (sector / 4) with
  | some f => f.lost.contains sector
  | none => false

/-- A plain access of a byte of a slice races with another live casting (R378). -/
def State.byteRaces (s : State) (n : Nat) (w : Who) (write : Bool) (pa : Nat) : Bool :=
  let others := (s.sliceOf n).frames.filter (fun f => f.tile == tileOf pa && f.casting != w.casting)
  if write then others.any (fun f => f.bytes.any (fun e => e.1 == pa % 256))
  else
    (s.versionByte n w.casting pa).isNone
    && (others.any (fun f => f.declared.getLsbD (pa % 256)) || stampNewer (s.stampOf n (sectorOf pa)) (s.dispatchNoOf w.casting))

/-- A declared byte of the casting's own frame lies in the sector. -/
def Frame.tagsSector (f : Frame) (k : Nat) : Bool := (List.range 64).any (fun i => f.declared.getLsbD (64 * k + i))

/-- The tag of a global sector inside the casting's own write range. -/
def State.ownTag (s : State) (n : Nat) (w : Who) (sector : Nat) : Option Tag :=
  match (s.sliceOf n).frame? w.casting (sector / 4) with
  | some f => if f.tagsSector (sector % 4) then some (FMap.get Tag.none f.tags (sector % 4)) else none
  | none => none

/-- Record a plain access in the tags of the casting's own frame (R379). -/
def State.tagGlobal (s : State) (n : Nat) (w : Who) (write : Bool) (sector : Nat) : State :=
  s.modSlice n (fun x => { x with frames := x.frames.map (fun f =>
    if f.casting = w.casting ∧ f.tile = sector / 4 ∧ f.tagsSector (sector % 4) = true then
      { f with tags := FMap.modify Tag.none f.tags (sector % 4) (fun t => t.record w write) }
    else f) })

end Sys2Proof.Machine
end

