-- ==== Sys2Proof/Machine/Operands.lean ====
section
/-!
DEFINITION. Operand forms of the memory instructions: effective addresses (R51, R122, R137, R148, R215), peer selectors
(R135), the checks of R139 in their order, and the lanes' parts of an access (R138, R142, R257).
-/

namespace Sys2Proof.Machine

/-- Why an access cannot be made as it stands: a casting fault, or a translation its cluster has not cached. -/
inductive Stop where
  | fault (c : Cause)
  | walk (va : Nat) (kind : AccessKind)
  /-- An engine's entry or word waits for what comes first. -/
  | wait
  /-- Some request of an engine's access stands at its arbiter: the state with what the arbiters have granted of it (R150, R182, R278). -/
  | stand (s : State)
  deriving DecidableEq, Repr

/-- The issuing ladle as the maker of an access, at its instruction. -/
def Ladle.who (l : Ladle) : Who where
  ladle := l.uid
  casting := l.casting
  part := l.part
  cluster := l.cluster
  rank := l.rank
  core := l.core
  pc := l.sp.pc
  arrivals := l.arrivals
  waited := l.waited
  gangArrivals := l.gangArrivals
  gangWaited := l.gangWaited

/-- Lanes that make a memory access (R333), and lanes that a load writes: both lanes of a pair in half placement (R336). -/
def Ladle.accessLanes (l : Ladle) (k : BitVec 3) : Word32 := l.programLanes (l.active k)
def Ladle.loadLanes (l : Ladle) (k : BitVec 3) : Word32 :=
  let m := l.accessLanes k
  if l.half then m ||| (m <<< 16) else m

/-- In half placement, the lanes of each accessing pair agree on the registers a store, atomic or `redg` compares (R336). -/
def Ladle.pairsAgree (l : Ladle) (lanes : Word32) (regs : List (BitVec 6)) : Bool :=
  !l.half || (bitsSet lanes 16).all (fun j => regs.all (fun r => laneAt (l.getV r) j == laneAt (l.getV r) (j + 16)))

/-! ### Effective addresses -/

/-- AddressAdd as a signed number (R122). -/
def Ladle.addAsInt (l : Ladle) : Int := l.addressAdd.toInt

/-- The scaled offset of a lane (R51). -/
def scaledOffset (va : Word32) (sc : BitVec 1) (width : Nat) : Nat := va.toNat * (if sc = 1 then width else 1)

/-- A scratchpad or peer address: all 64 bits of base plus offset plus AddressAdd (R51, R122, R137). -/
def Ladle.padAddress (l : Ladle) (base : Word64) (off : Nat) : Word64 := base + BitVec.ofNat 64 off + l.addressAdd

/-- The virtual address of a global access: base bits [56:0] plus an offset, below 2^57, with bits [62:57] of the base
zero (R137, R148, R215). -/
def Ladle.globalAddress (l : Ladle) (base : Word64) (off : Nat) : Except Stop Nat :=
  let va : Int := (bitsOf base 56 0 : Nat) + (off : Int) + l.addAsInt
  if bitsOf base 62 57 ≠ 0 ∨ va < 0 ∨ ((2 ^ 57 : Nat) : Int) ≤ va then .error (.fault .address) else .ok va.toNat

/-- The bypass hint (R137). -/
def bypassHint (base : Word64) : Bool := base.getLsbD 63

/-- The mould of a casting, and the launch arguments of its graph. -/
def State.mouldOf (s : State) (uid : Nat) : Option (Casting × Graph × Mould) :=
  match s.castings.find? (fun c => c.uid == uid) with
  | none => none
  | some c =>
    match s.graphs.find? (fun g => g.uid == c.graph) with
    | none => none
    | some g =>
      match g.moulds[c.mould]? with
      | none => none
      | some m => some (c, g, m)

/-- The cluster gang of a casting: graph, mould and the index bits above field 2; and its field 2 (R17, R20). -/
def State.gangOf (s : State) (uid : Nat) : Option ((Nat × Nat × Nat) × Nat) :=
  match s.mouldOf uid with
  | some (c, g, m) => some ((g.uid, c.mould, c.index / 2 ^ m.w2), c.index % 2 ^ m.w2)
  | none => none

/-- The ladle a peer selector names (R135): the uid of a live ladle with an allocation, or 0 when there is none, which
the request finds at its grant (R13). -/
def State.peerOf (s : State) (l : Ladle) (sel : Word64) : Except Stop Nat :=
  if bitsOf sel 63 42 ≠ 0 ∨ (sel.getLsbD 41 = false ∧ bitsOf sel 40 37 ≠ 0) then .error (.fault .address)
  else
    let mine := s.gangOf l.casting
    let here := fun (x : Ladle) =>
      if sel.getLsbD 41 then
        match mine, s.gangOf x.casting with
        | some a, some b => decide (a.1 = b.1) && decide (b.2 = bitsOf sel 40 37)
        | _, _ => false
      else decide (x.casting = l.casting)
    match s.ladles.find? (fun x => x.live && !x.control && decide (0 < x.pad.size)
        && decide (x.rank = bitsOf sel 36 32) && here x) with
    | some x => .ok x.uid
    | none => .ok 0

/-! ### Declared write ranges (R143, R355) -/

/-- The bytes a range entry declares for casting index `c`. -/
def rangeBytes (args : Vector Word64 8) (c : Nat) (r : Range) : Nat × Nat :=
  let base := (if r.ba then args.get r.baseArg.toFin else 0) + r.base + r.stride * BitVec.ofNat 64 c
  let len := (if r.la then (args.get r.lenArg.toFin).toNat * r.mult.toNat else 0) + r.len.toNat
  (base.toNat, len)

/-- The declared write ranges of a casting: first byte and length. -/
def State.writeRanges (s : State) (uid : Nat) : List (Nat × Nat) :=
  match s.mouldOf uid with
  | some (c, g, m) => m.writes.map (rangeBytes g.args c.index)
  | none => []

/-- A virtual byte lies in a declared write range. -/
def inRanges (rs : List (Nat × Nat)) (va : Nat) : Bool := rs.any (fun r => decide (r.1 ≤ va) && decide (va < r.1 + r.2))

/-! ### Global operands (R138, R139, R142, R257) -/

/-- One lane's target before translation: its first bit and its width in bits, and its operands. -/
structure Target where
  lane : Nat
  bit : Nat
  width : Nat
  x : Word64
  y : Word64
  deriving DecidableEq, Repr

/-- The number of bytes a target touches. -/
def Target.bytes (t : Target) : Nat := (t.bit % 8 + t.width + 7) / 8

/-- A cached translation, or the walk it needs. -/
def State.look (s : State) (w : Who) (va : Nat) (kind : AccessKind) : Except Stop Leaf :=
  match s.cached w.cluster w.part va kind with
  | some l => .ok l
  | none => .error (.walk va kind)

/-- The physical place of a virtual byte, with the leaf it lies under. -/
def State.physical (s : State) (w : Who) (va : Nat) (kind : AccessKind) : Except Stop (Nat × Leaf) :=
  match s.look w va kind with
  | .error e => .error e
  | .ok l => if s.paBad w.part (l.addr va) then .error (.fault .address) else .ok (s.memKey w.part (l.addr va), l)

/-- Run a check over a list, in order, until one stops. DESIGN CHOICE (log 67): where lanes fail different checks of one step of R139, the
first lane that fails decides, and within it the check that stands first. -/
def checkAll (f : α → Except Stop β) : List α → Except Stop (List β)
  | [] => .ok []
  | a :: r =>
    match f a with
    | .error e => .error e
    | .ok b =>
      match checkAll f r with
      | .error e => .error e
      | .ok bs => .ok (b :: bs)

/-- A target with its bytes translated: their places, the first leaf and the last. -/
structure Placed where
  target : Target
  bytes : List Nat
  first : Leaf
  last : Leaf
  deriving DecidableEq, Repr

/-- Translate every byte of a target (R139, step 3). -/
def State.place (s : State) (w : Who) (kind : AccessKind) (t : Target) : Except Stop Placed :=
  match checkAll (fun i => s.physical w (t.bit / 8 + i) kind) (List.range t.bytes) with
  | .error e => .error e
  | .ok bs =>
    match bs.head?, bs.getLast? with
    | some f, some l => .ok { target := t, bytes := bs.map (·.1), first := f.2, last := l.2 }
    | _, _ => .error (.fault .address)

/-- A lane's part of a global access, and whether its page is a replica page. -/
structure GlobalOp where
  op : LaneOp
  rpl : Bool
  deriving DecidableEq, Repr

/-- The format checks of a placed target (R139, step 4): an element has the width of its own page and one descriptor; raw
words need a raw 32-bit or F32 page (R142, R257). Its scale byte is read, or by a drain written, as `scaleKind` says (R248, R259). DESIGN
CHOICE (log 67): the page of the scale byte is translated here, lane by lane among the checks of step 4, and not with step 3. -/
def State.formatOp (s : State) (w : Who) (elem : Bool) (scaleKind : AccessKind) (p : Placed) : Except Stop GlobalOp :=
  let d := s.desc w.part p.first.fmt
  let t := p.target
  let op : LaneOp := { lane := t.lane, bytes := p.bytes, bit := t.bit % 8, width := t.width, desc := p.first.fmt,
                       scale := none, x := t.x, y := t.y }
  if d.malformed false then .error (.fault .format)
  else if !elem then
    if d.fmt ≤ 1 then .ok { op := op, rpl := p.first.rpl } else .error (.fault .format)
  else if fmtBits d.fmt ≠ t.width ∨ p.first.fmt ≠ p.last.fmt then .error (.fault .format)
  else if d.placement = 0 then .ok { op := op, rpl := p.first.rpl }
  else
    match d.scaleAt t.bit with
    | none => .error (.fault .format)
    | some sva =>
      if 2 ^ 57 ≤ sva then .error (.fault .address)
      else
        match s.physical w sva scaleKind with
        | .error e => .error e
        | .ok (pa, leaf) => .ok { op := { op with scale := some pa, scaleRpl := leaf.rpl }, rpl := p.first.rpl }

/-- A plain store reaches HBM of another package: no write range of a dispatched casting does, so it is undeclared (R429). -/
def remoteStore (kind : AccessKind) (pas : List Nat) : Bool := kind == .write && pas.any isRemote

/-- The checks of a global access after its addresses are known: translation of every lane, then format and declared
writes (R139). DESIGN CHOICE (log 67): within step 4 the format checks of all lanes come before the check for undeclared writes of any. -/
def State.globalOps (s : State) (w : Who) (kind : AccessKind) (elem declared : Bool) (ts : List Target) :
    Except Stop (List GlobalOp) :=
  match checkAll (s.place w kind) ts with
  | .error e => .error e
  | .ok ps =>
    match checkAll (s.formatOp w elem .read) ps with
    | .error e => .error e
    | .ok ops =>
      let rs := s.writeRanges w.casting
      if declared && (ts.any (fun t => (List.range t.bytes).any (fun i => !inRanges rs (t.bit / 8 + i))) || ps.any (fun p => remoteStore kind p.bytes))
      then .error (.fault .undeclaredWrite) else .ok ops

/-- Targets of `n` bytes at given virtual addresses, checked for alignment (R138). -/
def byteTarget (n : Nat) (lane va : Nat) (x y : Word64) : Except Stop Target :=
  if va % n = 0 then .ok { lane := lane, bit := 8 * va, width := 8 * n, x := x, y := y } else .error (.fault .alignment)

/-! ### Scratchpad operands -/

/-- The attribute of the page that holds a byte of an allocation (R133). -/
def Pad.attr (p : Pad) (off : Nat) : BitVec 9 := FMap.get 0 p.attrs (off / 4096)

/-- The descriptor index that a page's attribute selects: 0 is the raw descriptor (R256). -/
def attrDesc (a : BitVec 9) : Nat := if a.getLsbD 8 then bitsOf a 7 0 else 0

/-- A scratchpad access of `n` bytes at an offset: bounds, then alignment (R132, R138). -/
def padTarget (size n : Nat) (lane : Nat) (off : Nat) (x y : Word64) : Except Stop LaneOp :=
  if size < off + n then .error (.fault .padBound)
  else if off % n ≠ 0 then .error (.fault .alignment)
  else .ok { lane := lane, bytes := (List.range n).map (off + ·), bit := 0, width := 8 * n, desc := 0, scale := none, x := x, y := y }

/-- A scratchpad element's bounds and alignment (R138, R139 step 2). -/
def elemBounds (size width : Nat) (t : Target) : Except Stop Target :=
  if size < t.bit / 8 + t.bytes then .error (.fault .padBound)
  else if t.bit % width ≠ 0 then .error (.fault .alignment)
  else .ok t

/-- A scratchpad element's format checks, with the descriptor of the page that holds it (R140, R248, R256). -/
def State.padElem (s : State) (part : Nat) (p : Pad) (t : Target) : Except Stop LaneOp :=
  let off := t.bit / 8
  let i := attrDesc (p.attr off)
  let d := s.desc part i
  let op : LaneOp := { lane := t.lane, bytes := (List.range t.bytes).map (off + ·), bit := t.bit % 8, width := t.width,
                       desc := i, scale := none, x := t.x, y := t.y }
  if d.malformed true then .error (.fault .format)
  else if fmtBits d.fmt ≠ t.width ∨ attrDesc (p.attr (off + t.bytes - 1)) ≠ i then .error (.fault .format)
  else if d.placement = 0 then .ok op
  else
    match d.scaleAt t.bit with
    | none => .error (.fault .format)
    | some a => if p.size ≤ a then .error (.fault .padBound) else .ok { op with scale := some a }

end Sys2Proof.Machine
end

