-- ==== Sys2Proof/Machine/Access.lean ====
section
/-!
DEFINITION. Plain, synchronising and atomic accesses at their place of performance (R141 to R146, R150, R206, R389): what the bytes of a
request's lanes are there, the checks they pass, and what loads, stores and atomics do.
-/

namespace Sys2Proof.Machine

/-! ### Reading and writing the bytes of a lane's part -/

/-- The bits a lane's part selects from its bytes, lowest byte first (R5, R243). -/
def opCode (rd : Nat → Byte) (o : LaneOp) : Nat :=
  o.bytes.foldr (fun b acc => (rd b).toNat + 256 * acc) 0 / 2 ^ o.bit % 2 ^ o.width

/-- The bytes of a lane's part with its bits replaced: a store rewrites only its own bits (R142). -/
def opBytes (rd : Nat → Byte) (o : LaneOp) (code : Nat) : List (Nat × Byte) :=
  let old := o.bytes.foldr (fun b acc => (rd b).toNat + 256 * acc) 0
  let new := old - old / 2 ^ o.bit % 2 ^ o.width * 2 ^ o.bit + code % 2 ^ o.width * 2 ^ o.bit
  (o.bytes.zipIdx).map (fun e => (e.1, BitVec.ofNat 8 (new / 256 ^ e.2)))

/-- All bytes of a request's lanes, and its scale bytes. -/
def Req.bytes (r : Req) : List Nat := r.ops.flatMap (·.bytes)
def Req.scales (r : Req) : List Nat := r.ops.filterMap (·.scale)

/-- A scratchpad request (R150). -/
def Place.isPad : Place → Bool
  | .pad _ => true
  | _ => false

/-- A request on slice scratch. -/
def Req.scratch (r : Req) : Bool :=
  match r.place, r.bytes.head? with
  | .slice _, some b => isScratch b
  | _, _ => false

/-- Kinds that are synchronising accesses (R374), and board operations. -/
def ReqKind.sync : ReqKind → Bool
  | .syncLoad => true
  | .syncStore => true
  | .atomic _ _ => true
  | .redg _ _ => true
  | .rwb => true
  | .rinv => true
  | .merge => true
  | .post => true
  | .boardRead => true
  | .waitTest _ => true
  | _ => false

/-! ### Answers -/

/-- Give values to lanes of a pending result, as the answer of request `id`; in half placement a lane's value goes to both lanes of its
pair (R336). -/
def Ladle.fill (l : Ladle) (pend id : Nat) (vals : List (Nat × Word64)) : Ladle :=
  let vals := if l.half then vals ++ vals.map (fun e => (e.1 + 16, e.2)) else vals
  { l with pend := l.pend.map (fun p =>
      if p.id = pend then
        { p with vals := vals.foldl (fun v e => v.set e.1 e.2) p.vals, missing := p.missing - 1,
                 back := if p.globalLoad then p.back ++ [id] else p.back }
      else p) }

/-- The slice a request is performed in, if any. -/
def Place.slice? : Place → Option Nat
  | .slice n => some n
  | _ => none

/-- A request's answer: now, or where a realignment holds it (R230). -/
def State.answer (s : State) (r : Req) (vals : List (Nat × Word64)) : State :=
  match r.pend with
  | some p =>
    if r.late ≠ [] then { s with returning := s.returning ++ [(r.place.slice?.getD 0, r, vals)] }
    else s.modLadle r.who.ladle (fun l => l.fill p r.id vals)
  | none => s

/-- A fault of a request raised at its slot. -/
def State.faultNow (s : State) (r : Req) (c : Cause) : State := s.raiseFor r.who.casting r.who.rank r.who.cluster r.who.core c r.who.pc

/-- A fault found at a slot or grant (R13, R380): a long instruction takes it at its landing point (R61), any other
request raises it now. -/
def State.slotFault (s : State) (r : Req) (c : Cause) : State :=
  match r.pend with
  | some i => s.modLadle r.who.ladle (fun l => { l with pend := l.pend.map (fun p =>
      if p.id = i then { p with fault := some (p.fault.getD c), missing := p.missing - 1 } else p) })
  | none => s.faultNow r c

/-! ### Where a byte is accessed -/

/-- A place of performance, and whether it is a replica tile's. -/
abbrev Loc := Place × Bool

/-- The place where an access of a die to a global byte is performed (R193, R205, R206, R415): `plain` accesses of the other die to a page
with the replica attribute, `rpl`, go to the replica. -/
def State.placeOf (s : State) (die pa : Nat) (rpl plain : Bool) : Loc :=
  if isRemote pa then (.remote (remotePkg pa), false)
  else if isHost pa then (.host (spaceOf pa - 2), false)
  else if isScratch pa then (.slice (32 * scratchDie pa + scratchSlice pa), false)
  else if rpl && plain && dieOf pa != die then (.slice (s.replicaSlice pa die), true)
  else (.slice (s.homeOf pa), false)

/-- The place of a byte of a request: the request's own, or that of the neighbouring tile into which a lane's bytes go on (R141). -/
def State.byteLoc (s : State) (r : Req) (a : Nat) : Loc :=
  match r.place with
  | .slice _ =>
    if tileOf a = r.tile ∨ isScratch a = true then (r.place, r.replica) else s.placeOf (r.who.cluster / 32) a r.rpl (!r.kind.sync)
  | _ => (r.place, r.replica)

/-- The place of a lane's scale byte: a byte of the same allocation, or a plain access to its own page (R248, R374). -/
def State.scaleLoc (s : State) (r : Req) (o : LaneOp) (a : Nat) : Loc :=
  match r.place with
  | .pad _ => (r.place, false)
  | _ => s.placeOf (r.who.cluster / 32) a o.scaleRpl true

/-! ### Views of memory -/

/-- A replica tile of a slice (R206). -/
def Slice.replica? (x : Slice) (tile : Nat) : Option Replica := x.replicas.find? (fun q => q.tile == tile)

/-- A byte as a plain access of a casting sees it at a place (R143, R206). -/
def State.byteAt (s : State) (l : Loc) (casting a : Nat) : Byte :=
  match l.1 with
  | .pad u => match s.ladle? u with | some t => t.pad.bytes.read a | none => 0
  | .slice n =>
    if isScratch a then s.mem.read a
    else if l.2 then
      match (s.sliceOf n).replica? (tileOf a) with
      | some q => q.bytes.getD (a % 256) 0
      | none => s.mem.read a
    else s.plainByte n casting a
  | _ => s.mem.read a

/-- A byte as a request sees it, and a lane's scale byte: raw, with no regard to its own page's format. -/
def State.viewByte (s : State) (r : Req) (a : Nat) : Byte := s.byteAt (s.byteLoc r a) r.who.casting a
def State.scaleView (s : State) (r : Req) (o : LaneOp) (a : Nat) : Byte := s.byteAt (s.scaleLoc r o a) r.who.casting a

/-- A byte written into a replica tile. -/
def Replica.put (q : Replica) (i : Nat) (b : Byte) : Replica :=
  { q with bytes := q.bytes.set i b, dirty := q.dirty ||| BitVec.ofNat 256 (2 ^ i) }

/-- A slice holds the replica tile of a tile. -/
def State.hasReplica (s : State) (n tile : Nat) : Bool := ((s.sliceOf n).replica? tile).isSome

/-- Write a byte as a plain store of a request does, before any watch looks at it. A store to a replica page that makes no replica tile writes
the home (R203, R206). -/
def State.storeByte (s : State) (r : Req) (a : Nat) (b : Byte) : State :=
  let l := s.byteLoc r a
  match l.1 with
  | .pad u => s.modLadle u (fun t => { t with pad := { t.pad with bytes := t.pad.bytes.write a b } })
  | .slice n =>
    if isScratch a then { s.intervene n (sectorOf a) with mem := s.mem.write a b }
    else if l.2 then
      if s.hasReplica n (tileOf a) then
        (s.intervene n (sectorOf a)).modSlice n (fun x => { x with replicas := x.replicas.map (fun q => if q.tile = tileOf a then q.put (a % 256) b else q) })
      else s.putBytes [(a, b)]
    else s.writeVersion n r.who.casting a b
  | _ => { s with mem := s.mem.write a b }

/-! ### Checks at the place of performance -/

/-- A byte or a sector that an access touches, with its place, and whether it writes it. -/
abbrev Touched := Loc × Nat × Bool

/-- The bytes that a plain access of a request touches: its lanes', and, as reads, their scale bytes (R374). -/
def State.touches (s : State) (r : Req) (write : Bool) : List Touched :=
  r.ops.flatMap (fun o =>
    o.bytes.map (fun a => (s.byteLoc r a, a, write)) ++ (o.scale.map (fun a => (s.scaleLoc r o a, a, false))).toList)

/-- The sectors of touched bytes. -/
def touchedSectors (ts : List Touched) : List Touched := (ts.map (fun e => (e.1, sectorOf e.2.1, e.2.2))).eraseDups

/-- A plain access of a byte races with another casting (R378). Replica, slice-scratch and host accesses are not checked so (R374). -/
def State.versionRaces (s : State) (w : Who) (e : Touched) : Bool :=
  match e.1.1 with
  | .slice n => !isScratch e.2.1 && !e.1.2 && s.byteRaces n w e.2.2 e.2.1
  | _ => false

/-- A plain access of a sector races with what the sector's tag records (R151, R379). DESIGN CHOICE (log 93): in slice scratch what a casting
that has ended has left in a tag counts too, until the way leaves the scratch (R205). -/
def State.tagRaces (s : State) (w : Who) (e : Touched) : Bool :=
  match e.1.1 with
  | .pad u => match s.ladle? u with | some l => (FMap.get Tag.none l.pad.tags e.2.1).races w true e.2.2 | none => false
  | .slice n =>
    if isScratch (64 * e.2.1) then (FMap.get Tag.none s.scratchTags e.2.1).races w false e.2.2
    else if e.1.2 then false
    else match s.ownTag n w e.2.1 with | some t => t.races w false e.2.2 | none => false
  | _ => false

/-- The plain access of a request races (R151, R378, R379). -/
def State.requestRaces (s : State) (r : Req) (write : Bool) : Bool :=
  (s.touches r write).any (s.versionRaces r.who) || (touchedSectors (s.touches r write)).any (s.tagRaces r.who)

/-- Record a plain access of a sector in its tag (R151, R379). -/
def State.tagSector (s : State) (w : Who) (e : Touched) : State :=
  match e.1.1 with
  | .pad u => s.modLadle u (fun l =>
      { l with pad := { l.pad with tags := FMap.modify Tag.none l.pad.tags e.2.1 (fun t => t.record w e.2.2) } })
  | .slice n =>
    if isScratch (64 * e.2.1) then { s with scratchTags := FMap.modify Tag.none s.scratchTags e.2.1 (fun t => t.record w e.2.2) }
    else if e.1.2 then s
    else s.tagGlobal n w e.2.2 e.2.1
  | _ => s

def State.requestTags (s : State) (r : Req) (write : Bool) : State :=
  (touchedSectors (s.touches r write)).foldl (fun t e => t.tagSector r.who e) s

/-- A sector at a place is poisoned (R338): the mark of a home sector comes with a replica's copy of it. -/
def State.poisonedAt (s : State) (e : Touched) : Bool :=
  match e.1.1 with
  | .slice n =>
    if e.1.2 then
      match (s.sliceOf n).replica? (e.2.1 / 4) with
      | some q => q.poison.contains e.2.1
      | none => (s.sliceOf (s.homeOf (64 * e.2.1))).poison.contains e.2.1
    else (s.sliceOf n).poison.contains e.2.1
  | _ => false

/-- A sector of a casting's own version frame at a place cannot be read. -/
def State.lostAt (s : State) (casting : Nat) (e : Touched) : Bool :=
  match e.1 with
  | (.slice n, false) => s.versionLost n casting e.2.1
  | _ => false

/-- A sector that an access of a request reads is poisoned, or in a plain read that of its casting's frame is: a store reads its scale bytes
alone. -/
def State.requestPoisoned (s : State) (r : Req) (write : Bool) : Bool :=
  (touchedSectors ((s.touches r write).filter (fun e => !e.2.2))).any (fun e => s.poisonedAt e || (!r.kind.sync && s.lostAt r.who.casting e))

/-- The target of a scratchpad request is a live ladle with an allocation (R13, R135). -/
def State.targetGone (s : State) (r : Req) : Bool :=
  match r.place with
  | .pad u => match s.ladle? u with | some l => !l.live || decide (l.pad.size = 0) | none => true
  | _ => false

/-- A peer request names a byte past its target's allocation (R135). -/
def State.offTarget (s : State) (r : Req) : Bool :=
  r.peer.isSome &&
  (match r.place with
   | .pad u => match s.ladle? u with | some l => r.bytes.any (fun a => decide (l.pad.size ≤ a)) | none => false
   | _ => false)

/-- What a plain access of a request finds wrong at its grant or slot, in the order of the checks. -/
def State.slotCheck (s : State) (r : Req) (write : Bool) : Option Cause :=
  if s.targetGone r then some .peerGone
  else if s.offTarget r then some .padBound
  else if s.requestRaces r write then some .memoryOrder
  else if s.requestPoisoned r write then some .uncorrectable
  else none

/-! ### Use of a tile (R180, R206) -/

/-- A slice has a replica tile: one it has not is a copy of the committed home tile, with nothing dirty and with the home's poison marks
(R206, R338). -/
def State.fetchReplica (s : State) (n tile : Nat) : State :=
  if ((s.sliceOf n).replica? tile).isNone then
    (s.correctBytes ((List.range 256).map (256 * tile + ·))).modSlice n (fun x => { x with replicas := x.replicas ++ [{
      tile := tile, bytes := s.mem.readBytes (256 * tile) 256, dirty := 0,
      poison := (s.sliceOf (s.homeOf (256 * tile))).poison.filter (fun k => k / 4 == tile) }] })
  else s

/-- An access to a replica page that finds no replica tile goes on to the home, where it takes a slot through the die-link port and, for a tile
that is not resident there, a miss register; unless it promotes nothing, it makes the replica tile of what it finds (R182, R203, R206).
DEDUCED (log 95): both slots are taken in one step, and the copy promotes nothing at the home. -/
def State.homeTrip (s : State) (n part : Nat) (bypass : Bool) (tile : Nat) : State :=
  if s.hasReplica n tile then s
  else
    let home := s.homeOf (256 * tile)
    let t := (s.portGranted home diePort).useMiss home tile
    if !bypass && t.promotes n part then t.fetchReplica n tile else t

/-- A request uses a tile at a place: a promotion, which makes the replica tile that is not there (R146, R180, R203, R206). -/
def State.useTile (s : State) (part : Nat) (bypass : Bool) (l : Loc) (tile : Nat) : State :=
  match l.1 with
  | .slice n =>
    if isScratch (256 * tile) then s
    else
      let t := s.waitFront n tile part bypass
      (if l.2 then t.homeTrip n part bypass tile else t).promote n tile part bypass
  | _ => s

/-- The tiles of a request's scale bytes, with their places. -/
def State.scaleTiles (s : State) (r : Req) : List (Loc × Nat) :=
  (r.ops.flatMap (fun o => (o.scale.map (fun a => (s.scaleLoc r o a, tileOf a))).toList)).eraseDups

/-- A plain access of a byte at a place meets the word that the place's rings hold: not where the casting's own version frame alone is read or
written (R209). -/
def State.meetsWord (s : State) (casting : Nat) (e : Touched) : Bool :=
  match e.1 with
  | (.slice n, false) => isScratch e.2.1 || (!e.2.2 && (s.versionByte n casting e.2.1).isNone)
  | (.slice _, true) => true
  | _ => false

/-- A store reads a byte of which it writes some bits only. -/
def LaneOp.partial_ (o : LaneOp) : Bool := decide (o.width ≠ 0) && (decide (o.width % 8 ≠ 0) || decide (o.bit ≠ 0))

/-- The bytes a request writes without reading them. -/
def Req.overwrites (r : Req) (a : Nat) : Bool :=
  (match r.kind with | .store _ => true | _ => false) && r.ops.any (fun o => o.bytes.contains a && !o.partial_)

/-- The words that a request meets, committed or of its casting's version, are corrected where they hold an error (R337). -/
def State.requestCorrects (s : State) (r : Req) : State :=
  if s.noErrors then s
  else (s.touches r false).foldl (fun t e =>
    match e.1.1 with
    | .slice n =>
      if r.kind.sync || t.meetsWord r.who.casting (e.1, e.2.1, r.overwrites e.2.1) then t.correct n e.2.1 else t.correctFrame n r.who.casting e.2.1
    | _ => t) s

/-- The promotions of a request at its slot: its tile, and its scale bytes' tiles; and the corrections it makes there. -/
def State.requestPromotes (s : State) (r : Req) : State :=
  ((s.scaleTiles r).foldl (fun t e => t.useTile r.who.part r.bypass e.1 e.2) (s.requestCorrects r)).useTile r.who.part r.bypass
    (r.place, r.replica) r.tile

/-- The effects of a plain access on the store and the tags. -/
def State.accessed (s : State) (r : Req) (write : Bool) : State := (s.requestPromotes r).requestTags r write

/-! ### Amax slots (R264, R265) -/

/-- Fold a magnitude into an amax slot of a partition. -/
def State.foldAmax (s : State) (part slot : Nat) (x : Word32) : State :=
  let a := x &&& 0x7fffffff#32
  { s with amax := FMap.modify 0 s.amax (part * 128 + slot) (fun m =>
      if f32IsNan m || f32IsNan a then nan32 else if f32Key m < f32Key a then a else m) }

/-- A fold on its way to its slot, in its store's place in the order: at once where nothing stands in its way at the service port of the slot's
home (R182), else as a request of its own (R265, R266). -/
def State.sendFold (s : State) (r : Req) (slot : Nat) (o : LaneOp) : State :=
  if s.quiet then (s.portGranted (s.homeOfAmax (slot % 128)) servicePort).foldAmax r.who.part slot (o.x.setWidth 32)
  else
    { s with
      requests := s.requests ++ [{ r with
        id := s.nextReq, kind := .fold, place := .amax (r.who.part * 128 + slot), replica := false, pend := none, ops := [o],
        held := false, peer := none, arrived := none, overdue := false, late := [], unit := none, undo := [] }],
      nextReq := s.nextReq + 1 }

/-! ### Waits on scratchpad words (R280, R397) -/

/-- Conditions of chain entries (R279). -/
def chainCond (c : Nat) (x y : Word32) : Bool :=
  match c with
  | 0 => x == y
  | 1 => x != y
  | 2 => decide (x.toNat < y.toNat)
  | _ => decide (y.toNat ≤ x.toNat)

/-- The allocation of a place, or 0 for global memory. -/
def Place.padUid : Place → Nat
  | .pad u => u
  | _ => 0

/-- A store of a casting comes after the drains whose bytes it overwrites: a matrix read of those bytes sees it (R275). In HBM the bytes are
those of the casting's own version. -/
def State.forgetOlds (s : State) (casting : Nat) (p : Place) (as : List Nat) : State :=
  if s.matrix.all (fun e => e.2.olds.isEmpty) then s
  else
    let own := fun (x : Nat) => s.ladles.any (fun l => l.live && decide (l.core = 4) && decide (l.cluster = x) && decide (l.casting = casting))
    { s with matrix := s.matrix.map (fun e => (e.1, { e.2 with olds := e.2.olds.filter (fun o =>
        !(o.2.1 == p.padUid && as.contains o.2.2.1 && (p.isPad || !isHbm o.2.2.1 || own e.1))) })) }

/-- A scratchpad word, when its allocation is still there. -/
def State.padWord (s : State) (uid off : Nat) : Option Word32 :=
  match s.ladle? uid with
  | some l => if l.live && decide (0 < l.pad.size) then some (l.pad.bytes.read32 off) else none
  | none => none

/-- A split of a ladle that waits on a word of allocation `u` and has made its own test watches the word, and its condition is met. -/
def State.padMet (s : State) (l : Ladle) (u : Nat) (x : Split) : Bool :=
  match x.blocked with
  | .waitaPad p off old _ =>
    decide (p = u) && !s.testing l.uid x.pc && (match s.padWord u off with | some v => waitaMeets old v | none => false)
  | _ => false

/-- A `waita` on a scratchpad word has its value. -/
def State.takePad (s : State) (x : Split) : Split :=
  match x.blocked with
  | .waitaPad u off _ sd => { x with blocked := .waitaMet ((s.padWord u off).getD 0) sd }
  | _ => x

/-- The chains whose WAITW names a word of an allocation look at it: one whose condition is met has ended its wait. -/
def State.chainMet (s : State) (u : Nat) (c : Chain) : Chain :=
  match c.watch with
  | some (p, off, cond, v) =>
    if p = u ∧ c.waiting = true ∧ (match s.padWord u off with | some w => chainCond cond w v | none => false) = true then { c with met := true } else c
  | none => c

/-- The waits on the words of a place's allocation look at them, once for the access that has written there: a write that meets one ends it,
whatever is written next (R44, R280, R397). -/
def State.padWritten (s : State) (p : Place) : State :=
  match p with
  | .pad u =>
    { s.mapLadles (fun l => l.live && l.allSplits.any (s.padMet l u)) (fun l => l.mapSplits (s.padMet l u) s.takePad) with
      chains := s.chains.map (fun (e : Nat × List Chain) => (e.1, e.2.map (s.chainMet u))) }
  | _ => s

/-- A sector whose 64 bytes a plain store of a casting has written at a place can be read again (R338): in slice scratch, in a replica or the
home that a store to a replica page has written, or in the casting's version frame. -/
def State.restoreSector (s : State) (casting : Nat) (l : Loc) (k : Nat) : State :=
  match l.1 with
  | .slice n =>
    if isScratch (64 * k) then s.modSlice n (fun x => { x with poison := x.poison.filter (· != k) })
    else if l.2 && !s.hasReplica n (k / 4) then s.modSlice (s.homeOf (64 * k)) (fun x => { x with poison := x.poison.filter (· != k) })
    else if l.2 then
      s.modSlice n (fun x => { x with replicas := x.replicas.map (fun q =>
        if q.tile = k / 4 then { q with poison := q.poison.filter (· != k) } else q) })
    else
      s.modSlice n (fun x => { x with frames := x.frames.map (fun f =>
        if f.casting = casting ∧ f.tile = k / 4 then { f with lost := f.lost.filter (· != k) } else f) })
  | _ => s

/-- The bytes that a plain store writes whole. -/
def Req.wholeBytes (r : Req) : List Nat := (r.ops.filter (fun o => o.width != 0 && !o.partial_)).flatMap (·.bytes)

/-- The sectors that a plain store has written as a whole. -/
def State.restoreSectors (s : State) (r : Req) : State :=
  ((sectorsOf r.wholeBytes).filter (fun k => wholeSector k r.wholeBytes)).foldl (fun t k => t.restoreSector r.who.casting (t.byteLoc r (64 * k)) k) s

/-- The parts of a request's scratchpad access that wait for their grants. -/
def Req.sameAccess (r q : Req) : Bool :=
  r.place.isPad && q.place.isPad && decide (q.who.ladle = r.who.ladle) && decide (q.order = r.order) && decide (q.kind = r.kind)
  && decide (q.unit = r.unit)

/-- Bytes of an allocation that something has written since a part of another access wrote them are not taken back with that part (R380). -/
def Undone.keep (u : Undone) (pad : Nat) (as : List Nat) : Undone :=
  if u.pad = pad then { u with bytes := u.bytes.filter (fun e => !as.contains e.1) } else u

/-- A request has written its bytes of an allocation. -/
def State.keepWritten (s : State) (r : Req) : State :=
  match r.place with
  | .pad u =>
    if s.requests.all (fun q => q.undo.isEmpty) then s
    else { s with requests := s.requests.map (fun q => if r.sameAccess q then q else { q with undo := q.undo.map (fun x => x.keep u r.bytes) }) }
  | _ => s

/-- A byte that a plain store of a request has written has gone to its home: slice scratch, or a replica page without its replica tile. -/
def State.atHome (s : State) (r : Req) (a : Nat) : Bool :=
  match s.byteLoc r a with
  | (.slice n, rpl) => isScratch a || (rpl && !s.hasReplica n (tileOf a))
  | _ => false

/-- After a plain store: what stood before it where drains wrote, sectors that can be read again, and the waits on the words that it has
written, on a scratchpad, in slice scratch and at a home (R338, R397, R398). -/
def State.written (s : State) (r : Req) : State :=
  let t := s.forgetOlds r.who.casting r.place r.bytes
  if r.place.isPad then (t.keepWritten r).padWritten r.place
  else (t.restoreSectors r).watchBytes (r.bytes.filter (t.atHome r))

/-! ### Plain loads and stores (R140, R142, R143) -/

/-- The lanes whose data a request moves: a lane that goes on from the tile before moves them with that tile (R138, R141). -/
def Req.movers (r : Req) : List LaneOp := r.ops.filter (fun o => o.width != 0)

/-- What a load of a lane's part gives: raw bits, or the element through its descriptor. -/
def State.loadValue (s : State) (r : Req) (elem : Bool) (o : LaneOp) : Word64 :=
  let code := opCode (s.viewByte r) o
  if elem then
    let d := s.desc r.who.part o.desc
    (loadElem d.fmt (s.bookEntry r.who.part d.codebook) (o.scale.map (fun a => (s.scaleView r o a).toNat)) code).setWidth 64
  else BitVec.ofNat 64 code

/-! ### A scratchpad access of several grants (R150, R380) -/

/-- What a part of a scratchpad access is about to change: the bytes it writes and the tags of its sectors. -/
def State.undoneBy (s : State) (r : Req) (write : Bool) : Option Undone :=
  match r.place with
  | .pad u =>
    (s.ladle? u).map (fun l => {
      pad := u, ladle := r.who.ladle, write := write,
      bytes := if write then r.bytes.map (fun a => (a, l.pad.bytes.read a)) else [],
      tags := (touchedSectors (s.touches r write)).map (fun e => (e.2.1, FMap.get Tag.none l.pad.tags e.2.1)) })
  | _ => none

/-- The parts that still wait know what the parts before them have done. -/
def State.noteParts (s t : State) (r : Req) (write : Bool) : State :=
  if t.requests.any r.sameAccess then
    match s.undoneBy r write with
    | some u => { t with requests := t.requests.map (fun q => if r.sameAccess q then { q with undo := u :: r.undo } else q) }
    | none => t
  else t

/-- A tag as it was before an access of a ladle: a write's tag comes back whole, a read's record of that ladle alone. -/
def Undone.tag (u : Undone) (old now : Tag) : Tag :=
  if u.write then old
  else { now with readers := old.readers.filter (fun x => x.ladle == u.ladle) ++ now.readers.filter (fun x => x.ladle != u.ladle) }

/-- Take back what one part of an access has done, where nothing else has written since. -/
def State.takeBack (s : State) (u : Undone) : State :=
  s.modLadle u.pad (fun l => { l with pad := { l.pad with
    bytes := u.bytes.foldl (fun m e => m.write e.1 e.2) l.pad.bytes,
    tags := u.tags.foldl (fun m e => FMap.modify Tag.none m e.1 (u.tag e.2)) l.pad.tags } })

/-- A fold that a part of a request's scratchpad access has sent. -/
def Req.ownFold (r q : Req) : Bool :=
  r.place.isPad && decide (q.kind = .fold) && decide (q.who.ladle = r.who.ladle) && decide (q.order = r.order)

/-- An access that faults at one of its grants is performed in no byte and changes no tag: what its other parts have done is taken back, and
those that wait, and the folds, are not performed (R265, R380). -/
def State.accessFault (s : State) (r : Req) (c : Cause) : State :=
  let others := s.requests.filter r.sameAccess
  let t := r.undo.foldl State.takeBack { s with requests := s.requests.filter (fun q => !r.sameAccess q && !r.ownFold q) }
  let t := match r.pend with
    | some i => t.modLadle r.who.ladle (fun l => { l with pend := l.pend.map (fun (p : Pending) =>
        if p.id = i then { p with missing := p.missing - others.length } else p) })
    | none => t
  t.slotFault r c

/-- A plain load at its place of performance. -/
def State.performLoad (s : State) (r : Req) (elem : Bool) : State :=
  match s.slotCheck r false with
  | some c => s.accessFault r c
  | none =>
    let t := s.noteParts (s.accessed r false) r false
    t.answer r (r.movers.map (fun o => (o.lane, t.loadValue r elem o)))

/-- The code a store writes for a lane's part. -/
def State.storeCode (s : State) (r : Req) (elem : Bool) (o : LaneOp) : Nat :=
  if elem then
    let d := s.desc r.who.part o.desc
    storeElem d.fmt (s.bookEntry r.who.part d.codebook) (o.scale.map (fun a => (s.scaleView r o a).toNat)) (o.x.setWidth 32)
  else o.x.toNat

/-- One lane of a store. A store through a descriptor with AE = 1 folds its value (R265). -/
def State.storeOp (s : State) (r : Req) (elem : Bool) (o : LaneOp) : State :=
  let t := (opBytes (s.viewByte r) o (s.storeCode r elem o)).foldl (fun t e => t.storeByte r e.1 e.2) s
  let d := s.desc r.who.part o.desc
  if elem && d.ae then t.sendFold r d.slot o else t

/-- A plain store at its place of performance: lanes in increasing order, a later lane's bytes win. -/
def State.performStore (s : State) (r : Req) (elem : Bool) : State :=
  match s.slotCheck r true with
  | some c => s.accessFault r c
  | none => (r.movers.foldl (fun t o => t.storeOp r elem o) (s.noteParts (s.accessed r true) r true)).written r

/-! ### Synchronising accesses and atomics (R145, R389) -/

/-- Apply(aop, old, x, y) of R389: the word forms, and the bit forms of `atomb`. -/
def applyAtomic (bitForm : Bool) (aop : BitVec 3) (old x y : Word32) : Word32 :=
  if bitForm then
    match aop.toNat with
    | 0 => old &&& x
    | 1 => old ||| x
    | 2 => old ^^^ x
    | _ => if x.toNat ≤ old.toNat then 0 else old + 1
  else
    match aop.toNat with
    | 0 => old + x
    | 1 => (addF32 .ne old x).1
    | 2 => if old.toInt ≤ x.toInt then old else x
    | 3 => if x.toInt ≤ old.toInt then old else x
    | 4 => if old.toNat ≤ x.toNat then old else x
    | 5 => if x.toNat ≤ old.toNat then old else x
    | 6 => x
    | _ => if old = x then y else old

/-- Committed bytes of a request: memory, or the target's scratchpad for `atoms`. -/
def State.committedByte (s : State) (r : Req) (a : Nat) : Byte :=
  match r.place with
  | .pad u => match s.ladle? u with | some l => l.pad.bytes.read a | none => 0
  | _ => s.mem.read a

/-- Write committed bytes of a request, before any watch looks at them. -/
def State.putOp (s : State) (r : Req) (bs : List (Nat × Byte)) : State :=
  match r.place with
  | .pad u => s.modLadle u (fun l => { l with pad := { l.pad with bytes := bs.foldl (fun m e => m.write e.1 e.2) l.pad.bytes } })
  | _ => s.putBytes bs

/-- The waits look at what a request has written, once for its slot or grant (R389, R397, R398). -/
def State.watchOp (s : State) (r : Req) : State :=
  match r.place with
  | .pad _ => ((s.forgetOlds r.who.casting r.place r.bytes).keepWritten r).padWritten r.place
  | _ => s.watchBytes r.bytes

/-- One lane of an atomic: the state after it and the old word. -/
def State.atomicOp (s : State) (r : Req) (bitForm : Bool) (aop : BitVec 3) (o : LaneOp) : State × Word32 :=
  let old := BitVec.ofNat 32 (opCode (s.committedByte r) o)
  let new := applyAtomic bitForm aop old (o.x.setWidth 32) (o.y.setWidth 32)
  (s.putOp r (opBytes (s.committedByte r) o new.toNat), old)

/-- The lanes of an atomic, one after another, with the old words they return. -/
def State.atomicOps (s : State) (r : Req) (bitForm : Bool) (aop : BitVec 3) : List LaneOp → State × List (Nat × Word64)
  | [] => (s, [])
  | o :: os =>
    let a := s.atomicOp r bitForm aop o
    let b := State.atomicOps a.1 r bitForm aop os
    (b.1, (o.lane, a.2.setWidth 64) :: b.2)

/-- An atomic at its slot or grant: one event for every observer. -/
def State.performAtomic (s : State) (r : Req) (bitForm : Bool) (aop : BitVec 3) : State :=
  if s.targetGone r then s.slotFault r .peerGone
  else if s.offTarget r then s.slotFault r .padBound
  else if s.requestPoisoned r false then s.slotFault r .uncorrectable
  else
    let t := (s.requestPromotes r).atomicOps r bitForm aop r.ops
    (t.1.watchOp r).answer r t.2

/-- A synchronising load at its slot: committed memory (R145). -/
def State.performSyncLoad (s : State) (r : Req) : State :=
  if s.requestPoisoned r false then s.slotFault r .uncorrectable
  else
    let t := s.requestPromotes r
    t.answer r (r.ops.map (fun o => (o.lane, BitVec.ofNat 64 (opCode t.mem.read o))))

/-- A synchronising store at its slot: committed memory at once, all lanes in one access, a later lane's bytes win (R145). -/
def State.performSyncStore (s : State) (r : Req) : State :=
  let t := s.requestPromotes r
  (t.putBytes (r.ops.flatMap (fun o => opBytes t.mem.read o o.x.toNat))).watchBytes r.bytes

/-- The first test of a `waita` at its slot or grant: its split has its value, at once or where a realignment ends (R230), or watches the
word (R397, R398); a target that is gone is judged here (R13). Host memory keeps no watch. -/
def State.performWaitTest (s : State) (r : Req) (old : Option Word32) : State :=
  let pa := r.bytes.headD 0
  match r.place with
  | .pad u =>
    if s.targetGone r then s.faultNow r .peerGone
    else if s.offTarget r then s.faultNow r .padBound
    else s.modLadle r.who.ladle (fun l => l.mapSplits (fun x => x.pc == r.who.pc && s.padMet l u x) s.takePad)
  | _ =>
    if s.requestPoisoned r false then s.faultNow r .uncorrectable
    else
      let t := s.requestPromotes r
      let v := t.mem.read32 pa
      if waitaMeets old v then
        if r.late ≠ [] then { t with returning := t.returning ++ [(r.place.slice?.getD 0, r, [(0, v.setWidth 64)])] }
        else t.wakeTester r.who pa old v
      else match r.place with | .slice n => if r.who.casting = 0 then t else t.watch n r.who.ladle pa old | _ => t

end Sys2Proof.Machine
end

