-- ==== Sys2Proof/Machine/Effects.lean ====
section
/-!
DEFINITION. What the other kinds of request do at their point of performance (R383): reductions at memory (R392 to R395), the instructions
on distance (R178, R217 to R222), board operations (R345 to R350) and amax slots (R241, R265).
-/

namespace Sys2Proof.Machine

/-! ### Reductions at memory (R392 to R395) -/

/-- Apply(m, x) of R392, on the target's value. -/
def applyRedg (aop : BitVec 3) (m x : Word64) : Word64 :=
  match aop.toNat with
  | 0 => ((addF32 .ne (m.setWidth 32) (x.setWidth 32)).1).setWidth 64
  | 1 => ((minMaxF32 true false (m.setWidth 32) (x.setWidth 32)).1).setWidth 64
  | 2 => (m.setWidth 32 + x.setWidth 32 : Word32).setWidth 64
  | _ => BitVec.ofNat 64 (fop f64 .add .ne m.toNat x.toNat 0).1

/-- Bytes of a target of `redg` (R392). -/
def redgBytes (aop : BitVec 3) : Nat := if aop = 3 then 8 else 4

/-- The home slice, within its die, of a tile of another package at a byte's address (R184, R195): that package's configuration names it. -/
def remoteSlice (p pa : Nat) : Nat := Sys2Proof.Config.remoteHome p (remoteAddr pa / 256 * 256) % 32

/-- The slice that keeps the cursors and the buffer of a target: its home, or a home on another package, numbered after the 64 slices of
this one: on the die that the address names, and there the slice that that package's configuration names. -/
def State.redgSlice (r : Req) : Nat :=
  match r.place with
  | .slice n => n
  | .remote p => 64 + 64 * p + 32 * dieOf (remoteAddr (r.bytes.headD 0)) + remoteSlice p (r.bytes.headD 0)
  | _ => 64

/-- Apply the buffered contributions of a stream from its cursor on, at most `fuel` of them, before any watch looks (R394). -/
def State.drainStream (s : State) (n target : Nat) : Nat → State
  | 0 => s
  | fuel + 1 =>
    let x := s.sliceOf n
    let cur := FMap.get 0 x.cursors target - 1
    match x.buffer.find? (fun c => c.target == target && c.seq == cur) with
    | none => s
    | some c =>
      let w := redgBytes c.op
      let t := s.putBytes (wordBytes target w (applyRedg c.op (BitVec.ofNat 64 (s.mem.readN target w)) c.x).toNat)
      let t := t.modSlice n (fun x => { x with
        buffer := x.buffer.erase c,
        cursors := FMap.set 0 x.cursors target (if c.last then 0 else (cur + 1) % 2 ^ 31 + 1) })
      if c.last then t else t.drainStream n target fuel

/-- What a home does with a contribution (R394). -/
inductive RedgFate where
  | raise | holdBack | accept
  deriving DecidableEq, Repr

/-- The cursors with one for a target: a new one starts at 0, while the table of 1,024 has room. They are kept as next + 1, 0 meaning
none. -/
def Slice.openCursor (x : Slice) (target : Nat) : Slice :=
  if FMap.get 0 x.cursors target = 0 ∧ x.cursors.length < 1024 then { x with cursors := FMap.set 0 x.cursors target 1 } else x

/-- The home's test of a contribution with sequence number `seq`. -/
def Slice.redgFate (x : Slice) (target seq : Nat) : RedgFate :=
  let cur := FMap.get 0 (x.openCursor target).cursors target
  let d := (seq + 2 ^ 31 - (cur - 1)) % 2 ^ 31
  let mine := x.buffer.filter (fun c => c.target == target)
  if 2 ^ 30 ≤ d || mine.any (fun c => c.seq == seq) || mine.any (fun c => c.last && decide (c.seq < seq)) then .raise
  else if 256 ≤ d || 256 ≤ x.buffer.length || cur = 0 then .holdBack
  else .accept

/-- The sequence number and the last mark of a contribution's index (R392). -/
def redgSeq (index : Word32) : Nat := bitsOf index 30 0
def redgLast (index : Word32) : Bool := index.getLsbD 31

/-- A contribution's home holds it back now (R395). -/
def State.redgHeld (s : State) (r : Req) (index : Word32) : Bool :=
  (s.sliceOf (State.redgSlice r)).redgFate (r.bytes.headD 0) (redgSeq index) == .holdBack

/-- A contribution at its slot: faulted, put in its cluster's retry queue, or accepted and applied in order (R394, R395). DEDUCED (log 80):
one whose target cannot be read faults as any reader does (R338), and one that is accepted promotes its target's tile as `atom` does (R180,
R390). -/
def State.performRedg (s : State) (r : Req) (aop : BitVec 3) (index : Word32) : State :=
  let n := State.redgSlice r
  let target := r.bytes.headD 0
  let s' := s.modSlice n (fun x => x.openCursor target)
  match (s.sliceOf n).redgFate target (redgSeq index) with
  | .raise => s'.slotFault r .memoryOrder
  | .holdBack => { s' with retry := FMap.modify [] s'.retry r.who.cluster (· ++ [r]) }
  | .accept =>
    if s.requestPoisoned r false then s'.slotFault r .uncorrectable
    else
      let c : Contribution :=
        { target := target, seq := redgSeq index, last := redgLast index, op := aop, x := (r.ops.map (·.x)).headD 0 }
      (((s'.requestPromotes r).modSlice n (fun x => { x with buffer := x.buffer ++ [c] })).drainStream n target 257).watchBytes
        (wordBytes target (redgBytes aop) 0 |>.map (·.1))

/-! ### Distance (R179, R217 to R222) -/

/-- The distance word of a tile that is resident, pinned, or away (R179). -/
def distWordOf (state die slice : Nat) (d : Nat) : Word64 :=
  BitVec.ofNat 64 (state * 2 ^ 62 + die * 2 ^ 45 + slice * 2 ^ 40 + (if state = 0 then ringOf d * 2 ^ 32 + d else 0))

/-- The distance word that a slice reports (R217). -/
def State.distWord (s : State) (n tile : Nat) (replica : Bool) : Word64 :=
  let x := s.sliceOf n
  if x.pinned tile then distWordOf 1 (n / 32) (n % 32) 0
  else if replica && (x.replica? tile).isNone then distWordOf 2 (n / 32) (n % 32) 0
  else match x.distance tile with
    | some d => distWordOf 0 (n / 32) (n % 32) d
    | none => distWordOf 2 (n / 32) (n % 32) 0

/-- The distance word of a tile at byte `pa` of another package: its home die and slice, and the state and the distance that a free value
chooses. -/
def freeDistance (p pa : Nat) (f : Word64) : Word64 :=
  distWordOf (bitsOf f 63 62 % 3) (dieOf (remoteAddr pa)) (remoteSlice p pa) (bitsOf f 31 0 % 349184)

/-- `dist` at its slot. Slice scratch reports state 01; host memory reports state 10 with every other field 0. DESIGN CHOICE (log 64): a
tile of another package stands there as that package's own requests have left it, which is no state of this package: its state and distance
are a free value, and its home slice is the one that package's configuration names. -/
def State.performDist (s : State) (r : Req) : State :=
  match r.place with
  | .slice n => s.answer r [(0, if r.scratch then distWordOf 1 (n / 32) (n % 32) 0 else s.distWord n r.tile r.replica)]
  | .remote p => ({ s with free := s.free + 1 } : State).answer r [(0, freeDistance p (r.bytes.headD 0) (Sys2Proof.Config.freeValue s.free))]
  | _ => s.answer r [(0, distWordOf 2 0 0 0)]

/-- `touch` and `touchg` at their slot: a promotion; nothing on slice scratch, host memory or a pinned tile (R147, R218), and nothing where
the partition does not promote (R203). A tile of another package moves in that package's chain (log 64). -/
def State.performTouch (s : State) (r : Req) : State :=
  match r.place with
  | .slice n => if r.scratch || !s.promotes n r.who.part then s else s.useTile r.who.part r.bypass (r.place, r.replica) r.tile
  | _ => s

/-- A fault of a range instruction at a tile's slot: the tiles after it are not acted on (R219). -/
def State.rangeFault (s : State) (r : Req) (c : Cause) : State :=
  let after := fun (q : Req) => q.who.ladle == r.who.ladle && q.order == r.order && decide (r.id < q.id)
  ({ s with requests := s.requests.filter (fun q => !after q), rehomed := s.rehomed.filter (fun q => !after q) } : State).faultNow r c

/-- `pin` at its slot (R219). A tile that is not resident is a miss, filled from HBM or from the write-back queue (R188). -/
def State.performPin (s : State) (r : Req) : State :=
  match r.place with
  | .slice n =>
    let x := s.sliceOf n
    if r.scratch then s.rangeFault r .address
    else if x.pinned r.tile then s
    else if s.pinQuota n r.who.part ≤ (x.pins.filter (fun e => e.2 == r.who.part)).length then s.rangeFault r .pinQuota
    else
      let t := if x.resident r.tile then s else s.refillStamps n r.tile
      t.modSlice n (fun y => { (if x.resident r.tile then y else y.takeMiss r.tile) with
        chain := y.chain.erase r.tile,
        writeBack := y.writeBack.filter (· != r.tile),
        pins := y.pins ++ [(r.tile, r.who.part)] })
  | _ => s.rangeFault r .address

/-- `unpin` at its slot (R221): the tile enters the chain at distance 0 as a non-resident tile does. -/
def State.performUnpin (s : State) (r : Req) : State :=
  match r.place with
  | .slice n =>
    if (s.sliceOf n).pins.contains (r.tile, r.who.part) then
      (s.modSlice n (fun x => { x with pins := x.pins.erase (r.tile, r.who.part) })).enterChain n r.tile
    else s
  | _ => s

/-- Send the dirty bytes of a replica to its home, in their instruction's place in the order, and clear its mask (R222, R223). -/
def State.mergeDirty (s : State) (who : Who) (order n : Nat) (q : Replica) : State :=
  (s.sendMerge who order q).modSlice n (fun x => { x with
    replicas := x.replicas.map (fun p => if p.tile = q.tile then { p with dirty := 0 } else p) })

/-- `rwb` at its slot (R222). -/
def State.performRwb (s : State) (r : Req) : State :=
  match r.place with
  | .slice n => match (s.sliceOf n).replica? r.tile with | some q => s.mergeDirty r.who r.order n q | none => s
  | _ => s

/-- Drop a replica tile, and the dirty bytes it has not merged (R222). -/
def State.dropReplica (s : State) (n tile : Nat) : State :=
  s.modSlice n (fun x =>
    if (x.replica? tile).isSome then
      { x.forgetStamps tile with replicas := x.replicas.filter (fun q => q.tile != tile), chain := x.chain.filter (· != tile) }
    else x)

/-- `rinv` at its slot (R222). -/
def State.performRinv (s : State) (r : Req) : State :=
  match r.place with
  | .slice n => if r.replica then s.dropReplica n r.tile else s
  | _ => s

/-! ### Boards (R345 to R350, R423) -/

/-- A board that has been reset and assigned to nobody (R345, R423). -/
def Board.fresh : Board := { members := 1, level := 0, mask := 0, values := [], assigned := false, owner := 0 }

/-- Fields of a handle (R345). -/
def handlePackage (h : Word64) : Nat := bitsOf h 63 54
def handleBoard (h : Word64) : Nat := bitsOf h 53 42
def handleSlot (h : Word64) : Nat := bitsOf h 41 34
def handleLevel (h : Word64) : Word32 := h.extractLsb' 0 32

/-- The number of a board: package · 4096 + board. -/
def handleKey (h : Word64) : Nat := handlePackage h * 4096 + handleBoard h

def State.board (s : State) (key : Nat) : Board := FMap.get Board.fresh s.boards key

/-- All n bits of the mask are set (R345). -/
def Board.full (b : Board) : Bool := (List.range b.members).all (fun i => b.mask.getLsbD i)

/-- A board request raises an address fault at its home (R348). -/
def State.boardBad (s : State) (part : Nat) (h : Word64) : Bool :=
  let b := s.board (handleKey h)
  decide (bitsOf h 33 32 ≠ 0)
  || !(decide (handlePackage h = s.pkg) || s.routed (handlePackage h))
  || !b.assigned || decide (b.owner ≠ part) || decide (b.members ≤ handleSlot h)

/-- A post on a board: the board after it, and its code (R348). -/
def Board.post (b : Board) (slot : Nat) (level : Word32) (x : Word64) : Board × Nat :=
  let d := (level - b.level).toNat
  if d = 0 ∧ b.mask.getLsbD slot = true then (b, 3)
  else if d = 0 ∨ (d = 1 ∧ b.full = true) then
    let open_ := if d = 1 then { b with level := level, mask := 0 } else b
    let c := { open_ with mask := open_.mask ||| BitVec.ofNat 256 (2 ^ slot),
                          values := FMap.insert slot (x, open_.level) open_.values }
    (c, if c.full then 2 else 1)
  else if d = 1 then (b, 4)
  else if d < 2 ^ 31 then (b, 6)
  else (b, 5)

/-- The answer of a post: the status word and the view. -/
def Ladle.fillPost (l : Ladle) (pend : Nat) (status : Word64) (view : BitVec 256) : Ladle :=
  { l with pend := l.pend.map (fun p => if p.id = pend then { p with vals := [status], view := view, missing := p.missing - 1 } else p) }

/-- `bpost` at its slot: the status word and the view (R347, R348). The handle is the operand x, the value y. Its faults are raised there,
as `pin`'s are. -/
def State.performPost (s : State) (r : Req) : State :=
  match r.ops with
  | o :: _ =>
    if s.boardBad r.who.part o.x then s.faultNow r .address
    else
      let p := (s.board (handleKey o.x)).post (handleSlot o.x) (handleLevel o.x) o.y
      let t := { s with boards := FMap.set Board.fresh s.boards (handleKey o.x) p.1 }
      match r.pend with
      | some i => t.modLadle r.who.ladle (fun l => l.fillPost i (BitVec.ofNat 64 (p.1.level.toNat * 2 ^ 32 + p.2)) p.1.mask)
      | none => t
  | [] => s

/-- `bread` at its slot: the slot's value and its level word (R350). -/
def State.performBread (s : State) (r : Req) : State :=
  match r.ops with
  | o :: _ =>
    if s.boardBad r.who.part o.x then s.faultNow r .address
    else
      match (s.board (handleKey o.x)).values.find? (fun e => e.1 == handleSlot o.x) with
      | some e => s.answer r [(0, e.2.1), (1, e.2.2.setWidth 64)]
      | none => s.answer r [(0, 0), (1, 0x8000000000000000#64)]
  | [] => s

/-! ### Amax reads, and every kind (R241, R303, R383) -/

/-- `amax` at its slot: read, and with fn 01 clear, in one step (R241, R303). -/
def State.performAmax (s : State) (r : Req) (clear : Bool) : State :=
  match r.place with
  | .amax n =>
    let v := FMap.get 0 s.amax n
    let t := if clear then { s with amax := FMap.set 0 s.amax n 0 } else s
    t.answer r [(0, v.setWidth 64)]
  | _ => s

/-- What a request does at its point of performance (R383). -/
def State.performAt (s : State) (r : Req) : State :=
  match r.kind with
  | .load e => s.performLoad r e
  | .store e => s.performStore r e
  | .syncLoad => s.performSyncLoad r
  | .syncStore => s.performSyncStore r
  | .atomic b a => s.performAtomic r b a
  | .redg a i => s.performRedg r a i
  | .dist _ => s.performDist r
  | .touch => s.performTouch r
  | .pin => s.performPin r
  | .unpin => s.performUnpin r
  | .rwb => s.performRwb r
  | .rinv => s.performRinv r
  | .post => s.performPost r
  | .boardRead => s.performBread r
  | .waitTest old => s.performWaitTest r old
  | .merge => (s.requestPromotes r).mergeBytes (r.ops.flatMap (fun o => opBytes s.mem.read o o.x.toNat))
      (sectorsOf ((r.ops.filter (fun o => o.desc != 0)).flatMap (·.bytes)))
  | .fold =>
    match r.place, r.ops with
    | .amax n, o :: _ => s.foldAmax (n / 128) (n % 128) (o.x.setWidth 32)
    | _, _ => s
  | .amaxRead c => s.performAmax r c

/-- A maker of accesses with the barrier counts that its ladle has now (R379). -/
def State.whoNow (s : State) (w : Who) : Who :=
  match s.ladle? w.ladle with
  | some l => { w with arrivals := l.arrivals, waited := l.waited, gangArrivals := l.gangArrivals, gangWaited := l.gangWaited }
  | none => w

/-- The place of a request at its grant: a peer selector names its target there (R13). -/
def State.placeNow (s : State) (r : Req) : Place :=
  match r.peer, s.ladle? r.who.ladle with
  | some sel, some l => match s.peerOf l sel with | .ok u => .pad u | .error _ => r.place
  | _, _ => r.place

/-- A tile's data lie in rings 1 to 4 of a slice (R230): a pinned tile and slice scratch stand in ways of ring 4, and a tile that a request has
promoted while the column realigns is still where it was. -/
def State.outerTile (s : State) (n tile : Nat) : Bool :=
  let x := s.sliceOf n
  isScratch (256 * tile) || x.pinned tile || x.motion.any (fun e => e.1 == tile)
  || s.returning.any (fun e => decide (e.1 = n) && decide (e.2.1.tile = tile))
  || (match x.distance tile with | some d => decide (1024 ≤ d) | none => false)

/-- A plain access moves a byte of its casting's version frame, which lies in ring 4 (R208). -/
def State.inFrame (s : State) (r : Req) (a : Nat) : Bool :=
  match s.byteLoc r a with
  | (.slice n, false) => !r.kind.sync && !isScratch a &&
      (r.overwrites a && ((s.sliceOf n).frame? r.who.casting (tileOf a)).isSome || (s.versionByte n r.who.casting a).isSome)
  | _ => false

/-- The places whose tiles a request reads or writes: its own, those that its bytes and its scale bytes go on to, and the homes that it goes on
to from a slice without the replica tile. -/
def State.tilesAt (s : State) (r : Req) : List (Loc × Nat) :=
  let l := ((r.place, r.replica), r.tile) :: (r.bytes.map (fun a => (s.byteLoc r a, tileOf a))).eraseDups ++ s.scaleTiles r
  l ++ l.filterMap (fun e => match e.1 with
    | (.slice n, true) => if s.hasReplica n e.2 then none else some ((Place.slice (s.homeOf (256 * e.2)), false), e.2)
    | _ => none)

/-- The slices in whose rings 1 to 4 a request's data lie while their columns realign. -/
def State.lateAt (s : State) (r : Req) : List Nat :=
  if s.columns.all (fun e => !e.2.retrain) then []
  else
    ((s.tilesAt r).filterMap (fun e => match e.1.1 with | .slice n => if s.busStill n && s.outerTile n e.2 then some n else none | _ => none)
      ++ (r.bytes.filter (s.inFrame r)).filterMap (fun a => ((s.byteLoc r a).1.slice?).filter s.busStill)).eraseDups

/-- A request as it stands at its slot or grant. -/
def State.atSlot (s : State) (r : Req) : Req := { r with who := s.whoNow r.who, place := s.placeNow r, late := s.lateAt r }

/-- Perform a request at its slot or grant. One that returns nothing is acknowledged then, or when a realignment ends (R230). -/
def State.perform (s : State) (r : Req) : State :=
  let q := s.atSlot r
  let t := s.performAt q
  if q.late ≠ [] ∧ q.pend.isNone = true ∧ q.kind.isWaitTest = false then { t with returning := t.returning ++ [(q.place.slice?.getD 0, q, [])] } else t

end Sys2Proof.Machine
end

