-- ==== Sys2Proof/Machine/Arbiter.lean ====
section
/-!
DEFINITION. Requests on their way: the order of a ladle's requests (R152, R223, R266, R352), when a place can take one (R187 to R190, R230,
R395), the arbiters of slices and scratchpad banks (R150, R182), sending a request, and the scopes of fences and barriers (R384).
-/

namespace Sys2Proof.Machine

/-! ### Kinds -/

/-- Plain loads and stores. -/
def ReqKind.plainData : ReqKind → Bool
  | .load _ => true
  | .store _ => true
  | _ => false

def ReqKind.isRedg : ReqKind → Bool
  | .redg _ _ => true
  | _ => false

/-- A request of `dist`, `touch`, `pin` or `unpin` (R223); `touchg` is a global access. -/
def Req.onDistance (r : Req) : Bool :=
  match r.kind with
  | .dist _ => true
  | .touch => r.ranged
  | .pin => true
  | .unpin => true
  | _ => false

/-- A store of elements, which folds where its descriptor has AE = 1 (R265). -/
def ReqKind.elemStore : ReqKind → Bool
  | .store e => e
  | _ => false

def ReqKind.isAmaxRead : ReqKind → Bool
  | .amaxRead _ => true
  | _ => false

/-! ### The order of a ladle's requests -/

/-- All bytes of memory that a request touches, and the tiles of a global one. -/
def Req.reach (r : Req) : List Nat := r.bytes ++ r.scales
def Req.tiles (r : Req) : List Nat := r.tile :: r.scales.map tileOf

/-- Two requests to one amax slot. -/
def Place.sameAmax : Place → Place → Bool
  | .amax a, .amax b => a == b
  | _, _ => false

/-- A request moves tiles or bytes of memory: it goes to no board and no amax slot. -/
def Place.ofMemory : Place → Bool
  | .board _ => false
  | .amax _ => false
  | _ => true

/-- A store folds: it stores elements through a descriptor with AE = 1 (R265). -/
def State.folds (s : State) (q : Req) : Bool := q.kind.elemStore && q.ops.any (fun o => (s.desc q.who.part o.desc).ae)

/-- Synchronising accesses and board operations: `rwb`, `rinv` and the merges they cause stand in rows of their own (R223). -/
def ReqKind.syncWord (k : ReqKind) : Bool := k.sync && k != .rwb && k != .rinv && k != .merge

/-- `q`, issued earlier by the same ladle, is performed before `r` (R152, R223, R266, R352): requests of one instruction have no order
(R141) but the tiles of one range, which take their slots at a slice in increasing address order (R216, R218), the tiles of one `pin.r`
at every slice (R219), and a scratchpad store's folds, which follow its last grant (R265, R380). An `amax` follows the stores that fold, with
their folds (R266). What the engines do belongs to no ladle's
order (R307). -/
def State.precedes (s : State) (q r : Req) : Bool :=
  q.who.ladle == r.who.ladle && r.who.ladle != 0 && q.engine.isNone && r.engine.isNone &&
  (if q.order = r.order then
     (q.ranged && r.ranged && decide (q.id < r.id) && (r.kind == .pin || decide (q.place = r.place)))
     || (q.place.isPad && q.kind.elemStore && r.kind == .fold)
   else decide (q.order < r.order) &&
     (match q.place, r.place with
      | .pad a, .pad b => a == b
      | .pad _, _ => r.kind == .post || (r.kind.isAmaxRead && s.folds q)
      | _, .pad _ => false
      | _, _ =>
        if q.kind.isRedg && r.kind.isRedg then false
        else if q.kind.isAmaxRead || r.kind.isAmaxRead then
          q.place.sameAmax r.place || q.kind.syncWord || r.kind.syncWord || (r.kind.isAmaxRead && (s.folds q || q.kind == .fold))
        else if q.kind == .rwb || q.kind == .rinv || r.kind == .rwb || r.kind == .rinv then true
        else if q.onDistance || r.onDistance then q.place.ofMemory && r.place.ofMemory && q.tiles.any (fun t => r.tiles.contains t)
        else q.kind.sync || r.kind.sync
          || (q.kind.plainData && r.kind.plainData && q.reach.any (fun b => r.reach.contains b))
          || q.place.sameAmax r.place))

/-- An earlier request of its ladle must be performed first. -/
def State.waitsInOrder (s : State) (r : Req) : Bool := s.sent.any (fun q => s.precedes q r)

/-! ### When a place can take a request -/

/-- The core of an allocation has its column in realignment: its banks grant nothing (R230). -/
def State.padPaused (s : State) (uid : Nat) : Bool := match s.ladle? uid with | some t => s.retrains t.cluster t.core | none => false

/-- A slice's front can take a request (R187 to R190): what moves nothing in the chain and needs no miss is always taken. -/
def State.frontTakes (s : State) (n : Nat) (r : Req) : Bool :=
  let x := s.sliceOf n
  match r.kind with
  | .dist _ => true
  | .rwb => true
  | .rinv => true
  | .touch => !s.promotes n r.who.part || s.frontReady n r.tile r.who.part r.bypass
  | .pin => x.resident r.tile || x.missRoom r.tile
  | .unpin => !x.pins.contains (r.tile, r.who.part) || s.entryRoom n r.tile 4 true
  | _ => s.frontReady n r.tile r.who.part r.bypass

/-- A drained slice holds a request: it leaves with the request's tile, or with that of a scale byte (R197). -/
def State.heldBySlice (s : State) (r : Req) : Bool :=
  (match r.place with | .slice n => !r.scratch && s.holdsTile n r.tile | _ => false)
  || (s.scaleTiles r).any (fun e => match e.1.1 with | .slice n => !isScratch (256 * e.2) && s.holdsTile n e.2 | _ => false)

/-- A replica tile is to be copied from a home to which the dirty bytes of one that has left are still on their way (R207). -/
def State.mergeDue (s : State) (l : Loc) (tile : Nat) : Bool :=
  l.2 && (match l.1 with | .slice n => ((s.sliceOf n).replica? tile).isNone | _ => false)
  && s.sent.any (fun q => q.kind == .merge && decide (q.tile = tile))

/-- A request waits for the merge of a replica tile. -/
def State.awaitsMerge (s : State) (r : Req) : Bool := s.mergeDue (r.place, r.replica) r.tile || (s.scaleTiles r).any (fun e => s.mergeDue e.1 e.2)

/-- A contribution waits in its cluster: its home would hold it back, and its cluster's retry queue of 64 is full (R395). -/
def State.unsent (s : State) (r : Req) : Bool :=
  match r.kind with
  | .redg _ i => s.redgHeld r i && decide (64 ≤ (FMap.get [] s.retry r.who.cluster).length)
  | _ => false

/-- The homes, with the tiles, to which a plain access goes on from a slice that has not the replica tile (R206). -/
def State.homeTrips (s : State) (r : Req) : List (Nat × Nat) :=
  if r.kind.plainData || (r.kind == .touch && s.promotes (r.place.slice?.getD 0) r.who.part) then
    (((r.place, r.replica), r.tile) :: s.scaleTiles r).filterMap (fun e => match e.1 with
      | (.slice n, true) => if s.hasReplica n e.2 then none else some (s.homeOf (256 * e.2), e.2)
      | _ => none)
  else []

/-- A home can take an access that goes on to it. -/
def State.tripReady (s : State) (e : Nat × Nat) : Bool :=
  !s.holdsTile e.1 e.2 && ((s.sliceOf e.1).resident e.2 || (s.sliceOf e.1).missRoom e.2)

/-- The front has room for a tile, or makes it as the access waits: the bus of its column moves data (R187 to R190, R229). -/
def State.frontMoves (s : State) (r : Req) (e : Loc × Nat) : Bool :=
  match e.1.1 with
  | .slice n => isScratch (256 * e.2) || !s.busStill n || s.frontReady n e.2 r.who.part r.bypass
  | _ => true

/-- The place of performance can take a request now. DESIGN CHOICE (log 82): an engine's access finds its room as it is made. -/
def State.placeReady (s : State) (r : Req) : Bool :=
  (match r.place with
   | .slice n => decide (n < 64) && (r.scratch || s.frontTakes n r || (r.unit.isSome && !s.busStill n))
   | .pad u => !s.padPaused u
   | _ => true)
  && (s.scaleTiles r).all (s.frontMoves r) && (s.homeTrips r).all s.tripReady && !s.heldBySlice r && !s.awaitsMerge r && !s.unsent r

/-- A request can be performed now: nothing holds it back in its ladle's order or in a comparison buffer (R335), and its place can take it. -/
def State.grantable (s : State) (r : Req) : Bool := !r.held && !s.waitsInOrder r && s.placeReady r

/-! ### What engines have standing at arbiters (R150, R182, R278) -/

/-- The control ladle that a cluster's control core holds. -/
def State.controlLadle (s : State) (c : Nat) : Option Ladle := s.ladles.find? (fun l => l.live && l.control && decide (l.cluster = c))

/-- A split has issued an `exit` that has not retired. -/
def Ladle.exiting (l : Ladle) : Bool := l.allSplits.any (fun x => x.blocked == .exitWait)

/-- The engines go on for a ladle: its casting has not been stopped, or is being saved, and what has begun completes (R171). -/
def State.unitRuns (s : State) (l : Ladle) : Bool :=
  !l.stopped || s.castings.any (fun c => decide (c.uid = l.casting) && c.state == .resident && c.started)

/-- The chain or matrix word of a number has met a page that does not translate. -/
def Suspension.stops (x : Suspension) (number : Nat) : Bool := x.unit == some number || x.further.contains number

/-- A chain or matrix word has met a page that does not translate: it stands still until its casting has been saved. -/
def State.stuck (s : State) (casting number : Nat) : Bool :=
  s.castings.any (fun c => decide (c.uid = casting) && c.suspension.any (fun x => x.stops number))

/-- A casting is being discarded: what it has issued stops at its next progress point (R166). -/
def State.dropping (s : State) (uid : Nat) : Bool :=
  s.castings.any (fun c => decide (c.uid = uid) && (c.state == .faulted || c.state == .discarding))

/-- A chain goes on for its ladle. Of a casting that is being discarded, the entry in progress comes to its end (R166). -/
def State.chainRuns (s : State) (l : Ladle) (c : Chain) : Bool :=
  !c.failed && (s.unitRuns l || (s.dropping l.casting && !c.entry.isEmpty && !c.waiting))

/-- A chain begins no entry for a ladle that has stopped, but for an `exit` that waits for it (R171). -/
def Chain.begins (c : Chain) (l : Ladle) : Bool := !l.stopped || !c.entry.isEmpty || l.exiting

/-- A pre-emption that saves stops the unit at its next step boundary: no step and no new word begins, but what stands before an `rnsq`
of the queue, for which the save waits, and what an `exit` that has issued waits for, which retires before the save (R171, R288, R296). -/
def Matrix.begins (m : Matrix) (l : Ladle) : Bool :=
  !l.stopped || l.exiting || m.queue.any (fun e => match e.instr with | .rnsq .. => true | _ => false)

/-- The chain or matrix word of a number may go on. -/
def State.unitGoes (s : State) (number : Nat) : Bool :=
  s.chains.any (fun e => e.2.any (fun c => decide (c.after = number)
      && (match s.ladle? c.who.ladle with | some l => l.live && s.chainRuns l c && c.begins l && !s.stuck l.casting number | none => false)))
  || s.matrix.any (fun e => e.2.queue.any (fun q => decide (q.after = number))
      && (match s.controlLadle e.1 with | some l => s.unitRuns l && e.2.begins l && !s.stuck l.casting number | none => false))

/-- What competes at the arbiters: the requests that wait, and those of engines that stand there without their grants. -/
def State.rivals (s : State) : List Req :=
  s.requests ++ (s.standing.filter (fun e => !e.granted && e.req.engine.any s.unitGoes)).map (·.req)

/-- What competes with a request of a number. -/
def State.without (s : State) (id : Nat) : State :=
  { s with requests := s.requests.filter (fun q => q.id != id), standing := s.standing.filter (fun e => e.req.id != id) }

/-! ### The crosspoint of a slice (R182) -/

/-- The slice at whose output port a request is granted. -/
def State.outputOf (s : State) (r : Req) : Option Nat :=
  match r.place with
  | .slice n => some n
  | .board k => if k / 4096 = s.pkg then some (s.homeOfBoard (k % 4096)) else none
  | .amax n => some (s.homeOfAmax (n % 128))
  | _ => none

/-- The input port by which a request comes to slice `n`: folds on the service port, merges from the other die, another package's requests
on the fabric port, and a cluster's on its own or over the die link. -/
def Req.port (r : Req) (n : Nat) : Nat :=
  if r.kind = .fold then servicePort
  else if r.kind = .merge then diePort
  else if r.who.ladle = 0 then fabricPort
  else if r.who.cluster / 32 = n / 32 then r.who.cluster % 32
  else diePort

/-- Requests that stand at a slice's crosspoint: neither those that a drained slice holds, nor contributions that wait in their cluster. -/
def State.atCrosspoint (s : State) (n : Nat) : List Req :=
  s.rivals.filter (fun q => q.arrived.isSome && decide (s.outputOf q = some n) && !s.heldBySlice q && !s.unsent q)

/-- One request arrived before another, which arrives now where it has not been seen to arrive. -/
def arrivedBefore (a b : Option Nat) : Bool :=
  match a, b with
  | some a, some b => decide (a < b)
  | some _, none => true
  | none, _ => false

/-- A port's request wins at a slice: none from its own port arrived there before it, whether or not the front can take that one, and of the
other ports none that was granted less recently stands there with a first request that the front can take. -/
def State.portWins (s : State) (n port : Nat) (arrived : Option Nat) : Bool :=
  (s.atCrosspoint n).all (fun q =>
    if q.port n = port then !arrivedBefore q.arrived arrived
    else decide ((s.ports n).idxOf port ≤ (s.ports n).idxOf (q.port n)) || !s.grantable q
      || (s.atCrosspoint n).any (fun x => decide (x.port n = q.port n) && arrivedBefore x.arrived q.arrived))

/-- What comes to a slice on a port of its own accord takes its slot where the port wins, and waits else. -/
def State.atPort (s : State) (n port : Nat) (f : State → State) : State :=
  if s.portWins n port none then f (s.portGranted n port) else s

/-! ### The banks of a scratchpad (R150) -/

/-- The banks in which a scratchpad request has bytes, with the number of their core (R149). -/
def State.banksOf (s : State) (r : Req) : List Nat :=
  match r.place with
  | .pad u =>
    match s.ladle? u with
    | some t => (r.bytes.map (fun a => (5 * t.cluster + t.core) * 32 + (t.pad.base + a) / 8 % 32)).eraseDups
    | none => []
  | _ => []

/-- The requester of a bank: a core by its number, the matrix unit 5, the copy engine 6. -/
def Req.requester (r : Req) : Nat := r.unit.getD r.who.core

/-- The owner core makes a scratchpad request. -/
def State.ownsPad (s : State) (r : Req) : Bool :=
  match r.place with
  | .pad u => match s.ladle? u with | some t => decide (t.core = r.requester) | none => false
  | _ => false

/-- The rotation order of the bank's requesters, vector cores 0 to 3, the control core, the matrix unit and the copy engine, beginning after
the one it granted last. DESIGN CHOICE (log 65): after reset, when a bank has granted none, with vector core 0. -/
def State.rotation (s : State) (bank core : Nat) : Nat := (core + 6 - FMap.get 6 s.bankLast bank) % 7

/-- The rank of a request at a bank: those that have waited 4 cycles first, the longest first; then the owner, then the rotation. -/
def State.bankRank (s : State) (bank : Nat) (r : Req) : Nat × Nat × Nat :=
  if r.overdue then (0, r.arrived.getD 0, s.rotation bank r.requester)
  else (1, if s.ownsPad r then 0 else 1 + s.rotation bank r.requester, 0)

/-- One rank is not after another. -/
def rankLe (a b : Nat × Nat × Nat) : Bool :=
  decide (a.1 < b.1) || (decide (a.1 = b.1) && (decide (a.2.1 < b.2.1) || (decide (a.2.1 = b.2.1) && decide (a.2.2 ≤ b.2.2))))

/-- Two requests come from one core of one cluster, or one of its engines. -/
def Req.sameRequester (q r : Req) : Bool := decide (q.who.cluster = r.who.cluster) && decide (q.requester = r.requester)

/-- A request wins at a bank: its requester has issued no earlier one to the bank, and none that stands there ranks before it. DESIGN CHOICE
(log 65): of one instruction's sectors in one bank, which R149 serves in passes, that of the lowest lane goes first. -/
def State.winsBank (s : State) (r : Req) (b : Nat) : Bool :=
  s.rivals.all (fun q =>
    if q.id = r.id ∨ (s.banksOf q).contains b = false then true
    else if q.sameRequester r then decide (r.id < q.id)
    else !(q.arrived.isSome && s.grantable q) || rankLe (s.bankRank b r) (s.bankRank b q))

/-- A scratchpad request takes its place at its first grant: it wins in one of its banks (R150). -/
def State.bankWins (s : State) (r : Req) : Bool := (s.banksOf r).isEmpty || (s.banksOf r).any (s.winsBank r)

/-- The trips of a request win at their homes, where it comes through the die-link port; requests that have trips themselves do not stand in
their way (log 95). -/
def State.tripsWin (s : State) (r : Req) : Bool :=
  (s.homeTrips r).all (fun e =>
    ({ s with requests := s.requests.filter (fun q => (s.homeTrips q).isEmpty) } : State).portWins e.1 diePort none)

/-- A request wins at its arbiter. DESIGN CHOICE (log 65): the request that wins is chosen among those that an event of the agenda has brought
there before it. -/
def State.wins (s : State) (r : Req) : Bool :=
  s.bankWins r && (match s.outputOf r with
    | some n => (s.without r.id).portWins n (r.port n) r.arrived && (s.without r.id).tripsWin r
    | none => true)

/-- The arbiters remember a grant: the crosspoint its port, the banks their requester. DESIGN CHOICE (log 65): the grants that a request still
takes in its other banks count with its first. -/
def State.noteGrant (s : State) (r : Req) : State :=
  match s.outputOf r with
  | some n => s.portGranted n (r.port n)
  | none => { s with bankLast := (s.banksOf r).foldl (fun m b => FMap.set 6 m b r.requester) s.bankLast }

/-- A request reaches its arbiter: once nothing of its ladle has to come first. -/
def State.arrive (s : State) (id : Nat) : State :=
  { s with requests := s.requests.map (fun r =>
      if r.id = id ∧ r.held = false ∧ r.arrived = none ∧ s.waitsInOrder r = false then { r with arrived := some s.ticks } else r) }

/-- A scratchpad request, of a core or an engine, has waited 4 cycles. -/
def Req.late4 (id : Nat) (r : Req) : Req := if r.id = id ∧ r.place.isPad = true ∧ r.arrived.isSome = true then { r with overdue := true } else r

def State.overdue (s : State) (id : Nat) : State :=
  { s with requests := s.requests.map (Req.late4 id), standing := s.standing.map (fun e => { e with req := Req.late4 id e.req }) }

/-- Grant a waiting request: it leaves the queue and is performed. -/
def State.grant (s : State) (r : Req) : State :=
  ({ s.noteGrant r with requests := s.requests.filter (fun q => q.id != r.id) } : State).perform r

/-! ### Sending requests -/

/-- The requests of one instruction, numbered. -/
def State.number (s : State) (rs : List Req) : List Req := rs.zipIdx.map (fun e => { e.1 with id := s.nextReq + e.2, order := s.nextReq })

/-- A request can be granted in the step that sends it (log 5). -/
def State.atOnce (s : State) (r : Req) : Bool := !s.hold && s.grantable r && s.wins r

/-- Send a request: it is performed at once where requests do not wait, and otherwise it waits for its slot (log 5). -/
def State.send (s : State) (r : Req) : State := if s.atOnce r then (s.noteGrant r).perform r else { s with requests := s.requests ++ [r] }

/-- A request of an instruction that has been sent is performed in its instruction's own step, where it can be. -/
def State.submit (s : State) (id : Nat) : State :=
  match s.requests.find? (fun r => r.id == id) with
  | some r => if s.atOnce r then s.grant r else s
  | none => s

/-- Send the requests of one instruction: a fault at one of them finds the others sent, so that it can take them back (R219, R380). -/
def State.submitAll (s : State) (rs : List Req) : State :=
  ((s.number rs).map (·.id)).foldl State.submit { s with requests := s.requests ++ s.number rs, nextReq := s.nextReq + rs.length }

/-- The addresses and data of a request, as the shadow has to produce them. -/
def Req.outcome (r : Req) : List Word64 := r.ops.flatMap (fun o => [BitVec.ofNat 64 (o.bytes.headD 0), o.x, o.y])

/-- The requests of an outward operation in shadow placement are held back by the comparison buffer (R335). -/
def State.holdBack (s : State) (outward : Bool) (rs : List Req) : State × List Req :=
  if outward && s.shadowed then
    (s.compareLater ((List.range rs.length).map (fun i => s.nextReq + i)) (rs.flatMap Req.outcome), rs.map (fun r => { r with held := true }))
  else (s, rs)

/-! ### Making requests -/

/-- The tiles a lane's bytes lie in. -/
def LaneOp.tiles (o : LaneOp) : List Nat := tilesOf o.bytes

/-- A lane's part in a tile that it goes on into from the one before: its bytes there, with no data of its own to move (R138). DESIGN CHOICE
(log 79): an element that spans two tiles moves its data at the slot of the first. -/
def LaneOp.rest (o : LaneOp) (tile : Nat) : LaneOp := { o with bytes := o.bytes.filter (fun a => tileOf a = tile), width := 0 }

/-- Add a lane's part to the group of a tile. -/
def addToGroup (t : Nat) (g : GlobalOp) (acc : List (Nat × List GlobalOp)) : List (Nat × List GlobalOp) :=
  if acc.any (fun e => e.1 == t) then acc.map (fun e => if e.1 = t then (e.1, e.2 ++ [g]) else e) else acc ++ [(t, [g])]

/-- Put lane parts into tile groups, in the order of the lowest lane each serves; a lane that spans two tiles belongs to both (R141). -/
def groupTiles : List GlobalOp → List (Nat × List GlobalOp) → List (Nat × List GlobalOp)
  | [], acc => acc
  | g :: r, acc =>
    match g.op.tiles with
    | [] => groupTiles r acc
    | t :: ts => groupTiles r (ts.foldl (fun acc u => addToGroup u { g with op := g.op.rest u } acc) (addToGroup t g acc))

/-- The requests of a global access: one per tile group (R141). -/
def State.globalReqs (s : State) (w : Who) (kind : ReqKind) (bypass : Bool) (pend : Option Nat) (ops : List GlobalOp) : List Req :=
  (groupTiles ops []).map (fun e =>
    let rpl := e.2.any (·.rpl)
    let p := s.placeOf (w.cluster / 32) (256 * e.1) rpl (!kind.sync)
    { id := 0, who := w, kind := kind, place := p.1, tile := e.1, bypass := bypass, replica := p.2, rpl := rpl, pend := pend,
      ops := e.2.map (·.op), held := false })

/-- A request to a scratchpad: one access, which takes its place in each sector at its first grant there (R140, R150). -/
def padReq (w : Who) (kind : ReqKind) (target : Nat) (pend : Option Nat) (ops : List LaneOp) : Req :=
  { id := 0, who := w, kind := kind, place := .pad target, tile := 0, bypass := false, replica := false, rpl := false, pend := pend,
    ops := ops, held := false }

/-- The parts of a scratchpad access that take their places one by one: one for each sector, an element with its first byte's (R150). -/
def Req.bySector (r : Req) : List Req :=
  if r.place.isPad && r.kind.plainData then
    ((r.ops.map (fun o => sectorOf (o.bytes.headD 0))).eraseDups).map (fun k =>
      { r with ops := r.ops.filter (fun o => sectorOf (o.bytes.headD 0) = k) })
  else [r]

/-- Requests as they are sent: where they wait for their grants, a scratchpad access is granted sector by sector. -/
def State.spread (s : State) (rs : List Req) : List Req := if s.hold then rs.flatMap Req.bySector else rs

/-! ### Restartability (R375) -/

/-- A casting issues an unversioned write. -/
def State.unversion (s : State) (casting : Nat) : State :=
  { s with castings := s.castings.map (fun c => if c.uid = casting then { c with unversioned := true } else c) }

/-- An access to slice scratch is noted for its casting (R201). -/
def State.noteScratch (s : State) (casting : Nat) (rs : List Req) : State :=
  let ns := rs.filterMap (fun r => if r.scratch then (match r.place with | .slice n => some n | _ => none) else none)
  if ns.isEmpty then s
  else { s with castings := s.castings.map (fun c =>
    if c.uid = casting then { c with scratchSlices := (c.scratchSlices ++ ns).eraseDups } else c) }

/-- A plain store of these requests is an unversioned write: to a replica, to slice scratch, or to host memory. -/
def unversionedStore (rs : List Req) : Bool :=
  rs.any (fun r => r.replica || r.scratch || (match r.place with | .host _ => true | _ => false))

/-! ### Issuing an access -/

/-- The issuing split waits for a page walk, behind those that wait already (R422). -/
def State.awaitWalk (s : State) (va : Nat) (kind : AccessKind) : State :=
  (s.mapMe (fun l => { l with sp := { l.sp with walkSince := s.ticks } })).blockMe (.walk va kind)

/-- Stop at an instruction whose checks fail: a fault there, or a wait for a page walk (R139, R422). DESIGN CHOICE (log 66): a split that waits
for a walk gives up its slot, as the splits of R29's list do. -/
def State.stopAt (s : State) (e : Stop) : State :=
  match e with
  | .fault c => s.castFault c
  | .walk va kind => s.awaitWalk va kind
  | .wait => s
  | .stand _ => s

/-- A long instruction whose checks fail: the fault is taken at its landing point (R61). -/
def State.stopLong (s : State) (p : Pending) (e : Stop) : State :=
  match e with
  | .fault c => s.issueLong { p with fault := some c }
  | .walk va kind => s.awaitWalk va kind
  | .wait => s
  | .stand _ => s

/-- Issue a long access: its result is pending until every request has answered. -/
def State.issueRequests (s : State) (outward : Bool) (p : Pending) (mk : Option Nat → List Req) : State :=
  let h := s.holdBack outward (s.spread (mk (some p.id)))
  let q := { p with missing := h.2.length, first := s.nextReq, groups := if p.globalLoad then s.number h.2 else [] }
  let t := h.1.done (fun l => { l.queueValue (some p.id) [] with pend := l.pend ++ [q], nextPend := l.nextPend + 1 })
  ((t.noteScratch s.me.casting h.2).submitAll h.2).settle

/-- Issue an access that returns nothing. -/
def State.issueStores (s : State) (rs : List Req) : State :=
  let h := s.holdBack true (s.spread rs)
  ((h.1.done (fun l => l)).noteScratch s.me.casting h.2).submitAll h.2

/-- What a ladle has sent and has not been performed: with what the engines do in its name, and without. -/
def State.outstanding (s : State) (uid : Nat) : List Req := s.sent.filter (fun r => r.who.ladle == uid)
def State.ownOutstanding (s : State) (uid : Nat) : List Req := (s.outstanding uid).filter (fun r => r.engine.isNone)

/-- A ladle has sent something before number `upTo` that has not been performed (R304, R306). -/
def State.earlierOutstanding (s : State) (uid upTo : Nat) : Bool := (s.ownOutstanding uid).any (fun r => decide (r.order < upTo))

/-- Something that an engine does, for its word or chain of a number, has not been performed (R266). -/
def State.engineOutstanding (s : State) (number : Nat) : Bool := s.sent.any (fun r => r.engine == some number)

/-! ### Scopes (R384, R399) -/

/-- A request belongs to the accesses that a scope names: 0 ladle, 1 casting, 2 cluster, 3 die, 4 package, 5 domain, 6
system. Requests that move no data belong to none, but `rinv`, which counts as a synchronising operation (R223). DEDUCED (log 78): a
contribution belongs to every scope, wherever its home is, as R395 says and R384 does not. -/
def State.inScope (s : State) (scope : Nat) (r : Req) : Bool :=
  let die := r.who.cluster / 32
  let moves := match r.kind with | .dist _ => false | .touch => false | .pin => false | .unpin => false | _ => true
  decide (1 ≤ scope) && moves &&
  (match r.place with
   | .pad _ => true
   | .slice n => r.kind.plainData || r.kind.isRedg || decide (n / 32 = die) || decide (4 ≤ scope)
   | .amax n => r.kind == .fold || decide (s.homeOfAmax (n % 128) / 32 = die) || decide (4 ≤ scope)
   | .board k => if k / 4096 = s.pkg then decide (s.homeOfBoard (k % 4096) / 32 = die) || decide (4 ≤ scope) else decide (5 ≤ scope)
   | .remote _ => r.kind.plainData || r.kind.isRedg || decide (5 ≤ scope)
   | .host _ => decide (6 ≤ scope))

/-- Some request of a ladle, issued before request number `upTo`, has not been performed at a scope. Matrix words and chain accesses
belong to none. -/
def State.unperformed (s : State) (uid scope upTo : Nat) : Bool :=
  (s.ownOutstanding uid).any (fun r => decide (r.order < upTo) && s.inScope scope r)

end Sys2Proof.Machine
end

