-- ==== Sys2Proof/Machine/LaneMemory.lean ====
section
/-!
DEFINITION. Scratchpad, peer and global accesses from lanes, the uniform loads and stores, and `spattr` (R131 to R148).
-/

namespace Sys2Proof.Machine

/-! ### Shared shapes -/

/-- The 5-bit and 3-bit base-register fields name s0 up (R51). -/
def baseReg {n : Nat} (r : BitVec n) : BitVec 6 := r.zeroExtend 6

/-- A lane's store data: one register, or a pair with the even register low. -/
def Ladle.data1 (l : Ladle) (d : BitVec 6) (j : Nat) : Word64 := (laneAt (l.getV d) j).setWidth 64
def Ladle.data2 (l : Ladle) (d : BitVec 6) (j : Nat) : Word64 := laneAt (l.getV (nextReg d)) j ++ laneAt (l.getV d) j

/-- The registers of a pair. -/
def pairRegs (d : BitVec 6) : List (BitVec 6) := [d, nextReg d]

/-- A long lane access: with no active lane it does nothing (R12); its checks stop it at its landing point (R61). -/
def State.laneLoad (s : State) (regs : List (BitVec 6)) (k : BitVec 3) (dest : Dest) (n : BitVec 4) (isGlobal : Bool)
    (mk : Ladle → List Nat → Except Stop (Option Nat → List Req)) : State :=
  s.laneWord regs (fun s => s.longValue (fun s =>
    let l := s.me
    if l.accessLanes k = 0 then s.done (fun l => l)
    else
      let p := { l.newPending dest n (l.loadLanes k) (List.replicate 32 0) with globalLoad := isGlobal }
      match mk l (bitsSet (l.accessLanes k) 32) with
      | .error e => s.stopLong p e
      | .ok f => s.issueRequests false p f))

/-- A lane access that returns nothing. In half placement address and data of each pair are compared first (R336). -/
def State.laneStore (s : State) (regs compared : List (BitVec 6)) (k : BitVec 3)
    (mk : Ladle → List Nat → Except Stop (List Req)) (f : State → List Req → State) : State :=
  s.laneWord regs (fun s => s.outward (fun s =>
    let l := s.me
    if l.accessLanes k = 0 then s.done (fun l => l)
    else if !l.pairsAgree (l.accessLanes k) compared then s.castFault .checkMismatch
    else
      match mk l (bitsSet (l.accessLanes k) 32) with
      | .error e => s.stopAt e
      | .ok rs => (f s rs).issueStores rs))

/-- A casting issues a write to these requests' places: it stops being restartable where that write has no version (R375). -/
def State.noteStores (s : State) (rs : List Req) : State := if unversionedStore rs then s.unversion s.me.casting else s

/-! ### The ladle's own scratchpad: raw words (R132, R140) -/

/-- The lanes' parts of an access of `n` bytes to the ladle's own allocation. -/
def Ladle.ownOps (l : Ladle) (a sb : BitVec 6) (sc : BitVec 1) (n : Nat) (data : Nat → Word64) (lanes : List Nat) :
    Except Stop (List LaneOp) :=
  checkAll (fun j => padTarget l.pad.size n j (l.padAddress (l.getS sb) (scaledOffset (laneAt (l.getV a) j) sc n)).toNat (data j) 0) lanes

/-- A load from the ladle's own allocation. -/
def State.ownLoad (s : State) (k : BitVec 3) (n : BitVec 4) (regs : List (BitVec 6)) (dest : Dest) (a : BitVec 6) (sb : BitVec 5)
    (sc : BitVec 1) (bytes : Nat) : State :=
  s.laneLoad (a :: regs) k dest n false (fun l lanes =>
    (l.ownOps a (baseReg sb) sc bytes (fun _ => 0) lanes).map (fun ops pend => [padReq l.who (.load false) l.uid pend ops]))

/-- A store to the ladle's own allocation. -/
def State.ownStore (s : State) (k : BitVec 3) (regs : List (BitVec 6)) (data : Ladle → Nat → Word64) (a : BitVec 6) (sb : BitVec 5)
    (sc : BitVec 1) (bytes : Nat) : State :=
  s.laneStore (a :: regs) (a :: regs) k (fun l lanes =>
    (l.ownOps a (baseReg sb) sc bytes (data l) lanes).map (fun ops => [padReq l.who (.store false) l.uid none ops])) (fun s _ => s)

def execLds (k : BitVec 3) (n : BitVec 4) (d a : BitVec 6) (sb : BitVec 5) (c : BitVec 1) (s : State) : Result :=
  .next (s.ownLoad k n [d] (.lane d) a sb c 4)
def execLds2 (k : BitVec 3) (n : BitVec 4) (d a : BitVec 6) (sb : BitVec 5) (c : BitVec 1) (s : State) : Result :=
  .next (s.ownLoad k n (pairRegs d) (.lanePair d) a sb c 8)
def execSts (k : BitVec 3) (d a : BitVec 6) (sb : BitVec 5) (c : BitVec 1) (s : State) : Result :=
  .next (s.ownStore k [d] (fun l => l.data1 d) a sb c 4)
def execSts2 (k : BitVec 3) (d a : BitVec 6) (sb : BitVec 5) (c : BitVec 1) (s : State) : Result :=
  .next (s.ownStore k (pairRegs d) (fun l => l.data2 d) a sb c 8)

/-! ### The ladle's own scratchpad: elements (R133, R138, R140) -/

/-- The element width in force: the format of the page that holds ladle-relative byte s[sb], bounded first (R138). -/
def State.padWidth (s : State) (l : Ladle) (sb : BitVec 6) : Except Stop Nat :=
  let off := (l.getS sb).toNat
  if l.pad.size ≤ off then .error (.fault .padBound)
  else
    let d := s.desc l.part (attrDesc (l.pad.attr off))
    if d.malformed true then .error (.fault .format) else .ok (fmtBits d.fmt)

/-- The lanes' parts of an element access to the ladle's own allocation. -/
def State.ownElems (s : State) (l : Ladle) (a sb : BitVec 6) (sc : BitVec 1) (data : Nat → Word64) (lanes : List Nat) :
    Except Stop (List LaneOp) :=
  match s.padWidth l sb with
  | .error e => .error e
  | .ok w =>
    let tgt := fun (j : Nat) =>
      ({ lane := j, bit := (8 * (l.padAddress (l.getS sb) 0).toNat + (laneAt (l.getV a) j).toNat * (if sc = 1 then w else 8)) % 2 ^ 67,
         width := w, x := data j, y := 0 } : Target)
    match checkAll (fun j => elemBounds l.pad.size w (tgt j)) lanes with
    | .error e => .error e
    | .ok ts => checkAll (fun t => s.padElem l.part l.pad t) ts

def execLdsf (k : BitVec 3) (n : BitVec 4) (d a : BitVec 6) (sb : BitVec 5) (c : BitVec 1) (s : State) : Result :=
  .next (s.laneLoad [a, d] k (.lane d) n false (fun l lanes =>
    (s.ownElems l a (baseReg sb) c (fun _ => 0) lanes).map (fun ops pend => [padReq l.who (.load true) l.uid pend ops])))
def execStsf (k : BitVec 3) (d a : BitVec 6) (sb : BitVec 5) (c : BitVec 1) (s : State) : Result :=
  .next (s.laneStore [a, d] [a, d] k (fun l lanes =>
    (s.ownElems l a (baseReg sb) c (fun j => l.data1 d j) lanes).map (fun ops => [padReq l.who (.store true) l.uid none ops]))
    (fun s _ => s))

/-! ### Peer windows (R135, R140) -/

/-- A lane's part of an access to another ladle's allocation: the selector that names the target, with no offset; the uid it names now, or
0; and the part. -/
structure PeerOp where
  sel : Option Word64
  uid : Nat
  op : LaneOp
  deriving DecidableEq, Repr

/-- The target that a selector names, without the offset (R135). -/
def peerSelector (sel : Word64) : Word64 := sel &&& 0xffffffff00000000#64

/-- A peer access as one lane forms it. The target's liveness, and the bound of one that is not live, are judged at the grant (R13). -/
def State.peerOp (s : State) (l : Ladle) (n : Nat) (j : Nat) (sel : Word64) (x : Word64) : Except Stop PeerOp :=
  match s.peerOf l sel with
  | .error e => .error e
  | .ok uid =>
    let size := match s.ladle? uid with | some t => if uid = 0 then 2 ^ 33 else t.pad.size | none => 2 ^ 33
    (padTarget size n j (bitsOf sel 31 0) x 0).map (fun o => { sel := some (peerSelector sel), uid := uid, op := o })

/-- The lanes' parts, one request for each target in the order of its lowest lane. -/
def peerReqs (w : Who) (kind : ReqKind) (pend : Option Nat) (ops : List PeerOp) : List Req :=
  ((ops.map (fun e => (e.sel, e.uid))).eraseDups).map (fun u =>
    { padReq w kind u.2 pend ((ops.filter (fun e => e.sel == u.1 && e.uid == u.2)).map (·.op)) with peer := u.1 })

/-- A peer access of four bytes a lane. -/
def State.peerOps (s : State) (l : Ladle) (a sb : BitVec 6) (sc : BitVec 1) (data : Nat → Word64) (lanes : List Nat) :
    Except Stop (List PeerOp) :=
  checkAll (fun j => s.peerOp l 4 j (l.padAddress (l.getS sb) (scaledOffset (laneAt (l.getV a) j) sc 4)) (data j)) lanes

/-- Requests that write the scratchpad of a ladle of another casting end restartability (R375). -/
def State.notePeers (s : State) (rs : List Req) : State :=
  if rs.any (fun r => match r.place with
      | .pad u => (match s.ladle? u with | some t => t.casting != s.me.casting | none => false)
      | _ => false)
  then s.unversion s.me.casting else s

def execLdp (k : BitVec 3) (n : BitVec 4) (d a : BitVec 6) (sb : BitVec 5) (c : BitVec 1) (s : State) : Result :=
  .next (s.laneLoad [a, d] k (.lane d) n false (fun l lanes =>
    (s.peerOps l a (baseReg sb) c (fun _ => 0) lanes).map (fun ops pend => peerReqs l.who (.load false) pend ops)))
def execStp (k : BitVec 3) (d a : BitVec 6) (sb : BitVec 5) (c : BitVec 1) (s : State) : Result :=
  .next (s.laneStore [a, d] [a, d] k (fun l lanes =>
    (s.peerOps l a (baseReg sb) c (fun j => l.data1 d j) lanes).map (fun ops => peerReqs l.who (.store false) none ops))
    (fun s rs => s.notePeers rs))

/-! ### Global raw words (R137, R138, R142, R145) -/

/-- The targets of a raw global access of `n` bytes a lane. -/
def Ladle.rawTargets (l : Ladle) (a sb : BitVec 6) (sc : BitVec 1) (n : Nat) (x y : Nat → Word64) (lanes : List Nat) :
    Except Stop (List Target) :=
  checkAll (fun j =>
    match l.globalAddress (l.getS sb) (scaledOffset (laneAt (l.getV a) j) sc n) with
    | .error e => .error e
    | .ok va => byteTarget n j va (x j) (y j)) lanes

/-- A raw global access with its checks (R139). -/
def State.rawOps (s : State) (l : Ladle) (kind : AccessKind) (declared : Bool) (a sb : BitVec 6) (sc : BitVec 1) (n : Nat)
    (x y : Nat → Word64) (lanes : List Nat) : Except Stop (List GlobalOp) :=
  match l.rawTargets a sb sc n x y lanes with
  | .error e => .error e
  | .ok ts => s.globalOps l.who kind false declared ts

def execLdg2 (k : BitVec 3) (n : BitVec 4) (d a : BitVec 6) (sb : BitVec 5) (c : BitVec 1) (s : State) : Result :=
  .next (s.laneLoad (a :: pairRegs d) k (.lanePair d) n true (fun l lanes =>
    (s.rawOps l .read false a (baseReg sb) c 8 (fun _ => 0) (fun _ => 0) lanes).map
      (fun ops pend => s.globalReqs l.who (.load false) (bypassHint (l.getS (baseReg sb))) pend ops)))
/-- The bypass hint has no effect on plain stores (R146). -/
def execStg2 (k : BitVec 3) (d a : BitVec 6) (sb : BitVec 5) (c : BitVec 1) (s : State) : Result :=
  .next (s.laneStore (a :: pairRegs d) (a :: pairRegs d) k (fun l lanes =>
    (s.rawOps l .write true a (baseReg sb) c 8 (fun j => l.data2 d j) (fun _ => 0) lanes).map
      (fun ops => s.globalReqs l.who (.store false) false none ops))
    (fun s rs => s.noteStores rs))
def execLdgs (k : BitVec 3) (n : BitVec 4) (d a : BitVec 6) (sb : BitVec 5) (c : BitVec 1) (s : State) : Result :=
  .next (s.laneLoad [a, d] k (.lane d) n false (fun l lanes =>
    (s.rawOps l .read false a (baseReg sb) c 4 (fun _ => 0) (fun _ => 0) lanes).map
      (fun ops pend => s.globalReqs l.who .syncLoad (bypassHint (l.getS (baseReg sb))) pend ops)))
/-- `stgs` ends restartability (R145). -/
def execStgs (k : BitVec 3) (d a : BitVec 6) (sb : BitVec 5) (c : BitVec 1) (s : State) : Result :=
  .next (s.laneStore [a, d] [a, d] k (fun l lanes =>
    (s.rawOps l .sync true a (baseReg sb) c 4 (fun j => l.data1 d j) (fun _ => 0) lanes).map
      (fun ops => s.globalReqs l.who .syncStore (bypassHint (l.getS (baseReg sb))) none ops))
    (fun s _ => s.unversion s.me.casting))

/-! ### Global elements (R138, R142, R257) -/

/-- The element width in force: the format of the page that holds virtual byte s[sb][56:0], translated first (R138). DESIGN CHOICE (log 68):
that page, which no lane need touch, is translated for the access's own kind, and a malformed descriptor there is a format fault before the
lanes' addresses are checked. -/
def State.globalWidth (s : State) (l : Ladle) (kind : AccessKind) (sb : BitVec 6) : Except Stop Nat :=
  let base := l.getS sb
  if bitsOf base 62 57 ≠ 0 then .error (.fault .address)
  else
    match s.physical l.who (bitsOf base 56 0) kind with
    | .error e => .error e
    | .ok (_, leaf) =>
      let d := s.desc l.part leaf.fmt
      if d.malformed false then .error (.fault .format) else .ok (fmtBits d.fmt)

/-- A lane's element: its bit address, below 2^57 bytes and aligned to its width. -/
def Ladle.elemTarget (l : Ladle) (a sb : BitVec 6) (sc : BitVec 1) (w : Nat) (x : Nat → Word64) (j : Nat) : Except Stop Target :=
  let bit : Int := 8 * ((bitsOf (l.getS sb) 56 0 : Nat) + l.addAsInt) + ((laneAt (l.getV a) j).toNat * (if sc = 1 then w else 8) : Nat)
  if bit < 0 ∨ ((2 ^ 60 : Nat) : Int) ≤ bit then .error (.fault .address)
  else if bit.toNat % w ≠ 0 then .error (.fault .alignment)
  else .ok { lane := j, bit := bit.toNat, width := w, x := x j, y := 0 }

/-- An element access to global memory with its checks. -/
def State.elemOps (s : State) (l : Ladle) (kind : AccessKind) (declared : Bool) (a sb : BitVec 6) (sc : BitVec 1)
    (x : Nat → Word64) (lanes : List Nat) : Except Stop (List GlobalOp) :=
  match s.globalWidth l kind sb with
  | .error e => .error e
  | .ok w =>
    match checkAll (l.elemTarget a sb sc w x) lanes with
    | .error e => .error e
    | .ok ts => s.globalOps l.who kind true declared ts

def execLdg (k : BitVec 3) (n : BitVec 4) (d a : BitVec 6) (sb : BitVec 5) (c : BitVec 1) (s : State) : Result :=
  .next (s.laneLoad [a, d] k (.lane d) n true (fun l lanes =>
    (s.elemOps l .read false a (baseReg sb) c (fun _ => 0) lanes).map
      (fun ops pend => s.globalReqs l.who (.load true) (bypassHint (l.getS (baseReg sb))) pend ops)))
def execStg (k : BitVec 3) (d a : BitVec 6) (sb : BitVec 5) (c : BitVec 1) (s : State) : Result :=
  .next (s.laneStore [a, d] [a, d] k (fun l lanes =>
    (s.elemOps l .write true a (baseReg sb) c (fun j => l.data1 d j) lanes).map
      (fun ops => s.globalReqs l.who (.store true) false none ops))
    (fun s rs => s.noteStores rs))

/-! ### touchg (R147) -/

/-- The place a touched byte stands for; nothing where it does not translate, or has no tile to promote. -/
def State.touchOp (s : State) (w : Who) (lane va : Nat) : List GlobalOp :=
  if 2 ^ 57 ≤ va then []
  else
    match s.physical w va .read with
    | .ok (pa, leaf) =>
      if isHost pa || isScratch pa then []
      else [{ op := { lane := lane, bytes := [pa], bit := 0, width := 8, desc := 0, scale := none, x := 0, y := 0 }, rpl := leaf.rpl }]
    | .error _ => []

/-- The walk that the first byte of a list still needs: a cluster that has not cached a page looks for it before it drops
the tile. -/
def State.walkNeeded (s : State) (w : Who) (vas : List Nat) : Option Nat :=
  vas.find? (fun va => decide (va < 2 ^ 57) && (s.cached w.cluster w.part va .read).isNone && (s.translate w.cluster w.part va .read).toOption.isSome)

/-- `touchg` drops a lane that it cannot serve; with the bypass hint it makes no access (R146, R147). -/
def execTouchg (k : BitVec 3) (a : BitVec 6) (sb : BitVec 5) (c : BitVec 1) (s : State) : Result :=
  .next (s.laneStore [a] [] k (fun l lanes =>
    let base := l.getS (baseReg sb)
    if bitsOf base 62 57 ≠ 0 then .error (.fault .address)
    else if bypassHint base then .ok []
    else
      let va := fun (j : Nat) => ((bitsOf base 56 0 : Nat) + ((scaledOffset (laneAt (l.getV a) j) c 256 : Nat) : Int) + l.addAsInt)
      let vas := (lanes.filter (fun j => decide (0 ≤ va j))).map (fun j => (j, (va j).toNat))
      match s.walkNeeded l.who (vas.map (·.2)) with
      | some v => .error (.walk v .touch)
      | none => .ok (s.globalReqs l.who .touch false none (vas.flatMap (fun e => s.touchOp l.who e.1 e.2))))
    (fun s _ => s))

/-! ### Uniform loads and stores (R148) -/

/-- The bytes of a form: fn 00 and 10 move 4, fn 01 and 11 move 8. -/
def uniformBytes (f : BitVec 2) : Nat := if f.getLsbD 0 then 8 else 4

/-- A scratchpad form's target: the ladle's own allocation, or on a control ladle a peer's (R135). -/
def State.uniformPad (s : State) (l : Ladle) (n : Nat) (addr x : Word64) : Except Stop PeerOp :=
  if l.control then s.peerOp l n 0 addr x
  else (padTarget l.pad.size n 0 addr.toNat x 0).map (fun o => { sel := none, uid := l.uid, op := o })

/-- A global form's part. -/
def State.uniformGlobal (s : State) (l : Ladle) (kind : AccessKind) (declared : Bool) (n : Nat) (base off x : Word64) :
    Except Stop (List GlobalOp) :=
  match l.globalAddress base off.toNat with
  | .error e => .error e
  | .ok va =>
    match byteTarget n 0 va x 0 with
    | .error e => .error e
    | .ok t => s.globalOps l.who kind false declared [t]

/-- A long instruction with a uniform destination. -/
def State.uniformLong (s : State) (dest : Dest) (n : BitVec 4) (isGlobal outward : Bool)
    (mk : Ladle → Except Stop (Option Nat → List Req)) : State :=
  s.longValue (fun s =>
    let p := { s.me.newPending dest n 1#32 [0, 0] with globalLoad := isGlobal }
    match mk s.me with
    | .error e => s.stopLong p e
    | .ok f => s.issueRequests outward p f)

def execSld (f : BitVec 2) (d a b : BitVec 6) (n : BitVec 4) (s : State) : Result :=
  .next (s.uniformLong (.uniform d) n (f.getLsbD 1) false (fun l =>
    if f.getLsbD 1 then
      (s.uniformGlobal l .read false (uniformBytes f) (l.getS a) (l.getS b) 0).map
        (fun ops pend => s.globalReqs l.who (.load false) (bypassHint (l.getS a)) pend ops)
    else
      (s.uniformPad l (uniformBytes f) (l.padAddress (l.getS a) (l.getS b).toNat) 0).map
        (fun o pend => peerReqs l.who (.load false) pend [o])))

def execSst (f : BitVec 2) (d a b : BitVec 6) (s : State) : Result :=
  .next (s.outward (fun s =>
    let l := s.me
    let x := l.getS d
    let reqs :=
      if f.getLsbD 1 then
        (s.uniformGlobal l .write true (uniformBytes f) (l.getS a) (l.getS b) x).map
          (fun ops => s.globalReqs l.who (.store false) false none ops)
      else
        (s.uniformPad l (uniformBytes f) (l.padAddress (l.getS a) (l.getS b).toNat) x).map
          (fun o => peerReqs l.who (.store false) none [o])
    match reqs with
    | .error e => s.stopAt e
    | .ok rs => ((s.noteStores rs).notePeers rs).issueStores rs))

/-- `spattr` sets the attribute of one page of the ladle's own allocation (R134). -/
def execSpattr (a b : BitVec 6) (s : State) : Result :=
  let off := (s.me.getS a).toNat
  if s.me.pad.size ≤ off then .next (s.castFault .padBound)
  else .next (s.done (fun l => { l with pad := { l.pad with attrs := FMap.set 0 l.pad.attrs (off / 4096) ((l.getS b).setWidth 9) } }))

end Sys2Proof.Machine
end

