-- ==== Sys2Proof/Machine/Sync.lean ====
section
/-!
DEFINITION. Atomics, reductions at memory, fences, `waita`, boards and `spawn` (R345 to R351, R387 to R403).
-/

namespace Sys2Proof.Machine

/-! ### Atomics (R388 to R391) -/

/-- An atomic: long, its operands compared in pairs in half placement, held back in shadow placement. -/
def State.laneAtomic (s : State) (regs : List (BitVec 6)) (k : BitVec 3) (d : BitVec 6) (n : BitVec 4)
    (mk : Ladle → List Nat → Except Stop (Option Nat → List Req)) (f : State → List Req → State) : State :=
  s.laneWord regs (fun s => s.outward (fun s => s.longValue (fun s =>
    let l := s.me
    if l.accessLanes k = 0 then s.done (fun l => l)
    else if !l.pairsAgree (l.accessLanes k) regs then s.castFault .checkMismatch
    else
      let p := l.newPending (.lane d) n (l.loadLanes k) (List.replicate 32 0)
      match mk l (bitsSet (l.accessLanes k) 32) with
      | .error e => s.stopLong p e
      | .ok g => (f s (g none)).issueRequests true p g)))

/-- The registers an atomic reads: `cas` (aop 7) takes a pair. -/
def atomicRegs (p : BitVec 3) (cas : Bool) (d a : BitVec 6) : List (BitVec 6) := if cas && p == 7 then [a, d, nextReg d] else [a, d]

/-- A global atomic: it ends restartability at issue (R390). -/
def State.globalAtomic (s : State) (bitForm : Bool) (p : BitVec 3) (k : BitVec 3) (n : BitVec 4) (d a : BitVec 6) (sb : BitVec 3) : State :=
  s.laneAtomic (atomicRegs p (!bitForm) d a) k d n
    (fun l lanes =>
      (s.rawOps l .sync true a (baseReg sb) 0 4 (fun j => l.data1 d j) (fun j => l.data1 (nextReg d) j) lanes).map
        (fun ops pend => s.globalReqs l.who (.atomic bitForm p) false pend ops))
    (fun s _ => s.unversion s.me.casting)

def execAtom (k : BitVec 3) (n : BitVec 4) (p : BitVec 3) (d a : BitVec 6) (sb : BitVec 3) (s : State) : Result :=
  .next (s.globalAtomic false p k n d a sb)
def execAtomb (k : BitVec 3) (n : BitVec 4) (p : BitVec 3) (d a : BitVec 6) (sb : BitVec 3) (s : State) : Result :=
  .next (s.globalAtomic true p k n d a sb)

/-- A lane's part of `atoms`: bit 63 clear names the ladle's own allocation, set a peer selector in bits [62:0] (R391). -/
def State.atomsOp (s : State) (l : Ladle) (addr x y : Word64) (j : Nat) : Except Stop PeerOp :=
  if addr.getLsbD 63 then
    (s.peerOp l 4 j (addr &&& 0x7fffffffffffffff#64) x).map (fun e => { e with op := { e.op with y := y } })
  else (padTarget l.pad.size 4 j addr.toNat x y).map (fun o => { sel := none, uid := l.uid, op := o })

def execAtoms (k : BitVec 3) (n : BitVec 4) (p : BitVec 3) (d a : BitVec 6) (sb : BitVec 3) (s : State) : Result :=
  .next (s.laneAtomic (atomicRegs p true d a) k d n
    (fun l lanes =>
      (checkAll (fun j => s.atomsOp l (l.padAddress (l.getS (baseReg sb)) (laneAt (l.getV a) j).toNat) (l.data1 d j)
        (l.data1 (nextReg d) j) j) lanes).map (fun ops pend => peerReqs l.who (.atomic false p) pend ops))
    (fun s rs => s.notePeers rs))

/-! ### redg (R392 to R395) -/

/-- Lanes that name one target are combined in increasing lane order (R393). -/
def combineRedg (p : BitVec 3) : List GlobalOp → List GlobalOp → List GlobalOp
  | [], acc => acc
  | g :: r, acc =>
    if acc.any (fun e => e.op.bytes == g.op.bytes) then
      combineRedg p r (acc.map (fun e =>
        if e.op.bytes = g.op.bytes then { e with op := { e.op with x := applyRedg p e.op.x g.op.x } } else e))
    else combineRedg p r (acc ++ [g])

/-- One contribution for each target, sent to the target's home. -/
def State.redgReqs (s : State) (w : Who) (p : BitVec 3) (index : Word32) (ops : List GlobalOp) : List Req :=
  (combineRedg p ops []).map (fun g =>
    let pa := g.op.bytes.headD 0
    { id := 0, who := w, kind := .redg p index, place := (s.placeOf (w.cluster / 32) pa g.rpl false).1, tile := tileOf pa,
      bypass := false, replica := false, rpl := false, pend := none, ops := [g.op], held := false })

/-- `redg` waits while its cluster's retry queue is full (R395). Its index is in s[sb + 8]. -/
def execRedg (k p : BitVec 3) (d a : BitVec 6) (sb : BitVec 3) (s : State) : Result :=
  let regs := if p = 3 then [a, d, nextReg d] else [a, d]
  if 64 ≤ (FMap.get [] s.retry s.me.cluster).length then .next s
  else .next (s.laneStore regs regs k
    (fun l lanes =>
      (s.rawOps l .sync true a (baseReg sb) 0 (redgBytes p) (fun j => if p = 3 then l.data2 d j else l.data1 d j) (fun _ => 0)
        lanes).map (fun ops => s.redgReqs l.who p ((l.getS (baseReg sb + 8)).setWidth 32) ops))
    (fun s _ => s.unversion s.me.casting))

/-! ### fence (R396) -/

/-- The issuing split waits in a fence, in its slot. -/
def State.fenceWait (s : State) (sc : BitVec 3) (k : BitVec 2) : State :=
  s.mapMe (fun l => { l.issued with sp := { l.sp with blocked := .fence sc k s.nextReq } })

/-- A release kind waits for the ladle's accesses at its scope; every kind lands the pending results. -/
def execFence (sc : BitVec 3) (k : BitVec 2) (s : State) : Result :=
  .next (s.closing (fun s =>
    if k ≠ 1 ∧ s.unperformed s.me.uid sc.toNat s.nextReq = true then s.fenceWait sc k else s.done (fun l => l)))

/-! ### waita (R397, R398) -/

/-- The value a `.ne` form compares with. -/
def Ladle.waitaOld (l : Ladle) (f : BitVec 2) (d : BitVec 6) : Option Word32 := if f.getLsbD 0 then some ((l.getS d).setWidth 32) else none

/-- The word that a `waita` tests, as a lane's part. -/
def waitOp (a : Nat) : LaneOp :=
  { lane := 0, bytes := [a, a + 1, a + 2, a + 3], bit := 0, width := 32, desc := 0, scale := none, x := 0, y := 0 }

/-- A scratchpad `waita`: the word is tested at its grant, after the ladle's earlier accesses to that scratchpad (R152). Where requests do not
wait, a word that meets the condition ends it at once; else the split blocks, and the test is on its way to the bank, where a peer's liveness
is judged (R13). -/
def State.waitaOnPad (s : State) (f : BitVec 2) (d : BitVec 6) (p : PeerOp) : State :=
  let old := s.me.waitaOld f d
  let off := p.op.bytes.headD 0
  let r := { padReq s.me.who (.waitTest old) p.uid none [waitOp off] with id := s.nextReq, order := s.nextReq, peer := p.sel }
  match s.padWord p.uid off with
  | some v =>
    if s.atOnce r && waitaMeets old v then (s.noteGrant r).done (fun l => l.setOutside d (v.setWidth 64))
    else ((s.mapMe Ladle.issued).blockMe (.waitaPad p.uid off old d)).submitAll [r]
  | none => ((s.mapMe Ladle.issued).blockMe (.waitaPad p.uid off old d)).submitAll [r]

/-- The test of a global word by a ladle, as a request to the word's home: a synchronising load (R398). -/
def State.waitReq (s : State) (w : Who) (pa : Nat) (old : Option Word32) : Req :=
  { id := 0, who := w, kind := .waitTest old, place := (s.placeOf (w.cluster / 32) pa false false).1, tile := tileOf pa, bypass := false,
    replica := false, rpl := false, pend := none, held := false, ops := [waitOp pa] }

/-- A global `waita`: a word of another package is an address fault (R398). Where requests do not wait, a word that meets the condition
ends it at once, but in a slice whose column realigns (R230); else the split blocks, and the test is on its way to the home. A word of slice
scratch is a use of it (R201). -/
def State.waitaOnGlobal (s : State) (f : BitVec 2) (d : BitVec 6) (pa : Nat) : State :=
  let old := s.me.waitaOld f d
  let r := { s.waitReq s.me.who pa old with id := s.nextReq, order := s.nextReq }
  let now := s.atOnce r && (s.lateAt r).isEmpty
  if isRemote pa then s.castFault .address
  else if now && s.requestPoisoned r false then s.castFault .uncorrectable
  else if now && waitaMeets old (s.mem.read32 pa) then
    (((s.noteGrant r).requestPromotes r).noteScratch r.who.casting [r]).done (fun l => l.setOutside d ((s.mem.read32 pa).setWidth 64))
  else (((s.mapMe Ladle.issued).blockMe (.waitaGlobal pa old d)).noteScratch r.who.casting [r]).submitAll [r]

/-- `waita` closes windows. -/
def execWaita (f : BitVec 2) (d a b : BitVec 6) (s : State) : Result :=
  .next (s.closing (fun s =>
    let l := s.me
    if s.valuesFull then s
    else if f.getLsbD 1 then
      match s.uniformGlobal l .read false 4 (l.getS a) (l.getS b) 0 with
      | .error e => s.stopAt e
      | .ok ops => s.waitaOnGlobal f d ((ops.flatMap (·.op.bytes)).headD 0)
    else
      match s.uniformPad l 4 (l.padAddress (l.getS a) (l.getS b).toNat) 0 with
      | .error e => s.stopAt e
      | .ok o => s.waitaOnPad f d o))

/-! ### Boards (R345 to R351) -/

/-- A board operation's request: the handle and the value. -/
def boardReq (w : Who) (kind : ReqKind) (handle value : Word64) (pend : Option Nat) : Req :=
  { id := 0, who := w, kind := kind, place := .board (handleKey handle), tile := 0, bypass := false, replica := false, rpl := false, pend := pend,
    ops := [{ lane := 0, bytes := [], bit := 0, width := 0, desc := 0, scale := none, x := handle, y := value }], held := false }

/-- `bpost` ends restartability at issue (R349, R375). -/
def execBpost (v : BitVec 2) (d a b : BitVec 6) (n : BitVec 4) (s : State) : Result :=
  .next (s.outward (fun s => s.longValue (fun s =>
    (s.unversion s.me.casting).uniformLong (.post d v) n false true (fun l =>
      .ok (fun pend => [boardReq l.who .post (l.getS a) (l.getS b) pend])))))

def execBread (d a : BitVec 6) (n : BitVec 4) (s : State) : Result :=
  .next (s.outward (fun s => s.uniformLong (.uniformPair d) n false true (fun l =>
    .ok (fun pend => [boardReq l.who .boardRead (l.getS a) 0 pend]))))

/-- A view register. -/
def Ladle.getBv (l : Ladle) (v : BitVec 2) : BitVec 256 := l.bv.get v.toFin

def execBvopTest (d : BitVec 6) (v : BitVec 2) (b : BitVec 6) (s : State) : Result :=
  .next (s.done (fun l => l.setS d (if (l.getBv v).getLsbD (bitsOf (l.getS b) 7 0) then 1 else 0)))
def execBvopCount (d : BitVec 6) (v : BitVec 2) (s : State) : Result :=
  .next (s.done (fun l => l.setS d (BitVec.ofNat 64 (popc (l.getBv v)))))
def execBvopWord (d : BitVec 6) (v : BitVec 2) (b : BitVec 6) (s : State) : Result :=
  .next (s.done (fun l => l.setS d ((l.getBv v).extractLsb' (64 * bitsOf (l.getS b) 1 0) 64)))
def execBvopAnd (d a b : BitVec 2) (s : State) : Result :=
  .next (s.done (fun l => { l with bv := l.bv.set d.toNat (l.getBv a &&& l.getBv b) d.isLt }))

/-! ### spawn (R403) -/

/-- A launch record's eight words. -/
def recordWords (m : Memory) (off : Nat) : List Word64 := (List.range 8).map (fun i => m.read64 (off + 8 * i))

/-- Spawned records a casting holds. -/
def State.spawnsOf (s : State) (uid : Nat) : List (List Word64) := ((s.castings.find? (fun c => c.uid == uid)).map (·.spawns)).getD []

/-- `spawn` captures a launch record from a scratchpad and answers whether its casting holds it. It waits for the ladle's earlier accesses to
that scratchpad, and while the scratchpad's column realigns (R152, R230). -/
def execSpawn (d a b : BitVec 6) (s : State) : Result :=
  .next (s.closing (fun s =>
    let l := s.me
    if s.valuesFull then s
    else
      match s.uniformPad l 64 (l.padAddress (l.getS a) (l.getS b).toNat) 0 with
      | .error e => s.stopAt e
      | .ok o =>
        if s.padPaused o.uid || (s.ownOutstanding l.uid).any (fun r => r.place == .pad o.uid) then s
        else
        match s.ladle? o.uid with
        | none => s.castFault .peerGone
        | some t =>
          if !t.live || t.pad.size = 0 then s.castFault .peerGone
          else
            let record := recordWords t.pad.bytes (o.op.bytes.headD 0)
            s.compared (s.me.getS a :: s.me.getS b :: record) (fun s =>
            if 16 ≤ (s.spawnsOf l.casting).length then s.done (fun l => l.setOutside d 1)
            else
              { s.done (fun l => l.setOutside d 0) with
                castings := s.castings.map (fun c =>
                  if c.uid = l.casting then { c with spawns := c.spawns ++ [record] } else c) })))

end Sys2Proof.Machine
end

