-- ==== Sys2Proof/Machine/Engine.lean ====
section
/-!
DEFINITION. What a cluster's engines share (R267 to R275, R278, R283, R289): the control ladle and its matrix state, memory
operands, translations of an engine's own, and the reads and writes an engine performs.
-/

namespace Sys2Proof.Machine

/-! ### The matrix state of a cluster (R267) -/

/-- The matrix state at dispatch: float mode, every element +0, masks zero, slots invalid, counters 0. -/
def Matrix.start : Matrix where
  z := []
  residue := Vector.replicate 8 false
  my := Vector.replicate 4 0
  mx := Vector.replicate 4 0
  md := Vector.replicate 4 0
  slots := []
  queue := []
  closed := 0
  completed := 0
  opened := 0
  depth := Vector.replicate 8 0
  status := Vector.replicate 8 0
  olds := []

def State.mat (s : State) (c : Nat) : Matrix := FMap.get Matrix.start s.matrix c
def State.setMat (s : State) (c : Nat) (m : Matrix) : State := { s with matrix := FMap.set Matrix.start s.matrix c m }
def State.modMat (s : State) (c : Nat) (f : Matrix → Matrix) : State := s.setMat c (f (s.mat c))

/-- A ladle as the maker of an engine's access, with the address a report will carry. -/
def Ladle.whoAt (l : Ladle) (pc : Word64) : Who := { l.who with pc := pc }

/-- Operations in a ladle's comparison buffer (R335). -/
def Ladle.compares (l : Ladle) : List ShadowItem := match l.shadow with | some x => x.buffer | none => []

/-! ### Translation suspension (R169) -/

/-- The work identifier of lane 0 of ladle 0 (R19). -/
def widOf (m : Mould) (index rank lane : Nat) : Word64 := BitVec.ofNat 64 (index * 2 ^ (5 + m.w1) + 32 * rank + lane)

/-- The code of an access kind in a translation record (R420). -/
def kindCode (k : AccessKind) : Nat :=
  match k with
  | .read => 0
  | .write => 1
  | .fetch => 2
  | .sync => 3
  | .touch => 0

/-- Queue a translation record: the next sequence number of the partition is its own (R420). -/
def State.queueTranslation (s : State) (p : Nat) (x : Suspension) (image wid : Word64) (mould cluster : Nat) : State × Word32 :=
  let seq := FMap.get 0 s.tqSeq p
  let w := [BitVec.ofNat 64 (x.va % 2 ^ 57 + kindCode x.kind * 2 ^ 57 + x.reason * 2 ^ 60), wid, image,
            BitVec.ofNat 64 (seq.toNat + mould % 65536 * 2 ^ 32 + cluster % 256 * 2 ^ 48)]
  ({ s with tqSeq := FMap.set 0 s.tqSeq p (seq + 1), tqWaiting := FMap.modify [] s.tqWaiting p (· ++ [w]) }, seq)

/-- Two castings of one cluster gang (R17, R20). -/
def State.sameGang (s : State) (c d : Nat) : Bool :=
  match s.gangOf c, s.gangOf d with
  | some a, some b => decide (a.1 = b.1)
  | _, _ => decide (c = d)

/-- An access of a chain or word has been made, or is given up: nothing of it stands any more. -/
def State.unstand (s : State) (number : Nat) : State := { s with standing := s.standing.filter (fun e => e.req.engine != some number) }

/-- A chain or matrix word of a suspended casting meets a page that does not translate: it stops too, and makes no record (R284). -/
def State.suspendFurther (s : State) (uid number : Nat) : State :=
  { s.unstand number with castings := s.castings.map (fun c =>
      if c.uid = uid then { c with suspension := c.suspension.map (fun x => { x with further := x.further ++ [number] }) } else c) }

/-- A casting that meets a translation it cannot make: its ladles stop, its record goes to the translation queue, and its save
waits for a free slot; the castings of its cluster gang are saved along with it (R21, R170). `unit` is the number of a chain or a
matrix word. -/
def State.suspendCasting (s : State) (w : Who) (unit : Option Nat) (va : Nat) (kind : AccessKind) (reason : Nat) : State :=
  match s.mouldOf w.casting with
  | none => s
  | some (c, g, m) =>
    if c.suspension.isSome then (match unit with | some n => s.suspendFurther c.uid n | none => s)
    else
      let s := match unit with | some n => s.unstand n | none => s
      let x : Suspension := { va := va, kind := kind, reason := reason, seq := 0, pc := w.pc, rank := w.rank, cluster := w.cluster, core := w.core, unit := unit }
      let q := s.queueTranslation c.part x g.image (widOf m c.index 0 0) c.mould w.cluster
      { q.1.mapLadles (fun l => l.live && decide (l.casting = c.uid)) (fun l => { l with stopped := true }) with
        castings := s.castings.map (fun d =>
          if d.uid = c.uid then { d with suspension := some { x with seq := q.2 } }
          else if d.state = .resident ∧ s.sameGang d.uid c.uid = true then { d with along := true }
          else d) }

/-- A chain whose access has failed: its walk has stopped (R281). A matrix word has no chain. -/
def State.failChain (s : State) (w : Who) (unit : Nat) : State :=
  { s.unstand unit with chains := s.chains.map (fun e => (e.1, e.2.map (fun c =>
      if c.who.casting = w.casting ∧ c.after = unit then { c with failed := true } else c))) }

/-- Run an access of an engine's chain or word `unit`: a translation that is not cached is walked, cached and tried again, a walk that
meets a poisoned entry raises cause 0x09 (R338), a walk that fails suspends the casting, and a check that fails raises its fault with the report of `w`. -/
def State.engineRun (w : Who) (unit : Nat) (f : State → Except Stop State) : Nat → State → State
  | 0, s => s
  | n + 1, s =>
    match f s with
    | .ok t => t
    | .error (.fault c) => (s.failChain w unit).raiseFor w.casting w.rank w.cluster w.core c w.pc
    | .error .wait => s
    | .error (.stand t) => t
    | .error (.walk va kind) =>
      let t := s.correctTables w.cluster w.part va kind
      match s.translate w.cluster w.part va kind with
      | .ok leaf => State.engineRun w unit f n (t.cacheLeaf w.cluster w.part leaf)
      | .error reason =>
        if reason = walkPoison then (t.failChain w unit).raiseFor w.casting w.rank w.cluster w.core .uncorrectable w.pc
        else if s.dropping w.casting then t.failChain w unit else t.suspendCasting w (some unit) va kind reason

/-- More translations than one engine access can need. -/
def engineFuel : Nat := 65536

/-! ### Memory operands (R289) -/

/-- Where element (0, 0) of an operand lies: a byte of a ladle's allocation, or a virtual byte. -/
structure Operand where
  pad : Option Nat
  byte : Nat
  bypass : Bool
  deriving DecidableEq, Repr

/-- The operand that a captured address names. -/
def State.operand (s : State) (l : Ladle) (isGlobal : Bool) (addr : Word64) : Except Stop Operand :=
  if isGlobal then
    if bitsOf addr 62 57 ≠ 0 then .error (.fault .address) else .ok { pad := none, byte := bitsOf addr 56 0, bypass := bypassHint addr }
  else
    match s.peerOf l addr with
    | .error e => .error e
    | .ok u => if u = 0 then .error (.fault .peerGone) else .ok { pad := some u, byte := bitsOf addr 31 0, bypass := false }

/-- The descriptor index of the page that holds a bit, when there is such a page. -/
def State.pageDesc (s : State) (w : Who) (kind : AccessKind) (o : Operand) (bit : Nat) : Option Nat :=
  match o.pad with
  | some u =>
    match s.ladle? u with
    | some t => if t.pad.size ≤ bit / 8 then none else some (attrDesc (t.pad.attr (bit / 8)))
    | none => none
  | none =>
    if 2 ^ 60 ≤ bit then none
    else
      match s.cached w.cluster w.part (bit / 8) kind with
      | some l => some l.fmt
      | none => match s.translate w.cluster w.part (bit / 8) kind with | .ok l => some l.fmt | .error _ => none

/-- A descriptor's pitch; 0 stands for the least the operand allows. -/
def Desc.pitchOr (d : Desc) (least : Nat) : Nat := if d.pitch = 0 then least else d.pitch

/-- The first selected element of an operand, at row `r`, column `c`, as a descriptor places it. -/
def Desc.first (d : Desc) (o : Operand) (least r c : Nat) : Target :=
  { lane := 0, bit := 8 * o.byte + (r * d.pitchOr least + c) * fmtBits d.fmt, width := fmtBits d.fmt, x := 0, y := 0 }

/-- Why an element has no page: it lies outside the allocation or the address space, or its page does not translate. -/
def State.noPage (s : State) (w : Who) (kind : AccessKind) (o : Operand) (g : Target) : Stop :=
  if o.pad.isSome then .fault .padBound
  else if 2 ^ 60 < g.bit + g.width then .fault .address
  else match s.place w kind g with | .error e => e | .ok _ => .fault .format

/-- The index D of R289: the descriptor of the page that holds the first selected element. L's page is tried first, then
every index. Where none fits, the fault is that of the element as L's page places it. -/
def State.operandDesc (s : State) (w : Who) (kind : AccessKind) (o : Operand) (least r c : Nat) : Except Stop Nat :=
  let own := fun (i : Nat) => s.pageDesc w kind o ((s.desc w.part i).first o least r c).bit == some i
  let here := (s.pageDesc w kind o (8 * o.byte)).getD 0
  if own here then .ok here
  else
    match (List.range 256).find? own with
    | some i => .ok i
    | none =>
      let g := (s.desc w.part here).first o least r c
      if (s.pageDesc w kind o g.bit).isSome then .error (.fault .format) else .error (s.noPage w kind o g)

/-- The column of element (0, 0) within its row is a multiple of 48 (R293, R295). -/
def Desc.blockAligned (d : Desc) (pitch byte : Nat) : Bool :=
  decide (((8 * (byte : Int) - 8 * (d.data : Int)) / (fmtBits d.fmt : Int) % (pitch : Int)) % 48 = 0)

/-- Elements of an operand: a key for each, its index, and its data. -/
structure Elem where
  key : Nat
  idx : Nat
  x : Word64
  deriving DecidableEq, Repr

/-- The bits of an element. -/
def Operand.target (o : Operand) (width : Nat) (e : Elem) : Target :=
  { lane := e.key, bit := 8 * o.byte + e.idx * width, width := width, x := e.x, y := 0 }

/-- The elements' places with every check of an operand (R289): bounds and alignment, translation, format, one descriptor. -/
def State.elemReqs (s : State) (w : Who) (write : Bool) (o : Operand) (di : Nat) (es : List Elem) : Except Stop (List Req) :=
  let width := fmtBits (s.desc w.part di).fmt
  let kind : ReqKind := if write then .store true else .load true
  match o.pad with
  | some u =>
    match s.ladle? u with
    | none => .error (.fault .peerGone)
    | some t =>
      match checkAll (fun e => elemBounds t.pad.size width (o.target width e)) es with
      | .error e => .error e
      | .ok ts =>
        match checkAll (fun g => (s.padElem w.part t.pad g).bind (fun p => if p.desc = di then .ok p else .error (.fault .format))) ts with
        | .error e => .error e
        | .ok ops => .ok [{ padReq w kind u none ops with unit := some 5 }]
  | none =>
    let check := fun (e : Elem) =>
      let t := o.target width e
      if 2 ^ 60 < t.bit + width then Except.error (Stop.fault .address)
      else if t.bit % width ≠ 0 then .error (.fault .alignment) else .ok t
    match checkAll check es with
    | .error e => .error e
    | .ok ts =>
      match checkAll (s.place w (if write then .write else .read)) ts with
      | .error e => .error e
      | .ok ps =>
        match checkAll (fun p => (s.formatOp w true (if write then .write else .read) p).bind (fun g => if g.op.desc = di then .ok g else .error (.fault .format))) ps with
        | .error e => .error e
        | .ok ops =>
          let rs := s.writeRanges w.casting
          if write && (ts.any (fun t => (List.range t.bytes).any (fun i => !inRanges rs (t.bit / 8 + i)))
              || ps.any (fun p => remoteStore .write p.bytes)) then
            .error (.fault .undeclaredWrite)
          else .ok ((s.globalReqs w kind o.bypass none ops).map (fun r => { r with unit := some 5 }))

/-! ### Reads and writes that an engine performs -/

/-- A record of an engine's access is that of a request. -/
def Standing.is (e : Standing) (r : Req) : Bool :=
  e.req.engine == r.engine && e.req.kind == r.kind && e.req.place == r.place && e.req.bytes == r.bytes

/-- The record of a request of an engine: the one it has left at its arbiter, or a new one, which arrives now. -/
def State.standingOf (s : State) (r : Req) : Standing :=
  match s.standing.find? (fun e => e.is r) with
  | some e => { e with req := { r with id := e.req.id, arrived := e.req.arrived, overdue := e.req.overdue, late := e.req.late } }
  | none => { req := { r with id := s.nextReq }, granted := false, data := [] }

/-- A request of an engine at its arbiter: it has its grant, or takes it where its place can take it and it wins (R150, R182). -/
def State.askArbiter (s : State) (r : Req) : State × Standing :=
  let e := s.standingOf r
  if e.granted then (s, e)
  else if s.placeReady e.req && s.wins e.req then (s.noteGrant e.req, { e with granted := true })
  else (s, e)

/-- The requests of an access that its chain or word has come to: what has its grant, and what stands at its arbiter. -/
def State.stands (s : State) (number : Nat) (l : List Standing) : State :=
  { s with
    standing := s.standing.filter (fun e => e.req.engine != some number) ++ l.zipIdx.map (fun e =>
      if e.1.req.arrived.isSome then e.1 else { e.1 with req := { e.1.req with id := s.nextReq + e.2, arrived := some s.ticks } }),
    nextReq := s.nextReq + l.length }

/-- The requests of a chain or word of a number. -/
def ofUnit (number : Nat) (rs : List Req) : List Req := rs.map (fun r => { r with engine := some number })

/-- The checks of one request of an engine at its place of performance. Scratchpad accesses of the engines carry no race tag (R234,
R275). -/
def State.engineCheck (s : State) (write : Bool) (r : Req) : Except Stop Unit :=
  match r.place with
  | .pad _ => if s.targetGone r then .error (.fault .peerGone) else .ok ()
  | _ => match s.slotCheck r write with | some c => .error (.fault c) | none => .ok ()

/-- What an engine's access does in the store and in the tags. Its maker keeps the counts that it had as the word or the chain was issued
(R283). -/
def State.engineAccess (s : State) (write : Bool) (r : Req) : State := if r.place.isPad then s else s.accessed r write

/-- What a performed read gives: for each element its key, its code, and its scale byte. -/
def State.readCodes (s : State) (rs : List Req) : List (Nat × Nat × Option Nat) :=
  rs.flatMap (fun r => r.movers.map (fun o => (o.lane, opCode (s.viewByte r) o, o.scale.map (fun a => (s.scaleView r o a).toNat))))

/-- The plain reads of an engine's access, one grant after another: each is performed at its grant, in memory as `view` sees it, and one of
slice scratch counts as its casting's (R201). A read that has no grant stands at its arbiter with those that have theirs. -/
def State.engineReads (number : Nat) (view : State → State) : List Req → List Standing → State → Except Stop (State × List Standing)
  | [], acc, s => .ok (s, acc)
  | r :: rs, acc, s =>
    let a := s.askArbiter r
    if !a.2.granted then .error (.stand (a.1.stands number (acc ++ [a.2])))
    else if (s.standingOf r).granted then State.engineReads number view rs (acc ++ [a.2]) s
    else
      match a.1.engineCheck false r with
      | .error e => .error e
      | .ok _ =>
        let t := (a.1.engineAccess false r).noteScratch r.who.casting [r]
        State.engineReads number view rs (acc ++ [{ a.2 with req := { a.2.req with late := s.lateAt r }, data := (view t).readCodes [r] }]) t

/-- All reads of an access: they are there when no realignment holds their data (R230). -/
def State.engineFetch (s : State) (number : Nat) (view : State → State) (rs : List Req) : Except Stop (State × List Standing) :=
  match State.engineReads number view (ofUnit number rs) [] s with
  | .error e => .error e
  | .ok (t, l) => if l.any (fun e => e.req.late.any t.busStill) then .error (.stand (t.stands number l)) else .ok (t, l)

/-- The data of reads that have been performed. -/
def fetched (l : List Standing) : List (Nat × Nat × Option Nat) := l.flatMap (·.data)

/-- The effects of an engine's plain write: promotion and tags, then the bytes of its lanes in order; each lane's datum is the code it
writes, but for a REDUCE, which writes an element. One whose data a realignment holds is performed when that ends (R230). -/
def State.engineWrite (s : State) (r : Req) : State :=
  let t := (r.movers.foldl (fun t o => t.storeOp r (r.kind.elemStore && r.unit == some 6) o) (s.engineAccess true r)).written r
  match s.lateAt r with
  | [] => t
  | late => { t with returning := t.returning ++ [(r.place.slice?.getD 0, { r with late := late }, [])] }

/-- An engine's writes end restartability where they have no version (R375): replicas, slice scratch, host memory, and the
scratchpad of a ladle of another casting. -/
def State.noteEngine (s : State) (casting : Nat) (rs : List Req) : State :=
  let away := rs.any (fun r => match r.place with
    | .pad u => (match s.ladle? u with | some t => t.casting != casting | none => false)
    | _ => false)
  if unversionedStore rs || away then s.unversion casting else s

/-- The grants of an access's writes, after the reads in `acc`. DESIGN CHOICE (log 82): none is performed before every one has its grant. -/
def State.askAll (number : Nat) : List Req → List Standing → State → Except Stop State
  | [], _, s => .ok s
  | r :: rs, acc, s =>
    let a := s.askArbiter r
    if a.2.granted then State.askAll number rs (acc ++ [a.2]) a.1 else .error (.stand (a.1.stands number (acc ++ [a.2])))

/-- The writes of an access up to their performance: every grant, then every check. -/
def State.engineGrants (s : State) (number : Nat) (acc : List Standing) (rs : List Req) : Except Stop State :=
  match State.askAll number (ofUnit number rs) acc s with
  | .error e => .error e
  | .ok t => (checkAll (t.engineCheck true) rs).map (fun _ => t)

/-- Writes that have their grants and have passed their checks, in their order. -/
def State.performWrites (s : State) (number casting : Nat) (rs : List Req) : State :=
  ((((ofUnit number rs).foldl State.engineWrite s).noteEngine casting rs).noteScratch casting rs).unstand number

/-- The writes of an access: every grant, then every check, then the writes in their order. -/
def State.engineWrites (s : State) (number casting : Nat) (acc : List Standing) (rs : List Req) : Except Stop State :=
  (s.engineGrants number acc rs).map (fun t => t.performWrites number casting rs)

/-! ### Words of a batch in memory (R275) -/

/-- The bytes that a drain's requests write, as they stand before it. -/
def State.oldBytes (s : State) (batch : Nat) (rs : List Req) : List (Nat × Nat × Nat × Byte) :=
  rs.flatMap (fun r => r.movers.flatMap (fun o => o.bytes.map (fun a => (batch, r.place.padUid, a, s.viewByte r a))))

/-- A drain remembers what it overwrites, until its batch completes. -/
def Matrix.remember (m : Matrix) (olds : List (Nat × Nat × Nat × Byte)) : Matrix :=
  { m with olds := olds ++ m.olds.filter (fun e => !olds.any (fun f => f.2.1 == e.2.1 && f.2.2.1 == e.2.2.1)) }

/-- Put an old byte back: into an allocation, or for global memory into a casting's version or slice scratch. -/
def State.putOld (s : State) (casting pad a : Nat) (b : Byte) : State :=
  if pad ≠ 0 then s.modLadle pad (fun t => { t with pad := { t.pad with bytes := t.pad.bytes.write a b } })
  else if isHbm a then s.writeVersion (s.homeOf a) casting a b
  else { s with mem := s.mem.write a b }

/-- Memory as a matrix word reads it: of each aligned 8-byte word that a drain of a batch not yet complete has written, the old or the new
value, which of the two is a free value (R275). -/
def State.asRead (s : State) (cluster casting : Nat) : State :=
  (s.mat cluster).olds.foldl (fun t e =>
    if Sys2Proof.Config.readsOld s.free e.2.1 (e.2.2.1 / 8) then t.putOld casting e.2.1 e.2.2.1 e.2.2.2 else t) s

/-- The state after a matrix read, which has used its free choice where a drain's bytes stood open. -/
def State.afterRead (s : State) (cluster : Nat) : State := if (s.mat cluster).olds.isEmpty then s else { s with free := s.free + 1 }

/-- The reads of a matrix word (R275). -/
def State.matrixReads (s : State) (l : Ladle) (number : Nat) (rs : List Req) : Except Stop (State × List (Nat × Nat × Option Nat)) :=
  (s.engineFetch number (fun t => t.asRead l.cluster l.casting) rs).map (fun r => ((r.1.unstand number).afterRead l.cluster, fetched r.2))

end Sys2Proof.Machine
end

