-- ==== Sys2Proof/Machine/CopyEngine.lean ====
section
/-!
DEFINITION. The copy engine: `chain` and `chainq`, chain entries and their walk, transfers, and `amax` (R233, R234, R241,
R278 to R285, R303 to R305).
-/

namespace Sys2Proof.Machine

/-! ### chain (R234, R278, R304) -/

/-- The chains of a cluster's engine, the first started first. -/
def State.chainList (s : State) (cluster : Nat) : List Chain := FMap.get [] s.chains cluster

/-- A chain at its first entry. -/
def Chain.begin_ (l : Ladle) (source start off after : Nat) : Chain :=
  { source := source, start := start, off := off, pass := 0, loop := none, srcStride := 0, dstStride := 0, entry := [],
    after := after, progress := 0, waiting := false, who := l.who }

/-- The allocation and the byte a chain address names: the ladle's own, or on a control ladle a peer's (R304). A peer that is gone is found
at the grant of the first fetch, and its allocation bounds nothing before that (R13). -/
def State.chainSource (s : State) (l : Ladle) (addr : Word64) : Except Stop (Nat × Nat) :=
  let at_ := fun (u : Nat) (size : Option Nat) (off : Nat) =>
    if off % 32 ≠ 0 then Except.error (Stop.fault .alignment)
    else if size.any (fun n => decide (n ≤ off)) then .error (.fault .padBound)
    else .ok (u, off)
  if l.control then
    (s.peerOf l addr).bind (fun u => at_ u (((s.ladle? u).filter (fun t => t.live && t.pad.size != 0)).map (·.pad.size)) (bitsOf addr 31 0))
  else at_ l.uid (some l.pad.size) addr.toNat

/-- `chain` waits while the eight slots are busy. -/
def execChain (a : BitVec 6) (s : State) : Result :=
  let l := s.me
  let cs := s.chainList l.cluster
  .next (if 8 ≤ cs.length then s
    else
      match s.chainSource l (l.getS a) with
      | .error e => s.stopAt e
      | .ok (u, off) => s.compared [l.getS a] (fun s =>
        { s.done (fun l => l) with
          chains := FMap.set [] s.chains l.cluster (cs ++ [Chain.begin_ l u (l.getS a).toNat off s.nextReq]),
          nextReq := s.nextReq + 1 }))

/-- The answer of `chainq` (R305). -/
def State.chainWord (s : State) (l : Ladle) (start : Nat) : Word64 :=
  let cs := s.chainList l.cluster
  let free := (8 - cs.length) * 2 ^ 32
  match cs.find? (fun c => decide (c.who.ladle = l.uid) && decide (c.start = start)) with
  | some c => BitVec.ofNat 64 ((if c.waiting then 2 ^ 63 else 2 ^ 62) + free + c.off)
  | none => BitVec.ofNat 64 free

def execChainq (d a : BitVec 6) (n : BitVec 4) (s : State) : Result :=
  .next (s.longValue (fun s =>
    let p := s.me.newPending (.uniform d) n 1#32 [s.chainWord s.me (s.me.getS a).toNat, 0]
    (s.mapMe (fun l => l.queueValue (some p.id) [])).issueLong p))

/-! ### amax (R241, R303) -/

/-- `amax` at the slot's home; `amax.clr` also clears, and is an outward operation. -/
def State.amaxLong (s : State) (clear : Bool) (d a : BitVec 6) (n : BitVec 4) : State :=
  s.uniformLong (.uniform d) n false clear (fun l =>
    let i := (l.getS a).toNat
    if 127 < i then .error (.fault .address)
    else .ok (fun pend => [{ id := 0, who := l.who, kind := .amaxRead clear, place := .amax (l.part * 128 + i), tile := 0,
                             bypass := false, replica := false, rpl := false, pend := pend, ops := [], held := false }]))

def execAmax (d a : BitVec 6) (n : BitVec 4) (s : State) : Result := .next (s.amaxLong false d a n)
def execAmaxClr (d a : BitVec 6) (n : BitVec 4) (s : State) : Result := .next (s.outward (fun s => s.amaxLong true d a n))

/-! ### Entries (R233, R279, R281) -/

/-- Kinds of entries. -/
def entryKind (w : List Word64) : Nat := bitsOf (w.getD 0 0) 3 0

/-- Reserved bits of words 0 to 3 of an entry, by kind; none for an unassigned kind. -/
def entryReservedBits (kind : Nat) : Option (Word64 × Word64 × Word64 × Word64) :=
  let all : Word64 := BitVec.allOnes 64
  match kind with
  | 0 => some (fieldMask 63 4, all, all, all)
  | 1 => some (fieldMask 7 4 ||| fieldMask 63 32, 0, 0, fieldMask 63 2)
  | 2 => some (fieldMask 7 4 ||| fieldMask 63 32, 0, fieldMask 63 32, fieldMask 1 1 ||| fieldMask 31 7)
  | 3 => some (fieldMask 63 4, 0, fieldMask 63 32, all)
  | 4 => some (fieldMask 7 4 ||| fieldMask 63 16, fieldMask 63 32, 0, 0)
  | 5 => some (fieldMask 7 4 ||| fieldMask 15 11 ||| fieldMask 63 24, 0, fieldMask 63 32, all)
  | 6 => some (fieldMask 7 4 ||| fieldMask 63 36, 0, 0, fieldMask 63 2)
  | 7 => some (fieldMask 7 4 ||| fieldMask 63 11, 0, fieldMask 63 32, all)
  | _ => none

/-- Length in bytes or elements, body length, condition, skip and operation of an entry. -/
def entryLength (w : List Word64) : Nat := bitsOf (w.getD 0 0) 31 8
def entryBody (w : List Word64) : Nat := bitsOf (w.getD 0 0) 15 8
def entryCond (w : List Word64) : Nat := bitsOf (w.getD 0 0) 10 8
def entrySkip (w : List Word64) : Nat := bitsOf (w.getD 0 0) 23 16
def entryOp (w : List Word64) : Nat := bitsOf (w.getD 0 0) 35 32

/-- An entry that stops the walk with an illegal-instruction fault (R281); a nested LOOP is looked for in the walk. -/
def entryBad (w : List Word64) : Bool :=
  match entryReservedBits (entryKind w) with
  | none => true
  | some (a, b, c, d) =>
    !((w.getD 0 0 &&& a == 0) && (w.getD 1 0 &&& b == 0) && (w.getD 2 0 &&& c == 0) && (w.getD 3 0 &&& d == 0))
    || (match entryKind w with
        | 1 => decide (entryLength w = 0)
        | 2 => decide (entryLength w = 0)
        | 4 => decide (entryBody w = 0)
        | 5 => decide (3 < entryCond w) || decide (entrySkip w = 0)
        | 6 => decide (entryLength w = 0) || decide (3 < entryOp w)
        | 7 => decide (3 < entryCond w)
        | _ => false)

/-- A chain of a cluster that may go on: its starting ladle lives and has not been stopped, and its earlier accesses are performed.
While its casting is being saved it completes the entry in progress, and runs on to its stop for an `exit` that waits for it
(R171, R278, R284). -/
def State.chainAt (s : State) (cluster n : Nat) : Option (Ladle × Chain) :=
  match (s.chainList cluster)[n]? with
  | none => none
  | some c =>
    match s.ladle? c.who.ladle with
    | some l =>
      if !l.live || !s.chainRuns l c || !c.begins l || s.earlierOutstanding l.uid c.after
          || s.stuck l.casting c.after then none
      else some (l, c)
    | none => none

def State.setChain (s : State) (cluster n : Nat) (c : Chain) : State :=
  { s with chains := FMap.set [] s.chains cluster ((s.chainList cluster).set n c) }

/-- The chain has ended: its slot is free. -/
def State.dropChain (s : State) (cluster n : Nat) : State :=
  { s with chains := FMap.set [] s.chains cluster ((s.chainList cluster).eraseIdx n) }

/-- An entry's words in an allocation. -/
def entryWords (m : Memory) (off : Nat) : List Word64 := (List.range 4).map (fun i => m.read64 (off + 8 * i))

/-- The entry of a chain as its allocation holds it: the words already fetched, or those that a fetch now would give (R280). -/
def State.fetchEntry (s : State) (c : Chain) : Except Stop (List Word64) :=
  if c.entry ≠ [] then .ok c.entry
  else
    match s.ladle? c.source with
    | none => .error (.fault .peerGone)
    | some t =>
      if !t.live || t.pad.size = 0 then .error (.fault .peerGone)
      else if t.pad.size < c.off + 32 then .error (.fault .padBound)
      else
        let w := entryWords t.pad.bytes c.off
        if entryBad w then .error (.fault .illegal) else .ok w

/-- A read or write of a chain in one allocation, as a request to its bank arbiters (R150, R278). -/
def Chain.padReq (c : Chain) (kind : ReqKind) (u : Nat) (ops : List LaneOp) : Req :=
  { Machine.padReq c.who kind u none ops with unit := some 6 }

/-- The data that a chain reads in an allocation, one code for each lane. -/
def State.chainRead (s : State) (c : Chain) (u : Nat) (ops : List LaneOp) : Except Stop (State × List Nat) :=
  (s.engineFetch c.after (fun t => t) [c.padReq (.load false) u ops]).map (fun r => (r.1.unstand c.after, (fetched r.2).map (·.2.1)))

/-- The four words of an entry, as lanes of one read. -/
def entryOps (off : Nat) : List LaneOp :=
  (List.range 4).map (fun i => { lane := i, bytes := (List.range 8).map (off + 8 * i + ·), bit := 0, width := 64, desc := 0, scale := none,
                                 x := 0, y := 0 })

/-- A chain fetches its entry, once: the read is a request like another, and a fetch that cannot be made stops the walk (R278, R281). -/
def State.fetchStep (s : State) (cluster n : Nat) (c : Chain) : State :=
  if c.entry ≠ [] then s
  else
    State.engineRun c.who c.after (fun s =>
      if (s.ladle? c.source).any (fun t => t.live && t.pad.size != 0 && decide (t.pad.size < c.off + 32)) then .error (.fault .padBound)
      else
        match s.chainRead c c.source (entryOps c.off) with
        | .error e => .error e
        | .ok (t, codes) =>
          let w := codes.map (BitVec.ofNat 64)
          if entryBad w then .error (.fault .illegal) else .ok (t.setChain cluster n { c with entry := w })) 1 s

/-- Go to the entry at an offset; passing the enclosing LOOP ends the loop (R280). -/
def Chain.goTo (c : Chain) (off : Nat) : Chain :=
  let c := { c with off := off, entry := [], progress := 0, waiting := false, watch := none, met := false }
  match c.loop with
  | some e => if e < off then { c with loop := none, pass := 0, srcStride := 0, dstStride := 0 } else c
  | none => c

def Chain.next (c : Chain) : Chain := c.goTo (c.off + 32)

/-! ### Transfers (R278, R279, R283) -/

/-- One side of an entry: a scratchpad's ladle and offset, or a virtual address. -/
structure Side where
  pad : Option Nat
  at_ : Nat
  bypass : Bool
  deriving DecidableEq, Repr

/-- The side an address names: a peer selector of the casting, or a global address (R233). -/
def State.side (s : State) (l : Ladle) (isPad : Bool) (addr : Word64) : Except Stop Side :=
  (s.operand l (!isPad) addr).map (fun o => { pad := o.pad, at_ := o.byte, bypass := o.bypass })

/-- Addresses of an entry with the strides of its LOOP. -/
def Chain.srcAddr (c : Chain) (w : List Word64) : Word64 := w.getD 1 0 + BitVec.ofNat 64 c.pass * c.srcStride
def Chain.dstAddr (c : Chain) (w : List Word64) : Word64 := w.getD 2 0 + BitVec.ofNat 64 c.pass * c.dstStride

/-- A peer selector for rank `r` with an MCAST's gang bits (R279). -/
def mcastSelector (w3 : Word64) (r : Nat) (off : Word64) : Word64 :=
  BitVec.ofNat 64 (bit (w3.getLsbD 2) * 2 ^ 41 + bitsOf w3 6 3 * 2 ^ 37 + r * 2 ^ 32 + bitsOf off 31 0)

/-- The source and the destinations of a COPY or MCAST. An MCAST offset with its stride stays below 2^32. -/
def State.copySides (s : State) (l : Ladle) (c : Chain) (w : List Word64) : Except Stop (Side × List Side) :=
  let w3 := w.getD 3 0
  match s.side l (w3.getLsbD 0) (c.srcAddr w) with
  | .error e => .error e
  | .ok src =>
    if entryKind w = 2 then
      if bitsOf (c.dstAddr w) 63 32 ≠ 0 then .error (.fault .padBound)
      else
        (checkAll (fun r => s.side l true (mcastSelector w3 r (c.dstAddr w))) (bitsSet (w3.extractLsb' 32 32) 32)).map
          (fun ds => (src, ds))
    else (s.side l (w3.getLsbD 1) (c.dstAddr w)).map (fun d => (src, [d]))

/-- The places of `k` bytes of a side from its byte `i` on, as one request for each tile. -/
def State.sideReqs (s : State) (w : Who) (write : Bool) (x : Side) (i k : Nat) : Except Stop (List Req) :=
  let kind : ReqKind := if write then .store false else .load false
  let op := fun (j b : Nat) => ({ lane := j, bytes := [b], bit := 0, width := 8, desc := 0, scale := none, x := 0, y := 0 } : LaneOp)
  match x.pad with
  | some u =>
    match s.ladle? u with
    | none => .error (.fault .peerGone)
    | some t =>
      if t.pad.size < x.at_ + i + k then .error (.fault .padBound)
      else .ok [{ padReq w kind u none ((List.range k).map (fun j => op j (x.at_ + i + j))) with unit := some 6 }]
  | none =>
    if 2 ^ 57 < x.at_ + i + k then .error (.fault .address)
    else
      match checkAll (fun j => (s.physical w (x.at_ + i + j) (if write then .write else .read)).map (fun p =>
          ({ op := op j p.1, rpl := p.2.rpl } : GlobalOp))) (List.range k) with
      | .error e => .error e
      | .ok ops =>
        let rs := s.writeRanges w.casting
        if write && ((List.range k).any (fun j => !inRanges rs (x.at_ + i + j)) || ops.any (fun g => remoteStore .write g.op.bytes)) then
          .error (.fault .undeclaredWrite)
        else .ok ((s.globalReqs w kind (x.bypass && !write) none ops).map (fun r => { r with unit := some 6 }))

/-- Bytes of the next transfer: within one source tile and one destination tile. -/
def transferLength (src dst i n : Nat) : Nat := min (n - i) (min (256 - (src + i) % 256) (256 - (dst + i) % 256))

/-- Requests with the data that their lanes write. -/
def withData (codes : List (Nat × Nat × Option Nat)) (rs : List Req) : List Req :=
  rs.map (fun r => { r with ops := r.ops.map (fun o =>
    { o with x := BitVec.ofNat 64 (((codes.find? (fun e => e.1 == o.lane)).map (·.2.1)).getD 0) }) })

/-- The next transfer of a COPY or MCAST: the state after it, and the bytes it moved. -/
def State.copyOnce (s : State) (l : Ladle) (c : Chain) (w : List Word64) : Except Stop (State × Nat) :=
  match s.copySides l c w with
  | .error e => .error e
  | .ok (src, dsts) =>
    match dsts with
    | [] => .ok (s, entryLength w)
    | d :: _ =>
      let k := transferLength src.at_ d.at_ c.progress (entryLength w)
      match s.sideReqs c.who false src c.progress k with
      | .error e => .error e
      | .ok rs =>
        match checkAll (fun d => s.sideReqs c.who true d c.progress k) dsts with
        | .error e => .error e
        | .ok ws =>
          match s.engineFetch c.after (fun t => t) rs with
          | .error e => .error e
          | .ok (t, l) => (t.engineWrites c.after c.who.casting l (withData (fetched l) ws.flatten)).map (fun u => (u, k))

/-! ### REDUCE (R282) -/

/-- The descriptor index of the page that holds a side's first byte. -/
def State.sideDesc (s : State) (w : Who) (kind : AccessKind) (x : Side) : Except Stop Nat :=
  match x.pad with
  | some u =>
    match s.ladle? u with
    | none => .error (.fault .peerGone)
    | some t => if t.pad.size ≤ x.at_ then .error (.fault .padBound) else .ok (attrDesc (t.pad.attr x.at_))
  | none => (s.physical w x.at_ kind).map (·.2.fmt)

/-- The place of element `i` of a side, with its own page's descriptor. -/
def State.reduceReq (s : State) (w : Who) (write : Bool) (x : Side) (i : Nat) : Except Stop Req :=
  match s.sideDesc w (if write then .write else .read) x with
  | .error e => .error e
  | .ok di =>
    let width := fmtBits (s.desc w.part di).fmt
    let t : Target := { lane := 0, bit := 8 * x.at_ + i * width, width := width, x := 0, y := 0 }
    let kind : ReqKind := if write then .store true else .load true
    match x.pad with
    | some u =>
      match s.ladle? u with
      | none => .error (.fault .peerGone)
      | some l =>
        ((elemBounds l.pad.size width t).bind (fun t => s.padElem w.part l.pad t)).map (fun o => { padReq w kind u none [o] with unit := some 6 })
    | none =>
      if 2 ^ 60 < t.bit + width then .error (.fault .address)
      else if t.bit % width ≠ 0 then .error (.fault .alignment)
      else
        match s.place w (if write then .write else .read) t with
        | .error e => .error e
        | .ok p =>
          match s.formatOp w true .read p with
          | .error e => .error e
          | .ok g =>
            let rs := s.writeRanges w.casting
            if write && ((List.range t.bytes).any (fun j => !inRanges rs (t.bit / 8 + j)) || remoteStore .write p.bytes) then
              .error (.fault .undeclaredWrite)
            else match s.globalReqs w kind (x.bypass && !write) none [g] with
              | r :: _ => .ok { r with unit := some 6 }
              | [] => .error (.fault .address)

/-- Kinds of page for the pairing rule: none for raw 32-bit, true for an integer page. -/
def integerPage (fmt : Nat) : Option Bool := if fmt = 0 then none else some (decide (fmt = 9) || decide (fmt = 10))

/-- The pairing of a REDUCE is a format fault. -/
def reduceBad (op src dst : Nat) : Bool :=
  (match integerPage src, integerPage dst with | some a, some b => a != b | _, _ => false)
  || (decide (op = 3) && (integerPage src == some false || integerPage dst == some false))

/-- What a REDUCE writes back, from the decoded destination and source. -/
def reduceValue (op : Nat) (dst src : Word32) : Word32 :=
  match op with
  | 0 => src
  | 1 => (addF32 .ne dst src).1
  | 2 => (minMaxF32 true false dst src).1
  | _ => dst + src

/-- The value of an element that has been read. -/
def State.elemValue (s : State) (part desc : Nat) (e : Option (Nat × Nat × Option Nat)) : Word32 :=
  let d := s.desc part desc
  match e with
  | some (_, code, scale) => loadElem d.fmt (s.bookEntry part d.codebook) scale code
  | none => 0

/-- Element `progress` of a REDUCE: the source, and but for a conversion the destination, then the write. -/
def State.reduceOnce (s : State) (l : Ladle) (c : Chain) (w : List Word64) : Except Stop (State × Nat) :=
  let w3 := w.getD 3 0
  match s.side l (w3.getLsbD 0) (c.srcAddr w), s.side l (w3.getLsbD 1) (c.dstAddr w) with
  | .ok src, .ok dst =>
    match s.reduceReq c.who false src c.progress, s.reduceReq c.who true dst c.progress with
    | .ok r, .ok q =>
      match r.ops, q.ops with
      | ro :: _, qo :: _ =>
        let d := s.desc c.who.part qo.desc
        if reduceBad (entryOp w) (s.desc c.who.part ro.desc).fmt d.fmt then .error (.fault .format)
        else
          match s.engineFetch c.after (fun t => t) (if entryOp w = 0 then [r] else [r, { q with kind := .load true }]) with
          | .error e => .error e
          | .ok (t, l) =>
            let codes := fetched l
            let x := reduceValue (entryOp w) (s.elemValue c.who.part qo.desc codes[1]?) (s.elemValue c.who.part ro.desc codes[0]?)
            (t.engineWrites c.after c.who.casting l [{ q with ops := [{ qo with x := x.setWidth 64 }] }]).map (fun u => (u, 1))
      | _, _ => .error (.fault .address)
    | .error e, _ => .error e
    | _, .error e => .error e
  | .error e, _ => .error e
  | _, .error e => .error e

/-! ### The walk (R280) -/

/-- An entry that moves data. -/
def movesData (w : List Word64) : Bool := [1, 2, 6].contains (entryKind w)

/-- One transfer of the entry in progress. -/
def State.transferOnce (s : State) (cluster n : Nat) (l : Ladle) (c : Chain) : Except Stop State :=
  if movesData c.entry && decide (c.progress < entryLength c.entry) then
    (if entryKind c.entry = 6 then s.reduceOnce l c c.entry else s.copyOnce l c c.entry).map (fun r =>
      r.1.setChain cluster n { c with progress := c.progress + r.2 })
  else .ok s

/-- The allocations whose bytes an entry reads or writes. -/
def State.entryPads (s : State) (l : Ladle) (c : Chain) (w : List Word64) : List Nat :=
  let word := match s.operand l false (w.getD 1 0) with | .ok o => o.pad.toList | .error _ => []
  match entryKind w with
  | 3 => word
  | 5 => word
  | 7 => word
  | 6 =>
    let side := fun (b : Bool) (a : Word64) => match s.side l b a with | .ok x => x.pad.toList | .error _ => []
    side ((w.getD 3 0).getLsbD 0) (c.srcAddr w) ++ side ((w.getD 3 0).getLsbD 1) (c.dstAddr w)
  | _ => match s.copySides l c w with | .ok (x, ys) => (x :: ys).filterMap (·.pad) | .error _ => []

/-- A chain waits while a column that its entry's data cross realigns (R229). -/
def State.chainPaused (s : State) (l : Ladle) (c : Chain) : Bool :=
  s.padPaused c.source ||
  (match s.fetchEntry c with | .ok w => (s.entryPads l c w).any s.padPaused | .error _ => false)

/-- A chain's progress in its entry. -/
def State.chainProgress (s : State) (cluster n : Nat) : Nat := (((s.chainList cluster)[n]?).map (·.progress)).getD 0

/-- Go on with the entry of a chain, which is fetched first; no fetch or access begins while a column it crosses realigns. -/
def State.onEntry (s : State) (cluster n : Nat) (fuel : Nat) (f : State → Ladle → Chain → Except Stop State) : State :=
  match s.chainAt cluster n with
  | none => s
  | some (l, c) =>
    if s.chainPaused l c then s
    else
      let t := s.fetchStep cluster n c
      match t.chainAt cluster n with
      | some (l, c) => if c.entry.isEmpty then t else State.engineRun c.who c.after (fun s => f s l c) fuel t
      | none => t

/-- CHAIN_TRANSFER: one transfer of at most 256 bytes, or one element of a REDUCE. -/
def State.chainStep (s : State) (cluster n : Nat) : State :=
  s.onEntry cluster n engineFuel (fun s l c => s.transferOnce cluster n l c)

def execChainTransfer (cluster chain : Nat) (s : State) : Result := .next (s.chainStep cluster chain)

/-- The transfers that an entry still has, until they are done or one stops. -/
def State.chainRest (cluster n : Nat) : Nat → State → State
  | 0, s => s
  | fuel + 1, s =>
    let t := s.chainStep cluster n
    if t.chainProgress cluster n ≤ s.chainProgress cluster n then t else State.chainRest cluster n fuel t

/-- The entry of a chain is of a kind, and can run. -/
def State.entryIs (s : State) (kind cluster n : Nat) : Option (Ladle × Chain × Except Stop (List Word64)) :=
  match s.chainAt cluster n with
  | none => none
  | some (l, c) =>
    if s.chainPaused l c then none
    else match s.fetchEntry c with
    | .ok w => if entryKind w = kind then some (l, c, .ok w) else none
    | .error e => some (l, c, .error e)

/-- COPY, MCAST and REDUCE complete when their last write has been performed, with its fold (R266). A fetch that fails stops the walk here. -/
def State.dataEntry (s : State) (kind cluster n : Nat) : State :=
  match s.entryIs kind cluster n with
  | none => s
  | some (_, c, .error _) => s.fetchStep cluster n c
  | some (_, _, .ok w) =>
    let t := State.chainRest cluster n (entryLength w + 1) s
    match (t.chainList cluster)[n]? with
    | some c => if c.entry = w ∧ entryLength w ≤ c.progress ∧ t.engineOutstanding c.after = false then t.setChain cluster n c.next else t
    | none => t

def execCopyEntry (cluster chain : Nat) (s : State) : Result := .next (s.dataEntry 1 cluster chain)
def execMcastEntry (cluster chain : Nat) (s : State) : Result := .next (s.dataEntry 2 cluster chain)
def execReduceEntry (cluster chain : Nat) (s : State) : Result := .next (s.dataEntry 6 cluster chain)

/-- Run an entry that moves no data: its effect on the state and the chain; a fault stops the walk. -/
def State.controlEntry (s : State) (kind cluster n : Nat)
    (f : State → Ladle → Chain → List Word64 → Except Stop (State × Option Chain)) : State :=
  match s.entryIs kind cluster n with
  | none => s
  | some _ => s.onEntry cluster n 1 (fun s l c =>
      (f s l c c.entry).map (fun r => match r.2 with | some c => r.1.setChain cluster n c | none => r.1.dropChain cluster n))

/-- The scratchpad word an entry names: the target and its offset. -/
def State.entryWord (s : State) (l : Ladle) (addr : Word64) : Except Stop (Ladle × Nat) :=
  match s.operand l false addr with
  | .error e => .error e
  | .ok o =>
    match o.pad.bind s.ladle? with
    | none => .error (.fault .peerGone)
    | some t =>
      if t.pad.size < o.byte + 4 then .error (.fault .padBound)
      else if o.byte % 4 ≠ 0 then .error (.fault .alignment)
      else .ok (t, o.byte)

/-- The four bytes of a word, as a lane of one access. -/
def wordOp (off : Nat) : LaneOp :=
  { lane := 0, bytes := (List.range 4).map (off + ·), bit := 0, width := 32, desc := 0, scale := none, x := 0, y := 0 }

/-- The scratchpad word that an entry names, read at its grant. -/
def State.chainWord32 (s : State) (l : Ladle) (c : Chain) (addr : Word64) : Except Stop (State × Ladle × Nat × Word32) :=
  (s.entryWord l addr).bind (fun t =>
    (s.chainRead c t.1.uid [wordOp t.2]).map (fun r => (r.1, t.1, t.2, BitVec.ofNat 32 (r.2.headD 0))))

/-- SIGNAL writes its word; every earlier entry has been performed, with its folds (R266, R386). -/
def execSignalEntry (cluster chain : Nat) (s : State) : Result :=
  .next (s.controlEntry 3 cluster chain (fun s l c w =>
    if s.engineOutstanding c.after then .error .wait
    else (s.entryWord l (w.getD 1 0)).bind (fun t =>
      (s.engineWrites c.after c.who.casting []
        [c.padReq (.store false) t.1.uid [{ wordOp t.2 with x := BitVec.ofNat 64 (bitsOf (w.getD 2 0) 31 0) }]]).map (fun u => (u, some c.next)))))

/-- The words of another LOOP in a body, as the allocation holds them. -/
def State.nestedLoop (s : State) (c : Chain) (b : Nat) : Bool :=
  match s.ladle? c.source with
  | some t => (List.range b).any (fun i => decide (32 * (i + 1) ≤ c.off) && decide (entryKind (entryWords t.pad.bytes (c.off - 32 * (i + 1))) = 4))
  | none => false

/-- LOOP goes back to its body's first entry, or ends with pass 0. -/
def execLoopEntry (cluster chain : Nat) (s : State) : Result :=
  .next (s.controlEntry 4 cluster chain (fun s _ c w =>
    let b := entryBody w
    if s.nestedLoop c b || (match c.loop with | some e => e != c.off | none => false) then .error (.fault .illegal)
    else if c.pass + 1 < bitsOf (w.getD 1 0) 31 0 then
      if c.off < 32 * b then .error (.fault .padBound)
      else .ok (s, some { c.goTo (c.off - 32 * b) with
                          pass := c.pass + 1, loop := some c.off, srcStride := w.getD 2 0, dstStride := w.getD 3 0 })
    else .ok (s, some { c.next with pass := 0, loop := none, srcStride := 0, dstStride := 0 })))

/-- COND skips entries when its word fails the condition. -/
def execCondEntry (cluster chain : Nat) (s : State) : Result :=
  .next (s.controlEntry 5 cluster chain (fun s l c w =>
    (s.chainWord32 l c (w.getD 1 0)).map (fun t =>
      if chainCond (entryCond w) t.2.2.2 ((w.getD 2 0).setWidth 32) then (t.1, some c.next)
      else (t.1, some (c.goTo (c.off + 32 + 32 * entrySkip w))))))

/-- WAITW completes when its word meets the condition, and watches the word until a write has met it (R44, R280). -/
def State.waitw (s : State) (cluster n : Nat) : State :=
  s.controlEntry 7 cluster n (fun s l c w =>
    if c.met then .ok (s, some c.next)
    else (s.chainWord32 l c (w.getD 1 0)).map (fun t =>
      let v := (w.getD 2 0).setWidth 32
      if chainCond (entryCond w) t.2.2.2 v then (t.1, some c.next)
      else (t.1, some { c with waiting := true, watch := some (t.2.1.uid, t.2.2.1, entryCond w, v) })))

def execWaitwEntry (cluster chain : Nat) (s : State) : Result :=
  match (s.chainList cluster)[chain]? with
  | some c => if c.waiting then .next s else .next (s.waitw cluster chain)
  | none => .next s

def execWaitwWake (cluster chain : Nat) (s : State) : Result :=
  match (s.chainList cluster)[chain]? with
  | some c => if c.waiting then .next (s.waitw cluster chain) else .next s
  | none => .next s

/-- END stops the walk, once every write of the chain has been performed with its folds (R266, R305). -/
def execEndEntry (cluster chain : Nat) (s : State) : Result :=
  .next (s.controlEntry 0 cluster chain (fun s _ c _ => if s.engineOutstanding c.after then .error .wait else .ok (s, none)))

end Sys2Proof.Machine
end

