-- ==== Sys2Proof/WellFormed.lean ====
section
/-!
DEFINITION. Which instructions have a legal word: the conditions of R66 that lie inside a row's fields.
-/

namespace Sys2Proof

/-- Why an instruction has no legal word. -/
inductive Defect where
  /-- An event of the device: it has no encoding. -/
  | noWord
  /-- A mask destination names k0 (R55, R66). -/
  | maskDestinationK0
  /-- An fn value the op leaves unassigned (R62). -/
  | unassignedFn
  /-- A conversion, function or operation code left unassigned (R63, R96). -/
  | unassignedCode
  /-- A pair operand names an odd register (R63, R350). -/
  | oddPair
  /-- An aop value left unassigned (R62). -/
  | unassignedAop
  /-- A body length outside 1 to 16 (R66, R122). -/
  | loopLength
  /-- A barrier or fence kind 3 (R65). -/
  | unassignedKind
  /-- A barrier id outside its level (R65). -/
  | barrierId
  /-- A fence scope 7 (R65). -/
  | unassignedScope
  /-- Trap condition 7 (R162). -/
  | unassignedCondition
  /-- An unconditional trap with a nonzero sa (R162). -/
  | reservedSource
  /-- First slot plus step count minus 1 above 31 (R288, R310). -/
  | weightSlotRange
  deriving DecidableEq, Repr

/-- The first condition of R66 that the fields of `i` break, if any. -/
def Instr.defect (i : Instr) : Option Defect :=
  match i with
  | .iaddI32 _ _ _ _ _ => none
  | .iaddSatI32 _ _ _ _ _ => none
  | .iaddSatN32 _ _ _ _ _ => none
  | .isubI32 _ _ _ _ _ => none
  | .isubSatI32 _ _ _ _ _ => none
  | .isubSatN32 _ _ _ _ _ => none
  | .imulLo _ _ _ _ _ => none
  | .imulHiI32 _ _ _ _ _ => none
  | .imulHiN32 _ _ _ _ _ => none
  | .imad _ _ _ _ _ => none
  | .iminI32 _ _ _ _ _ => none
  | .imaxI32 _ _ _ _ _ => none
  | .iminN32 _ _ _ _ _ => none
  | .imaxN32 _ _ _ _ _ => none
  | .and _ _ _ _ _ => none
  | .or _ _ _ _ _ => none
  | .xor _ _ _ _ _ => none
  | .andn _ _ _ _ _ => none
  | .shl _ _ _ _ _ => none
  | .shr _ _ _ _ _ => none
  | .sha _ _ _ _ _ => none
  | .rot _ _ _ _ _ => none
  | .clz _ _ _ _ => none
  | .popc _ _ _ _ => none
  | .brev _ _ _ _ => none
  | .ffs _ _ _ _ => none
  | .bfxI32 _ _ _ _ _ => none
  | .bfxN32 _ _ _ _ _ => none
  | .bfi _ _ _ _ _ => none
  | .icmp k _ _ _ _ => if k = 0 then some .maskDestinationK0 else none
  | .icmpn k _ _ _ _ => if k = 0 then some .maskDestinationK0 else none
  | .sel _ _ _ _ _ => none
  | .kand k _ _ _ => if k = 0 then some .maskDestinationK0 else none
  | .kor k _ _ _ => if k = 0 then some .maskDestinationK0 else none
  | .kxor k _ _ _ => if k = 0 then some .maskDestinationK0 else none
  | .kandn k _ _ _ => if k = 0 then some .maskDestinationK0 else none
  | .iaddi _ _ _ _ => none
  | .imuli _ _ _ _ => none
  | .andi _ _ _ _ => none
  | .ori _ _ _ _ => none
  | .xori _ _ _ _ => none
  | .shifti _ _ _ _ _ => none
  | .icmpi k _ _ _ => if k = 0 then some .maskDestinationK0 else none
  | .movi _ _ _ => none
  | .movhi _ _ _ => none
  | .mov _ _ _ _ => none
  | .movBroadcast _ _ _ _ => none
  | .movFromMask _ _ _ _ => none
  | .fadd _ _ f _ _ _ => if f = 3 then some .unassignedFn else none
  | .fsub _ _ f _ _ _ => if f = 3 then some .unassignedFn else none
  | .fmul _ _ f _ _ _ => if f = 3 then some .unassignedFn else none
  | .ffma _ _ f _ _ _ => if f = 3 then some .unassignedFn else none
  | .ffms _ _ f _ _ _ => if f = 3 then some .unassignedFn else none
  | .fmin _ _ _ _ _ => none
  | .fmax _ _ _ _ _ => none
  | .fminnum _ _ _ _ _ => none
  | .fmaxnum _ _ _ _ _ => none
  | .fcmp k _ _ _ _ => if k = 0 then some .maskDestinationK0 else none
  | .fabs _ _ _ _ => none
  | .fneg _ _ _ _ => none
  | .fcopysign _ _ _ _ _ => none
  | .fclass _ _ _ _ => none
  | .fcvt _ _ _ _ _ c => if 0x11 < c then some .unassignedCode else none
  | .frnd _ _ _ _ _ => none
  | .fsfu _ _ _ _ f => if 7 < f then some .unassignedCode else none
  | .fdot2 _ _ f _ _ _ => if 1 < f then some .unassignedFn else none
  | .lshf _ _ _ _ _ _ => none
  | .lred _ _ _ _ p => if 10 < p then some .unassignedCode else none
  | .lscan _ _ _ _ _ p => if 10 < p then some .unassignedCode else none
  | .vote k _ f _ => if k = 0 then some .maskDestinationK0 else if f = 3 then some .unassignedFn else none
  | .lds _ _ _ _ _ _ => none
  | .lds2 _ _ d _ _ _ => if d.getLsbD 0 = true then some .oddPair else none
  | .ldsf _ _ _ _ _ _ => none
  | .sts _ _ _ _ _ => none
  | .sts2 _ d _ _ _ => if d.getLsbD 0 = true then some .oddPair else none
  | .stsf _ _ _ _ _ => none
  | .ldp _ _ _ _ _ _ => none
  | .stp _ _ _ _ _ => none
  | .ldg _ _ _ _ _ _ => none
  | .ldg2 _ _ d _ _ _ => if d.getLsbD 0 = true then some .oddPair else none
  | .stg _ _ _ _ _ => none
  | .stg2 _ d _ _ _ => if d.getLsbD 0 = true then some .oddPair else none
  | .ldgs _ _ _ _ _ _ => none
  | .stgs _ _ _ _ _ => none
  | .atom _ _ p d _ _ => if p = 7 ∧ d.getLsbD 0 = true then some .oddPair else none
  | .atomb _ _ p _ _ _ => if 3 < p then some .unassignedAop else none
  | .redg _ p d _ _ => if 3 < p then some .unassignedAop else if p = 3 ∧ d.getLsbD 0 = true then some .oddPair else none
  | .atoms _ _ p d _ _ => if p = 7 ∧ d.getLsbD 0 = true then some .oddPair else none
  | .touchg _ _ _ _ => none
  | .sadd _ _ _ => none
  | .saddSatI64 _ _ _ => none
  | .saddSatN64 _ _ _ => none
  | .ssub _ _ _ => none
  | .ssubSatI64 _ _ _ => none
  | .ssubSatN64 _ _ _ => none
  | .smulLo _ _ _ => none
  | .smulHiI64 _ _ _ => none
  | .smulHiN64 _ _ _ => none
  | .sand _ _ _ => none
  | .sor _ _ _ => none
  | .sxor _ _ _ => none
  | .sandn _ _ _ => none
  | .sshl _ _ _ => none
  | .sshr _ _ _ => none
  | .ssha _ _ _ => none
  | .srot _ _ _ => none
  | .sminI64 _ _ _ => none
  | .smaxI64 _ _ _ => none
  | .sminN64 _ _ _ => none
  | .smaxN64 _ _ _ => none
  | .scmp _ _ _ _ => none
  | .ssel _ _ _ => none
  | .sclz _ _ => none
  | .spopc _ _ => none
  | .sbrev _ _ => none
  | .sffs _ _ => none
  | .saddi _ _ _ => none
  | .sli _ _ => none
  | .shi _ _ => none
  | .sandi _ _ _ => none
  | .sshifti _ _ _ _ => none
  | .smov _ _ => none
  | .smovFromMask _ _ => none
  | .smovToMask k _ => if k = 0 then some .maskDestinationK0 else none
  | .smovSpecial _ _ => none
  | .b _ => none
  | .bs _ _ _ => none
  | .bk _ _ _ => none
  | .call _ => none
  | .jmp _ => none
  | .calli _ => none
  | .ret => none
  | .loop n _ _ _ => if n = 0 ∨ 16 < n then some .loopLength else none
  | .bar l k i => if k = 3 then some .unassignedKind else if (l = 0 ∧ i ≠ 0) ∨ (l = 2 ∧ 7 < i) ∨ (l = 3 ∧ 3 < i) then some .barrierId else none
  | .rget _ => none
  | .rrel => none
  | .waita _ _ _ _ => none
  | .sld _ _ _ _ _ => none
  | .sst _ _ _ _ => none
  | .spattr _ _ => none
  | .fence s k => if s = 7 then some .unassignedScope else if k = 3 then some .unassignedKind else none
  | .dist _ _ _ _ => none
  | .distH _ _ _ _ => none
  | .pin _ _ => none
  | .pinR _ _ _ => none
  | .unpin _ _ => none
  | .unpinR _ _ _ => none
  | .rwb _ _ => none
  | .rwbR _ _ _ => none
  | .rinv _ _ => none
  | .rinvR _ _ _ => none
  | .touch _ _ => none
  | .touchR _ _ _ => none
  | .chain _ => none
  | .chainq _ _ _ => none
  | .bpost _ _ _ _ _ => none
  | .bread d _ _ => if d.getLsbD 0 = true then some .oddPair else none
  | .bvopTest _ _ _ => none
  | .bvopCount _ _ => none
  | .bvopWord _ _ _ => none
  | .bvopAnd _ _ _ => none
  | .spawn _ _ _ => none
  | .exit => none
  | .exitAbort => none
  | .trap c a _ => if c = 7 then some .unassignedCondition else if c = 0 ∧ a ≠ 0 then some .reservedSource else none
  | .tsysNop => none
  | .tsysTret => none
  | .tsysTmask _ _ => none
  | .tsysBkpt => none
  | .mmz _ => none
  | .mm _ _ _ _ p _ k => if 31 < p.toNat + 2 ^ k.toNat - 1 then some .weightSlotRange else none
  | .mmr _ _ _ _ p _ k => if 31 < p.toNat + 2 ^ k.toNat - 1 then some .weightSlotRange else none
  | .wload _ _ _ _ _ _ => none
  | .mstore _ _ _ _ _ _ => none
  | .mstt _ _ _ _ _ _ => none
  | .msetmRow _ _ _ => none
  | .msetmCol _ _ _ => none
  | .msetmDepth _ _ => none
  | .msetmFull _ => none
  | .mbatch _ => none
  | .mwait _ => none
  | .rnsf _ _ _ _ _ => none
  | .rnsr _ _ _ _ _ _ _ => none
  | .rnsq _ _ _ => none
  | .amax _ _ _ => none
  | .amaxClr _ _ _ => none
  | .sysr _ _ => none
  | .sysw _ _ _ => none
  | .trapPermitRetry _ => some .noWord
  | .demandMissNotification _ => some .noWord
  | .handlerDeferralExpiry _ => some .noWord
  | .longResultLanding _ _ => some .noWord
  | .barrierRelease _ => some .noWord
  | .rgetGrant _ => some .noWord
  | .registerExamination _ => some .noWord
  | .exitRetire _ => some .noWord
  | .bankGrant _ => some .noWord
  | .globalAccessSlot _ => some .noWord
  | .syncAccessSlot _ => some .noWord
  | .atomicGroupSlot _ => some .noWord
  | .distanceRequestSlot _ => some .noWord
  | .replicaMerge _ _ => some .noWord
  | .replicaDrop _ => some .noWord
  | .missDataArrival _ _ => some .noWord
  | .motionLanding _ _ => some .noWord
  | .boundaryMove _ => some .noWord
  | .writeBack _ => some .noWord
  | .boardOperationSlot _ => some .noWord
  | .boardReadSlot _ => some .noWord
  | .amaxFold _ => some .noWord
  | .amaxReadSlot _ => some .noWord
  | .redgContribution _ => some .noWord
  | .redgRetry _ => some .noWord
  | .waitaWatchTest _ _ => some .noWord
  | .waitaRetry _ => some .noWord
  | .waitaWake _ => some .noWord
  | .fenceComplete _ => some .noWord
  | .matrixWordStart _ => some .noWord
  | .matrixStep _ => some .noWord
  | .batchComplete _ => some .noWord
  | .copyEntry _ _ => some .noWord
  | .mcastEntry _ _ => some .noWord
  | .signalEntry _ _ => some .noWord
  | .loopEntry _ _ => some .noWord
  | .condEntry _ _ => some .noWord
  | .reduceEntry _ _ => some .noWord
  | .waitwEntry _ _ => some .noWord
  | .endEntry _ _ => some .noWord
  | .chainTransfer _ _ => some .noWord
  | .waitwWake _ _ => some .noWord
  | .launchPort _ _ _ _ _ _ => some .noWord
  | .graphLoad _ => some .noWord
  | .dispatch _ => some .noWord
  | .versionReservation _ => some .noWord
  | .castingComplete _ => some .noWord
  | .commitAssignment _ => some .noWord
  | .commitMessage _ _ => some .noWord
  | .discardMessage _ _ => some .noWord
  | .horizonMessage _ => some .noWord
  | .committed _ => some .noWord
  | .spawnRecordEnqueue _ => some .noWord
  | .castingFault _ => some .noWord
  | .discardAcknowledged _ => some .noWord
  | .translationWalk _ => some .noWord
  | .translationRecordWrite _ => some .noWord
  | .tqTail _ _ => some .noWord
  | .tqAnswerResume _ _ => some .noWord
  | .tqAnswerAbort _ _ => some .noWord
  | .preemptCtlSave _ _ _ => some .noWord
  | .preemptCtlDiscard _ _ _ => some .noWord
  | .preemptionStart _ => some .noWord
  | .preemptionSave _ => some .noWord
  | .columnDue _ _ => some .noWord
  | .realignmentStart _ _ _ => some .noWord
  | .realignmentEnd _ _ => some .noWord
  | .governorExamination _ _ _ => some .noWord
  | .hashCtlGo _ => some .noWord
  | .drainMessage _ _ => some .noWord
  | .switchMessage _ _ => some .noWord
  | .rehomeReplay _ => some .noWord
  | .btData _ _ => some .noWord
  | .sliceRetire _ _ => some .noWord
  | .retirementProceed _ => some .noWord
  | .splitRegisterWrite _ _ _ => some .noWord
  | .splitChangeSlot _ _ _ => some .noWord
  | .fmtSync _ => some .noWord
  | .fmtTableLoad _ => some .noWord
  | .sdCtl _ => some .noWord
  | .shootdownComplete _ => some .noWord
  | .boardCfg _ => some .noWord
  | .brdReset _ _ => some .noWord
  | .boardResetSlot _ => some .noWord
  | .partCtlReset _ => some .noWord
  | .partCtlEn _ _ => some .noWord
  | .rnsInject _ => some .noWord
  | .rnsCtlMf _ _ => some .noWord
  | .rnsCtlRetired _ _ => some .noWord
  | .errorPolicyExamination => some .noWord
  | .scrubRead _ _ _ _ => some .noWord
  | .scrubWrite _ => some .noWord
  | .windowHalving => some .noWord
  | .clusterOwnerChoice _ => some .noWord
  | .serviceExamination => some .noWord
  | .gangReadyPost _ _ => some .noWord
  | .gangAbortOperation _ _ => some .noWord
  | .gangWatchdogExpiry _ _ => some .noWord
  | .gangStart _ _ => some .noWord
  | .gangAbort _ _ => some .noWord
  | .hostPhysicalWindowAccess _ _ _ _ => some .noWord
  | .hostMemoryWindowAccess _ _ _ _ => some .noWord
  | .registerWrite _ _ _ _ => some .noWord
  | .linkTrained _ => some .noWord
  | .bringUp _ _ _ => some .noWord
  | .getVersion => some .noWord
  | .getCapabilities => some .noWord
  | .negotiateAlgorithms _ _ => some .noWord
  | .getDigests => some .noWord
  | .getCertificate _ => some .noWord
  | .challenge _ => some .noWord
  | .getMeasurements _ => some .noWord
  | .identify => some .noWord
  | .sensors => some .noWord
  | .errorsQuery => some .noWord
  | .stageFirmware _ => some .noWord
  | .resetPackage => some .noWord
  | .nystraPortFailure _ => some .noWord
  | .rdmaWrite _ _ _ => some .noWord
  | .rdmaRead _ _ _ => some .noWord
  | .matrixWordComplete _ => some .noWord
  | .opportunisticReplay _ _ => some .noWord
  | .shadowComparison _ _ => some .noWord
  | .vfEnable _ _ => some .noWord
  | .hostMemoryCompletion _ => some .noWord

/-- A well-formed instruction: one that has a word, and a legal one. -/
def Instr.wf (i : Instr) : Bool := i.defect.isNone

/-- An instruction of the table that has an encoding, as opposed to an event of the device. -/
def Instr.hasWord (i : Instr) : Bool := i.defect != some .noWord

end Sys2Proof
end

