-- ==== Sys2Proof/Decode.lean ====
section
/-!
DEFINITION. The decoder, total on any bytes, and the encoder (R50 to R66).
A word is 32 bits, stored little-endian (R5, R48). Bit 31 and the op field choose the row's arm; the arm's reserved
fields must be zero; the fields' own conditions are `Instr.defect`.
-/

namespace Sys2Proof

/-- Why a word is no instruction (R66). -/
inductive Reject where
  /-- Fewer than four bytes. -/
  | truncated
  /-- Op 0x00 or a reserved op of the lane or the uniform set. -/
  | reservedOp
  /-- An fn value no row of the op assigns. -/
  | unassignedFn
  /-- A reserved field is nonzero. -/
  | reservedBits
  /-- The fields break a condition of `Instr.defect`. -/
  | illFormed (d : Defect)
  deriving DecidableEq, Repr

/-- The decoder's last check: the conditions inside the fields. -/
def accept (i : Instr) : Except Reject Instr :=
  match i.defect with
  | none => .ok i
  | some d => .error (.illFormed d)

/-- A reserved field must hold its value (zero). -/
def reserved (c : Prop) [Decidable c] (r : Except Reject Instr) : Except Reject Instr :=
  if c then r else .error .reservedBits

/-- The lane set (R62). -/
def decodeLane (op : Nat) (w : Word32) : Except Reject Instr :=
  match op with
  | 0x01 => match (w.extractLsb' 18 2).toNat with
    | 0 => accept (.iaddI32 (w.extractLsb' 22 3) (w.extractLsb' 20 2) (w.extractLsb' 12 6) (w.extractLsb' 6 6) (w.extractLsb' 0 6))
    | 1 => accept (.iaddSatI32 (w.extractLsb' 22 3) (w.extractLsb' 20 2) (w.extractLsb' 12 6) (w.extractLsb' 6 6) (w.extractLsb' 0 6))
    | 2 => accept (.iaddSatN32 (w.extractLsb' 22 3) (w.extractLsb' 20 2) (w.extractLsb' 12 6) (w.extractLsb' 6 6) (w.extractLsb' 0 6))
    | _ => .error .unassignedFn
  | 0x02 => match (w.extractLsb' 18 2).toNat with
    | 0 => accept (.isubI32 (w.extractLsb' 22 3) (w.extractLsb' 20 2) (w.extractLsb' 12 6) (w.extractLsb' 6 6) (w.extractLsb' 0 6))
    | 1 => accept (.isubSatI32 (w.extractLsb' 22 3) (w.extractLsb' 20 2) (w.extractLsb' 12 6) (w.extractLsb' 6 6) (w.extractLsb' 0 6))
    | 2 => accept (.isubSatN32 (w.extractLsb' 22 3) (w.extractLsb' 20 2) (w.extractLsb' 12 6) (w.extractLsb' 6 6) (w.extractLsb' 0 6))
    | _ => .error .unassignedFn
  | 0x03 => match (w.extractLsb' 18 2).toNat with
    | 0 => accept (.imulLo (w.extractLsb' 22 3) (w.extractLsb' 20 2) (w.extractLsb' 12 6) (w.extractLsb' 6 6) (w.extractLsb' 0 6))
    | 1 => accept (.imulHiI32 (w.extractLsb' 22 3) (w.extractLsb' 20 2) (w.extractLsb' 12 6) (w.extractLsb' 6 6) (w.extractLsb' 0 6))
    | 2 => accept (.imulHiN32 (w.extractLsb' 22 3) (w.extractLsb' 20 2) (w.extractLsb' 12 6) (w.extractLsb' 6 6) (w.extractLsb' 0 6))
    | _ => .error .unassignedFn
  | 0x04 => reserved (w.extractLsb' 18 2 = 0) (accept (.imad (w.extractLsb' 22 3) (w.extractLsb' 20 2) (w.extractLsb' 12 6) (w.extractLsb' 6 6) (w.extractLsb' 0 6)))
  | 0x05 => match (w.extractLsb' 18 2).toNat with
    | 0 => accept (.iminI32 (w.extractLsb' 22 3) (w.extractLsb' 20 2) (w.extractLsb' 12 6) (w.extractLsb' 6 6) (w.extractLsb' 0 6))
    | 1 => accept (.imaxI32 (w.extractLsb' 22 3) (w.extractLsb' 20 2) (w.extractLsb' 12 6) (w.extractLsb' 6 6) (w.extractLsb' 0 6))
    | 2 => accept (.iminN32 (w.extractLsb' 22 3) (w.extractLsb' 20 2) (w.extractLsb' 12 6) (w.extractLsb' 6 6) (w.extractLsb' 0 6))
    | _ => accept (.imaxN32 (w.extractLsb' 22 3) (w.extractLsb' 20 2) (w.extractLsb' 12 6) (w.extractLsb' 6 6) (w.extractLsb' 0 6))
  | 0x06 => match (w.extractLsb' 18 2).toNat with
    | 0 => accept (.and (w.extractLsb' 22 3) (w.extractLsb' 20 2) (w.extractLsb' 12 6) (w.extractLsb' 6 6) (w.extractLsb' 0 6))
    | 1 => accept (.or (w.extractLsb' 22 3) (w.extractLsb' 20 2) (w.extractLsb' 12 6) (w.extractLsb' 6 6) (w.extractLsb' 0 6))
    | 2 => accept (.xor (w.extractLsb' 22 3) (w.extractLsb' 20 2) (w.extractLsb' 12 6) (w.extractLsb' 6 6) (w.extractLsb' 0 6))
    | _ => accept (.andn (w.extractLsb' 22 3) (w.extractLsb' 20 2) (w.extractLsb' 12 6) (w.extractLsb' 6 6) (w.extractLsb' 0 6))
  | 0x07 => match (w.extractLsb' 18 2).toNat with
    | 0 => accept (.shl (w.extractLsb' 22 3) (w.extractLsb' 20 2) (w.extractLsb' 12 6) (w.extractLsb' 6 6) (w.extractLsb' 0 6))
    | 1 => accept (.shr (w.extractLsb' 22 3) (w.extractLsb' 20 2) (w.extractLsb' 12 6) (w.extractLsb' 6 6) (w.extractLsb' 0 6))
    | 2 => accept (.sha (w.extractLsb' 22 3) (w.extractLsb' 20 2) (w.extractLsb' 12 6) (w.extractLsb' 6 6) (w.extractLsb' 0 6))
    | _ => accept (.rot (w.extractLsb' 22 3) (w.extractLsb' 20 2) (w.extractLsb' 12 6) (w.extractLsb' 6 6) (w.extractLsb' 0 6))
  | 0x08 => match (w.extractLsb' 18 2).toNat with
    | 0 => reserved (w.extractLsb' 0 6 = 0) (accept (.clz (w.extractLsb' 22 3) (w.extractLsb' 20 2) (w.extractLsb' 12 6) (w.extractLsb' 6 6)))
    | 1 => reserved (w.extractLsb' 0 6 = 0) (accept (.popc (w.extractLsb' 22 3) (w.extractLsb' 20 2) (w.extractLsb' 12 6) (w.extractLsb' 6 6)))
    | 2 => reserved (w.extractLsb' 0 6 = 0) (accept (.brev (w.extractLsb' 22 3) (w.extractLsb' 20 2) (w.extractLsb' 12 6) (w.extractLsb' 6 6)))
    | _ => reserved (w.extractLsb' 0 6 = 0) (accept (.ffs (w.extractLsb' 22 3) (w.extractLsb' 20 2) (w.extractLsb' 12 6) (w.extractLsb' 6 6)))
  | 0x09 => match (w.extractLsb' 18 2).toNat with
    | 0 => accept (.bfxI32 (w.extractLsb' 22 3) (w.extractLsb' 20 2) (w.extractLsb' 12 6) (w.extractLsb' 6 6) (w.extractLsb' 0 6))
    | 1 => accept (.bfxN32 (w.extractLsb' 22 3) (w.extractLsb' 20 2) (w.extractLsb' 12 6) (w.extractLsb' 6 6) (w.extractLsb' 0 6))
    | 2 => accept (.bfi (w.extractLsb' 22 3) (w.extractLsb' 20 2) (w.extractLsb' 12 6) (w.extractLsb' 6 6) (w.extractLsb' 0 6))
    | _ => .error .unassignedFn
  | 0x0a => reserved (w.extractLsb' 12 6 = 0) (accept (.icmp (w.extractLsb' 22 3) (w.extractLsb' 20 2) (w.extractLsb' 18 2) (w.extractLsb' 6 6) (w.extractLsb' 0 6)))
  | 0x0b => reserved (w.extractLsb' 12 6 = 0) (accept (.icmpn (w.extractLsb' 22 3) (w.extractLsb' 20 2) (w.extractLsb' 18 2) (w.extractLsb' 6 6) (w.extractLsb' 0 6)))
  | 0x0c => reserved (w.extractLsb' 18 2 = 0) (accept (.sel (w.extractLsb' 22 3) (w.extractLsb' 20 2) (w.extractLsb' 12 6) (w.extractLsb' 6 6) (w.extractLsb' 0 6)))
  | 0x0d => match (w.extractLsb' 18 2).toNat with
    | 0 => reserved (w.extractLsb' 9 9 = 0) (reserved (w.extractLsb' 3 3 = 0) (accept (.kand (w.extractLsb' 22 3) (w.extractLsb' 20 2) (w.extractLsb' 6 3) (w.extractLsb' 0 3))))
    | 1 => reserved (w.extractLsb' 9 9 = 0) (reserved (w.extractLsb' 3 3 = 0) (accept (.kor (w.extractLsb' 22 3) (w.extractLsb' 20 2) (w.extractLsb' 6 3) (w.extractLsb' 0 3))))
    | 2 => reserved (w.extractLsb' 9 9 = 0) (reserved (w.extractLsb' 3 3 = 0) (accept (.kxor (w.extractLsb' 22 3) (w.extractLsb' 20 2) (w.extractLsb' 6 3) (w.extractLsb' 0 3))))
    | _ => reserved (w.extractLsb' 9 9 = 0) (reserved (w.extractLsb' 3 3 = 0) (accept (.kandn (w.extractLsb' 22 3) (w.extractLsb' 20 2) (w.extractLsb' 6 3) (w.extractLsb' 0 3))))
  | 0x0e => accept (.iaddi (w.extractLsb' 22 3) (w.extractLsb' 16 6) (w.extractLsb' 10 6) (w.extractLsb' 0 10))
  | 0x0f => accept (.imuli (w.extractLsb' 22 3) (w.extractLsb' 16 6) (w.extractLsb' 10 6) (w.extractLsb' 0 10))
  | 0x10 => accept (.andi (w.extractLsb' 22 3) (w.extractLsb' 16 6) (w.extractLsb' 10 6) (w.extractLsb' 0 10))
  | 0x11 => accept (.ori (w.extractLsb' 22 3) (w.extractLsb' 16 6) (w.extractLsb' 10 6) (w.extractLsb' 0 10))
  | 0x12 => accept (.xori (w.extractLsb' 22 3) (w.extractLsb' 16 6) (w.extractLsb' 10 6) (w.extractLsb' 0 10))
  | 0x13 => reserved (w.extractLsb' 5 3 = 0) (accept (.shifti (w.extractLsb' 22 3) (w.extractLsb' 16 6) (w.extractLsb' 10 6) (w.extractLsb' 8 2) (w.extractLsb' 0 5)))
  | 0x14 => reserved (w.extractLsb' 19 3 = 0) (accept (.icmpi (w.extractLsb' 22 3) (w.extractLsb' 16 3) (w.extractLsb' 10 6) (w.extractLsb' 0 10)))
  | 0x15 => accept (.movi (w.extractLsb' 22 3) (w.extractLsb' 16 6) (w.extractLsb' 0 16))
  | 0x16 => accept (.movhi (w.extractLsb' 22 3) (w.extractLsb' 16 6) (w.extractLsb' 0 16))
  | 0x17 => match (w.extractLsb' 18 2).toNat with
    | 0 => reserved (w.extractLsb' 0 6 = 0) (accept (.mov (w.extractLsb' 22 3) (w.extractLsb' 20 2) (w.extractLsb' 12 6) (w.extractLsb' 6 6)))
    | 1 => reserved (w.extractLsb' 0 6 = 0) (accept (.movBroadcast (w.extractLsb' 22 3) (w.extractLsb' 20 2) (w.extractLsb' 12 6) (w.extractLsb' 6 6)))
    | 2 => reserved (w.extractLsb' 9 3 = 0) (reserved (w.extractLsb' 0 6 = 0) (accept (.movFromMask (w.extractLsb' 22 3) (w.extractLsb' 20 2) (w.extractLsb' 12 6) (w.extractLsb' 6 3))))
    | _ => .error .unassignedFn
  | 0x18 => accept (.fadd (w.extractLsb' 22 3) (w.extractLsb' 20 2) (w.extractLsb' 18 2) (w.extractLsb' 12 6) (w.extractLsb' 6 6) (w.extractLsb' 0 6))
  | 0x19 => accept (.fsub (w.extractLsb' 22 3) (w.extractLsb' 20 2) (w.extractLsb' 18 2) (w.extractLsb' 12 6) (w.extractLsb' 6 6) (w.extractLsb' 0 6))
  | 0x1a => accept (.fmul (w.extractLsb' 22 3) (w.extractLsb' 20 2) (w.extractLsb' 18 2) (w.extractLsb' 12 6) (w.extractLsb' 6 6) (w.extractLsb' 0 6))
  | 0x1b => accept (.ffma (w.extractLsb' 22 3) (w.extractLsb' 20 2) (w.extractLsb' 18 2) (w.extractLsb' 12 6) (w.extractLsb' 6 6) (w.extractLsb' 0 6))
  | 0x1c => accept (.ffms (w.extractLsb' 22 3) (w.extractLsb' 20 2) (w.extractLsb' 18 2) (w.extractLsb' 12 6) (w.extractLsb' 6 6) (w.extractLsb' 0 6))
  | 0x1d => match (w.extractLsb' 18 2).toNat with
    | 0 => accept (.fmin (w.extractLsb' 22 3) (w.extractLsb' 20 2) (w.extractLsb' 12 6) (w.extractLsb' 6 6) (w.extractLsb' 0 6))
    | 1 => accept (.fmax (w.extractLsb' 22 3) (w.extractLsb' 20 2) (w.extractLsb' 12 6) (w.extractLsb' 6 6) (w.extractLsb' 0 6))
    | 2 => accept (.fminnum (w.extractLsb' 22 3) (w.extractLsb' 20 2) (w.extractLsb' 12 6) (w.extractLsb' 6 6) (w.extractLsb' 0 6))
    | _ => accept (.fmaxnum (w.extractLsb' 22 3) (w.extractLsb' 20 2) (w.extractLsb' 12 6) (w.extractLsb' 6 6) (w.extractLsb' 0 6))
  | 0x1e => reserved (w.extractLsb' 12 6 = 0) (accept (.fcmp (w.extractLsb' 22 3) (w.extractLsb' 20 2) (w.extractLsb' 18 2) (w.extractLsb' 6 6) (w.extractLsb' 0 6)))
  | 0x1f => match (w.extractLsb' 18 2).toNat with
    | 0 => reserved (w.extractLsb' 0 6 = 0) (accept (.fabs (w.extractLsb' 22 3) (w.extractLsb' 20 2) (w.extractLsb' 12 6) (w.extractLsb' 6 6)))
    | 1 => reserved (w.extractLsb' 0 6 = 0) (accept (.fneg (w.extractLsb' 22 3) (w.extractLsb' 20 2) (w.extractLsb' 12 6) (w.extractLsb' 6 6)))
    | 2 => accept (.fcopysign (w.extractLsb' 22 3) (w.extractLsb' 20 2) (w.extractLsb' 12 6) (w.extractLsb' 6 6) (w.extractLsb' 0 6))
    | _ => reserved (w.extractLsb' 0 6 = 0) (accept (.fclass (w.extractLsb' 22 3) (w.extractLsb' 20 2) (w.extractLsb' 12 6) (w.extractLsb' 6 6)))
  | 0x20 => accept (.fcvt (w.extractLsb' 22 3) (w.extractLsb' 20 2) (w.extractLsb' 18 2) (w.extractLsb' 12 6) (w.extractLsb' 6 6) (w.extractLsb' 0 6))
  | 0x21 => reserved (w.extractLsb' 0 6 = 0) (accept (.frnd (w.extractLsb' 22 3) (w.extractLsb' 20 2) (w.extractLsb' 18 2) (w.extractLsb' 12 6) (w.extractLsb' 6 6)))
  | 0x22 => accept (.fsfu (w.extractLsb' 22 3) (w.extractLsb' 18 4) (w.extractLsb' 12 6) (w.extractLsb' 6 6) (w.extractLsb' 0 6))
  | 0x23 => accept (.fdot2 (w.extractLsb' 22 3) (w.extractLsb' 20 2) (w.extractLsb' 18 2) (w.extractLsb' 12 6) (w.extractLsb' 6 6) (w.extractLsb' 0 6))
  | 0x24 => accept (.lshf (w.extractLsb' 22 3) (w.extractLsb' 20 2) (w.extractLsb' 18 2) (w.extractLsb' 12 6) (w.extractLsb' 6 6) (w.extractLsb' 0 6))
  | 0x25 => reserved (w.extractLsb' 5 1 = 0) (accept (.lred (w.extractLsb' 22 3) (w.extractLsb' 18 4) (w.extractLsb' 12 6) (w.extractLsb' 6 6) (w.extractLsb' 0 5)))
  | 0x26 => accept (.lscan (w.extractLsb' 22 3) (w.extractLsb' 18 4) (w.extractLsb' 12 6) (w.extractLsb' 6 6) (w.extractLsb' 5 1) (w.extractLsb' 0 5))
  | 0x27 => reserved (w.extractLsb' 12 6 = 0) (reserved (w.extractLsb' 0 6 = 0) (accept (.vote (w.extractLsb' 22 3) (w.extractLsb' 20 2) (w.extractLsb' 18 2) (w.extractLsb' 6 6))))
  | 0x28 => accept (.lds (w.extractLsb' 22 3) (w.extractLsb' 18 4) (w.extractLsb' 12 6) (w.extractLsb' 6 6) (w.extractLsb' 1 5) (w.extractLsb' 0 1))
  | 0x29 => accept (.lds2 (w.extractLsb' 22 3) (w.extractLsb' 18 4) (w.extractLsb' 12 6) (w.extractLsb' 6 6) (w.extractLsb' 1 5) (w.extractLsb' 0 1))
  | 0x2a => accept (.ldsf (w.extractLsb' 22 3) (w.extractLsb' 18 4) (w.extractLsb' 12 6) (w.extractLsb' 6 6) (w.extractLsb' 1 5) (w.extractLsb' 0 1))
  | 0x2b => reserved (w.extractLsb' 18 4 = 0) (accept (.sts (w.extractLsb' 22 3) (w.extractLsb' 12 6) (w.extractLsb' 6 6) (w.extractLsb' 1 5) (w.extractLsb' 0 1)))
  | 0x2c => reserved (w.extractLsb' 18 4 = 0) (accept (.sts2 (w.extractLsb' 22 3) (w.extractLsb' 12 6) (w.extractLsb' 6 6) (w.extractLsb' 1 5) (w.extractLsb' 0 1)))
  | 0x2d => reserved (w.extractLsb' 18 4 = 0) (accept (.stsf (w.extractLsb' 22 3) (w.extractLsb' 12 6) (w.extractLsb' 6 6) (w.extractLsb' 1 5) (w.extractLsb' 0 1)))
  | 0x2e => accept (.ldp (w.extractLsb' 22 3) (w.extractLsb' 18 4) (w.extractLsb' 12 6) (w.extractLsb' 6 6) (w.extractLsb' 1 5) (w.extractLsb' 0 1))
  | 0x2f => reserved (w.extractLsb' 18 4 = 0) (accept (.stp (w.extractLsb' 22 3) (w.extractLsb' 12 6) (w.extractLsb' 6 6) (w.extractLsb' 1 5) (w.extractLsb' 0 1)))
  | 0x30 => accept (.ldg (w.extractLsb' 22 3) (w.extractLsb' 18 4) (w.extractLsb' 12 6) (w.extractLsb' 6 6) (w.extractLsb' 1 5) (w.extractLsb' 0 1))
  | 0x31 => accept (.ldg2 (w.extractLsb' 22 3) (w.extractLsb' 18 4) (w.extractLsb' 12 6) (w.extractLsb' 6 6) (w.extractLsb' 1 5) (w.extractLsb' 0 1))
  | 0x32 => reserved (w.extractLsb' 18 4 = 0) (accept (.stg (w.extractLsb' 22 3) (w.extractLsb' 12 6) (w.extractLsb' 6 6) (w.extractLsb' 1 5) (w.extractLsb' 0 1)))
  | 0x33 => reserved (w.extractLsb' 18 4 = 0) (accept (.stg2 (w.extractLsb' 22 3) (w.extractLsb' 12 6) (w.extractLsb' 6 6) (w.extractLsb' 1 5) (w.extractLsb' 0 1)))
  | 0x34 => accept (.ldgs (w.extractLsb' 22 3) (w.extractLsb' 18 4) (w.extractLsb' 12 6) (w.extractLsb' 6 6) (w.extractLsb' 1 5) (w.extractLsb' 0 1))
  | 0x35 => reserved (w.extractLsb' 18 4 = 0) (accept (.stgs (w.extractLsb' 22 3) (w.extractLsb' 12 6) (w.extractLsb' 6 6) (w.extractLsb' 1 5) (w.extractLsb' 0 1)))
  | 0x36 => accept (.atom (w.extractLsb' 22 3) (w.extractLsb' 18 4) (w.extractLsb' 15 3) (w.extractLsb' 9 6) (w.extractLsb' 3 6) (w.extractLsb' 0 3))
  | 0x37 => accept (.atomb (w.extractLsb' 22 3) (w.extractLsb' 18 4) (w.extractLsb' 15 3) (w.extractLsb' 9 6) (w.extractLsb' 3 6) (w.extractLsb' 0 3))
  | 0x38 => reserved (w.extractLsb' 18 4 = 0) (accept (.redg (w.extractLsb' 22 3) (w.extractLsb' 15 3) (w.extractLsb' 9 6) (w.extractLsb' 3 6) (w.extractLsb' 0 3)))
  | 0x39 => accept (.atoms (w.extractLsb' 22 3) (w.extractLsb' 18 4) (w.extractLsb' 15 3) (w.extractLsb' 9 6) (w.extractLsb' 3 6) (w.extractLsb' 0 3))
  | 0x3a => reserved (w.extractLsb' 12 10 = 0) (accept (.touchg (w.extractLsb' 22 3) (w.extractLsb' 6 6) (w.extractLsb' 1 5) (w.extractLsb' 0 1)))
  | _ => .error .reservedOp

/-- The uniform set (R64). -/
def decodeUniform (op : Nat) (w : Word32) : Except Reject Instr :=
  match op with
  | 0x01 => match (w.extractLsb' 23 2).toNat with
    | 0 => reserved (w.extractLsb' 0 5 = 0) (accept (.sadd (w.extractLsb' 17 6) (w.extractLsb' 11 6) (w.extractLsb' 5 6)))
    | 1 => reserved (w.extractLsb' 0 5 = 0) (accept (.saddSatI64 (w.extractLsb' 17 6) (w.extractLsb' 11 6) (w.extractLsb' 5 6)))
    | 2 => reserved (w.extractLsb' 0 5 = 0) (accept (.saddSatN64 (w.extractLsb' 17 6) (w.extractLsb' 11 6) (w.extractLsb' 5 6)))
    | _ => .error .unassignedFn
  | 0x02 => match (w.extractLsb' 23 2).toNat with
    | 0 => reserved (w.extractLsb' 0 5 = 0) (accept (.ssub (w.extractLsb' 17 6) (w.extractLsb' 11 6) (w.extractLsb' 5 6)))
    | 1 => reserved (w.extractLsb' 0 5 = 0) (accept (.ssubSatI64 (w.extractLsb' 17 6) (w.extractLsb' 11 6) (w.extractLsb' 5 6)))
    | 2 => reserved (w.extractLsb' 0 5 = 0) (accept (.ssubSatN64 (w.extractLsb' 17 6) (w.extractLsb' 11 6) (w.extractLsb' 5 6)))
    | _ => .error .unassignedFn
  | 0x03 => match (w.extractLsb' 23 2).toNat with
    | 0 => reserved (w.extractLsb' 0 5 = 0) (accept (.smulLo (w.extractLsb' 17 6) (w.extractLsb' 11 6) (w.extractLsb' 5 6)))
    | 1 => reserved (w.extractLsb' 0 5 = 0) (accept (.smulHiI64 (w.extractLsb' 17 6) (w.extractLsb' 11 6) (w.extractLsb' 5 6)))
    | 2 => reserved (w.extractLsb' 0 5 = 0) (accept (.smulHiN64 (w.extractLsb' 17 6) (w.extractLsb' 11 6) (w.extractLsb' 5 6)))
    | _ => .error .unassignedFn
  | 0x04 => match (w.extractLsb' 23 2).toNat with
    | 0 => reserved (w.extractLsb' 0 5 = 0) (accept (.sand (w.extractLsb' 17 6) (w.extractLsb' 11 6) (w.extractLsb' 5 6)))
    | 1 => reserved (w.extractLsb' 0 5 = 0) (accept (.sor (w.extractLsb' 17 6) (w.extractLsb' 11 6) (w.extractLsb' 5 6)))
    | 2 => reserved (w.extractLsb' 0 5 = 0) (accept (.sxor (w.extractLsb' 17 6) (w.extractLsb' 11 6) (w.extractLsb' 5 6)))
    | _ => reserved (w.extractLsb' 0 5 = 0) (accept (.sandn (w.extractLsb' 17 6) (w.extractLsb' 11 6) (w.extractLsb' 5 6)))
  | 0x05 => match (w.extractLsb' 23 2).toNat with
    | 0 => reserved (w.extractLsb' 0 5 = 0) (accept (.sshl (w.extractLsb' 17 6) (w.extractLsb' 11 6) (w.extractLsb' 5 6)))
    | 1 => reserved (w.extractLsb' 0 5 = 0) (accept (.sshr (w.extractLsb' 17 6) (w.extractLsb' 11 6) (w.extractLsb' 5 6)))
    | 2 => reserved (w.extractLsb' 0 5 = 0) (accept (.ssha (w.extractLsb' 17 6) (w.extractLsb' 11 6) (w.extractLsb' 5 6)))
    | _ => reserved (w.extractLsb' 0 5 = 0) (accept (.srot (w.extractLsb' 17 6) (w.extractLsb' 11 6) (w.extractLsb' 5 6)))
  | 0x06 => match (w.extractLsb' 23 2).toNat with
    | 0 => reserved (w.extractLsb' 0 5 = 0) (accept (.sminI64 (w.extractLsb' 17 6) (w.extractLsb' 11 6) (w.extractLsb' 5 6)))
    | 1 => reserved (w.extractLsb' 0 5 = 0) (accept (.smaxI64 (w.extractLsb' 17 6) (w.extractLsb' 11 6) (w.extractLsb' 5 6)))
    | 2 => reserved (w.extractLsb' 0 5 = 0) (accept (.sminN64 (w.extractLsb' 17 6) (w.extractLsb' 11 6) (w.extractLsb' 5 6)))
    | _ => reserved (w.extractLsb' 0 5 = 0) (accept (.smaxN64 (w.extractLsb' 17 6) (w.extractLsb' 11 6) (w.extractLsb' 5 6)))
  | 0x07 => reserved (w.extractLsb' 0 5 = 0) (accept (.scmp (w.extractLsb' 23 2) (w.extractLsb' 17 6) (w.extractLsb' 11 6) (w.extractLsb' 5 6)))
  | 0x08 => reserved (w.extractLsb' 23 2 = 0) (reserved (w.extractLsb' 0 5 = 0) (accept (.ssel (w.extractLsb' 17 6) (w.extractLsb' 11 6) (w.extractLsb' 5 6))))
  | 0x09 => match (w.extractLsb' 23 2).toNat with
    | 0 => reserved (w.extractLsb' 0 11 = 0) (accept (.sclz (w.extractLsb' 17 6) (w.extractLsb' 11 6)))
    | 1 => reserved (w.extractLsb' 0 11 = 0) (accept (.spopc (w.extractLsb' 17 6) (w.extractLsb' 11 6)))
    | 2 => reserved (w.extractLsb' 0 11 = 0) (accept (.sbrev (w.extractLsb' 17 6) (w.extractLsb' 11 6)))
    | _ => reserved (w.extractLsb' 0 11 = 0) (accept (.sffs (w.extractLsb' 17 6) (w.extractLsb' 11 6)))
  | 0x0a => accept (.saddi (w.extractLsb' 19 6) (w.extractLsb' 13 6) (w.extractLsb' 0 13))
  | 0x0b => reserved (w.extractLsb' 13 6 = 0) (accept (.sli (w.extractLsb' 19 6) (w.extractLsb' 0 13)))
  | 0x0c => reserved (w.extractLsb' 13 6 = 0) (accept (.shi (w.extractLsb' 19 6) (w.extractLsb' 0 13)))
  | 0x0d => accept (.sandi (w.extractLsb' 19 6) (w.extractLsb' 13 6) (w.extractLsb' 0 13))
  | 0x0e => reserved (w.extractLsb' 6 5 = 0) (accept (.sshifti (w.extractLsb' 19 6) (w.extractLsb' 13 6) (w.extractLsb' 11 2) (w.extractLsb' 0 6)))
  | 0x0f => match (w.extractLsb' 23 2).toNat with
    | 0 => reserved (w.extractLsb' 0 11 = 0) (accept (.smov (w.extractLsb' 17 6) (w.extractLsb' 11 6)))
    | 1 => reserved (w.extractLsb' 14 3 = 0) (reserved (w.extractLsb' 0 11 = 0) (accept (.smovFromMask (w.extractLsb' 17 6) (w.extractLsb' 11 3))))
    | 2 => reserved (w.extractLsb' 20 3 = 0) (reserved (w.extractLsb' 0 11 = 0) (accept (.smovToMask (w.extractLsb' 17 3) (w.extractLsb' 11 6))))
    | _ => reserved (w.extractLsb' 0 11 = 0) (accept (.smovSpecial (w.extractLsb' 17 6) (w.extractLsb' 11 6)))
  | 0x10 => reserved (w.extractLsb' 21 4 = 0) (accept (.b (w.extractLsb' 0 21)))
  | 0x11 => accept (.bs (w.extractLsb' 21 4) (w.extractLsb' 20 1) (w.extractLsb' 0 20))
  | 0x12 => reserved (w.extractLsb' 24 1 = 0) (accept (.bk (w.extractLsb' 21 3) (w.extractLsb' 19 2) (w.extractLsb' 0 19)))
  | 0x13 => reserved (w.extractLsb' 21 4 = 0) (accept (.call (w.extractLsb' 0 21)))
  | 0x14 => match (w.extractLsb' 23 2).toNat with
    | 0 => reserved (w.extractLsb' 17 6 = 0) (reserved (w.extractLsb' 0 11 = 0) (accept (.jmp (w.extractLsb' 11 6))))
    | 1 => reserved (w.extractLsb' 17 6 = 0) (reserved (w.extractLsb' 0 11 = 0) (accept (.calli (w.extractLsb' 11 6))))
    | 2 => reserved (w.extractLsb' 0 23 = 0) (accept .ret)
    | _ => .error .unassignedFn
  | 0x16 => reserved (w.extractLsb' 0 2 = 0) (accept (.loop (w.extractLsb' 20 5) (w.extractLsb' 14 6) (w.extractLsb' 8 6) (w.extractLsb' 2 6)))
  | 0x17 => reserved (w.extractLsb' 13 12 = 0) (reserved (w.extractLsb' 4 5 = 0) (accept (.bar (w.extractLsb' 11 2) (w.extractLsb' 9 2) (w.extractLsb' 0 4))))
  | 0x18 => reserved (w.extractLsb' 23 2 = 0) (reserved (w.extractLsb' 0 17 = 0) (accept (.rget (w.extractLsb' 17 6))))
  | 0x19 => reserved (w.extractLsb' 0 25 = 0) (accept .rrel)
  | 0x1a => reserved (w.extractLsb' 0 5 = 0) (accept (.waita (w.extractLsb' 23 2) (w.extractLsb' 17 6) (w.extractLsb' 11 6) (w.extractLsb' 5 6)))
  | 0x1b => reserved (w.extractLsb' 0 1 = 0) (accept (.sld (w.extractLsb' 23 2) (w.extractLsb' 17 6) (w.extractLsb' 11 6) (w.extractLsb' 5 6) (w.extractLsb' 1 4)))
  | 0x1c => reserved (w.extractLsb' 0 5 = 0) (accept (.sst (w.extractLsb' 23 2) (w.extractLsb' 17 6) (w.extractLsb' 11 6) (w.extractLsb' 5 6)))
  | 0x1d => reserved (w.extractLsb' 17 8 = 0) (reserved (w.extractLsb' 0 5 = 0) (accept (.spattr (w.extractLsb' 11 6) (w.extractLsb' 5 6))))
  | 0x1e => reserved (w.extractLsb' 5 20 = 0) (accept (.fence (w.extractLsb' 2 3) (w.extractLsb' 0 2)))
  | 0x1f => match (w.extractLsb' 23 2).toNat with
    | 0 => reserved (w.extractLsb' 0 1 = 0) (accept (.dist (w.extractLsb' 17 6) (w.extractLsb' 11 6) (w.extractLsb' 5 6) (w.extractLsb' 1 4)))
    | 1 => reserved (w.extractLsb' 0 1 = 0) (accept (.distH (w.extractLsb' 17 6) (w.extractLsb' 11 6) (w.extractLsb' 5 6) (w.extractLsb' 1 4)))
    | _ => .error .unassignedFn
  | 0x20 => match (w.extractLsb' 23 2).toNat with
    | 0 => reserved (w.extractLsb' 17 6 = 0) (reserved (w.extractLsb' 0 5 = 0) (accept (.pin (w.extractLsb' 11 6) (w.extractLsb' 5 6))))
    | 1 => reserved (w.extractLsb' 0 5 = 0) (accept (.pinR (w.extractLsb' 17 6) (w.extractLsb' 11 6) (w.extractLsb' 5 6)))
    | _ => .error .unassignedFn
  | 0x21 => match (w.extractLsb' 23 2).toNat with
    | 0 => reserved (w.extractLsb' 17 6 = 0) (reserved (w.extractLsb' 0 5 = 0) (accept (.unpin (w.extractLsb' 11 6) (w.extractLsb' 5 6))))
    | 1 => reserved (w.extractLsb' 0 5 = 0) (accept (.unpinR (w.extractLsb' 17 6) (w.extractLsb' 11 6) (w.extractLsb' 5 6)))
    | _ => .error .unassignedFn
  | 0x22 => match (w.extractLsb' 23 2).toNat with
    | 0 => reserved (w.extractLsb' 17 6 = 0) (reserved (w.extractLsb' 0 5 = 0) (accept (.rwb (w.extractLsb' 11 6) (w.extractLsb' 5 6))))
    | 1 => reserved (w.extractLsb' 0 5 = 0) (accept (.rwbR (w.extractLsb' 17 6) (w.extractLsb' 11 6) (w.extractLsb' 5 6)))
    | _ => .error .unassignedFn
  | 0x23 => match (w.extractLsb' 23 2).toNat with
    | 0 => reserved (w.extractLsb' 17 6 = 0) (reserved (w.extractLsb' 0 5 = 0) (accept (.rinv (w.extractLsb' 11 6) (w.extractLsb' 5 6))))
    | 1 => reserved (w.extractLsb' 0 5 = 0) (accept (.rinvR (w.extractLsb' 17 6) (w.extractLsb' 11 6) (w.extractLsb' 5 6)))
    | _ => .error .unassignedFn
  | 0x24 => match (w.extractLsb' 23 2).toNat with
    | 0 => reserved (w.extractLsb' 17 6 = 0) (reserved (w.extractLsb' 0 5 = 0) (accept (.touch (w.extractLsb' 11 6) (w.extractLsb' 5 6))))
    | 1 => reserved (w.extractLsb' 0 5 = 0) (accept (.touchR (w.extractLsb' 17 6) (w.extractLsb' 11 6) (w.extractLsb' 5 6)))
    | _ => .error .unassignedFn
  | 0x25 => reserved (w.extractLsb' 17 8 = 0) (reserved (w.extractLsb' 0 11 = 0) (accept (.chain (w.extractLsb' 11 6))))
  | 0x26 => reserved (w.extractLsb' 23 2 = 0) (reserved (w.extractLsb' 5 6 = 0) (reserved (w.extractLsb' 0 1 = 0) (accept (.chainq (w.extractLsb' 17 6) (w.extractLsb' 11 6) (w.extractLsb' 1 4)))))
  | 0x27 => reserved (w.extractLsb' 0 1 = 0) (accept (.bpost (w.extractLsb' 23 2) (w.extractLsb' 17 6) (w.extractLsb' 11 6) (w.extractLsb' 5 6) (w.extractLsb' 1 4)))
  | 0x28 => reserved (w.extractLsb' 23 2 = 0) (reserved (w.extractLsb' 5 6 = 0) (reserved (w.extractLsb' 0 1 = 0) (accept (.bread (w.extractLsb' 17 6) (w.extractLsb' 11 6) (w.extractLsb' 1 4)))))
  | 0x29 => match (w.extractLsb' 23 2).toNat with
    | 0 => reserved (w.extractLsb' 13 4 = 0) (reserved (w.extractLsb' 0 5 = 0) (accept (.bvopTest (w.extractLsb' 17 6) (w.extractLsb' 11 2) (w.extractLsb' 5 6))))
    | 1 => reserved (w.extractLsb' 13 4 = 0) (reserved (w.extractLsb' 0 11 = 0) (accept (.bvopCount (w.extractLsb' 17 6) (w.extractLsb' 11 2))))
    | 2 => reserved (w.extractLsb' 13 4 = 0) (reserved (w.extractLsb' 0 5 = 0) (accept (.bvopWord (w.extractLsb' 17 6) (w.extractLsb' 11 2) (w.extractLsb' 5 6))))
    | _ => reserved (w.extractLsb' 19 4 = 0) (reserved (w.extractLsb' 13 4 = 0) (reserved (w.extractLsb' 7 4 = 0) (reserved (w.extractLsb' 0 5 = 0) (accept (.bvopAnd (w.extractLsb' 17 2) (w.extractLsb' 11 2) (w.extractLsb' 5 2))))))
  | 0x2b => reserved (w.extractLsb' 23 2 = 0) (reserved (w.extractLsb' 0 5 = 0) (accept (.spawn (w.extractLsb' 17 6) (w.extractLsb' 11 6) (w.extractLsb' 5 6))))
  | 0x2c => match (w.extractLsb' 23 2).toNat with
    | 0 => reserved (w.extractLsb' 0 23 = 0) (accept .exit)
    | 1 => reserved (w.extractLsb' 0 23 = 0) (accept .exitAbort)
    | _ => .error .unassignedFn
  | 0x2d => reserved (w.extractLsb' 22 3 = 0) (accept (.trap (w.extractLsb' 19 3) (w.extractLsb' 13 6) (w.extractLsb' 0 13)))
  | 0x2e => match (w.extractLsb' 23 2).toNat with
    | 0 => reserved (w.extractLsb' 0 23 = 0) (accept .tsysNop)
    | 1 => reserved (w.extractLsb' 0 23 = 0) (accept .tsysTret)
    | 2 => reserved (w.extractLsb' 0 11 = 0) (accept (.tsysTmask (w.extractLsb' 17 6) (w.extractLsb' 11 6)))
    | _ => reserved (w.extractLsb' 0 23 = 0) (accept .tsysBkpt)
  | 0x30 => reserved (w.extractLsb' 0 22 = 0) (accept (.mmz (w.extractLsb' 22 3)))
  | 0x31 => accept (.mm (w.extractLsb' 22 3) (w.extractLsb' 20 2) (w.extractLsb' 14 6) (w.extractLsb' 8 6) (w.extractLsb' 3 5) (w.extractLsb' 2 1) (w.extractLsb' 0 2))
  | 0x32 => accept (.mmr (w.extractLsb' 22 3) (w.extractLsb' 20 2) (w.extractLsb' 14 6) (w.extractLsb' 8 6) (w.extractLsb' 3 5) (w.extractLsb' 2 1) (w.extractLsb' 0 2))
  | 0x33 => reserved (w.extractLsb' 22 3 = 0) (reserved (w.extractLsb' 1 1 = 0) (accept (.wload (w.extractLsb' 20 2) (w.extractLsb' 14 6) (w.extractLsb' 8 6) (w.extractLsb' 3 5) (w.extractLsb' 2 1) (w.extractLsb' 0 1))))
  | 0x34 => reserved (w.extractLsb' 2 6 = 0) (accept (.mstore (w.extractLsb' 22 3) (w.extractLsb' 20 2) (w.extractLsb' 14 6) (w.extractLsb' 8 6) (w.extractLsb' 1 1) (w.extractLsb' 0 1)))
  | 0x35 => reserved (w.extractLsb' 2 6 = 0) (accept (.mstt (w.extractLsb' 22 3) (w.extractLsb' 20 2) (w.extractLsb' 14 6) (w.extractLsb' 8 6) (w.extractLsb' 1 1) (w.extractLsb' 0 1)))
  | 0x36 => match (w.extractLsb' 0 2).toNat with
    | 0 => reserved (w.extractLsb' 22 3 = 0) (reserved (w.extractLsb' 2 6 = 0) (accept (.msetmRow (w.extractLsb' 20 2) (w.extractLsb' 14 6) (w.extractLsb' 8 6))))
    | 1 => reserved (w.extractLsb' 22 3 = 0) (reserved (w.extractLsb' 2 6 = 0) (accept (.msetmCol (w.extractLsb' 20 2) (w.extractLsb' 14 6) (w.extractLsb' 8 6))))
    | 2 => reserved (w.extractLsb' 22 3 = 0) (reserved (w.extractLsb' 2 12 = 0) (accept (.msetmDepth (w.extractLsb' 20 2) (w.extractLsb' 14 6))))
    | _ => reserved (w.extractLsb' 22 3 = 0) (reserved (w.extractLsb' 2 18 = 0) (accept (.msetmFull (w.extractLsb' 20 2))))
  | 0x37 => reserved (w.extractLsb' 20 5 = 0) (reserved (w.extractLsb' 0 14 = 0) (accept (.mbatch (w.extractLsb' 14 6))))
  | 0x38 => reserved (w.extractLsb' 20 5 = 0) (reserved (w.extractLsb' 0 14 = 0) (accept (.mwait (w.extractLsb' 14 6))))
  | 0x39 => reserved (w.extractLsb' 1 7 = 0) (accept (.rnsf (w.extractLsb' 22 3) (w.extractLsb' 20 2) (w.extractLsb' 14 6) (w.extractLsb' 8 6) (w.extractLsb' 0 1)))
  | 0x3a => reserved (w.extractLsb' 3 5 = 0) (accept (.rnsr (w.extractLsb' 22 3) (w.extractLsb' 20 2) (w.extractLsb' 14 6) (w.extractLsb' 8 6) (w.extractLsb' 2 1) (w.extractLsb' 1 1) (w.extractLsb' 0 1)))
  | 0x3b => reserved (w.extractLsb' 20 2 = 0) (reserved (w.extractLsb' 1 13 = 0) (accept (.rnsq (w.extractLsb' 22 3) (w.extractLsb' 14 6) (w.extractLsb' 0 1))))
  | 0x3c => match (w.extractLsb' 23 2).toNat with
    | 0 => reserved (w.extractLsb' 5 6 = 0) (reserved (w.extractLsb' 0 1 = 0) (accept (.amax (w.extractLsb' 17 6) (w.extractLsb' 11 6) (w.extractLsb' 1 4))))
    | 1 => reserved (w.extractLsb' 5 6 = 0) (reserved (w.extractLsb' 0 1 = 0) (accept (.amaxClr (w.extractLsb' 17 6) (w.extractLsb' 11 6) (w.extractLsb' 1 4))))
    | _ => .error .unassignedFn
  | 0x3d => reserved (w.extractLsb' 13 6 = 0) (accept (.sysr (w.extractLsb' 19 6) (w.extractLsb' 0 13)))
  | 0x3e => accept (.sysw (w.extractLsb' 19 6) (w.extractLsb' 13 6) (w.extractLsb' 0 13))
  | _ => .error .reservedOp

/-- The instruction a word stands for. -/
def decodeWord (w : Word32) : Except Reject Instr :=
  if w.extractLsb' 31 1 = 1 then decodeUniform (w.extractLsb' 25 6).toNat w else decodeLane (w.extractLsb' 25 6).toNat w

/-- A word from its four bytes, the lowest address first (R5). -/
def wordOfBytes (b0 b1 b2 b3 : Byte) : Word32 := b3 ++ b2 ++ b1 ++ b0

/-- The four bytes of a word, the lowest address first (R5). -/
def bytesOfWord (w : Word32) : List Byte :=
  [w.extractLsb' 0 8, w.extractLsb' 8 8, w.extractLsb' 16 8, w.extractLsb' 24 8]

/-- The instruction at the head of a byte sequence, with the bytes after it. -/
def decode (bs : List Byte) : Except Reject (Instr × List Byte) :=
  match bs with
  | b0 :: b1 :: b2 :: b3 :: rest => (decodeWord (wordOfBytes b0 b1 b2 b3)).map (·, rest)
  | _ => .error .truncated

/-- The instruction of a table word: its bits numbered from the least significant bit of the first byte. -/
def decodeTableWord (nbits w : Nat) : Option Instr :=
  match decode (bytesOfWord (BitVec.ofNat 32 (w % 2 ^ nbits))) with
  | .ok (i, _) => some i
  | .error _ => none

/-- The bits so far, with a field of `n` bits put below them (R4: fields from the most significant bit down). -/
def cat {n : Nat} (acc : Nat) (x : BitVec n) : Nat := acc * 2 ^ n + x.toNat

/-- The word of an instruction; an event of the device has none. -/
def encode (i : Instr) : Option Word32 :=
  match i with
  | .iaddI32 k h d a b => some (BitVec.ofNat 32 (cat (cat (cat (cat (cat (cat 0x01 k) h) 0#2) d) a) b))
  | .iaddSatI32 k h d a b => some (BitVec.ofNat 32 (cat (cat (cat (cat (cat (cat 0x01 k) h) 1#2) d) a) b))
  | .iaddSatN32 k h d a b => some (BitVec.ofNat 32 (cat (cat (cat (cat (cat (cat 0x01 k) h) 2#2) d) a) b))
  | .isubI32 k h d a b => some (BitVec.ofNat 32 (cat (cat (cat (cat (cat (cat 0x02 k) h) 0#2) d) a) b))
  | .isubSatI32 k h d a b => some (BitVec.ofNat 32 (cat (cat (cat (cat (cat (cat 0x02 k) h) 1#2) d) a) b))
  | .isubSatN32 k h d a b => some (BitVec.ofNat 32 (cat (cat (cat (cat (cat (cat 0x02 k) h) 2#2) d) a) b))
  | .imulLo k h d a b => some (BitVec.ofNat 32 (cat (cat (cat (cat (cat (cat 0x03 k) h) 0#2) d) a) b))
  | .imulHiI32 k h d a b => some (BitVec.ofNat 32 (cat (cat (cat (cat (cat (cat 0x03 k) h) 1#2) d) a) b))
  | .imulHiN32 k h d a b => some (BitVec.ofNat 32 (cat (cat (cat (cat (cat (cat 0x03 k) h) 2#2) d) a) b))
  | .imad k h d a b => some (BitVec.ofNat 32 (cat (cat (cat (cat (cat (cat 0x04 k) h) 0#2) d) a) b))
  | .iminI32 k h d a b => some (BitVec.ofNat 32 (cat (cat (cat (cat (cat (cat 0x05 k) h) 0#2) d) a) b))
  | .imaxI32 k h d a b => some (BitVec.ofNat 32 (cat (cat (cat (cat (cat (cat 0x05 k) h) 1#2) d) a) b))
  | .iminN32 k h d a b => some (BitVec.ofNat 32 (cat (cat (cat (cat (cat (cat 0x05 k) h) 2#2) d) a) b))
  | .imaxN32 k h d a b => some (BitVec.ofNat 32 (cat (cat (cat (cat (cat (cat 0x05 k) h) 3#2) d) a) b))
  | .and k h d a b => some (BitVec.ofNat 32 (cat (cat (cat (cat (cat (cat 0x06 k) h) 0#2) d) a) b))
  | .or k h d a b => some (BitVec.ofNat 32 (cat (cat (cat (cat (cat (cat 0x06 k) h) 1#2) d) a) b))
  | .xor k h d a b => some (BitVec.ofNat 32 (cat (cat (cat (cat (cat (cat 0x06 k) h) 2#2) d) a) b))
  | .andn k h d a b => some (BitVec.ofNat 32 (cat (cat (cat (cat (cat (cat 0x06 k) h) 3#2) d) a) b))
  | .shl k h d a b => some (BitVec.ofNat 32 (cat (cat (cat (cat (cat (cat 0x07 k) h) 0#2) d) a) b))
  | .shr k h d a b => some (BitVec.ofNat 32 (cat (cat (cat (cat (cat (cat 0x07 k) h) 1#2) d) a) b))
  | .sha k h d a b => some (BitVec.ofNat 32 (cat (cat (cat (cat (cat (cat 0x07 k) h) 2#2) d) a) b))
  | .rot k h d a b => some (BitVec.ofNat 32 (cat (cat (cat (cat (cat (cat 0x07 k) h) 3#2) d) a) b))
  | .clz k h d a => some (BitVec.ofNat 32 (cat (cat (cat (cat (cat (cat 0x08 k) h) 0#2) d) a) 0#6))
  | .popc k h d a => some (BitVec.ofNat 32 (cat (cat (cat (cat (cat (cat 0x08 k) h) 1#2) d) a) 0#6))
  | .brev k h d a => some (BitVec.ofNat 32 (cat (cat (cat (cat (cat (cat 0x08 k) h) 2#2) d) a) 0#6))
  | .ffs k h d a => some (BitVec.ofNat 32 (cat (cat (cat (cat (cat (cat 0x08 k) h) 3#2) d) a) 0#6))
  | .bfxI32 k h d a b => some (BitVec.ofNat 32 (cat (cat (cat (cat (cat (cat 0x09 k) h) 0#2) d) a) b))
  | .bfxN32 k h d a b => some (BitVec.ofNat 32 (cat (cat (cat (cat (cat (cat 0x09 k) h) 1#2) d) a) b))
  | .bfi k h d a b => some (BitVec.ofNat 32 (cat (cat (cat (cat (cat (cat 0x09 k) h) 2#2) d) a) b))
  | .icmp k h f a b => some (BitVec.ofNat 32 (cat (cat (cat (cat (cat (cat 0x0a k) h) f) 0#6) a) b))
  | .icmpn k h f a b => some (BitVec.ofNat 32 (cat (cat (cat (cat (cat (cat 0x0b k) h) f) 0#6) a) b))
  | .sel k h d a b => some (BitVec.ofNat 32 (cat (cat (cat (cat (cat (cat 0x0c k) h) 0#2) d) a) b))
  | .kand k h a b => some (BitVec.ofNat 32 (cat (cat (cat (cat (cat (cat (cat 0x0d k) h) 0#2) 0#9) a) 0#3) b))
  | .kor k h a b => some (BitVec.ofNat 32 (cat (cat (cat (cat (cat (cat (cat 0x0d k) h) 1#2) 0#9) a) 0#3) b))
  | .kxor k h a b => some (BitVec.ofNat 32 (cat (cat (cat (cat (cat (cat (cat 0x0d k) h) 2#2) 0#9) a) 0#3) b))
  | .kandn k h a b => some (BitVec.ofNat 32 (cat (cat (cat (cat (cat (cat (cat 0x0d k) h) 3#2) 0#9) a) 0#3) b))
  | .iaddi k d a i => some (BitVec.ofNat 32 (cat (cat (cat (cat 0x0e k) d) a) i))
  | .imuli k d a i => some (BitVec.ofNat 32 (cat (cat (cat (cat 0x0f k) d) a) i))
  | .andi k d a i => some (BitVec.ofNat 32 (cat (cat (cat (cat 0x10 k) d) a) i))
  | .ori k d a i => some (BitVec.ofNat 32 (cat (cat (cat (cat 0x11 k) d) a) i))
  | .xori k d a i => some (BitVec.ofNat 32 (cat (cat (cat (cat 0x12 k) d) a) i))
  | .shifti k d a t n => some (BitVec.ofNat 32 (cat (cat (cat (cat (cat (cat 0x13 k) d) a) t) 0#3) n))
  | .icmpi k f a i => some (BitVec.ofNat 32 (cat (cat (cat (cat (cat 0x14 k) 0#3) f) a) i))
  | .movi k d i => some (BitVec.ofNat 32 (cat (cat (cat 0x15 k) d) i))
  | .movhi k d i => some (BitVec.ofNat 32 (cat (cat (cat 0x16 k) d) i))
  | .mov k h d a => some (BitVec.ofNat 32 (cat (cat (cat (cat (cat (cat 0x17 k) h) 0#2) d) a) 0#6))
  | .movBroadcast k h d a => some (BitVec.ofNat 32 (cat (cat (cat (cat (cat (cat 0x17 k) h) 1#2) d) a) 0#6))
  | .movFromMask k h d a => some (BitVec.ofNat 32 (cat (cat (cat (cat (cat (cat (cat 0x17 k) h) 2#2) d) 0#3) a) 0#6))
  | .fadd k h f d a b => some (BitVec.ofNat 32 (cat (cat (cat (cat (cat (cat 0x18 k) h) f) d) a) b))
  | .fsub k h f d a b => some (BitVec.ofNat 32 (cat (cat (cat (cat (cat (cat 0x19 k) h) f) d) a) b))
  | .fmul k h f d a b => some (BitVec.ofNat 32 (cat (cat (cat (cat (cat (cat 0x1a k) h) f) d) a) b))
  | .ffma k h f d a b => some (BitVec.ofNat 32 (cat (cat (cat (cat (cat (cat 0x1b k) h) f) d) a) b))
  | .ffms k h f d a b => some (BitVec.ofNat 32 (cat (cat (cat (cat (cat (cat 0x1c k) h) f) d) a) b))
  | .fmin k h d a b => some (BitVec.ofNat 32 (cat (cat (cat (cat (cat (cat 0x1d k) h) 0#2) d) a) b))
  | .fmax k h d a b => some (BitVec.ofNat 32 (cat (cat (cat (cat (cat (cat 0x1d k) h) 1#2) d) a) b))
  | .fminnum k h d a b => some (BitVec.ofNat 32 (cat (cat (cat (cat (cat (cat 0x1d k) h) 2#2) d) a) b))
  | .fmaxnum k h d a b => some (BitVec.ofNat 32 (cat (cat (cat (cat (cat (cat 0x1d k) h) 3#2) d) a) b))
  | .fcmp k h f a b => some (BitVec.ofNat 32 (cat (cat (cat (cat (cat (cat 0x1e k) h) f) 0#6) a) b))
  | .fabs k h d a => some (BitVec.ofNat 32 (cat (cat (cat (cat (cat (cat 0x1f k) h) 0#2) d) a) 0#6))
  | .fneg k h d a => some (BitVec.ofNat 32 (cat (cat (cat (cat (cat (cat 0x1f k) h) 1#2) d) a) 0#6))
  | .fcopysign k h d a b => some (BitVec.ofNat 32 (cat (cat (cat (cat (cat (cat 0x1f k) h) 2#2) d) a) b))
  | .fclass k h d a => some (BitVec.ofNat 32 (cat (cat (cat (cat (cat (cat 0x1f k) h) 3#2) d) a) 0#6))
  | .fcvt k h r d a c => some (BitVec.ofNat 32 (cat (cat (cat (cat (cat (cat 0x20 k) h) r) d) a) c))
  | .frnd k h r d a => some (BitVec.ofNat 32 (cat (cat (cat (cat (cat (cat 0x21 k) h) r) d) a) 0#6))
  | .fsfu k l d a f => some (BitVec.ofNat 32 (cat (cat (cat (cat (cat 0x22 k) l) d) a) f))
  | .fdot2 k h f d a b => some (BitVec.ofNat 32 (cat (cat (cat (cat (cat (cat 0x23 k) h) f) d) a) b))
  | .lshf k h f d a b => some (BitVec.ofNat 32 (cat (cat (cat (cat (cat (cat 0x24 k) h) f) d) a) b))
  | .lred k l d a p => some (BitVec.ofNat 32 (cat (cat (cat (cat (cat (cat 0x25 k) l) d) a) 0#1) p))
  | .lscan k l d a e p => some (BitVec.ofNat 32 (cat (cat (cat (cat (cat (cat 0x26 k) l) d) a) e) p))
  | .vote k h f a => some (BitVec.ofNat 32 (cat (cat (cat (cat (cat (cat 0x27 k) h) f) 0#6) a) 0#6))
  | .lds k l d a s c => some (BitVec.ofNat 32 (cat (cat (cat (cat (cat (cat 0x28 k) l) d) a) s) c))
  | .lds2 k l d a s c => some (BitVec.ofNat 32 (cat (cat (cat (cat (cat (cat 0x29 k) l) d) a) s) c))
  | .ldsf k l d a s c => some (BitVec.ofNat 32 (cat (cat (cat (cat (cat (cat 0x2a k) l) d) a) s) c))
  | .sts k d a s c => some (BitVec.ofNat 32 (cat (cat (cat (cat (cat (cat 0x2b k) 0#4) d) a) s) c))
  | .sts2 k d a s c => some (BitVec.ofNat 32 (cat (cat (cat (cat (cat (cat 0x2c k) 0#4) d) a) s) c))
  | .stsf k d a s c => some (BitVec.ofNat 32 (cat (cat (cat (cat (cat (cat 0x2d k) 0#4) d) a) s) c))
  | .ldp k l d a s c => some (BitVec.ofNat 32 (cat (cat (cat (cat (cat (cat 0x2e k) l) d) a) s) c))
  | .stp k d a s c => some (BitVec.ofNat 32 (cat (cat (cat (cat (cat (cat 0x2f k) 0#4) d) a) s) c))
  | .ldg k l d a s c => some (BitVec.ofNat 32 (cat (cat (cat (cat (cat (cat 0x30 k) l) d) a) s) c))
  | .ldg2 k l d a s c => some (BitVec.ofNat 32 (cat (cat (cat (cat (cat (cat 0x31 k) l) d) a) s) c))
  | .stg k d a s c => some (BitVec.ofNat 32 (cat (cat (cat (cat (cat (cat 0x32 k) 0#4) d) a) s) c))
  | .stg2 k d a s c => some (BitVec.ofNat 32 (cat (cat (cat (cat (cat (cat 0x33 k) 0#4) d) a) s) c))
  | .ldgs k l d a s c => some (BitVec.ofNat 32 (cat (cat (cat (cat (cat (cat 0x34 k) l) d) a) s) c))
  | .stgs k d a s c => some (BitVec.ofNat 32 (cat (cat (cat (cat (cat (cat 0x35 k) 0#4) d) a) s) c))
  | .atom k l p d a s => some (BitVec.ofNat 32 (cat (cat (cat (cat (cat (cat 0x36 k) l) p) d) a) s))
  | .atomb k l p d a s => some (BitVec.ofNat 32 (cat (cat (cat (cat (cat (cat 0x37 k) l) p) d) a) s))
  | .redg k p d a s => some (BitVec.ofNat 32 (cat (cat (cat (cat (cat (cat 0x38 k) 0#4) p) d) a) s))
  | .atoms k l p d a s => some (BitVec.ofNat 32 (cat (cat (cat (cat (cat (cat 0x39 k) l) p) d) a) s))
  | .touchg k a s c => some (BitVec.ofNat 32 (cat (cat (cat (cat (cat 0x3a k) 0#10) a) s) c))
  | .sadd d a b => some (BitVec.ofNat 32 (cat (cat (cat (cat (cat 0x41 0#2) d) a) b) 0#5))
  | .saddSatI64 d a b => some (BitVec.ofNat 32 (cat (cat (cat (cat (cat 0x41 1#2) d) a) b) 0#5))
  | .saddSatN64 d a b => some (BitVec.ofNat 32 (cat (cat (cat (cat (cat 0x41 2#2) d) a) b) 0#5))
  | .ssub d a b => some (BitVec.ofNat 32 (cat (cat (cat (cat (cat 0x42 0#2) d) a) b) 0#5))
  | .ssubSatI64 d a b => some (BitVec.ofNat 32 (cat (cat (cat (cat (cat 0x42 1#2) d) a) b) 0#5))
  | .ssubSatN64 d a b => some (BitVec.ofNat 32 (cat (cat (cat (cat (cat 0x42 2#2) d) a) b) 0#5))
  | .smulLo d a b => some (BitVec.ofNat 32 (cat (cat (cat (cat (cat 0x43 0#2) d) a) b) 0#5))
  | .smulHiI64 d a b => some (BitVec.ofNat 32 (cat (cat (cat (cat (cat 0x43 1#2) d) a) b) 0#5))
  | .smulHiN64 d a b => some (BitVec.ofNat 32 (cat (cat (cat (cat (cat 0x43 2#2) d) a) b) 0#5))
  | .sand d a b => some (BitVec.ofNat 32 (cat (cat (cat (cat (cat 0x44 0#2) d) a) b) 0#5))
  | .sor d a b => some (BitVec.ofNat 32 (cat (cat (cat (cat (cat 0x44 1#2) d) a) b) 0#5))
  | .sxor d a b => some (BitVec.ofNat 32 (cat (cat (cat (cat (cat 0x44 2#2) d) a) b) 0#5))
  | .sandn d a b => some (BitVec.ofNat 32 (cat (cat (cat (cat (cat 0x44 3#2) d) a) b) 0#5))
  | .sshl d a b => some (BitVec.ofNat 32 (cat (cat (cat (cat (cat 0x45 0#2) d) a) b) 0#5))
  | .sshr d a b => some (BitVec.ofNat 32 (cat (cat (cat (cat (cat 0x45 1#2) d) a) b) 0#5))
  | .ssha d a b => some (BitVec.ofNat 32 (cat (cat (cat (cat (cat 0x45 2#2) d) a) b) 0#5))
  | .srot d a b => some (BitVec.ofNat 32 (cat (cat (cat (cat (cat 0x45 3#2) d) a) b) 0#5))
  | .sminI64 d a b => some (BitVec.ofNat 32 (cat (cat (cat (cat (cat 0x46 0#2) d) a) b) 0#5))
  | .smaxI64 d a b => some (BitVec.ofNat 32 (cat (cat (cat (cat (cat 0x46 1#2) d) a) b) 0#5))
  | .sminN64 d a b => some (BitVec.ofNat 32 (cat (cat (cat (cat (cat 0x46 2#2) d) a) b) 0#5))
  | .smaxN64 d a b => some (BitVec.ofNat 32 (cat (cat (cat (cat (cat 0x46 3#2) d) a) b) 0#5))
  | .scmp f d a b => some (BitVec.ofNat 32 (cat (cat (cat (cat (cat 0x47 f) d) a) b) 0#5))
  | .ssel d a b => some (BitVec.ofNat 32 (cat (cat (cat (cat (cat 0x48 0#2) d) a) b) 0#5))
  | .sclz d a => some (BitVec.ofNat 32 (cat (cat (cat (cat 0x49 0#2) d) a) 0#11))
  | .spopc d a => some (BitVec.ofNat 32 (cat (cat (cat (cat 0x49 1#2) d) a) 0#11))
  | .sbrev d a => some (BitVec.ofNat 32 (cat (cat (cat (cat 0x49 2#2) d) a) 0#11))
  | .sffs d a => some (BitVec.ofNat 32 (cat (cat (cat (cat 0x49 3#2) d) a) 0#11))
  | .saddi d a i => some (BitVec.ofNat 32 (cat (cat (cat 0x4a d) a) i))
  | .sli d i => some (BitVec.ofNat 32 (cat (cat (cat 0x4b d) 0#6) i))
  | .shi d i => some (BitVec.ofNat 32 (cat (cat (cat 0x4c d) 0#6) i))
  | .sandi d a i => some (BitVec.ofNat 32 (cat (cat (cat 0x4d d) a) i))
  | .sshifti d a t n => some (BitVec.ofNat 32 (cat (cat (cat (cat (cat 0x4e d) a) t) 0#5) n))
  | .smov d a => some (BitVec.ofNat 32 (cat (cat (cat (cat 0x4f 0#2) d) a) 0#11))
  | .smovFromMask d k => some (BitVec.ofNat 32 (cat (cat (cat (cat (cat 0x4f 1#2) d) 0#3) k) 0#11))
  | .smovToMask k a => some (BitVec.ofNat 32 (cat (cat (cat (cat (cat 0x4f 2#2) 0#3) k) a) 0#11))
  | .smovSpecial d n => some (BitVec.ofNat 32 (cat (cat (cat (cat 0x4f 3#2) d) n) 0#11))
  | .b d => some (BitVec.ofNat 32 (cat (cat 0x50 0#4) d))
  | .bs s n d => some (BitVec.ofNat 32 (cat (cat (cat 0x51 s) n) d))
  | .bk k m d => some (BitVec.ofNat 32 (cat (cat (cat (cat 0x52 0#1) k) m) d))
  | .call d => some (BitVec.ofNat 32 (cat (cat 0x53 0#4) d))
  | .jmp a => some (BitVec.ofNat 32 (cat (cat (cat (cat 0x54 0#2) 0#6) a) 0#11))
  | .calli a => some (BitVec.ofNat 32 (cat (cat (cat (cat 0x54 1#2) 0#6) a) 0#11))
  | .ret => some (BitVec.ofNat 32 (cat (cat 0x54 2#2) 0#23))
  | .loop n c i t => some (BitVec.ofNat 32 (cat (cat (cat (cat (cat 0x56 n) c) i) t) 0#2))
  | .bar l k i => some (BitVec.ofNat 32 (cat (cat (cat (cat (cat 0x57 0#12) l) k) 0#5) i))
  | .rget d => some (BitVec.ofNat 32 (cat (cat (cat 0x58 0#2) d) 0#17))
  | .rrel => some (BitVec.ofNat 32 (cat 0x59 0#25))
  | .waita f d a b => some (BitVec.ofNat 32 (cat (cat (cat (cat (cat 0x5a f) d) a) b) 0#5))
  | .sld f d a b l => some (BitVec.ofNat 32 (cat (cat (cat (cat (cat (cat 0x5b f) d) a) b) l) 0#1))
  | .sst f d a b => some (BitVec.ofNat 32 (cat (cat (cat (cat (cat 0x5c f) d) a) b) 0#5))
  | .spattr a b => some (BitVec.ofNat 32 (cat (cat (cat (cat 0x5d 0#8) a) b) 0#5))
  | .fence s k => some (BitVec.ofNat 32 (cat (cat (cat 0x5e 0#20) s) k))
  | .dist d a b l => some (BitVec.ofNat 32 (cat (cat (cat (cat (cat (cat 0x5f 0#2) d) a) b) l) 0#1))
  | .distH d a b l => some (BitVec.ofNat 32 (cat (cat (cat (cat (cat (cat 0x5f 1#2) d) a) b) l) 0#1))
  | .pin a b => some (BitVec.ofNat 32 (cat (cat (cat (cat (cat 0x60 0#2) 0#6) a) b) 0#5))
  | .pinR n a b => some (BitVec.ofNat 32 (cat (cat (cat (cat (cat 0x60 1#2) n) a) b) 0#5))
  | .unpin a b => some (BitVec.ofNat 32 (cat (cat (cat (cat (cat 0x61 0#2) 0#6) a) b) 0#5))
  | .unpinR n a b => some (BitVec.ofNat 32 (cat (cat (cat (cat (cat 0x61 1#2) n) a) b) 0#5))
  | .rwb a b => some (BitVec.ofNat 32 (cat (cat (cat (cat (cat 0x62 0#2) 0#6) a) b) 0#5))
  | .rwbR n a b => some (BitVec.ofNat 32 (cat (cat (cat (cat (cat 0x62 1#2) n) a) b) 0#5))
  | .rinv a b => some (BitVec.ofNat 32 (cat (cat (cat (cat (cat 0x63 0#2) 0#6) a) b) 0#5))
  | .rinvR n a b => some (BitVec.ofNat 32 (cat (cat (cat (cat (cat 0x63 1#2) n) a) b) 0#5))
  | .touch a b => some (BitVec.ofNat 32 (cat (cat (cat (cat (cat 0x64 0#2) 0#6) a) b) 0#5))
  | .touchR n a b => some (BitVec.ofNat 32 (cat (cat (cat (cat (cat 0x64 1#2) n) a) b) 0#5))
  | .chain a => some (BitVec.ofNat 32 (cat (cat (cat 0x65 0#8) a) 0#11))
  | .chainq d a l => some (BitVec.ofNat 32 (cat (cat (cat (cat (cat (cat 0x66 0#2) d) a) 0#6) l) 0#1))
  | .bpost v d a b l => some (BitVec.ofNat 32 (cat (cat (cat (cat (cat (cat 0x67 v) d) a) b) l) 0#1))
  | .bread d a l => some (BitVec.ofNat 32 (cat (cat (cat (cat (cat (cat 0x68 0#2) d) a) 0#6) l) 0#1))
  | .bvopTest d v b => some (BitVec.ofNat 32 (cat (cat (cat (cat (cat (cat 0x69 0#2) d) 0#4) v) b) 0#5))
  | .bvopCount d v => some (BitVec.ofNat 32 (cat (cat (cat (cat (cat 0x69 1#2) d) 0#4) v) 0#11))
  | .bvopWord d v b => some (BitVec.ofNat 32 (cat (cat (cat (cat (cat (cat 0x69 2#2) d) 0#4) v) b) 0#5))
  | .bvopAnd d a b => some (BitVec.ofNat 32 (cat (cat (cat (cat (cat (cat (cat (cat 0x69 3#2) 0#4) d) 0#4) a) 0#4) b) 0#5))
  | .spawn d a b => some (BitVec.ofNat 32 (cat (cat (cat (cat (cat 0x6b 0#2) d) a) b) 0#5))
  | .exit => some (BitVec.ofNat 32 (cat (cat 0x6c 0#2) 0#23))
  | .exitAbort => some (BitVec.ofNat 32 (cat (cat 0x6c 1#2) 0#23))
  | .trap c a i => some (BitVec.ofNat 32 (cat (cat (cat (cat 0x6d 0#3) c) a) i))
  | .tsysNop => some (BitVec.ofNat 32 (cat (cat 0x6e 0#2) 0#23))
  | .tsysTret => some (BitVec.ofNat 32 (cat (cat 0x6e 1#2) 0#23))
  | .tsysTmask d a => some (BitVec.ofNat 32 (cat (cat (cat (cat 0x6e 2#2) d) a) 0#11))
  | .tsysBkpt => some (BitVec.ofNat 32 (cat (cat 0x6e 3#2) 0#23))
  | .mmz z => some (BitVec.ofNat 32 (cat (cat 0x70 z) 0#22))
  | .mm z s a b p t k => some (BitVec.ofNat 32 (cat (cat (cat (cat (cat (cat (cat 0x71 z) s) a) b) p) t) k))
  | .mmr z s a b p t k => some (BitVec.ofNat 32 (cat (cat (cat (cat (cat (cat (cat 0x72 z) s) a) b) p) t) k))
  | .wload s a b p t g => some (BitVec.ofNat 32 (cat (cat (cat (cat (cat (cat (cat (cat 0x73 0#3) s) a) b) p) t) 0#1) g))
  | .mstore z s a b c p => some (BitVec.ofNat 32 (cat (cat (cat (cat (cat (cat (cat 0x74 z) s) a) b) 0#6) c) p))
  | .mstt z s a b c p => some (BitVec.ofNat 32 (cat (cat (cat (cat (cat (cat (cat 0x75 z) s) a) b) 0#6) c) p))
  | .msetmRow s a b => some (BitVec.ofNat 32 (cat (cat (cat (cat (cat (cat 0x76 0#3) s) a) b) 0#6) 0#2))
  | .msetmCol s a b => some (BitVec.ofNat 32 (cat (cat (cat (cat (cat (cat 0x76 0#3) s) a) b) 0#6) 1#2))
  | .msetmDepth s a => some (BitVec.ofNat 32 (cat (cat (cat (cat (cat 0x76 0#3) s) a) 0#12) 2#2))
  | .msetmFull s => some (BitVec.ofNat 32 (cat (cat (cat (cat 0x76 0#3) s) 0#18) 3#2))
  | .mbatch a => some (BitVec.ofNat 32 (cat (cat (cat 0x77 0#5) a) 0#14))
  | .mwait a => some (BitVec.ofNat 32 (cat (cat (cat 0x78 0#5) a) 0#14))
  | .rnsf z s a b g => some (BitVec.ofNat 32 (cat (cat (cat (cat (cat (cat 0x79 z) s) a) b) 0#7) g))
  | .rnsr z s a b t c p => some (BitVec.ofNat 32 (cat (cat (cat (cat (cat (cat (cat (cat 0x7a z) s) a) b) 0#5) t) c) p))
  | .rnsq z a c => some (BitVec.ofNat 32 (cat (cat (cat (cat (cat 0x7b z) 0#2) a) 0#13) c))
  | .amax d a l => some (BitVec.ofNat 32 (cat (cat (cat (cat (cat (cat 0x7c 0#2) d) a) 0#6) l) 0#1))
  | .amaxClr d a l => some (BitVec.ofNat 32 (cat (cat (cat (cat (cat (cat 0x7c 1#2) d) a) 0#6) l) 0#1))
  | .sysr d n => some (BitVec.ofNat 32 (cat (cat (cat 0x7d d) 0#6) n))
  | .sysw d a n => some (BitVec.ofNat 32 (cat (cat (cat 0x7e d) a) n))
  | .trapPermitRetry _ => none
  | .demandMissNotification _ => none
  | .handlerDeferralExpiry _ => none
  | .longResultLanding _ _ => none
  | .barrierRelease _ => none
  | .rgetGrant _ => none
  | .registerExamination _ => none
  | .exitRetire _ => none
  | .bankGrant _ => none
  | .globalAccessSlot _ => none
  | .syncAccessSlot _ => none
  | .atomicGroupSlot _ => none
  | .distanceRequestSlot _ => none
  | .replicaMerge _ _ => none
  | .replicaDrop _ => none
  | .missDataArrival _ _ => none
  | .motionLanding _ _ => none
  | .boundaryMove _ => none
  | .writeBack _ => none
  | .boardOperationSlot _ => none
  | .boardReadSlot _ => none
  | .amaxFold _ => none
  | .amaxReadSlot _ => none
  | .redgContribution _ => none
  | .redgRetry _ => none
  | .waitaWatchTest _ _ => none
  | .waitaRetry _ => none
  | .waitaWake _ => none
  | .fenceComplete _ => none
  | .matrixWordStart _ => none
  | .matrixStep _ => none
  | .batchComplete _ => none
  | .copyEntry _ _ => none
  | .mcastEntry _ _ => none
  | .signalEntry _ _ => none
  | .loopEntry _ _ => none
  | .condEntry _ _ => none
  | .reduceEntry _ _ => none
  | .waitwEntry _ _ => none
  | .endEntry _ _ => none
  | .chainTransfer _ _ => none
  | .waitwWake _ _ => none
  | .launchPort _ _ _ _ _ _ => none
  | .graphLoad _ => none
  | .dispatch _ => none
  | .versionReservation _ => none
  | .castingComplete _ => none
  | .commitAssignment _ => none
  | .commitMessage _ _ => none
  | .discardMessage _ _ => none
  | .horizonMessage _ => none
  | .committed _ => none
  | .spawnRecordEnqueue _ => none
  | .castingFault _ => none
  | .discardAcknowledged _ => none
  | .translationWalk _ => none
  | .translationRecordWrite _ => none
  | .tqTail _ _ => none
  | .tqAnswerResume _ _ => none
  | .tqAnswerAbort _ _ => none
  | .preemptCtlSave _ _ _ => none
  | .preemptCtlDiscard _ _ _ => none
  | .preemptionStart _ => none
  | .preemptionSave _ => none
  | .columnDue _ _ => none
  | .realignmentStart _ _ _ => none
  | .realignmentEnd _ _ => none
  | .governorExamination _ _ _ => none
  | .hashCtlGo _ => none
  | .drainMessage _ _ => none
  | .switchMessage _ _ => none
  | .rehomeReplay _ => none
  | .btData _ _ => none
  | .sliceRetire _ _ => none
  | .retirementProceed _ => none
  | .splitRegisterWrite _ _ _ => none
  | .splitChangeSlot _ _ _ => none
  | .fmtSync _ => none
  | .fmtTableLoad _ => none
  | .sdCtl _ => none
  | .shootdownComplete _ => none
  | .boardCfg _ => none
  | .brdReset _ _ => none
  | .boardResetSlot _ => none
  | .partCtlReset _ => none
  | .partCtlEn _ _ => none
  | .rnsInject _ => none
  | .rnsCtlMf _ _ => none
  | .rnsCtlRetired _ _ => none
  | .errorPolicyExamination => none
  | .scrubRead _ _ _ _ => none
  | .scrubWrite _ => none
  | .windowHalving => none
  | .clusterOwnerChoice _ => none
  | .serviceExamination => none
  | .gangReadyPost _ _ => none
  | .gangAbortOperation _ _ => none
  | .gangWatchdogExpiry _ _ => none
  | .gangStart _ _ => none
  | .gangAbort _ _ => none
  | .hostPhysicalWindowAccess _ _ _ _ => none
  | .hostMemoryWindowAccess _ _ _ _ => none
  | .registerWrite _ _ _ _ => none
  | .linkTrained _ => none
  | .bringUp _ _ _ => none
  | .getVersion => none
  | .getCapabilities => none
  | .negotiateAlgorithms _ _ => none
  | .getDigests => none
  | .getCertificate _ => none
  | .challenge _ => none
  | .getMeasurements _ => none
  | .identify => none
  | .sensors => none
  | .errorsQuery => none
  | .stageFirmware _ => none
  | .resetPackage => none
  | .nystraPortFailure _ => none
  | .rdmaWrite _ _ _ => none
  | .rdmaRead _ _ _ => none
  | .matrixWordComplete _ => none
  | .opportunisticReplay _ _ => none
  | .shadowComparison _ _ => none
  | .vfEnable _ _ => none
  | .hostMemoryCompletion _ => none

end Sys2Proof
end

