-- ==== Sys2Proof/Machine/Barriers.lean ====
section
/-!
DEFINITION. Barriers: groups, arrivals, phases and releases (R31 to R34, R126 to R128).
-/

namespace Sys2Proof.Machine

/-- The key of a barrier in a ladle's own table. -/
def barKey (level : Level) (id : Nat) : Nat := 16 * level.toNat + id

/-- The group of ladles that share a barrier of a level with a ladle (R31): the ladle, its casting, its cluster gang, its
mould. -/
def State.groupOf (s : State) (l : Ladle) (level : Level) : Nat :=
  match level.toNat with
  | 0 => l.uid
  | 1 => l.casting
  | n =>
    match s.gangOf l.casting with
    | some (g, _) => g.1 * 2 ^ 80 + g.2.1 * 2 ^ 64 + if n = 2 then g.2.2 else 0
    | none => l.casting

/-- The members of a barrier that have not exited, those of saved castings too: an exited ladle counts as arrived (R31, R33,
R129). -/
def State.members (s : State) (level : Level) (group : Nat) : List Ladle :=
  (s.ladles ++ s.castings.flatMap (·.saved)).filter (fun l => l.live && decide (s.groupOf l level = group))

/-- A casting that has no ladles now and has not finished: it waits for its dispatch or relaunch, or its discard is not over. -/
def Casting.unlaunched (c : Casting) : Bool :=
  match c.state with
  | .ready => true
  | .faulted => true
  | .discarding => true
  | .discarded => true
  | .heldBack => true
  | _ => false

/-- The group, at a level above the casting, of casting `index` of a mould with `w2` (R31). -/
def gangGroup (level : Level) (graph mould w2 index : Nat) : Nat :=
  graph * 2 ^ 80 + mould * 2 ^ 64 + if level = 2 then index / 2 ^ w2 else 0

/-- Some casting of a gang or mould has not arrived for want of ladles: it waits for a relaunch, or will not come again (R31; log 59). -/
def State.groupAbsent (s : State) (level : Level) (group : Nat) : Bool :=
  2 ≤ level.toNat &&
  s.graphs.any (fun g => g.moulds.zipIdx.any (fun m =>
    s.castings.any (fun c => decide (c.graph = g.uid) && decide (c.mould = m.2) && c.unlaunched
      && decide (gangGroup level g.uid m.2 m.1.w2 c.index = group))
    || g.lost.any (fun e => decide (e.1 = m.2) && decide (gangGroup level g.uid m.2 m.1.w2 e.2 = group))))

/-- The mould that a mould barrier's group names. -/
def State.mouldOfGroup (s : State) (group : Nat) : Option Mould :=
  match s.graphs.find? (fun g => decide (g.uid = group / 2 ^ 80)) with
  | some g => g.moulds[group / 2 ^ 64 % 2 ^ 16]?
  | none => none

/-- The members of a barrier on other packages have arrived at the open phase: a mould barrier of a gang mould with members there
(R31, R126, R368). -/
def State.othersArrived (s : State) (b : Barrier) : Bool :=
  if b.level = 3 then
    match s.mouldOfGroup b.group with
    | some m => decide (m.members ≤ 1) || decide (b.completed < b.remote)
    | none => true
  else true

/-- A barrier with no phase completed. -/
def Barrier.start (level : Level) (id group : Nat) : Barrier :=
  { level := level, id := id, group := group, completed := 0, released := 0, arrived := [], remote := 0 }

def Barrier.is (b : Barrier) (level : Level) (id group : Nat) : Bool :=
  decide (b.level = level) && decide (b.id = id) && decide (b.group = group)

/-- The barrier of a level, id and group. -/
def State.barrier (s : State) (level : Level) (id group : Nat) : Barrier :=
  (s.barriers.find? (fun b => b.is level id group)).getD (Barrier.start level id group)

/-- Replace a barrier's record. -/
def State.setBarrier (s : State) (b : Barrier) : State :=
  { s with barriers := if s.barriers.any (fun c => c.is b.level b.id b.group)
      then s.barriers.map (fun c => if c.is b.level b.id b.group then b else c) else s.barriers ++ [b] }

/-- A phase completes when every member has arrived, on this package and on the others (R32, R126). -/
def State.checkBarrier (s : State) (b : Barrier) : State :=
  if !b.arrived.isEmpty && (s.members b.level b.group).all (fun l => b.arrived.contains l.uid) && !s.groupAbsent b.level b.group
      && s.othersArrived b then
    s.setBarrier { b with completed := b.completed + 1, arrived := [] }
  else s

/-- Every barrier is checked again when a ladle has exited (R33). -/
def State.checkBarriers (s : State) : State := s.barriers.foldl (fun t b => t.checkBarrier b) s

def BarRec.none : BarRec := { lanes := 0, arrived := 0, waited := 0 }

/-- A ladle's part in a barrier. -/
def Ladle.bar (l : Ladle) (key : Nat) : BarRec := FMap.get BarRec.none l.bars key

def Ladle.setBar (l : Ladle) (key : Nat) (r : BarRec) : Ladle := { l with bars := FMap.set BarRec.none l.bars key r }

/-- The arrivals of the members of a gang mould on other packages, at the open phase of a mould barrier (R126): they cannot run ahead
of it. -/
def State.remoteArrival (s : State) (graph mould id : Nat) : State :=
  let b := s.barrier 3 id (gangGroup 3 graph mould 0 0)
  if b.completed < b.remote then s
  else
    let b := { b with remote := b.completed + 1 }
    (s.setBarrier b).checkBarrier b

/-- The scope of a barrier's arrival (R127). -/
def levelScope (level : Level) : Nat :=
  match level.toNat with
  | 0 => 0
  | 1 => 1
  | 2 => 2
  | _ => 5

/-- The levels of the barriers at which the ladle arrives with the end of its issuing split: every other live split has arrived (R32). -/
def Ladle.arrivesAtEnd (l : Ladle) : List Level :=
  ((List.range 64).filter (fun k => (l.bar k).lanes ≠ 0 && l.liveLanes &&& ~~~l.sp.mask &&& ~~~(l.bar k).lanes == 0)).map (fun k => BitVec.ofNat 2 (k / 16))

/-- The ladle arrives once every live split has (R32), at the open phase, and its arrival is counted (R34, R379). -/
def State.ladleArrives (s : State) (level : Level) (id : Nat) : State :=
  let l := s.me
  let r := l.bar (barKey level id)
  if r.lanes ≠ 0 ∧ l.liveLanes &&& ~~~r.lanes = 0 then
    let b := s.barrier level id (s.groupOf l level)
    let t := s.mapMe (fun l =>
      { l.setBar (barKey level id) { r with lanes := 0, arrived := b.completed + 1 } with
        arrivals := if level = 1 then l.arrivals + 1 else l.arrivals,
        gangArrivals := if level = 2 then l.gangArrivals + 1 else l.gangArrivals })
    let b := { b with arrived := b.arrived ++ [l.uid] }
    (t.setBarrier b).checkBarrier b
  else s

/-- The issuing split arrives at a barrier. DESIGN CHOICE (log 60): above the ladle level a member is a ladle, so a split that arrives
again before the ladle's other splits have is part of the same arrival, and goes on. -/
def State.splitArrives (s : State) (level : Level) (id : Nat) : State :=
  (s.mapMe (fun l =>
    let r := l.bar (barKey level id)
    l.setBar (barKey level id) { r with lanes := r.lanes ||| l.sp.mask })).ladleArrives level id

/-- The arrival of a split that merges into one blocked at a barrier (R27): none where the ladle's arrival stands already. -/
def State.joinArrives (s : State) (level : Level) (id : Nat) : State :=
  if (s.barrier level id (s.groupOf s.me level)).completed < (s.me.bar (barKey level id)).arrived then s else s.splitArrives level id

/-- The barriers a ladle has partly arrived at are looked at again when one of its splits has ended (R32). -/
def State.recheckMe (s : State) : State :=
  ((List.range 64).filter (fun k => (s.me.bar k).lanes ≠ 0)).foldl
    (fun t k => t.ladleArrives (BitVec.ofNat 2 (k / 16)) (k % 16)) s

/-- Count a phase that the ladle has waited through, once for the ladle (R128). -/
def Ladle.waitedThrough (l : Ladle) (level : Level) (id phase : Nat) : Ladle :=
  let r := l.bar (barKey level id)
  if r.waited < phase then
    { l.setBar (barKey level id) { r with waited := phase } with
      waited := if level = 1 then l.waited + 1 else l.waited,
      gangWaited := if level = 2 then l.gangWaited + 1 else l.gangWaited }
  else l

/-- A split waits for a phase of a barrier that has been released. -/
def Split.released (x : Split) (level : Level) (id phase : Nat) : Bool :=
  match x.blocked with
  | .barrier lv i p _ => decide (lv = level) && decide (i = id) && decide (p ≤ phase)
  | _ => false

def Split.arrivesAgain (x : Split) (level : Level) (id phase : Nat) : Bool :=
  match x.blocked with
  | .barrierAgain lv i p => decide (lv = level) && decide (i = id) && decide (p ≤ phase)
  | _ => false

/-- A release reaches a ladle: its waiting splits go on after their `bar`, and those that could not arrive try again. -/
def Ladle.releaseBar (l : Ladle) (level : Level) (id phase : Nat) : Ladle :=
  let l := if l.allSplits.any (fun x => x.released level id phase) then l.waitedThrough level id phase else l
  ((l.mapSplits (fun x => x.released level id phase) (fun x => { x with blocked := .ready, pc := x.pc + 4 })).mapSplits
    (fun x => x.arrivesAgain level id phase) (fun x => { x with blocked := .ready })).fillSlots

/-- The completed phases of a barrier are released to its members (R126). -/
def State.releaseBarrier (s : State) (b : Barrier) : State :=
  let t := s.mapLadles (fun l => l.live && decide (s.groupOf l b.level = b.group)) (fun l => l.releaseBar b.level b.id b.completed)
  t.setBarrier { b with released := b.completed }

/-- `bar` with an arrival (R126): at the ladle level a split whose own arrival is outstanding, and at the others a ladle
whose arrival is, first waits for that phase. -/
def State.barArrive (s : State) (level : Level) (id : Nat) (wait : Bool) : State :=
  let l := s.me
  let r := l.bar (barKey level id)
  let b := s.barrier level id (s.groupOf l level)
  if b.completed < r.arrived then s.blockMe (.barrierAgain level id r.arrived)
  else if level = 0 ∧ r.lanes &&& l.sp.mask ≠ 0 then s.blockMe (.barrierAgain level id (b.completed + 1))
  else
    let t := s.splitArrives level id
    if wait then (t.mapMe Ladle.issued).blockMe (.barrier level id (b.completed + 1) true) else t.done (fun l => l)

/-- `bar` that waits for the ladle's latest arrival (R126). DESIGN CHOICE (log 61): at the ladle level, where a member is a split, a
split waits for its own outstanding arrival, and not for another split's. -/
def State.barWait (s : State) (level : Level) (id : Nat) : State :=
  let l := s.me
  let r := l.bar (barKey level id)
  let b := s.barrier level id (s.groupOf l level)
  let phase := if level = 0 ∧ r.lanes &&& l.sp.mask ≠ 0 then b.completed + 1 else r.arrived
  if phase ≤ b.completed then s.done (fun l => l.waitedThrough level id phase)
  else (s.mapMe Ladle.issued).blockMe (.barrier level id phase false)

end Sys2Proof.Machine
end

