-- ==== Sys2Proof/Machine/Fetch.lean ====
section
/-!
DEFINITION. Choosing a split, merging splits, fetching a word and stepping a loop's body words (R25 to R29, R57, R122 to
R125).
-/

namespace Sys2Proof.Machine

/-! ### Loop body words (R122, R123) -/

/-- The fields of a word that name registers a loop may step: bit 0 vd or sd, bit 1 va or sa, bit 2 vb or sb, bit 3 z. DESIGN CHOICE
(log 72): a field that names a mask, a view or a special register is none of them, so its step bit makes the word illegal. -/
def stepFields (i : Instr) : BitVec 4 :=
  match i with
  | .kand .. | .kor .. | .kxor .. | .kandn .. | .b .. | .bs .. | .bk .. | .call .. | .ret .. | .loop .. | .bar ..
  | .rrel .. | .fence .. | .bvopAnd .. | .exit .. | .exitAbort .. | .tsysNop .. | .tsysTret .. | .tsysBkpt ..
  | .msetmFull .. => 0#4
  | .movi .. | .movhi .. | .movFromMask .. | .sli .. | .shi .. | .smovFromMask .. | .smovSpecial .. | .rget ..
  | .bvopCount .. | .sysr .. => 1#4
  | .icmpi .. | .vote .. | .touchg .. | .smovToMask .. | .jmp .. | .calli .. | .chain .. | .trap .. | .wload ..
  | .msetmRow .. | .msetmCol .. | .msetmDepth .. | .mbatch .. | .mwait .. => 2#4
  | .clz .. | .popc .. | .brev .. | .ffs .. | .iaddi .. | .imuli .. | .andi .. | .ori .. | .xori .. | .shifti ..
  | .mov .. | .movBroadcast .. | .fabs .. | .fneg .. | .fclass .. | .fcvt .. | .frnd .. | .fsfu .. | .lred ..
  | .lscan .. | .lds .. | .lds2 .. | .ldsf .. | .sts .. | .sts2 .. | .stsf .. | .ldp .. | .stp .. | .ldg ..
  | .ldg2 .. | .stg .. | .stg2 .. | .ldgs .. | .stgs .. | .atom .. | .atomb .. | .redg .. | .atoms .. | .sclz ..
  | .spopc .. | .sbrev .. | .sffs .. | .saddi .. | .sandi .. | .sshifti .. | .smov .. | .chainq .. | .bread ..
  | .tsysTmask .. | .amax .. | .amaxClr .. | .sysw .. => 3#4
  | .bvopTest .. | .bvopWord .. => 5#4
  | .icmp .. | .icmpn .. | .fcmp .. | .spattr .. | .pin .. | .unpin .. | .rwb .. | .rinv .. | .touch .. => 6#4
  | .iaddI32 .. | .iaddSatI32 .. | .iaddSatN32 .. | .isubI32 .. | .isubSatI32 .. | .isubSatN32 .. | .imulLo ..
  | .imulHiI32 .. | .imulHiN32 .. | .imad .. | .iminI32 .. | .imaxI32 .. | .iminN32 .. | .imaxN32 .. | .and ..
  | .or .. | .xor .. | .andn .. | .shl .. | .shr .. | .sha .. | .rot .. | .bfxI32 .. | .bfxN32 .. | .bfi .. | .sel ..
  | .fadd .. | .fsub .. | .fmul .. | .ffma .. | .ffms .. | .fmin .. | .fmax .. | .fminnum .. | .fmaxnum ..
  | .fcopysign .. | .fdot2 .. | .lshf .. | .sadd .. | .saddSatI64 .. | .saddSatN64 .. | .ssub .. | .ssubSatI64 ..
  | .ssubSatN64 .. | .smulLo .. | .smulHiI64 .. | .smulHiN64 .. | .sand .. | .sor .. | .sxor .. | .sandn ..
  | .sshl .. | .sshr .. | .ssha .. | .srot .. | .sminI64 .. | .smaxI64 .. | .sminN64 .. | .smaxN64 .. | .scmp ..
  | .ssel .. | .waita .. | .sld .. | .sst .. | .dist .. | .distH .. | .pinR .. | .unpinR .. | .rwbR .. | .rinvR ..
  | .touchR .. | .bpost .. | .spawn .. => 7#4
  | .mmz .. => 8#4
  | .mm .. | .mmr .. | .mstore .. | .mstt .. | .rnsf .. | .rnsr .. | .rnsq .. => 10#4
  | .trapPermitRetry .. | .demandMissNotification .. | .handlerDeferralExpiry .. | .longResultLanding ..
  | .barrierRelease .. | .rgetGrant .. | .registerExamination .. | .exitRetire .. | .bankGrant ..
  | .globalAccessSlot .. | .syncAccessSlot .. | .atomicGroupSlot .. | .distanceRequestSlot .. | .replicaMerge ..
  | .replicaDrop .. | .missDataArrival .. | .motionLanding .. | .boundaryMove .. | .writeBack ..
  | .boardOperationSlot .. | .boardReadSlot .. | .amaxFold .. | .amaxReadSlot .. | .redgContribution ..
  | .redgRetry .. | .waitaWatchTest .. | .waitaRetry .. | .waitaWake .. | .fenceComplete .. | .matrixWordStart ..
  | .matrixStep .. | .batchComplete .. | .copyEntry .. | .mcastEntry .. | .signalEntry .. | .loopEntry ..
  | .condEntry .. | .reduceEntry .. | .waitwEntry .. | .endEntry .. | .chainTransfer .. | .waitwWake ..
  | .launchPort .. | .graphLoad .. | .dispatch .. | .versionReservation .. | .castingComplete ..
  | .commitAssignment .. | .commitMessage .. | .discardMessage .. | .horizonMessage .. | .committed ..
  | .spawnRecordEnqueue .. | .castingFault .. | .discardAcknowledged .. | .translationWalk ..
  | .translationRecordWrite .. | .tqTail .. | .tqAnswerResume .. | .tqAnswerAbort .. | .preemptCtlSave ..
  | .preemptCtlDiscard .. | .preemptionStart .. | .preemptionSave .. | .columnDue .. | .realignmentStart ..
  | .realignmentEnd .. | .governorExamination .. | .hashCtlGo .. | .drainMessage .. | .switchMessage ..
  | .rehomeReplay .. | .btData .. | .sliceRetire .. | .retirementProceed .. | .splitRegisterWrite ..
  | .splitChangeSlot .. | .fmtSync .. | .fmtTableLoad .. | .sdCtl .. | .shootdownComplete .. | .boardCfg ..
  | .brdReset .. | .boardResetSlot .. | .partCtlReset .. | .partCtlEn .. | .rnsInject .. | .rnsCtlMf ..
  | .rnsCtlRetired .. | .errorPolicyExamination .. | .scrubRead .. | .scrubWrite .. | .windowHalving ..
  | .clusterOwnerChoice .. | .serviceExamination .. | .gangReadyPost .. | .gangAbortOperation ..
  | .gangWatchdogExpiry .. | .gangStart .. | .gangAbort .. | .hostPhysicalWindowAccess ..
  | .hostMemoryWindowAccess .. | .registerWrite .. | .linkTrained .. | .bringUp .. | .getVersion ..
  | .getCapabilities .. | .negotiateAlgorithms .. | .getDigests .. | .getCertificate .. | .challenge ..
  | .getMeasurements .. | .identify .. | .sensors .. | .errorsQuery .. | .stageFirmware .. | .resetPackage ..
  | .nystraPortFailure .. | .rdmaWrite .. | .rdmaRead .. | .matrixWordComplete .. | .opportunisticReplay ..
  | .shadowComparison .. | .vfEnable .. | .hostMemoryCompletion .. => 0#4

/-- Words that may not stand in a loop body (R123). -/
def loopBanned (i : Instr) : Bool :=
  match i with
  | .b .. | .bs .. | .bk .. | .call .. | .jmp .. | .calli .. | .ret .. | .loop .. | .bar .. | .rget .. | .rrel ..
  | .waita .. | .mwait .. | .exit .. | .exitAbort .. | .trap .. | .tsysNop .. | .tsysTret .. | .tsysTmask ..
  | .tsysBkpt .. | .fence .. | .spawn .. | .sysw .. => true
  | _ => false

/-- The lowest bit of the vd or sd field, of va or sa, and of vb or sb, by format (R50). -/
def stepPlaces (w : Word32) : Nat × Nat × Nat :=
  let op := bitsOf w 30 25
  if w.getLsbD 31 then
    if 0x30 ≤ op ∧ op ≤ 0x3b then (0, 14, 0)
    else if [0x0a, 0x0b, 0x0c, 0x0d, 0x0e, 0x3d].contains op then (19, 13, 0)
    else (17, 11, 5)
  else if (0x0e ≤ op ∧ op ≤ 0x14) then (16, 10, 0)
  else if op = 0x15 ∨ op = 0x16 then (16, 0, 0)
  else if 0x36 ≤ op ∧ op ≤ 0x39 then (9, 3, 0)
  else (12, 6, 0)

/-- Add a pass number to a register field; a number past the last register has no word. -/
def stepField (w : Word32) (lo bits pass : Nat) : Option Word32 :=
  let v := bitsOf w (lo + bits - 1) lo + pass
  if v < 2 ^ bits then some (putBits w (lo + bits - 1) lo v) else none

/-- Step the fields that a nibble selects (R122, R123). -/
def stepWord (w : Word32) (fields nib : BitVec 4) (pass : Nat) : Option Word32 :=
  if nib &&& ~~~fields ≠ 0 then none
  else
    let p := stepPlaces w
    let one := fun (o : Option Word32) (i lo bits : Nat) =>
      if nib.getLsbD i then o.bind (fun x => stepField x lo bits pass) else o
    one (one (one (one (some w) 0 p.1 6) 1 p.2.1 6) 2 p.2.2 6) 3 22 3

/-- The instruction of a loop's body word on its pass; none where the word is illegal there. -/
def LoopBuf.instr (b : LoopBuf) : Option Instr :=
  match b.words[b.index]? with
  | none => none
  | some w =>
    match decodeWord w with
    | .error _ => none
    | .ok i =>
      if loopBanned i then none
      else
        let nib := (b.steps >>> (4 * b.index)).extractLsb' 0 4
        match stepWord w (stepFields i) nib b.pass with
        | none => none
        | some w' => (decodeWord w').toOption

/-! ### Choosing who issues -/

/-- A split waits in an acquiring fence (R396). -/
def Split.acquires (x : Split) : Bool :=
  match x.blocked with
  | .fence _ k _ => k != 2
  | _ => false

/-- A split may issue: it holds a slot and is not blocked; while a handler runs, only its split may (R26, R159); no later
instruction of the ladle issues before an acquiring fence completes (R396). -/
def Ladle.canIssue (l : Ladle) (x : Split) : Bool :=
  x.slot.isSome && x.blocked == .ready && x.mask != 0 && (!l.handlerActive || x.handler) && !l.allSplits.any Split.acquires

/-- A ladle may issue (R30, R166, R368); one whose handler a pre-emption waits for, no more than 8,192 further instructions (R175). -/
def Ladle.canRun (l : Ladle) : Bool := l.live && !l.stopped && !l.heldAtEntry && !(l.deferred && decide (8192 ≤ l.handlerIssued))

/-- Make the split in a slot the issuing split. -/
def Ladle.selectSlot (l : Ladle) (slot : Nat) : Ladle :=
  match l.splits.find? (fun x => x.slot == some slot) with
  | some x => { l with sp := x, splits := l.sp :: l.splits.erase x }
  | none => l

/-- Make a ladle the issuing ladle. -/
def State.selectLadle (s : State) (uid : Nat) : State :=
  match s.rest.find? (fun l => l.uid == uid) with
  | some l => { s with me := l, rest := s.me :: s.rest.erase l }
  | none => s

/-- The first slot of a ladle whose split can issue. -/
def Ladle.readySlot (l : Ladle) : Option Nat :=
  (l.allSplits.find? (fun x => l.canIssue x)).bind (·.slot)

/-- The first ladle that can issue, with its slot. -/
def State.readyLadle (s : State) : Option (Nat × Nat) :=
  s.ladles.findSome? (fun l => if l.canRun then l.readySlot.map (fun n => (l.uid, n)) else none)

/-! ### Merging splits (R27) -/

/-- Two slots of a merged split: the lower-numbered, or the one there is. -/
def mergeSlots (a b : Option Nat) : Option Nat :=
  match a, b with
  | some x, some y => some (min x y)
  | some x, none => some x
  | none, y => y

/-- A split waits in a fence, which is no block of R29: it keeps its slot. -/
def Split.inFence (x : Split) : Bool := match x.blocked with | .fence .. => true | _ => false

/-- Merge the issuing split with one that stands at the same program counter. A blocked one makes the merged split blocked,
and it is parked; else the slot that the merge frees goes to the parked split that is due one (R26). A split that merges into one
that waits in a fence waits there as part of it. -/
def Ladle.mergeWith (l : Ladle) (x : Split) : Ladle :=
  if x.blocked = .ready ∨ x.inFence = true then
    ({ l with sp := { l.sp with mask := l.sp.mask ||| x.mask, slot := mergeSlots l.sp.slot x.slot, blocked := x.blocked },
              splits := l.splits.erase x }).fillSlots
  else
    ({ l with sp := { x with mask := l.sp.mask ||| x.mask, slot := none }, splits := l.splits.erase x }).fillSlots

/-- A split that the issuing one merges with: at the same address, and neither runs a loop, nor has an instruction that is issued and not
over (an `exit`, an operation in the comparison buffer), nor is held by a handler (R27, R124, R159, R335): while a handler runs, only
splits of the handler merge. -/
def Ladle.mergePartner (l : Ladle) : Option Split :=
  let c := l.splits.filter (fun x => x.pc == l.sp.pc && !x.looping && x.mask != 0 && x.blocked != .exitWait &&
    x.blocked != .comparing && !x.cleared && (!l.handlerActive || x.handler))
  if l.sp.looping || l.sp.cleared then none
  else (c.find? (fun x => x.blocked != .ready)).or c.head?

/-- Merge until no split stands at the issuing split's address, or the merged split is blocked. -/
def Ladle.mergeAll : Nat → Ladle → Ladle
  | 0, l => l
  | n + 1, l =>
    if l.sp.blocked = .ready then
      match l.mergePartner with
      | some x => Ladle.mergeAll n (l.mergeWith x)
      | none => l
    else l

/-! ### Waiting for a landing (R57) -/

/-- A result stands at its landing point in a split, and its data have not come. -/
def Pending.awaitedIn (p : Pending) (x : Split) : Bool :=
  !p.suspended && decide (p.missing ≠ 0) && decide (p.dueLanes false &&& (if p.dest.isLane then x.mask else p.lanes) ≠ 0)

/-- The issuing split waits for a result that stands at its landing point. -/
def Ladle.mustWait (l : Ladle) : Bool := l.pend.any (fun p => p.awaitedIn l.sp)

/-- What an issue makes due lands directly after it (R57). -/
def State.afterIssue (s : State) (r : Result) : Result :=
  match r with
  | .next t => .next (if s.me.pend.isEmpty then t else t.settle)
  | e => e

/-! ### Fetching -/

/-- The physical address of a ladle's instruction word (R121, R255). DESIGN CHOICE (log 88): a program counter of 2^57 or above is an address
fault, as of any other virtual address, and makes no translation record. -/
def State.fetchAddr (s : State) : Except Stop Nat :=
  if 2 ^ 57 ≤ s.me.sp.pc.toNat then .error (.fault .address)
  else (s.physical s.me.who s.me.sp.pc.toNat .fetch).map (·.1)

/-- The bytes that the issuing split's fetch reads: none where a loop runs from its buffer. -/
def State.fetchBytes (s : State) : List Nat :=
  if s.me.sp.looping then [] else match s.fetchAddr with | .ok pa => (List.range 4).map (pa + ·) | .error _ => []

/-- The state after a fetch: a word with a correctable error is corrected in place, and counted (R337). -/
def State.fetched (s : State) : State := s.correctBytes s.fetchBytes

/-- The instruction at the issuing split: the loop's next body word, or the word its program counter addresses. A word that cannot be read is a
fault with cause 0x09 (R338). -/
def State.fetch (s : State) : Except Stop Instr :=
  match (if s.me.sp.looping then s.me.loop else none) with
  | some b =>
    match b.instr with
    | some i => .ok i
    | none => .error (.fault .illegal)
  | none =>
    match s.fetchAddr with
    | .error e => .error e
    | .ok pa =>
      if s.poisonedIn pa 4 then .error (.fault .uncorrectable)
      else match decode ((List.range 4).map (fun i => s.mem.read (pa + i))) with
      | .ok (i, _) => .ok i
      | .error _ => .error (.fault .illegal)

/-! ### The order of moves -/

/-- The barrier at whose `aw` the issuing split meets a blocked one (R27). -/
def Ladle.meetsAt (l : Ladle) : Option (Level × Nat) :=
  match l.mergePartner with
  | some x => match x.blocked with | .barrier lv i _ true => some (lv, i) | _ => none
  | none => none

/-- A fence that a merged split waits in covers the accesses of both its parts (R27, R396). -/
def Ladle.fenceFrom (l : Ladle) (upTo : Nat) : Ladle :=
  match l.sp.blocked with
  | .fence sc k _ => { l with sp := { l.sp with blocked := .fence sc k upTo } }
  | _ => l

/-- Ready the issuing split: merge it, and land what is due (R27, R57). One that merges into a split blocked at a barrier
makes its own arrival there, once its earlier accesses allow it (R127). DESIGN CHOICE (log 89): the merged split's pending results keep their
windows (R58), though it is blocked in a word that closes them at its own issue (R59). -/
def State.prepare (s : State) : State :=
  match s.me.meetsAt with
  | some (lv, i) =>
    if s.unperformed s.me.uid (levelScope lv) s.nextReq then s
    else (s.joinArrives lv i).mapMe (Ladle.mergeAll 32)
  | none => (s.mapMe (fun l => (Ladle.mergeAll 32 l).fenceFrom s.nextReq)).settle

end Sys2Proof.Machine
end

