-- ==== Sys2Proof/Machine/Matrix.lean ====
section
/-!
DEFINITION. Matrix words: their issue, `msetm`, `mmz`, `wload`, the steps of `mm`, the drains `mstore` and `mstt`, batches,
and the events of the matrix queue (R267 to R275, R286 to R302).
-/

namespace Sys2Proof.Machine

/-! ### Issue (R270, R288) -/

/-- A matrix word waits while the queue holds 32. -/
def State.queueRoom (s : State) (f : State → State) : State := if 32 ≤ (s.mat s.me.cluster).queue.length then s else f s

/-- A matrix word of the issuing ladle joins the open batch and the queue, with what it captures at issue. Its number in the order of the
ladle's requests is its own. -/
def State.joinQueue (s : State) (i : Instr) (addr src1 src2 : Word64) : State :=
  let e := fun (m : Matrix) => ({ instr := i, addr := addr, src1 := src1, src2 := src2, pc := s.me.sp.pc, batch := m.closed + 1,
                                  started := false, steps := 0, after := s.nextReq, add := s.me.addressAdd } : QEntry)
  { s.modMat s.me.cluster (fun m => { m with queue := m.queue ++ [e m], opened := m.opened + 1 }) with nextReq := s.nextReq + 1 }

/-- A matrix word that does nothing but join the queue at its issue. -/
def State.enqueue (s : State) (i : Instr) (addr src1 src2 : Word64) : Result :=
  .next (s.controlWord (fun s => s.queueRoom (fun s => (s.joinQueue i addr src1 src2).done (fun l => l))))

/-- The captured address operand L. -/
def Ladle.operandAddress (l : Ladle) (a b : BitVec 6) : Word64 := l.getS a + l.getS b + l.addressAdd

def execMmz (z : BitVec 3) (s : State) : Result := s.enqueue (.mmz z) 0 0 0
def execMm (z : BitVec 3) (sb : BitVec 2) (a b : BitVec 6) (p : BitVec 5) (t : BitVec 1) (k : BitVec 2) (s : State) : Result :=
  s.enqueue (.mm z sb a b p t k) (s.me.operandAddress a b) (s.me.getS a) (s.me.getS b)
def execWload (sb : BitVec 2) (a b : BitVec 6) (p : BitVec 5) (t g : BitVec 1) (s : State) : Result :=
  s.enqueue (.wload sb a b p t g) (s.me.operandAddress a b) (s.me.getS a) (s.me.getS b)
def execMstore (z : BitVec 3) (sb : BitVec 2) (a b : BitVec 6) (c p : BitVec 1) (s : State) : Result :=
  s.enqueue (.mstore z sb a b c p) (s.me.operandAddress a b) (s.me.getS a) (s.me.getS b)
def execMstt (z : BitVec 3) (sb : BitVec 2) (a b : BitVec 6) (c p : BitVec 1) (s : State) : Result :=
  s.enqueue (.mstt z sb a b c p) (s.me.operandAddress a b) (s.me.getS a) (s.me.getS b)
def execMsetmRow (sb : BitVec 2) (a b : BitVec 6) (s : State) : Result :=
  s.enqueue (.msetmRow sb a b) 0 (s.me.getS a) (s.me.getS b)
def execMsetmCol (sb : BitVec 2) (a b : BitVec 6) (s : State) : Result :=
  s.enqueue (.msetmCol sb a b) 0 (s.me.getS a) (s.me.getS b)
def execMsetmDepth (sb : BitVec 2) (a : BitVec 6) (s : State) : Result := s.enqueue (.msetmDepth sb a) 0 (s.me.getS a) 0
def execMsetmFull (sb : BitVec 2) (s : State) : Result := s.enqueue (.msetmFull sb) 0 0 0

/-! ### Batches (R300, R301) -/

/-- `mbatch` joins the open batch, closes it, and writes its number (R238, R288). -/
def execMbatch (a : BitVec 6) (s : State) : Result :=
  .next (s.controlWord (fun s => s.queueRoom (fun s =>
    let n := (s.mat s.me.cluster).closed
    if n = 2 ^ 48 - 1 then s.castFault .illegal
    else
      ((s.joinQueue (.mbatch a) 0 0 0).modMat s.me.cluster (fun m => { m with closed := n + 1, opened := 0 })).done
        (fun l => l.setS a (BitVec.ofNat 64 (n + 1))))))

/-- `mwait` joins the open batch, and waits for every batch up to the number it captures. -/
def execMwait (a : BitVec 6) (s : State) : Result :=
  .next (s.controlWord (fun s => s.queueRoom (fun s => s.closing (fun s =>
    let m := s.mat s.me.cluster
    let n := (s.me.getS a).toNat
    if m.closed < n ∨ 2 ^ 48 ≤ n then s.castFault .illegal
    else if n ≤ m.completed then (s.joinQueue (.mwait a) 0 (s.me.getS a) 0).done (fun l => l)
    else ((s.joinQueue (.mwait a) 0 (s.me.getS a) 0).mapMe Ladle.issued).blockMe (.mwait n)))))

/-! ### Tiles, masks and slots -/

/-- Element (i, n) of tile z: its number in the matrix state. -/
def zKey (z i n : Nat) : Nat := 9216 * z + 96 * i + n

def Matrix.zAt (m : Matrix) (z i n : Nat) : BitVec 48 := FMap.get 0 m.z (zKey z i n)
def Matrix.setZ (m : Matrix) (z i n : Nat) (x : BitVec 48) : Matrix := { m with z := FMap.set 0 m.z (zKey z i n) x }

/-- Write a list of elements of a tile. -/
def Matrix.setZs (m : Matrix) (z : Nat) (xs : List ((Nat × Nat) × BitVec 48)) : Matrix :=
  xs.foldl (fun m e => m.setZ z e.1.1 e.1.2 e.2) m

/-- Take every element of a tile to zero. -/
def Matrix.clearZ (m : Matrix) (z : Nat) : Matrix := { m with z := m.z.filter (fun e => e.1 / 9216 != z) }

/-- Rows, columns and depths that a mask set selects; elements in increasing row, then column (R271). -/
def Matrix.rows (m : Matrix) (k : BitVec 2) : List Nat := bitsSet (m.my.get k.toFin) 96
def Matrix.cols (m : Matrix) (k : BitVec 2) : List Nat := bitsSet (m.mx.get k.toFin) 96
def Matrix.depths (m : Matrix) (k : BitVec 2) : List Nat := bitsSet (m.md.get k.toFin) 48
def Matrix.selected (m : Matrix) (k : BitVec 2) : List (Nat × Nat) := (m.rows k).flatMap (fun i => (m.cols k).map (fun n => (i, n)))

def Matrix.isResidue (m : Matrix) (z : BitVec 3) : Bool := m.residue.get z.toFin

/-- A slot that no `wload` has filled. -/
def WeightSlot.empty : WeightSlot :=
  { valid := false, format := 0, along := false, scales := [], book := 0, codebook := [], elems := [] }

def Matrix.slot (m : Matrix) (n : Nat) : WeightSlot := FMap.get WeightSlot.empty m.slots n
def Matrix.setSlot (m : Matrix) (n : Nat) (x : WeightSlot) : Matrix := { m with slots := FMap.set WeightSlot.empty m.slots n x }

/-! ### msetm and mmz (R290, R291) -/

/-- A row or column mask from its two sources. -/
def mask96 (x y : Word64) : BitVec 96 := y.setWidth 32 ++ x

def Matrix.setRow (m : Matrix) (k : BitVec 2) (x : BitVec 96) : Matrix := { m with my := m.my.set k.toNat x k.isLt }
def Matrix.setCol (m : Matrix) (k : BitVec 2) (x : BitVec 96) : Matrix := { m with mx := m.mx.set k.toNat x k.isLt }
def Matrix.setDepth (m : Matrix) (k : BitVec 2) (x : BitVec 48) : Matrix := { m with md := m.md.set k.toNat x k.isLt }

/-- `mmz`: float mode, every element +0, depth counter 0. -/
def Matrix.zero (m : Matrix) (z : BitVec 3) : Matrix :=
  { m.clearZ z.toNat with residue := m.residue.set z.toNat false z.isLt, depth := m.depth.set z.toNat 0 z.isLt }

/-! ### wload (R292, R293) -/

/-- The slot that a performed read fills: elements packed as stored, scale bytes by block, the codebook copied. -/
def State.fillSlot (s : State) (part : Nat) (d : Desc) (along : Bool) (codes : List (Nat × Nat × Option Nat)) : WeightSlot :=
  { valid := false, format := BitVec.ofNat 4 d.fmt, along := along,
    scales := codes.foldl (fun sc e =>
      match e.2.2 with
      | some b => sc.set (if along then e.1 % 96 else 2 * (e.1 / 96) + e.1 % 96 / 48) (BitVec.ofNat 8 b)
      | none => sc) (List.replicate 96 127#8),
    book := if d.fmt = 8 then d.codebook else 0,
    codebook := if d.fmt = 8 then (List.range 16).map (fun c => s.bookEntry part d.codebook c) else [],
    elems := codes.foldl (fun m e => FMap.insert e.1 (BitVec.ofNat 32 e.2.1) m) [] }

/-- `wload` at its start: the slot is invalid until it completes. -/
def State.startWload (s : State) (l : Ladle) (e : QEntry) (k : BitVec 2) (slot : Nat) (along isGlobal : Bool) : Except Stop State :=
  let w := l.whoAt e.pc
  let m := s.mat l.cluster
  match m.depths k, m.cols k with
  | d0 :: _, n0 :: _ =>
    match s.operand l isGlobal e.addr with
    | .error x => .error x
    | .ok o =>
      let least := if along then 48 else 96
      match (if along then s.operandDesc w .read o least n0 d0 else s.operandDesc w .read o least d0 n0) with
      | .error x => .error x
      | .ok di =>
        let d := s.desc w.part di
        let p := d.pitchOr least
        if d.malformed o.pad.isSome || d.fmt = 0 || decide (p < least) || (d.placement = 1 && !d.blockAligned p o.byte) then
          .error (.fault .format)
        else
          let es := (m.depths k).flatMap (fun dd => (m.cols k).map (fun n =>
            ({ key := 96 * dd + n, idx := if along then n * p + dd else dd * p + n, x := 0 } : Elem)))
          match s.elemReqs w false o di es with
          | .error x => .error x
          | .ok rs =>
            match s.matrixReads l e.after rs with
            | .error x => .error x
            | .ok (t, codes) => .ok (t.modMat l.cluster (fun m => m.setSlot slot (t.fillSlot w.part d along codes)))
  | _, _ => .ok (s.modMat l.cluster (fun m => m.setSlot slot
      { WeightSlot.empty with format := 1, along := along, scales := List.replicate 96 127#8 }))

/-! ### Steps (R239, R260 to R263, R272, R294, R295) -/

/-- How many steps a word's step-count field asks for. -/
def stepCount (k : BitVec 2) : Nat := 2 ^ k.toNat

/-- The code of element (d, n) of a slot; none for one that its `wload` left out, which reads +0. -/
def WeightSlot.code (x : WeightSlot) (d n : Nat) : Option Nat := (x.elems.find? (fun e => e.1 == 96 * d + n)).map (·.2.toNat)

/-- The exact value of a slot's element. -/
def WeightSlot.value (x : WeightSlot) (d n : Nat) : Num :=
  match x.code d n with
  | some c => elemNum x.format.toNat (fun i => x.codebook.getD i 0) c
  | none => .fin false 0 0

/-- The scale byte of a slot for a depth and a column. -/
def WeightSlot.scaleByte (x : WeightSlot) (d n : Nat) : Nat :=
  (x.scales.getD (if x.along then n else 2 * d + n / 48) 127#8).toNat

/-- A leaf: the exact product times the scales across, rounded once (R260). -/
def leafOf (a b : Num) (sa sb : Option Nat) : Word32 :=
  BitVec.ofNat 32 (f32.round .ne (scaleNum (scaleNum (mulNum a b).1 sa) sb) false).1

/-- R of R261 on a sum. -/
def addR (x y : Word32) : Word32 := (addF32 .ne x y).1

/-- One level of the tree. -/
def pairSums : List Word32 → List Word32
  | x :: y :: r => addR x y :: pairSums r
  | x => x

/-- The 48 leaves summed by the fixed tree (R261). -/
def tree48 (p : List Word32) : Word32 :=
  match pairSums (pairSums (pairSums (pairSums p))) with
  | [a, b, c] => addR (addR a b) c
  | _ => 0

/-- A block sum times the scales along, added to the element (R262). -/
def accumulate (z s : Word32) (sa sb : Nat) : Word32 :=
  addR z (BitVec.ofNat 32 (f32.round .ne (scaleNum (scaleNum (f32.decode s.toNat) (some sa)) (some sb)) false).1)

/-- The elements of A that step `j` reads: row i, depth d at key 48 i + d (R272, R294). -/
def stepElems (rows depths : List Nat) (p j : Nat) (t : Bool) : List Elem :=
  rows.flatMap (fun i => depths.map (fun d =>
    { key := 48 * i + d, idx := if t then (48 * j + d) * p + i else i * p + 48 * j + d, x := 0 }))

/-- What a step reads of A: the descriptor, and for each key its code and scale byte. -/
structure StepA where
  desc : Desc
  codes : List (Nat × Nat × Option Nat)
  deriving DecidableEq, Repr

/-- Read A for step `j` of `n` steps, with the checks of R295; `ok` says which formats the word takes. -/
def State.readA (s : State) (l : Ladle) (e : QEntry) (k : BitVec 2) (t : Bool) (n j : Nat) (ok : Nat → Bool) :
    Except Stop (State × StepA) :=
  let w := l.whoAt e.pc
  let m := s.mat l.cluster
  match m.rows k, m.cols k, m.depths k with
  | i0 :: _, _ :: _, d0 :: _ =>
    match s.operand l false e.addr with
    | .error x => .error x
    | .ok o =>
      let least := if t then 96 else 48 * n
      match (if t then s.operandDesc w .read o least d0 i0 else s.operandDesc w .read o least i0 d0) with
      | .error x => .error x
      | .ok di =>
        let d := s.desc w.part di
        let p := d.pitchOr least
        if d.malformed o.pad.isSome || !ok d.fmt || decide (p < least) || (!t && d.placement = 1 && !d.blockAligned p o.byte) then
          .error (.fault .format)
        else
          match s.elemReqs w false o di (stepElems (m.rows k) (m.depths k) p j t) with
          | .error x => .error x
          | .ok rs =>
            match s.matrixReads l e.after rs with
            | .error x => .error x
            | .ok (u, codes) => .ok (u, { desc := d, codes := codes })
  | _, _, _ => .ok (s, { desc := s.desc w.part 0, codes := [] })

/-- An element's entry among what a step read. -/
def StepA.at (a : StepA) (i d : Nat) : Option (Nat × Option Nat) := (a.codes.find? (fun e => e.1 == 48 * i + d)).map (·.2)

/-- The block sum of an element. -/
def StepA.blockSum (a : StepA) (b : WeightSlot) (depths : List Nat) (t : Bool) (i n : Nat) : Word32 :=
  tree48 ((List.range 48).map (fun d =>
    if depths.contains d then
      match a.at i d with
      | some c => leafOf (elemNum a.desc.fmt (fun _ => 0) c.1) (b.value d n) (if t then c.2 else none)
          (if b.along then none else some (b.scaleByte d n))
      | none => 0
    else 0))

/-- The new value of element (i, n) after a step. -/
def StepA.element (a : StepA) (b : WeightSlot) (depths : List Nat) (t : Bool) (z : Word32) (i n : Nat) : Word32 :=
  let sa := match (depths.head?).bind (a.at i) with | some c => if t then 127 else c.2.getD 127 | none => 127
  let sb := if b.along && !depths.isEmpty then b.scaleByte 0 n else 127
  accumulate z (a.blockSum b depths t i n) sa sb

/-- Float formats of operand A (R258, R272). -/
def floatOperand (fmt : Nat) : Bool := decide (1 ≤ fmt) && decide (fmt ≤ 7)

/-- One step of `mm`. -/
def State.stepMm (s : State) (l : Ladle) (e : QEntry) (z : BitVec 3) (k : BitVec 2) (slot : Nat) (t : Bool) (n : Nat) :
    Except Stop State :=
  let m := s.mat l.cluster
  let b := m.slot (slot + e.steps)
  if m.isResidue z || !b.valid || decide (9 ≤ b.format.toNat) then .error (.fault .format)
  else
    match s.readA l e k t n e.steps floatOperand with
    | .error x => .error x
    | .ok (u, a) =>
      .ok (u.modMat l.cluster (fun m => m.setZs z.toNat ((m.selected k).map (fun q =>
        (q, (a.element b (m.depths k) t ((m.zAt z.toNat q.1 q.2).setWidth 32) q.1 q.2).setWidth 48)))))

/-! ### Drains (R297 to R299) -/

/-- Where a drain writes: its requests with no datum yet, the descriptor, and the pitch. -/
structure DrainPlan where
  desc : Desc
  reqs : List Req
  deriving DecidableEq, Repr

/-- The elements of a drain, in increasing row, then column; the datum is the element's number. -/
def drainElems (sel : List (Nat × Nat)) (p : Nat) (t : Bool) : List Elem :=
  sel.map (fun q => { key := 96 * q.1 + q.2, idx := if t then q.2 * p + q.1 else q.1 * p + q.2, x := 0 })

/-- The checks of a drain over all its elements (R299), with the formats it takes. -/
def State.planDrain (s : State) (l : Ladle) (e : QEntry) (k : BitVec 2) (t isPad : Bool) (ok : Nat → Bool) :
    Except Stop DrainPlan :=
  let w := l.whoAt e.pc
  let m := s.mat l.cluster
  match m.rows k, m.cols k with
  | i0 :: _, n0 :: _ =>
    match s.operand l (!isPad) e.addr with
    | .error x => .error x
    | .ok o =>
      match (if t then s.operandDesc w .write o 96 n0 i0 else s.operandDesc w .write o 96 i0 n0) with
      | .error x => .error x
      | .ok di =>
        let d := s.desc w.part di
        let p := d.pitchOr 96
        if d.malformed o.pad.isSome || !ok d.fmt || decide (p < 96) then .error (.fault .format)
        else (s.elemReqs w true o di (drainElems (m.selected k) p t)).map (fun rs => { desc := d, reqs := rs })
  | _, _ => .ok { desc := s.desc w.part 0, reqs := [] }

/-- The blocks of a scaled drain: each scale byte with the greatest magnitude of the elements it covers (R259, R297). -/
def largest (x y : Num) : Num := if x.isNan then x else if y.isNan then y else if numLe x y then y else x

def blockScales (fmt : Nat) (book : Nat → BitVec 16) (ops : List LaneOp) (z : Nat → Word32) : List (Nat × Nat) :=
  ((ops.filterMap (·.scale)).eraseDups).map (fun c =>
    (c, scaleByte fmt book ((ops.filter (fun o => o.scale == some c)).foldl
      (fun m o => largest m (f32.decode (z o.lane).toNat).abs) (.fin false 0 0))))

/-- The writes of the scale bytes themselves: they are raw bytes, with the checks of the drain (R289, R299). -/
def State.scaleReqs (s : State) (w : Who) (plan : DrainPlan) (o : Operand) (es : List Elem) (scales : List (Nat × Nat)) :
    Except Stop (List Req) :=
  match o.pad with
  | some u => .ok [{ padReq w (.store false) u none (scales.map (fun c =>
      { lane := 0, bytes := [c.1], bit := 0, width := 8, desc := 0, scale := none, x := BitVec.ofNat 64 c.2, y := 0 })) with unit := some 5 }]
  | none =>
    let width := fmtBits plan.desc.fmt
    let vas := (es.filterMap (fun e => plan.desc.scaleAt (8 * o.byte + e.idx * width))).eraseDups
    let rs := s.writeRanges w.casting
    match checkAll (fun va => s.physical w va .write) vas with
    | .error x => .error x
    | .ok ps =>
      if vas.any (fun va => !inRanges rs va) || remoteStore .write (ps.map (·.1)) then .error (.fault .undeclaredWrite)
      else .ok ((s.globalReqs w (.store false) false none (ps.map (fun p =>
        { op := { lane := 0, bytes := [p.1], bit := 0, width := 8, desc := 0, scale := none,
                  x := BitVec.ofNat 64 (((scales.find? (fun c => c.1 == p.1)).map (·.2)).getD 127), y := 0 }, rpl := p.2.rpl }))).map (fun r => { r with unit := some 5 }))

/-- A request of a drain with the codes it writes. -/
def encodeReq (d : Desc) (book : Nat → BitVec 16) (scales : List (Nat × Nat)) (z : Nat → Word32) (r : Req) : Req :=
  { r with ops := r.ops.map (fun o =>
      let sc := o.scale.bind (fun c => (scales.find? (fun e => e.1 == c)).map (·.2))
      { o with x := BitVec.ofNat 64 (storeElem d.fmt book sc (z o.lane)), scale := none }) }

/-- The folds of a drain through a descriptor with AE = 1 (R265): each value before scaling, in the name of its word. -/
def State.drainFolds (s : State) (word : Nat) (d : Desc) (z : Nat → Word32) (rs : List Req) : State :=
  if d.ae then
    rs.foldl (fun t r => r.movers.foldl (fun t o =>
      t.sendFold { r with engine := some word } d.slot { o with x := (z o.lane).setWidth 64 }) t) s
  else s

/-- The writes of a drain, after every grant and every check of them, remembered until its batch completes (R275, R299). -/
def State.drainWrites (s : State) (l : Ladle) (e : QEntry) (rs : List Req) : Except Stop State :=
  (s.engineWrites e.after l.casting [] rs).map (fun t => t.modMat l.cluster (fun m => m.remember (s.oldBytes e.batch rs)))

/-- `mstore` and `mstt`: every check, then the scale bytes, the elements, the folds, and the clear. -/
def State.startDrain (s : State) (l : Ladle) (e : QEntry) (z : BitVec 3) (k : BitVec 2) (t isPad clear : Bool) : Except Stop State :=
  let w := l.whoAt e.pc
  let m := s.mat l.cluster
  if m.isResidue z then .error (.fault .format)
  else
    match s.planDrain l e k t isPad (fun f => decide (f ≤ 8)) with
    | .error x => .error x
    | .ok plan =>
      let d := plan.desc
      let book := s.bookEntry w.part d.codebook
      let val := fun (key : Nat) => (m.zAt z.toNat (key / 96) (key % 96)).setWidth 32
      let scales := blockScales d.fmt book (plan.reqs.flatMap (·.ops)) val
      let es := drainElems (m.selected k) (d.pitchOr 96) t
      let scaled : Except Stop (List Req) := if scales.isEmpty then .ok [] else
        match s.operand l (!isPad) e.addr with
        | .error x => .error x
        | .ok o => s.scaleReqs w plan o es scales
      match scaled with
      | .error x => .error x
      | .ok ss =>
        let rs := plan.reqs.map (encodeReq d book scales val)
        match s.drainWrites l e (ss ++ rs) with
        | .error x => .error x
        | .ok t =>
          let u := t.drainFolds e.after d val rs
          .ok (if clear then u.modMat l.cluster (fun m => m.setZs z.toNat ((m.selected k).map (fun q => (q, 0)))) else u)

end Sys2Proof.Machine
end

