-- ==== Sys2Proof/Machine/Residue.lean ====
section
/-!
DEFINITION. Residue words `rnsf`, `mmr`, `rnsr` and `rnsq`, reconstruction and classification, the fault injector, and the
events of the matrix queue (R308 to R332, R270, R273, R302).
-/

namespace Sys2Proof.Machine

/-! ### Issue (R288, R310) -/

def execRnsf (z : BitVec 3) (sb : BitVec 2) (a b : BitVec 6) (g : BitVec 1) (s : State) : Result :=
  s.enqueue (.rnsf z sb a b g) (s.me.operandAddress a b) (s.me.getS a) (s.me.getS b)
def execMmr (z : BitVec 3) (sb : BitVec 2) (a b : BitVec 6) (p : BitVec 5) (t : BitVec 1) (k : BitVec 2) (s : State) : Result :=
  s.enqueue (.mmr z sb a b p t k) (s.me.operandAddress a b) (s.me.getS a) (s.me.getS b)
def execRnsr (z : BitVec 3) (sb : BitVec 2) (a b : BitVec 6) (t c p : BitVec 1) (s : State) : Result :=
  s.enqueue (.rnsr z sb a b t c p) (s.me.operandAddress a b) (s.me.getS a) (s.me.getS b)
def execRnsq (z : BitVec 3) (a : BitVec 6) (c : BitVec 1) (s : State) : Result := s.enqueue (.rnsq z a c) 0 0 0

/-! ### Channels (R309, R318, R327) -/

/-- The modulus of a channel. -/
def modulus (c : Nat) : Nat :=
  match c with
  | 0 => 239
  | 1 => 233
  | 2 => 229
  | 3 => 227
  | 4 => 251
  | _ => 241

/-- Channel c's residue of an element. -/
def residueAt (x : BitVec 48) (c : Nat) : Nat := bitsOf x (8 * c + 7) (8 * c)

/-- An element from its residues by channel. -/
def packResidues (f : Nat → Nat) : BitVec 48 := BitVec.ofNat 48 ((List.range 6).foldl (fun v c => v + f c % 256 * 2 ^ (8 * c)) 0)

/-- An integer's residue in a channel: 0 to m_c - 1 (R319). -/
def resOf (v : Int) (c : Nat) : Nat := (v % (modulus c : Int)).toNat

/-- The integer's residues. -/
def residuesOf (v : Int) : BitVec 48 := packResidues (resOf v)

/-- Registers of a cluster's residue unit (R315). -/
def rnsCtl (c : Nat) : Nat := 0x600 + 4 * c
def rnsLog (c : Nat) : Nat := 0x601 + 4 * c
def rnsCount (c : Nat) : Nat := 0x602 + 4 * c

/-- RETIRED and MF of a cluster. -/
def State.retiredOf (s : State) (c : Nat) : BitVec 6 := (s.reg (rnsCtl c)).extractLsb' 8 6
def State.mfOf (s : State) (c : Nat) : Bool := (s.reg (rnsCtl c)).getLsbD 0

/-- The live channels of a cluster. -/
def liveChannels (retired : BitVec 6) : List Nat := (List.range 6).filter (fun c => !retired.getLsbD c)

/-! ### Reconstruction (R321) -/

/-- The inverse of x modulo a prime m: x^(m - 2), by repeated multiplication. -/
def invMod (x m : Nat) : Nat := (List.range (m - 2)).foldl (fun y _ => y * x % m) 1

/-- The next mixed-radix digit: the earlier channels with their digits taken out of `r`. -/
def radixDigit (m : Nat) : List (Nat × Nat) → Nat → Nat
  | [], x => x % m
  | (mj, dj) :: rest, x => radixDigit m rest ((x + m - dj % m) * invMod (mj % m) m % m)

/-- The digits of a reconstruction, each with its modulus. -/
def radixDigits (r : Nat → Nat) : List Nat → List (Nat × Nat) → List (Nat × Nat)
  | [], acc => acc
  | c :: cs, acc => radixDigits r cs (acc ++ [(modulus c, radixDigit (modulus c) acc (r c))])

/-- The value of mixed-radix digits. -/
def radixValue : List (Nat × Nat) → Nat
  | [] => 0
  | (m, d) :: rest => d + m * radixValue rest

/-- Crt(r, S): the value below the product of S with these residues. -/
def crt (r : Nat → Nat) (chans : List Nat) : Nat := radixValue (radixDigits r chans [])

/-- The product of the moduli of S. -/
def modProduct (chans : List Nat) : Nat := chans.foldl (fun p c => p * modulus c) 1

/-- Centre(v, S). -/
def centre (v : Nat) (chans : List Nat) : Int :=
  if (modProduct chans - 1) / 2 < v then (v : Int) - (modProduct chans : Int) else (v : Int)

/-- The legitimate range, up to 2^30 in magnitude. -/
def legitimate (v : Int) : Bool := decide (v.natAbs ≤ 2 ^ 30)

/-! ### Classification (R313, R328) -/

/-- How a drain takes an element: its value, a correction of a channel, or a value out of range. -/
inductive Drained where
  | value (v : Int)
  | corrected (c : Nat) (v : Int)
  | overflow (v : Int)
  deriving DecidableEq, Repr

/-- The saturated value on the side of `u`. -/
def saturated (u : Int) : Int := if 0 < u then 2147483647 else -2147483647

/-- The classification of residues: with all six channels a single wrong one is located; with a retired channel none is. -/
def classify (retired : BitVec 6) (r : Nat → Nat) : Drained :=
  let live := liveChannels retired
  let u := centre (crt r live) live
  if legitimate u then .value u
  else if retired ≠ 0 then .overflow (saturated u)
  else
    let without := fun (c : Nat) => live.filter (· != c)
    match live.filter (fun c => legitimate (centre (crt r (without c)) (without c))) with
    | [c] => .corrected c (centre (crt r (without c)) (without c))
    | _ => .overflow (saturated u)

/-! ### Status words, log and counts (R314, R315, R324) -/

/-- Count: add 1 to an 8-bit field, saturating. -/
def countField (x : Word64) (lo : Nat) : Word64 := putBits x (lo + 7) lo (min (bitsOf x (lo + 7) lo + 1) 255)

def Matrix.statusOf (m : Matrix) (z : BitVec 3) : Word64 := m.status.get z.toFin
def Matrix.setStatus (m : Matrix) (z : BitVec 3) (x : Word64) : Matrix := { m with status := m.status.set z.toNat x z.isLt }

/-- A correction in a status word. -/
def statusCorrected (x : Word64) (c i n : Nat) : Word64 :=
  putBits (putBits (putBits (countField (putBits x 61 61 1) 48) 36 34 c) 33 27 i) 26 20 n

/-- An overflow in a status word. -/
def statusOverflow (x : Word64) (i n : Nat) : Word64 := putBits (putBits (countField (putBits x 62 62 1) 40) 19 13 i) 12 6 n

/-- RNS_LOG for an element. -/
def logWord (part z channel i n : Nat) (v : Int) : Word64 :=
  BitVec.ofNat 64 (2 ^ 63 + part * 2 ^ 54 + z * 2 ^ 51 + channel * 2 ^ 48 + i * 2 ^ 41 + n * 2 ^ 34 + (BitVec.ofInt 32 v).toNat)

/-! ### The injector (R316, R330) -/

/-- RNS_INJECT. -/
def rnsInjectReg : Nat := 0x700

/-- The injection waits for this element of this partition. -/
def State.injects (s : State) (part i n : Nat) : Bool :=
  let w := s.reg rnsInjectReg
  w.getLsbD 63 && decide (bitsOf w 60 56 = part) && decide (bitsOf w 6 0 = i) && decide (bitsOf w 14 8 = n)

/-- The residues a drain reads of an element, and the injector after it. -/
def State.inject (s : State) (part : Nat) (retired : BitVec 6) (i n : Nat) (x : BitVec 48) : (Nat → Nat) × State :=
  let w := s.reg rnsInjectReg
  let ch := bitsOf w 26 24
  if s.injects part i n then
    ((fun c => if c = ch ∧ retired.getLsbD c = false then (residueAt x c ^^^ bitsOf w 23 16) % modulus c else residueAt x c),
     s.setReg rnsInjectReg (putBits w 63 63 0))
  else (residueAt x, s)

/-! ### rnsf (R311) -/

/-- A tile put into residue mode, all residues zero, when it is in float mode (R309). -/
def Matrix.toResidue (m : Matrix) (z : BitVec 3) : Matrix :=
  if m.isResidue z then m
  else { m.clearZ z.toNat with residue := m.residue.set z.toNat true z.isLt, depth := m.depth.set z.toNat 0 z.isLt }

def State.startRnsf (s : State) (l : Ladle) (e : QEntry) (z : BitVec 3) (k : BitVec 2) (isGlobal : Bool) : Except Stop State :=
  let w := l.whoAt e.pc
  let m := s.mat l.cluster
  let begin_ := fun (m : Matrix) => let m := m.toResidue z; { m with depth := m.depth.set z.toNat 0 z.isLt }
  match m.rows k, m.cols k with
  | i0 :: _, n0 :: _ =>
    match s.operand l isGlobal e.addr with
    | .error x => .error x
    | .ok o =>
      match s.operandDesc w .read o 96 i0 n0 with
      | .error x => .error x
      | .ok di =>
        let d := s.desc w.part di
        let p := d.pitchOr 96
        if d.malformed o.pad.isSome || d.fmt ≠ 0 || decide (p < 96) then .error (.fault .format)
        else
          match s.elemReqs w false o di (drainElems (m.selected k) p false) with
          | .error x => .error x
          | .ok rs =>
            match s.matrixReads l e.after rs with
            | .error x => .error x
            | .ok (t, codes) => .ok (t.modMat l.cluster (fun m =>
                (begin_ m).setZs z.toNat (codes.map (fun c => ((c.1 / 96, c.1 % 96), residuesOf (BitVec.ofNat 32 c.2.1).toInt)))))
  | _, _ => .ok (s.modMat l.cluster begin_)

/-! ### mmr (R312, R320, R323) -/

/-- Integer formats (R245). -/
def intOperand (fmt : Nat) : Bool := decide (fmt = 9) || decide (fmt = 10)

/-- The integer of a slot's element; one that was left out is 0. -/
def WeightSlot.int (x : WeightSlot) (d n : Nat) : Int :=
  match x.code d n with
  | some c => signExtend c (fmtBits x.format.toNat)
  | none => 0

/-- The sum of products that a step adds to element (i, n). -/
def StepA.intSum (a : StepA) (b : WeightSlot) (depths : List Nat) (i n : Nat) : Int :=
  depths.foldl (fun v d => match a.at i d with | some c => v + signExtend c.1 (fmtBits a.desc.fmt) * b.int d n | none => v) 0

/-- A residue element after a step: a retired channel's byte is 0. -/
def stepResidues (retired : BitVec 6) (x : BitVec 48) (sum : Int) : BitVec 48 :=
  packResidues (fun c => if retired.getLsbD c then 0 else resOf ((residueAt x c : Int) + sum) c)

/-- The depth counter after a step, and U in the status word. -/
def Matrix.addDepth (m : Matrix) (z : BitVec 3) (n : Nat) : Matrix :=
  let d := min (m.depth.get z.toFin + n) (2 ^ 64 - 1)
  let m := { m with depth := m.depth.set z.toNat d z.isLt }
  if 2 ^ 25 < d then m.setStatus z (putBits (m.statusOf z) 63 63 1) else m

/-- One step of `mmr`. -/
def State.stepMmr (s : State) (l : Ladle) (e : QEntry) (z : BitVec 3) (k : BitVec 2) (slot : Nat) (t : Bool) (n : Nat) :
    Except Stop State :=
  let b := (s.mat l.cluster).slot (slot + e.steps)
  if !b.valid || !intOperand b.format.toNat then .error (.fault .format)
  else
    match s.readA l e k t n e.steps intOperand with
    | .error x => .error x
    | .ok (u, a) =>
      .ok (u.modMat l.cluster (fun m =>
        let m := m.toResidue z
        (m.setZs z.toNat ((m.selected k).map (fun q =>
          (q, stepResidues (u.retiredOf l.cluster) (m.zAt z.toNat q.1 q.2) (a.intSum b (m.depths k) q.1 q.2))))).addDepth z
          (m.depths k).length))

/-! ### rnsr (R313, R325, R328) -/

/-- A drain in progress: the state, the values to write in order, and whether a mismatch has stopped it. -/
structure DrainRun where
  state : State
  out : List (Nat × Int)
  stopped : Bool

/-- Drain one element: its status, log, count and repair. -/
def DrainRun.element (x : DrainRun) (c part : Nat) (z : BitVec 3) (mf : Bool) (q : Nat × Nat) : DrainRun :=
  if x.stopped then x
  else
    let retired := x.state.retiredOf c
    let inj := x.state.inject part retired q.1 q.2 ((x.state.mat c).zAt z.toNat q.1 q.2)
    let key := 96 * q.1 + q.2
    let s := inj.2
    match classify retired inj.1 with
    | .value v => { x with state := s, out := x.out ++ [(key, v)] }
    | .corrected ch v =>
      let t := s.modMat c (fun m =>
        let old := m.zAt z.toNat q.1 q.2
        (m.setZ z.toNat q.1 q.2 (packResidues (fun i => if i = ch then resOf v ch else residueAt old i))).setStatus z
          (statusCorrected (m.statusOf z) ch q.1 q.2))
      let t := (t.setReg (rnsLog c) (logWord part z.toNat ch q.1 q.2 v)).setReg (rnsCount c) (countField (t.reg (rnsCount c)) (8 * ch))
      { state := t, out := if mf then x.out else x.out ++ [(key, v)], stopped := mf }
    | .overflow v =>
      let t := s.modMat c (fun m => m.setStatus z (statusOverflow (m.statusOf z) q.1 q.2))
      if retired ≠ 0 then
        { state := t.setReg (rnsLog c) (logWord part z.toNat 7 q.1 q.2 v), out := if mf then x.out else x.out ++ [(key, v)], stopped := mf }
      else { x with state := t, out := x.out ++ [(key, v)] }

/-- `rnsr`: every check of a drain, then the elements in order. A mismatch under MF stops it with its log and count kept. -/
def State.startRnsr (s : State) (l : Ladle) (e : QEntry) (z : BitVec 3) (k : BitVec 2) (t isPad clear : Bool) : Except Stop State :=
  let w := l.whoAt e.pc
  let c := l.cluster
  let m := s.mat c
  if !m.isResidue z then .error (.fault .format)
  else
    match s.planDrain l e k t isPad (fun f => decide (f = 0)) with
    | .error x => .error x
    | .ok plan =>
      match s.engineGrants e.after [] plan.reqs with
      | .error x => .error x
      | .ok granted =>
        let run : DrainRun := (m.selected k).foldl (fun (x : DrainRun) q => x.element c w.part z (s.mfOf c) q)
          { state := granted, out := [], stopped := false }
        let rs := (plan.reqs.map (fun r => { r with ops := r.ops.filterMap (fun o =>
          (run.out.find? (fun v => v.1 == o.lane)).map (fun v => { o with x := (BitVec.ofInt 32 v.2).setWidth 64 })) })).filter (fun r => !r.ops.isEmpty)
        let u := (run.state.performWrites e.after l.casting rs).modMat c (fun m => m.remember (s.oldBytes e.batch rs))
        .ok (if run.stopped then u.raiseFor w.casting w.rank w.cluster w.core .residue w.pc
             else if clear then u.modMat c (fun m => m.setZs z.toNat ((m.selected k).map (fun q => (q, 0)))) else u)

/-! ### The matrix queue (R270, R273, R302) -/

/-- The unit starts a word: everything it does but the steps of `mm` and `mmr`, a slot's validity, and the result of `rnsq`.
One word is in the unit at a time (log 1). -/
def State.startWord (s : State) (l : Ladle) (e : QEntry) : Except Stop State :=
  let c := l.cluster
  match e.instr with
  | .mmz z => .ok (s.modMat c (·.zero z))
  | .wload k _ _ p t g => s.startWload l e k p.toNat (t == 1) (g == 1)
  | .mstore z k _ _ cl pd => s.startDrain l e z k false (pd == 1) (cl == 1)
  | .mstt z k _ _ cl pd => s.startDrain l e z k true (pd == 1) (cl == 1)
  | .msetmRow k _ _ => .ok (s.modMat c (·.setRow k (mask96 e.src1 e.src2)))
  | .msetmCol k _ _ => .ok (s.modMat c (·.setCol k (mask96 e.src1 e.src2)))
  | .msetmDepth k _ => .ok (s.modMat c (·.setDepth k (e.src1.setWidth 48)))
  | .msetmFull k => .ok (s.modMat c (fun m => ((m.setRow k (BitVec.allOnes 96)).setCol k (BitVec.allOnes 96)).setDepth k (BitVec.allOnes 48)))
  | .rnsf z k _ _ g => s.startRnsf l e z k (g == 1)
  | .rnsr z k _ _ t cl pd => s.startRnsr l e z k (t == 1) (pd == 1) (cl == 1)
  | .rnsq z _ _ => if (s.mat c).isResidue z then .ok s else .error (.fault .format)
  | _ => .ok s

/-- The steps a word has. -/
def QEntry.total (e : QEntry) : Nat :=
  match e.instr with
  | .mm _ _ _ _ _ _ k => stepCount k
  | .mmr _ _ _ _ _ _ k => stepCount k
  | _ => 0

/-- Change the word at the head of the queue. -/
def Matrix.mapHead (m : Matrix) (f : QEntry → QEntry) : Matrix :=
  { m with queue := match m.queue with | [] => [] | e :: r => f e :: r }

/-- The control ladle whose unit may go on, and the word at the head of its queue. -/
def State.matrixHead (s : State) (c : Nat) : Option (Ladle × QEntry) :=
  match s.controlLadle c, (s.mat c).queue with
  | some l, e :: _ => if s.unitRuns l && !s.stuck l.casting e.after then some (l, e) else none
  | _, _ => none

/-- The unit begins a step or a word of its queue. -/
def State.unitBegins (s : State) (l : Ladle) : Bool := (s.mat l.cluster).begins l

/-- A drain: its writes are no transfer of R229. -/
def QEntry.isDrain (e : QEntry) : Bool := match e.instr with | .mstore .. => true | .mstt .. => true | .rnsr .. => true | _ => false

/-- The allocation that a word's operand is read from or written to (R229). -/
def State.wordPad (s : State) (l : Ladle) (e : QEntry) : Option Nat :=
  let pad := fun (g : Bool) => match s.operand l g e.addr with | .ok o => o.pad | .error _ => none
  match e.instr with
  | .mm .. => pad false
  | .mmr .. => pad false
  | .wload _ _ _ _ _ g => pad (g == 1)
  | .rnsf _ _ _ _ g => pad (g == 1)
  | .mstore _ _ _ _ _ p => pad (p == 0)
  | .mstt _ _ _ _ _ p => pad (p == 0)
  | .rnsr _ _ _ _ _ _ p => pad (p == 0)
  | _ => none

/-- A word waits while the column its operand crosses realigns (R229). -/
def State.wordPaused (s : State) (l : Ladle) (e : QEntry) : Bool :=
  match s.wordPad l e with
  | some u => s.padPaused u
  | none => false

/-- Every access that the control ladle issued before a word has been performed (R306). -/
def State.wordReady (s : State) (l : Ladle) (e : QEntry) : Bool :=
  !e.started && s.unitBegins l && !s.wordPaused l e && !s.earlierOutstanding l.uid e.after

/-- MATRIX_WORD_START. -/
def execMatrixWordStart (cluster : Nat) (s : State) : Result :=
  match s.matrixHead cluster with
  | some (l, e) =>
    if s.wordReady l e then
      .next (State.engineRun (l.whoAt e.pc) e.after
        (fun s => (s.startWord l e).map (fun t => t.modMat cluster (·.mapHead (fun e => { e with started := true })))) engineFuel s)
    else .next s
  | none => .next s

/-- One step of the word at the head. -/
def State.stepWord (s : State) (l : Ladle) (e : QEntry) : Except Stop State :=
  match e.instr with
  | .mm z k _ _ p t n => s.stepMm l e z k p.toNat (t == 1) (stepCount n)
  | .mmr z k _ _ p t n => s.stepMmr l e z k p.toNat (t == 1) (stepCount n)
  | _ => .ok s

/-- MATRIX_STEP: the progress of a word counts its completed steps (R296). -/
def execMatrixStep (cluster : Nat) (s : State) : Result :=
  match s.matrixHead cluster with
  | some (l, e) =>
    if e.started && s.unitBegins l && !s.wordPaused l e && decide (e.steps < e.total) then
      .next (State.engineRun (l.whoAt e.pc) e.after
        (fun s => (s.stepWord l e).map (fun t => t.modMat cluster (·.mapHead (fun e => { e with steps := e.steps + 1 })))) engineFuel s)
    else .next s
  | none => .next s

/-- What a word does as it completes: a slot becomes valid, and `rnsq` writes the status word (R292, R314). -/
def State.completeWord (s : State) (l : Ladle) (e : QEntry) : State :=
  match e.instr with
  | .wload _ _ _ p _ _ => s.modMat l.cluster (fun m => m.setSlot p.toNat { m.slot p.toNat with valid := true })
  | .rnsq z a cl =>
    let x := (s.mat l.cluster).statusOf z
    let t := s.modLadle l.uid (fun l => l.setS a x)
    if cl = 1 then t.modMat l.cluster (·.setStatus z 0) else t
  | _ => s

/-- MATRIX_WORD_COMPLETE: the word leaves the queue; one whose operand crosses a column that realigns pauses (R229). -/
def execMatrixWordComplete (cluster : Nat) (s : State) : Result :=
  match s.matrixHead cluster with
  | some (l, e) =>
    if e.started && decide (e.steps = e.total) && !s.wordPaused l e then
      .next ((s.completeWord l e).modMat cluster (fun m => { m with queue := m.queue.tail }))
    else .next s
  | none => .next s

/-- A split waits for batches that have completed. -/
def Split.batchDone (x : Split) (n : Nat) : Bool := match x.blocked with | .mwait b => decide (b ≤ n) | _ => false

/-- `mwait` returns in the control ladle (R301). -/
def Ladle.wakeMwait (l : Ladle) (n : Nat) : Ladle :=
  (l.mapSplits (fun x => x.batchDone n) (fun x => { x with blocked := .ready, pc := x.pc + 4 })).fillSlots

/-- The next batch to complete has no word left, and no write of its drains or fold of one is on its way (R230, R238, R266). -/
def State.batchReady (s : State) (l : Ladle) : Bool :=
  let m := s.mat l.cluster
  decide (m.completed < m.closed) && !m.queue.any (fun e => decide (e.batch ≤ m.completed + 1))
  && !(s.outstanding l.uid).any (fun r => r.engine.isSome && (r.kind == .fold || r.unit == some 5))

/-- BATCH_COMPLETE. -/
def execBatchComplete (cluster : Nat) (s : State) : Result :=
  match s.controlLadle cluster with
  | some l =>
    if s.batchReady l then
      let n := (s.mat cluster).completed + 1
      .next ((s.modMat cluster (fun m => { m with completed := n, olds := m.olds.filter (fun e => decide (n < e.1)) })).modLadle l.uid
        (·.wakeMwait n))
    else .next s
  | none => .next s

/-! ### The interlock of rnsq (R60, R288) -/

/-- The uniform registers that a word legal on a control core names. -/
def uniformRegs (i : Instr) : List (BitVec 6) :=
  match i with
  | .sadd d a b | .saddSatI64 d a b | .saddSatN64 d a b | .ssub d a b | .ssubSatI64 d a b | .ssubSatN64 d a b | .smulLo d a b
  | .smulHiI64 d a b | .smulHiN64 d a b | .sand d a b | .sor d a b | .sxor d a b | .sandn d a b | .sshl d a b | .sshr d a b
  | .ssha d a b | .srot d a b | .sminI64 d a b | .smaxI64 d a b | .sminN64 d a b | .smaxN64 d a b | .ssel d a b | .spawn d a b => [d, a, b]
  | .scmp _ d a b | .waita _ d a b | .sst _ d a b => [d, a, b]
  | .sld _ d a b _ | .dist d a b _ | .distH d a b _ | .bpost _ d a b _ => [d, a, b]
  | .sclz d a | .spopc d a | .sbrev d a | .sffs d a | .smov d a | .tsysTmask d a => [d, a]
  | .saddi d a _ | .sandi d a _ | .sysw d a _ => [d, a]
  | .sshifti d a _ _ => [d, a]
  | .sli d _ | .shi d _ | .smovFromMask d _ | .smovSpecial d _ | .rget d | .sysr d _ | .bvopCount d _ => [d]
  | .bvopTest d _ b | .bvopWord d _ b => [d, b]
  | .smovToMask _ a | .jmp a | .calli a | .chain a | .mbatch a | .mwait a | .msetmDepth _ a => [a]
  | .chainq d a _ | .bread d a _ | .amax d a _ | .amaxClr d a _ => [d, a]
  | .bs r _ _ => [r.setWidth 6]
  | .call _ | .ret => [63#6]
  | .loop _ c i t => [c, i, t]
  | .spattr a b | .pin a b | .unpin a b | .rwb a b | .rinv a b | .touch a b | .msetmRow _ a b | .msetmCol _ a b => [a, b]
  | .pinR n a b | .unpinR n a b | .rwbR n a b | .rinvR n a b | .touchR n a b => [n, a, b]
  | .trap _ a _ => [a]
  | .mm _ _ a b _ _ _ | .mmr _ _ a b _ _ _ | .mstore _ _ a b _ _ | .mstt _ _ a b _ _ | .wload _ a b _ _ _ => [a, b]
  | .rnsf _ _ a b _ | .rnsr _ _ a b _ _ _ => [a, b]
  | .rnsq _ a _ => [a]
  | _ => []

/-- The uniform registers that a lane word names: its base registers, and the index of `redg`. -/
def laneUniformRegs (i : Instr) : List (BitVec 6) :=
  match i with
  | .lds _ _ _ _ b _ | .lds2 _ _ _ _ b _ | .ldsf _ _ _ _ b _ | .ldp _ _ _ _ b _ | .ldg _ _ _ _ b _ | .ldg2 _ _ _ _ b _
  | .ldgs _ _ _ _ b _ => [baseReg b]
  | .sts _ _ _ b _ | .sts2 _ _ _ b _ | .stsf _ _ _ b _ | .stp _ _ _ b _ | .stg _ _ _ b _ | .stg2 _ _ _ b _ | .stgs _ _ _ b _ => [baseReg b]
  | .touchg _ _ b _ => [baseReg b]
  | .atom _ _ _ _ _ b | .atomb _ _ _ _ _ b | .atoms _ _ _ _ _ b => [baseReg b]
  | .redg _ _ _ _ b => [baseReg b, baseReg b + 8]
  | .movBroadcast _ _ _ a => [a]
  | _ => []

/-- All uniform registers that an instruction names. `calli` also writes s63, and `bread` the register after its destination. -/
def namedUniform (i : Instr) : List (BitVec 6) :=
  uniformRegs i ++ laneUniformRegs i ++ (match i with | .calli _ => [63#6] | .bread d _ _ => [nextReg d] | _ => [])

/-- The register that a blocked split's `waita` or `rget` will write. -/
def Split.awaitedReg (x : Split) : Option (BitVec 6) :=
  match x.blocked with
  | .waitaPad _ _ _ d => some d
  | .waitaGlobal _ _ d => some d
  | .waitaMet _ d => some d
  | .rget d => some d
  | _ => none

/-- An instruction names the destination of an `rnsq` that has not completed, or of a `waita` or `rget` that blocks another split of
its ladle: it waits for it (R60). -/
def State.interlocked (s : State) (i : Instr) : Bool :=
  let regs := namedUniform i
  (s.me.control && (s.mat s.me.cluster).queue.any (fun e => match e.instr with | .rnsq _ a _ => regs.contains a | _ => false))
  || s.me.splits.any (fun x => match x.awaitedReg with | some d => regs.contains d | none => false)

end Sys2Proof.Machine
end

