-- ==== Sys2Proof/Machine/Control.lean ====
section
/-!
DEFINITION. Branches, the loop word, barriers and extended registers (R118 to R130).
-/

namespace Sys2Proof.Machine

/-! ### Branches (R118 to R121) -/

/-- A branch target: the branch's address plus 4 times the sign-extended displacement (R53). -/
def target {n : Nat} (pc : Word64) (d : BitVec n) : Word64 := pc + (d.signExtend 64 <<< 2)

/-- The return-address register. -/
def linkReg : BitVec 6 := 63#6

/-- A branch goes to `goal` in the lanes `taken`: in shadow placement that outcome and the split's mask are compared first (R335). -/
def State.branchTo (s : State) (goal : Word64) (taken : Word32) (f : State → State) : State :=
  s.compared [goal, taken.setWidth 64, s.me.sp.mask.setWidth 64] f

def execB (d : BitVec 21) (s : State) : Result :=
  let goal := target s.me.sp.pc d
  .next (s.branchTo goal s.me.sp.mask (fun s => s.jump goal (fun l => l)))

/-- `bs.z` branches when the register is zero, `bs.nz` when it is not. -/
def execBs (r : BitVec 4) (n : BitVec 1) (d : BitVec 20) (s : State) : Result :=
  let goal := target s.me.sp.pc d
  let go := (s.me.getS (r.zeroExtend 6) == 0) == (n == 0)
  .next (s.branchTo goal (if go then s.me.sp.mask else 0) (fun s => if go then s.jump goal (fun l => l) else s.done (fun l => l)))

/-- The issuing split divides: the lanes not taken keep its slot and go on, the taken ones are a new split at the target, in
the lowest free slot or parked (R25). -/
def Ladle.divide (l : Ladle) (taken : Word32) (pc : Word64) : Ladle :=
  let slot := l.freeSlot
  { l with
    sp := { l.sp with mask := l.sp.mask &&& ~~~taken },
    splits := l.splits ++ [{ l.sp with mask := taken, pc := pc, slot := slot, parkedAt := l.parkCounter }],
    parkCounter := if slot.isNone then l.parkCounter + 1 else l.parkCounter }

/-- In half placement the mask bits of each pair of lanes are compared before a branch (R336). -/
def Ladle.maskPairs (l : Ladle) (m : Word32) : Bool := !l.half || m.extractLsb' 0 16 == m.extractLsb' 16 16

/-- `bk` by mode: split, all, any, none (R119). -/
def execBk (k : BitVec 3) (m : BitVec 2) (d : BitVec 19) (s : State) : Result :=
  let a := s.me.sp.mask
  let t := s.me.active k
  let goal := target s.me.sp.pc d
  .next (s.branchTo goal t (fun s =>
    let go := s.jump goal (fun l => l)
    let on := s.done (fun l => l)
    if !s.me.maskPairs t then s.castFault .checkMismatch
    else
      match m.toNat with
      | 0 => if t = a then go else if t = 0 then on else s.done (fun l => l.divide t goal)
      | 1 => if t = a then go else on
      | 2 => if t ≠ 0 then go else on
      | _ => if t = 0 then go else on))

/-- `call` closes windows and writes the return address (R59, R118). -/
def execCall (d : BitVec 21) (s : State) : Result :=
  .next (s.closing (fun s =>
    let goal := target s.me.sp.pc d
    s.branchTo goal s.me.sp.mask (fun s => s.jump goal (fun l => l.setS linkReg (l.sp.pc + 4)))))

/-- A register jump: it closes windows; a target off a word boundary is an illegal instruction (R120). -/
def State.jumpTo (s : State) (r : BitVec 6) (f : Ladle → Ladle) : State :=
  s.closing (fun s =>
    if (s.me.getS r).extractLsb' 0 2 ≠ 0 then s.castFault .illegal
    else s.branchTo (s.me.getS r) s.me.sp.mask (fun s => s.jump (s.me.getS r) f))

def execJmp (a : BitVec 6) (s : State) : Result := .next (s.jumpTo a (fun l => l))
/-- The target is read before s63 is written. -/
def execCalli (a : BitVec 6) (s : State) : Result := .next (s.jumpTo a (fun l => l.setS linkReg (l.sp.pc + 4)))
def execRet (s : State) : Result := .next (s.jumpTo linkReg (fun l => l))

/-! ### loop (R122 to R125) -/

/-- The instruction words from an address on. -/
def State.captureWords (s : State) (pc : Nat) : Nat → Except Stop (List Word32)
  | 0 => .ok []
  | n + 1 =>
    match s.physical s.me.who pc .fetch with
    | .error e => .error e
    | .ok (pa, _) =>
      match s.captureWords (pc + 4) n with
      | .error e => .error e
      | .ok ws => if s.poisonedIn pa 4 then .error (.fault .uncorrectable) else .ok (s.mem.read32 pa :: ws)

/-- The words that a `loop` captures are corrected where they hold an error (R337). -/
def State.correctWords (s : State) (pc n : Nat) : State :=
  if s.noErrors then s
  else s.correctBytes ((List.range n).flatMap (fun i =>
    match s.physical s.me.who (pc + 4 * i) .fetch with | .ok (pa, _) => (List.range 4).map (pa + ·) | .error _ => []))

/-- `loop` captures its body and runs it in the issuing split; a busy buffer blocks another split, and a handler may not
issue it while a loop is suspended. DESIGN CHOICE (log 73): a body word whose page does not translate is found here, and its walk or
suspension is the `loop` word's. -/
def execLoop (n : BitVec 5) (c i t : BitVec 6) (s : State) : Result :=
  let l := s.me
  match l.loop with
  | some b => if b.suspended && l.sp.handler then .next (s.castFault .illegal) else .next (s.blockMe .loopBusy)
  | none =>
    if 2 ^ 48 ≤ (l.getS c).toNat then .next (s.castFault .illegal)
    else if l.getS c = 0 then .next (s.jump (l.sp.pc + BitVec.ofNat 64 (4 + 4 * n.toNat)) (fun l => l))
    else
      match s.captureWords (l.sp.pc.toNat + 4) n.toNat with
      | .error e => .next (s.stopAt e)
      | .ok ws =>
        .next ((s.correctWords (l.sp.pc.toNat + 4) n.toNat).jump (l.sp.pc + 4) (fun l =>
          { l with
            loop := some { addr := l.sp.pc, words := ws, rem := l.getS c, steps := l.getS i, stride := l.getS t, pass := 0,
                           index := 0, count := c, suspended := false },
            piPass := 0, sp := { l.sp with looping := true } }))

/-! ### Barriers (R126 to R128) -/

/-- `bar` closes windows; an arrival waits for the ladle's earlier accesses at the barrier's scope (R127); a mould barrier
is illegal outside a gang mould (R31). -/
def execBar (lv k : BitVec 2) (i : BitVec 4) (s : State) : Result :=
  .next (s.closing (fun s =>
    if lv = 3 ∧ s.me.gangMould = false then s.castFault .illegal
    else if k = 2 then s.barWait lv i.toNat
    else if s.unperformed s.me.uid (levelScope lv) s.nextReq then s
    else s.barArrive lv i.toNat (k == 0)))

/-! ### Extended registers (R35 to R38, R130) -/

/-- Register blocks that a ladle needs for an extended grant: two when it is shadowed (R36, R38). -/
def Ladle.blocks (l : Ladle) : Nat := if l.shadow.isSome then 2 else 1

/-- A ladle holds a register block of its core: the one of its slot, its shadow's, or one of its extended grant (R35 to R37). -/
def Ladle.holdsBlock (l : Ladle) (b : Nat) : Bool := l.place == b || l.shadowBlock == some b || l.extBlocks.contains b

/-- The free ones of a core's 128 register blocks (R35). -/
def State.freeBlocks (s : State) (cluster core : Nat) : List Nat :=
  (List.range 128).filter (fun b => !s.ladles.any (fun l => l.live && l.cluster == cluster && l.core == core && l.holdsBlock b))

/-- Enough of the core's blocks are free for a ladle's extended grant. -/
def State.blocksFor (s : State) (l : Ladle) : Bool := decide (l.blocks ≤ (s.freeBlocks l.cluster l.core).length)

/-- Blocks of a list, chosen by free values: which free block an extended grant takes is open (R35, R38; log 28). -/
def pickBlocks (l : List Nat) : Nat → Nat → List Nat
  | 0, _ => []
  | n + 1, seed =>
    let b := l.getD ((Sys2Proof.Config.freeValue seed).toNat % l.length) 0
    b :: pickBlocks (l.erase b) n (seed + 1)

/-- v32-v63 read zero. -/
def Ladle.clearExtended (l : Ladle) : Ladle :=
  { l with v := Vector.ofFn (fun r : Fin 64 => if r.val < 32 then l.v[r] else Vector.replicate 32 0#32) }

/-- The issuing ladle takes its extended block, two when it is shadowed: every register of it reads zero (R36, R37). -/
def State.extend (s : State) : State :=
  { s with me := { s.me.clearExtended with ext := true, extBlocks := pickBlocks (s.freeBlocks s.me.cluster s.me.core) s.me.blocks s.free },
           free := s.free + s.me.blocks }

/-- The ladle gives its extended block back, and its contents are lost (R37). -/
def Ladle.giveBlock (l : Ladle) : Ladle := { l.clearExtended with ext := false, extBlocks := [] }

/-- `rget` (R37, R38, R130): held already, joined to the ladle's queued request, granted from an empty queue, or queued. -/
def execRget (d : BitVec 6) (s : State) : Result :=
  .next (s.closing (fun s =>
    let l := s.me
    let q := FMap.get [] s.rgetQueue (5 * l.cluster + l.core)
    if l.control || !l.mayExtend then s.castFault .illegal
    else if s.valuesFull then s
    else if l.ext then s.done (fun l => l.setOutside d 1)
    else if q.any (fun e => e.1 == l.uid) then (s.mapMe Ladle.issued).blockMe (.rget d)
    else if q.isEmpty && s.blocksFor l then s.extend.done (fun l => l.setOutside d 1)
    else
      { (s.mapMe Ladle.issued).blockMe (.rget d) with
        rgetQueue := FMap.set [] s.rgetQueue (5 * l.cluster + l.core) (q ++ [(l.uid, d)]) }))

/-- A result would land in v32-v63. -/
def Dest.extended (d : Dest) : Bool :=
  match d with
  | .lane d => Machine.extended d
  | .lanePair d => Machine.extended d
  | _ => false

/-- The results that a handler has suspended and that would land in the block given back are dropped: no pending result may land there
(R130). DEDUCED (log 86): R61 would land them after the handler's return. -/
def Ladle.dropExtended (l : Ladle) : Ladle := (l.pend.filter (fun p => p.dest.extended)).foldl (fun l p => l.dropPending p.id) l

/-- `rrel` frees the block and its contents are lost; without one it has no effect (R37, R130). -/
def execRrel (s : State) : Result :=
  .next (s.closing (fun s =>
    if s.me.control then s.castFault .illegal
    else s.done (fun l => if l.ext then l.dropExtended.giveBlock else l)))

end Sys2Proof.Machine
end

