-- ==== Sys2Proof/Machine/Traps.lean ====
section
/-!
DEFINITION. `trap`, `tsys` and `exit` (R30, R162 to R164).
-/

namespace Sys2Proof.Machine

/-! ### trap and tsys (R162, R163) -/

/-- The test of a `trap` by condition (R162). -/
def trapTest (c : BitVec 3) (x i : Word64) : Bool :=
  match c.toNat with
  | 0 => true
  | 1 => x == i
  | 2 => x != i
  | 3 => decide (x.toInt < i.toInt)
  | 4 => decide (i.toInt ≤ x.toInt)
  | 5 => decide (x.toNat < i.toNat)
  | _ => decide (i.toNat ≤ x.toNat)

/-- `trap` stops with class 1 and its immediate as the code when its test holds. -/
def execTrap (c : BitVec 3) (a : BitVec 6) (i : BitVec 13) (s : State) : Result :=
  .next (s.closing (fun s =>
    if trapTest c (s.me.getS a) (i.signExtend 64) then s.takeTrap 1 i.toNat .own else s.done (fun l => l)))

def execTsysNop (s : State) : Result := .next (s.closing (fun s => s.done (fun l => l)))

/-- `tsys.tret` resumes at %tpc; outside a handler, or with %tpc off a word boundary, it is an illegal instruction. -/
def execTsysTret (s : State) : Result :=
  .next (s.closing (fun s =>
    if s.me.handlerActive = false ∨ s.me.tpc.extractLsb' 0 2 ≠ 0 then s.castFault .illegal
    else (s.mapMe (fun l => l.issued.trapReturn)).settle))

/-- `tsys.tmask` swaps M with bit 0 of a register, which it reads first. -/
def execTsysTmask (d a : BitVec 6) (s : State) : Result :=
  .next (s.closing (fun s => s.done (fun l =>
    { l.setS d (boolWord (causeM l.tcause)) with tcause := setCauseM l.tcause ((l.getS a).getLsbD 0) })))

/-- `tsys.bkpt` stops with class 2. -/
def execTsysBkpt (s : State) : Result := .next (s.closing (fun s => s.takeTrap 2 0 .own))

/-! ### exit (R30, R164) -/

/-- Chains that a ladle started and that have not ended (R306). -/
def State.chainsOf (s : State) (uid : Nat) : List Chain := (s.chains.flatMap (·.2)).filter (fun c => c.who.ladle == uid)

/-- The `exit` of a split waits for a request of its ladle: for every one where it ends the ladle's last lane (R13); else for accesses at
casting scope (R164), contributions (R395), the requests of the distance instructions (R223), and where the ladle arrives at a barrier with
the end of the split, for what that arrival waits for (R32, R127). -/
def State.exitAwaits (s : State) (l : Ladle) (r : Req) : Bool :=
  l.splits.isEmpty || s.inScope 1 r || r.kind.isRedg || !s.inScope 6 r || l.arrivesAtEnd.any (fun lv => s.inScope (levelScope lv) r)

/-- Every earlier access of a ladle has been performed, as the retirement of an `exit` asks, with its chains and, on a control ladle, its
matrix words (R306). -/
def State.exitReady (s : State) (l : Ladle) : Bool :=
  !((s.outstanding l.uid).any (s.exitAwaits l))
  && (s.chainsOf l.uid).isEmpty
  && (!l.control || (match s.matrix.find? (fun e => e.1 == l.cluster) with | some m => m.2.queue.isEmpty | none => true))

/-- The issuing split has ended. When it was the handler's last, the handler is over, and a loop suspended in it is gone;
when it was the ladle's last, the ladle gives back its slot, its blocks and its scratchpad (R30, R13). -/
def Ladle.endSplit (l : Ladle) : Ladle :=
  let last := l.handlerActive && l.sp.handler && !l.splits.any (·.handler)
  let l := if last then (if l.loop.any (·.suspended) then l.endHandler.freeLoop else l.endHandler) else l
  match l.splits with
  | [] =>
    { l with
      live := false, ext := false, shadowBlock := none, extBlocks := [], permit := false, handlerActive := false, loop := none, pend := [],
      sp := { l.sp with mask := 0, slot := none, blocked := .ready, looping := false, handler := false },
      pad := { base := 0, size := 0, bytes := [], attrs := [], tags := [] } }
  | x :: r => Ladle.fillSlots { l with sp := x, splits := r }

/-- A `waita` on a word of an allocation that has been released is a peer-gone fault (R13). -/
def State.releasePad (s : State) (uid : Nat) : State :=
  (s.ladles.filter (fun l => l.live && l.allSplits.any (fun x => match x.blocked with | .waitaPad u _ _ _ => decide (u = uid) | _ => false))).foldl
    (fun t l => t.raiseFor l.casting l.rank l.cluster l.core .peerGone
      (((l.allSplits.find? (fun x => match x.blocked with | .waitaPad u _ _ _ => decide (u = uid) | _ => false)).map (·.pc)).getD 0)) s

/-- An `exit` of the issuing split retires: barriers are looked at again, and suspended results may be due. -/
def State.retireExit (s : State) : State :=
  let t := s.mapMe Ladle.endSplit
  if t.me.live then t.recheckMe.settle else (t.releasePad t.me.uid).checkBarriers

/-- `exit` ends the split's lanes; it retires once its earlier accesses have been performed. -/
def execExit (s : State) : Result :=
  .next (s.closing (fun s => s.compared [s.me.sp.mask.setWidth 64] (fun s =>
    if s.exitReady s.me then s.retireExit
    else s.mapMe (fun l => { l.issued with sp := { l.sp with blocked := .exitWait } }))))

/-- `exit.abort` is a casting fault. -/
def execExitAbort (s : State) : Result := .next (s.closing (fun s => s.compared [s.me.sp.mask.setWidth 64] (fun s => s.castFault .abort)))

end Sys2Proof.Machine
end

