-- ==== Sys2Proof/Machine/Casting.lean ====
section
/-!
DEFINITION. Castings and what the ready pool keeps beside them: who is busy, restartability (R375), save slots (R173), MSI-X
messages (R414), reports (R15, R168), translation records (R420), discards (R166, R210), and the partition's virtual memory
as the device's own units reach it.
-/

namespace Sys2Proof.Machine

/-! ### Castings -/

def State.casting? (s : State) (uid : Nat) : Option Casting := s.castings.find? (fun c => c.uid == uid)

def State.modCasting (s : State) (uid : Nat) (f : Casting → Casting) : State :=
  { s with castings := s.castings.map (fun c => if c.uid = uid then f c else c) }

def State.graph? (s : State) (uid : Nat) : Option Graph := s.graphs.find? (fun g => g.uid == uid)

def State.modGraph (s : State) (uid : Nat) (f : Graph → Graph) : State :=
  { s with graphs := s.graphs.map (fun g => if g.uid = uid then f g else g) }

/-- The casting holds ladle slots of a cluster: it runs, or its discard is not acknowledged yet. -/
def Casting.resident (c : Casting) : Bool :=
  match c.state with
  | .resident => true
  | .faulted => decide (c.cluster < 64)
  | .discarding => true
  | _ => false

/-- Resident or saved, as the busy rules of a partition's registers ask (R167, R253, R276, R415, R416, R418). -/
def Casting.inUse (c : Casting) : Bool :=
  match c.state with
  | .resident => true
  | .faulted => true
  | .discarding => true
  | .saved => true
  | .suspended => true
  | _ => false

def State.partBusy (s : State) (p : Nat) : Bool := s.castings.any (fun c => decide (c.part = p) && c.inUse)

/-- A cluster holds a casting. -/
def State.clusterHeld (s : State) (x : Nat) : Bool := s.castings.any (fun c => decide (c.cluster = x) && c.resident)

/-- The clusters that hold a casting. -/
def State.heldClusters (s : State) : List Nat := ((s.castings.filter Casting.resident).map (·.cluster)).eraseDups

/-- Cycles pass: each cluster that holds a casting adds them to its owner's windowed consumption and to PART_CONSUMED (R370). -/
def State.consume (s : State) (e : Word64) (x : Nat) : State :=
  let p := FMap.get 0 s.owners x
  if p = 0 then s
  else { s with windows := FMap.modify 0 s.windows (p - 1) (· + e), consumed := FMap.modify 0 s.consumed (p - 1) (· + e) }

/-- One step has been made: time passes (R7, log 7). -/
def State.tick (s : State) : State :=
  let e := Sys2Proof.Config.elapsed s.ticks
  s.heldClusters.foldl (fun t x => t.consume e x) { s with ticks := s.ticks + 1, service := s.service + e }

/-- A casting has a control ladle. -/
def State.hasControl (s : State) (c : Casting) : Bool := match s.mouldOf c.uid with | some (_, _, m) => m.control | none => false

/-- The control core of a cluster holds a casting: it owns the matrix state for as long as it is resident, its control ladle's exit or
not (R22, R326). -/
def State.controlHeld (s : State) (x : Nat) : Bool :=
  (s.controlLadle x).isSome || s.castings.any (fun c => decide (c.cluster = x) && c.resident && s.hasControl c)

/-- A casting is restartable (R375). -/
def State.restartable (s : State) (c : Casting) : Bool :=
  match s.mouldOf c.uid with
  | some (_, _, m) => m.restartable && !c.unversioned
  | none => false

/-! ### The partition's memory as the device's own units reach it -/

/-- A range of bytes cut at tile boundaries: address and length of each part. -/
def tileParts (va n : Nat) : Nat → List (Nat × Nat)
  | 0 => []
  | fuel + 1 =>
    if n = 0 then []
    else
      let k := min n (256 - va % 256)
      (va, k) :: tileParts (va + k) (n - k) fuel

/-- The translated parts of a virtual range, or none when one does not translate. -/
def State.virtualParts (s : State) (p : Nat) (kind : AccessKind) (va n : Nat) : Option (List (Nat × Nat)) :=
  (tileParts va n (n + 1)).mapM (fun e => if 2 ^ 57 < e.1 + e.2 then none else (s.walkAddr p e.1 kind).map (fun pa => (pa, e.2)))

/-- An access of the device to a partition's virtual range corrects the table entries that its walks read, and of a read the data too
(R337). -/
def State.correctRange (s : State) (p : Nat) (kind : AccessKind) (va n : Nat) : State :=
  if s.noErrors then s
  else (tileParts va n (n + 1)).foldl (fun t e =>
    let t := t.correctWalk p e.1
    match kind, t.walkAddr p e.1 kind with
    | .read, some pa => t.correctBytes ((List.range e.2).map (pa + ·))
    | _, _ => t) s

/-- Read committed bytes of a partition's virtual range; none when a byte does not translate or cannot be read. -/
def State.readVirtual (s : State) (p va n : Nat) : Option (List Byte) :=
  match s.virtualParts p .read va n with
  | none => none
  | some ps => if ps.any (fun e => s.poisonedIn e.1 e.2) then none
      else some (ps.flatMap (fun e => s.mem.readBytes e.1 e.2))

/-- The bytes of a value, little-endian (R5). -/
def bytesLE (n : Nat) (x : Nat) : List Byte := (List.range n).map (fun i => BitVec.ofNat 8 (x / 256 ^ i))

/-- A value from bytes, little-endian. -/
def valueLE (bs : List Byte) : Nat := bs.foldr (fun b acc => b.toNat + 256 * acc) 0

/-- 64-bit words from bytes. -/
def wordsLE (bs : List Byte) (n : Nat) : List Word64 := (List.range n).map (fun i => BitVec.ofNat 64 (valueLE ((bs.drop (8 * i)).take 8)))

def State.readWords (s : State) (p va n : Nat) : Option (List Word64) := (s.readVirtual p va (8 * n)).map (fun bs => wordsLE bs n)

/-- Pair bytes with the addresses of translated parts. -/
def placeBytes : List (Nat × Nat) → List Byte → List (Nat × Byte)
  | [], _ => []
  | (pa, k) :: r, bs => ((List.range k).zip (bs.take k)).map (fun e => (pa + e.1, e.2)) ++ placeBytes r (bs.drop k)

/-- Write committed bytes of a partition's virtual range; none when a byte does not translate for writing. -/
def State.writeVirtual (s : State) (p va : Nat) (bs : List Byte) : Option State :=
  (s.virtualParts p .write va bs.length).map (fun ps => (s.correctRange p .write va bs.length).commitBytes (placeBytes ps bs))

/-! ### Interrupts, reports and translation records -/

/-- A function's number: 0 the physical function, p + 1 virtual function p. -/
def vfOf (p : Nat) : Nat := p + 1

/-- The number of a function's vector on a link, and an entry of its MSI-X table right after reset: masked (log 77). -/
def vectorKey (link function vector : Nat) : Nat := (link * 32 + function) * 64 + vector
def msixEntry : Word64 × Word64 := (0, 0x100000000)

/-- A vector can send its message: its function's MSI-X is enabled, and neither the function nor the vector is masked (R414). -/
def State.vectorOpen (s : State) (link function vector : Nat) : Bool :=
  let c := FMap.get (false, false) s.msixEnable (link * 32 + function)
  c.1 && !c.2 && !(FMap.get msixEntry s.msixTable (vectorKey link function vector)).2.getLsbD 32

/-- A function raises a vector on its link: the message is sent, or the vector's pending bit is set (R414). -/
def State.interrupt (s : State) (link function vector : Nat) : State :=
  if s.vectorOpen link function vector then { s with msix := s.msix ++ [(function, vector, link)] }
  else { s with msixPending := FMap.set false s.msixPending (vectorKey link function vector) true }

/-- The link on which a partition's virtual function is presented (R405). -/
def State.vfLink (s : State) (p : Nat) : Nat := bit ((s.reg 0xc20).getLsbD p)

/-- Registers of a partition's report queue and save area (R167). -/
def rqReg (p i : Nat) : Nat := 0x200 + 8 * p + i

/-- Registers of a partition's host block (R416). -/
def hostReg (p i : Nat) : Nat := 0x900 + 16 * p + i

/-- One more record lost by a report queue. -/
def State.reportLost (s : State) (p : Nat) : State :=
  let r := s.reg (rqReg p 4)
  s.setReg (rqReg p 4) (putBits r 63 32 (bitsOf r 63 32 + 1))

/-- The four words of a report record (R15). -/
def reportWords (mould cause rank cluster core seq : Nat) (image wid pc : Word64) : List Word64 :=
  [BitVec.ofNat 64 (mould % 65536 * 2 ^ 48 + cause * 2 ^ 40 + rank % 256 * 2 ^ 32 + cluster % 256 * 2 ^ 24 + core % 8 * 2 ^ 21 + seq),
   image, wid, pc]

/-- The bytes of a record. -/
def recordBytes (ws : List Word64) : List Byte := ws.flatMap (fun w => bytesLE 8 w.toNat)

/-- Write a report: the sequence number is consumed, and the record is written or lost (R168). -/
def State.report (s : State) (p mould cause rank cluster core : Nat) (image wid pc : Word64) : State :=
  let seq := FMap.get 0 s.reportSeq p
  let t := { s with reportSeq := FMap.set 0 s.reportSeq p (seq + 1) }
  let head := s.reg (rqReg p 2)
  let log := bitsOf (s.reg (rqReg p 1)) 4 0
  if 2 ^ log ≤ (head - s.reg (rqReg p 3)).toNat then t.reportLost p
  else
    let va := (s.reg (rqReg p 0)).toNat + 32 * (head.toNat % 2 ^ log)
    match t.writeVirtual p va (recordBytes (reportWords mould cause rank cluster core seq.toNat image wid pc)) with
    | none => t.reportLost p
    | some u =>
      let u := u.setReg (rqReg p 2) (head + 1)
      let ctl := s.reg (rqReg p 4)
      if ctl.getLsbD 0 then u.interrupt (u.vfLink p) (vfOf p) (bitsOf ctl 13 8) else u

/-- Write the waiting translation records of a partition while its queue has room (R420): at most `n` of them. A record
that cannot be written waits. -/
def State.writeTranslationRecords (p : Nat) : Nat → State → State
  | 0, s => s
  | n + 1, s =>
    match FMap.get [] s.tqWaiting p with
    | [] => s
    | w :: r =>
      let head := s.reg (hostReg p 3)
      let log := bitsOf (s.reg (hostReg p 2)) 3 0
      if 2 ^ log ≤ (head - s.reg (hostReg p 4)).toNat then s
      else
        match s.writeVirtual p ((s.reg (hostReg p 1)).toNat + 32 * (head.toNat % 2 ^ log)) (recordBytes w) with
        | none => s
        | some u =>
          let u := ({ u with tqWaiting := FMap.set [] u.tqWaiting p r }).setReg (hostReg p 3) (head + 1)
          let ctl := s.reg (hostReg p 5)
          State.writeTranslationRecords p n (if ctl.getLsbD 0 then u.interrupt (u.vfLink p) (vfOf p) (bitsOf ctl 13 8) else u)

/-! ### Save slots (R173, R276) -/

/-- The lowest number below `n` that is not in a list. -/
def lowestFree (n : Nat) (used : List Nat) : Option Nat := (List.range n).find? (fun i => !used.contains i)

/-- The lowest free save slot and matrix save block of a partition. -/
def State.freeSlot (s : State) (p : Nat) : Option Nat :=
  lowestFree (bitsOf (s.reg (rqReg p 7)) 15 0) (s.castings.filterMap (fun c => if c.part = p then c.saveSlot else none))
def State.freeBlock (s : State) (p : Nat) : Option Nat :=
  lowestFree (bitsOf (s.reg (0x581 + 2 * p)) 7 0) (s.castings.filterMap (fun c => if c.part = p then c.mxsBlock else none))

/-! ### Discards (R166, R210) -/

/-- Slices that hold frames of a casting. -/
def State.framesOf (s : State) (uid : Nat) : List Nat :=
  (s.slices.filter (fun e => e.2.frames.any (fun f => decide (f.casting = uid)))).map (·.1)

/-- Send the discard of a casting's version to every slice that holds frames of it; it stands in a given state until they
have acknowledged. No ladle of it issues any more, and its later pre-emptions are dropped. -/
def State.startDiscard (s : State) (uid : Nat) (st : CastState) : State :=
  (s.mapLadles (fun l => decide (l.casting = uid) && l.live) (fun l => { l with stopped := true })).modCasting uid (fun c =>
    { c with state := st, preempt := none, along := false, started := false, suspension := none, awaited := s.framesOf uid, reservation := [] })

/-- Take a casting's chains out of its cluster's engine. -/
def State.dropChainsOf (s : State) (x uid : Nat) : State :=
  { s with chains := FMap.set [] s.chains x ((s.chainList x).filter (fun c => c.who.casting != uid)) }

/-- A ladle that holds nothing: its slot, blocks, permit and scratchpad are free (R30, R166). -/
def Ladle.freed (l : Ladle) : Ladle :=
  { l with
    live := false, stopped := false, ext := false, shadowBlock := none, extBlocks := [], permit := false, handlerActive := false, loop := none, pend := [], splits := [],
    sp := { l.sp with mask := 0, slot := none, blocked := .ready, looping := false, handler := false },
    pad := { base := 0, size := 0, bytes := [], attrs := [], tags := [] }, replay := [], shadow := none }

/-- Barriers of ladles and of a casting that are gone, and their arrivals at the barriers that stay. -/
def State.dropBarriers (s : State) (uid : Nat) (uids : List Nat) : State :=
  { s with barriers := (s.barriers.filter (fun b => b.group != uid && !uids.contains b.group)).map (fun b =>
      { b with arrived := b.arrived.filter (fun u => !uids.contains u) }) }

/-- The watches of ladles that are gone. -/
def State.dropWatches (s : State) (uids : List Nat) : State :=
  (s.slices.map (·.1)).foldl (fun t n => t.modSlice n (fun x => { x with watches := x.watches.filter (fun w => !uids.contains w.ladle) })) s

/-- The queued extended-register requests of ladles that are gone. -/
def State.dropRgets (s : State) (uids : List Nat) : State :=
  { s with rgetQueue := s.rgetQueue.filterMap (fun e =>
      match e.2.filter (fun q => !uids.contains q.1) with | [] => none | q => some (e.1, q)) }

/-- What becomes of a request of a casting that is freed: a plain load stops, as do a `dist`, a read of an amax slot, and requests that have
not left the comparison buffer; what any other issued instruction has sent is still performed, for no casting, and its answer goes to no
ladle (R166, R240). -/
def Req.orphan (r : Req) : Option Req :=
  let stops := match r.kind with
    | .load _ => true
    | .dist _ => true
    | .amaxRead c => !c
    | _ => false
  if stops || r.held then none else some { r with who := { r.who with casting := 0 }, pend := none }

/-- Requests with those of a casting that is freed as orphans. -/
def orphans (uid : Nat) (l : List Req) : List Req := l.filterMap (fun r => if r.who.casting = uid then r.orphan else some r)

/-- A store to a scratchpad that a casting has issued is not performed yet: its scratchpads stay until it is (R166). -/
def State.padStoresLeft (s : State) (uid : Nat) : Bool :=
  s.requests.any (fun r => decide (r.who.casting = uid) && r.place.isPad && !r.held && (match r.kind with | .store _ => true | _ => false))

/-- An entry of a casting's chains is in progress: it has not come to its progress point (R166, R171). -/
def State.entriesLeft (s : State) (c : Casting) : Bool :=
  (s.chainList c.cluster).any (fun x => decide (x.who.casting = c.uid) && !x.entry.isEmpty && !x.waiting && !x.failed)

/-- Free all that a casting holds in its cluster: ladle slots, blocks, scratchpads, permits, chains and, with a control
ladle, the matrix state; of its requests, those of instructions that stop go with it (R166). A `waita` of another casting on a
word of it ends with the release (R13). -/
def State.freeCasting (s : State) (c : Casting) : State :=
  let mine := s.ladles.filter (fun l => decide (l.casting = c.uid) && l.live)
  let uids := mine.map (·.uid)
  let t := (s.dropChainsOf c.cluster c.uid).mapLadles (fun l => decide (l.casting = c.uid)) Ladle.freed
  let t := if mine.any (·.control) then t.setMat c.cluster Matrix.start else t
  let t := { t with
    rest := t.rest.filter (fun l => l.live || decide (l.casting ≠ c.uid)),
    requests := orphans c.uid t.requests, rehomed := orphans c.uid t.rehomed,
    retry := t.retry.map (fun (e : Nat × List Req) => (e.1, orphans c.uid e.2)),
    standing := t.standing.filter (fun e => e.req.who.casting != c.uid) }
  uids.foldl State.releasePad (((t.dropRgets uids).dropWatches uids).dropBarriers c.uid uids)

/-! ### Faults at the ready pool (R166, R176) -/

/-- A casting whose faults are still taken: a completed one has none, the first fault is the one reported, and a discard
that was requested before it is carried out. -/
def Casting.takesFault (c : Casting) : Bool :=
  c.fault.isNone &&
  (match c.state with
   | .resident => true
   | .saved => true
   | .suspended => true
   | .heldBack => true
   | _ => false)

/-- The ready pool receives a fault: later faults and pre-emption requests of the casting are dropped, no ladle of it issues
any more, and its version is discarded; a check mismatch counts for its cluster (R341). -/
def State.receiveFault (s : State) (f : FaultRec) : State :=
  match s.casting? f.casting with
  | some c =>
    if c.takesFault then
      let t := (s.startDiscard c.uid .faulted).modCasting c.uid (fun c => { c with fault := some f })
      if f.cause = .checkMismatch then t.countReg (0x850 + f.cluster) else t
    else s
  | none => s

/-! ### Pre-emption requests (R170) -/

/-- A casting is to be stopped and saved, or stopped and discarded: on request, for its suspension, or along with its gang. -/
def Casting.toStop (c : Casting) : Bool := c.preempt.isSome || c.suspension.isSome || c.along

/-- A casting is being pre-empted: it will leave its cluster, or a discard of it is on its way. -/
def Casting.leaving (c : Casting) : Bool := c.preempt.isSome || c.along || decide (c.state = .discarding)

/-- A pre-emption of partition `p` that was requested is in progress. -/
def State.preempting (s : State) (p : Nat) : Bool :=
  s.castings.any (fun c => decide (c.part = p) && (c.preempt.isSome || decide (c.state = .discarding)))

/-- Ask for the pre-emption of castings, whole cluster gangs together: a gang with a casting that is not restartable is
saved. -/
def State.requestPreempt (s : State) (targets : List Casting) (save : Bool) : State :=
  { s with castings := s.castings.map (fun c =>
    let gang := targets.filter (fun d => s.sameGang c.uid d.uid)
    if gang.isEmpty || c.state != .resident || c.preempt.isSome then c
    else { c with preempt := some (save || (s.castings.filter (fun d => d.state == .resident && s.sameGang c.uid d.uid)).any (fun d => !s.restartable d)) }) }

/-- A write of PREEMPT_CTL: none where it is refused as busy; no effect where the named cluster holds no casting of the partition. -/
def State.writePreempt (s : State) (p : Nat) (v : Word64) : Option State :=
  let mode := bitsOf v 1 0
  if mode = 0 || mode = 3 || s.preempting p then none
  else
    let all := v.getLsbD 2
    let targets := s.castings.filter (fun c => decide (c.part = p) && c.state == .resident && (all || decide (c.cluster = bitsOf v 13 8)))
    some (if !all && targets.isEmpty then s else (s.requestPreempt targets (mode == 1)).setReg (0x2c0 + p) v)

end Sys2Proof.Machine
end

