-- ==== Sys2Proof/Machine/HomeChange.lean ====
section
/-!
DEFINITION. Changes of the spiral store: the split of ring 4 (R199 to R203), home changes (R197, R198), slice retirement
(R212), and the slots at which the slices take them.
-/

namespace Sys2Proof.Machine

/-! ### Requests that are answered with rehome (R198) -/

/-- Answer the waiting requests that a test picks with rehome: their requesters hold them. -/
def State.rehome (s : State) (f : Req → Bool) : State :=
  { s with requests := s.requests.filter (fun r => !f r), rehomed := s.rehomed ++ s.requests.filter f }

/-- A waiting request stands at a slice that does not serve its tile under the active configuration. -/
def State.misplaced (s : State) (r : Req) : Bool :=
  match r.place with
  | .slice n =>
    !r.scratch && isHbm (256 * r.tile) && decide ((if r.replica then s.replicaSlice (256 * r.tile) (n / 32) else s.homeOf (256 * r.tile)) ≠ n)
  | _ => false

/-- Poison marks, `waita` watches, reduction cursors and buffered contributions follow their tiles to the new home. -/
def State.moveMarks (s : State) (n : Nat) : State :=
  let x := s.sliceOf n
  let away := fun (pa : Nat) => isHbm pa && decide (s.homeOf pa ≠ n)
  let t := s.modSlice n (fun x => { x with
    poison := x.poison.filter (fun k => !away (64 * k)), watches := x.watches.filter (fun w => !away w.pa),
    cursors := x.cursors.filter (fun e => !away e.1), buffer := x.buffer.filter (fun c => !away c.target) })
  let t := (x.poison.filter (fun k => away (64 * k))).foldl (fun t k =>
    t.modSlice (s.homeOf (64 * k)) (fun y => { y with poison := y.poison ++ [k] })) t
  let t := (x.watches.filter (fun w => away w.pa)).foldl (fun t w =>
    t.modSlice (s.homeOf w.pa) (fun y => { y with watches := y.watches ++ [w] })) t
  let t := (x.cursors.filter (fun e => away e.1)).foldl (fun t e =>
    t.modSlice (s.homeOf e.1) (fun y => { y with cursors := FMap.set 0 y.cursors e.1 e.2 })) t
  (x.buffer.filter (fun c => away c.target)).foldl (fun t c =>
    t.modSlice (s.homeOf c.target) (fun y => { y with buffer := y.buffer ++ [c] })) t

/-- Tiles that a slice holds in any of its places. -/
def Slice.tiles (x : Slice) : List Nat := (x.chain ++ x.pins.map (·.1) ++ x.writeBack ++ x.replicas.map (·.tile)).eraseDups

/-- A slice no longer holds a tile in any of its places. -/
def Slice.drop (x : Slice) (tile : Nat) : Slice :=
  { (x.forgetStamps tile).clean tile with
    chain := x.chain.filter (· != tile), pins := x.pins.filter (·.1 != tile), motion := x.motion.filter (·.1 != tile),
    cascade := x.cascade.filter (·.1 != tile), miss := x.miss.filter (· != tile), writeBack := x.writeBack.filter (· != tile),
    replicas := x.replicas.filter (·.tile != tile) }

/-- A tile leaves a slice: a replica is merged and dropped; of any other the dirty sectors are written back, with its metadata where it was
resident (R188, R197). -/
def State.drainTile (s : State) (n tile : Nat) : State :=
  match (s.sliceOf n).replica? tile with
  | some q => (s.sendMerge .device s.nextReq q).modSlice n (·.drop tile)
  | none => (if (s.sliceOf n).resident tile then s.leaveStamps n tile else s).modSlice n (·.drop tile)

/-! ### The split of ring 4 (R199 to R203) -/

/-- Ways that a register value takes in a slice. -/
def State.pinWays (s : State) (w : Word64) (n : Nat) : BitVec 16 := if s.splitCovers w (n / 32) (n % 32) then splitPin w else 0
def State.scratchWays (s : State) (w : Word64) (n : Nat) : BitVec 16 := if s.splitCovers w (n / 32) (n % 32) then splitScratch w else 0

/-- The slices of a die. -/
def dieSlices (d : Nat) : List Nat := (List.range 32).map (32 * d + ·)

/-- Ways of a slice that the partitions but `p` take, a change in progress counted with its old and its new value. -/
def State.otherWays (s : State) (p n : Nat) : BitVec 16 :=
  ((List.range 24).filter (· != p)).foldl (fun m q =>
    let old := s.reg (0x440 + 2 * q + n / 32)
    let new := ((s.splitChanges.find? (fun c => decide (c.part = q) && decide (c.die = n / 32))).map (·.value)).getD old
    [old, new].foldl (fun m w => if splitPin w ||| splitScratch w = 0 then m else m ||| s.pinWays w n ||| s.scratchWays w n) m) 0

/-- The chain ways of a slice for new version frames: a change of the split in progress counts with its old and its new value, so that the
frames fit after it (R208). -/
def State.frameWays (s : State) (n : Nat) : Nat := 16 - popc (s.otherWays 24 n)

/-- A casting of the partition that is resident uses slice scratch (R201). -/
def State.usesScratch (s : State) (p : Nat) : Bool := s.castings.any (fun c => decide (c.part = p) && c.resident && !c.scratchSlices.isEmpty)

/-- Frames of a list that lie in a slice. -/
def framesIn (fs : List (Nat × Nat × BitVec 256)) (n : Nat) : Nat := (fs.filter (fun f => f.1 == n)).length

/-- Frames promised in a slice and not taken yet. -/
def State.promised (s : State) (n : Nat) : Nat := (s.castings.map (fun c => framesIn c.reservation n)).sum

/-- A write to a split register is refused as busy (R201): the frames that a dispatch has reserved count from the dispatch on (R208). -/
def State.splitRefused (s : State) (p d : Nat) (v : Word64) : Bool :=
  let ways := splitPin v ||| splitScratch v
  s.splitChanges.any (fun c => decide (c.part = p) && decide (c.die = d)) || s.homeChanges.any (fun h => decide (h.die = d))
  || splitPin v &&& splitScratch v != 0
  || s.usesScratch p
  || (dieSlices d).any (fun n =>
      let others := s.otherWays p n
      let mine := if ways = 0 then 0 else s.pinWays v n ||| s.scratchWays v n
      let c := 16 - popc (others ||| mine)
      others &&& mine != 0 || decide (c < 4) || decide (8192 * c < (s.sliceOf n).frames.length + s.promised n))

/-- Slices that a change of a split register reaches: those of the old and the new DOMAINS. -/
def State.splitReach (s : State) (d : Nat) (old new : Word64) : List Nat :=
  (dieSlices d).filter (fun n => s.splitCovers old d (n % 32) || s.splitCovers new d (n % 32))

/-- A write to a split register: none where it is refused, else the change begins (R202). -/
def State.writeSplit (s : State) (p d : Nat) (v : Word64) : Option State :=
  if s.splitRefused p d v then none
  else
    let n := 0x440 + 2 * p + d
    match s.splitReach d (s.reg n) v with
    | [] => some (s.setReg n v)
    | l => some { s with splitChanges := s.splitChanges ++ [{ part := p, die := d, value := v, left := l }] }

/-- Bytes of a slice-scratch way, or of a slice's whole scratch, are lost, with what marks them. -/
def State.loseScratch (s : State) (base size : Nat) : State :=
  let gone := fun (a : Nat) => decide (base ≤ a) && decide (a < base + size)
  ({ s with mem := s.mem.filter (fun c => !gone c.1), scratchTags := s.scratchTags.filter (fun e => !gone (64 * e.1)) } : State).modSlice
    (s.sliceOfTile (tileOf base)) (fun x => { x with
      poison := x.poison.filter (fun k => !gone (64 * k)), errors := x.errors.filter (fun w => !gone (8 * w)),
      watches := x.watches.filter (fun w => !gone w.pa) })

/-- The first byte of a way's scratch in a slice (R205). -/
def scratchBase (n way : Nat) : Nat := 2 ^ 48 + n / 32 * 2 ^ 31 + n % 32 * 2 ^ 26 + way * 2 ^ 22

/-- The pins of a partition that end in a slice as ways leave PIN: an unspecified choice of at most 16,384 a way, and at
least those that the ways that stay cannot hold (R202, log 6). -/
def State.endingPins (s : State) (n p leaving staying : Nat) : List Nat :=
  let mine := ((s.sliceOf n).pins.filter (fun e => e.2 == p)).map (·.1)
  let chosen := (mine.filter (fun t => Sys2Proof.Config.pinDropped s.free t)).take (16384 * leaving)
  let rest := mine.filter (fun t => !chosen.contains t)
  chosen ++ rest.take (rest.length - 16384 * staying)

/-- A pinned tile becomes not resident; its dirty sectors go to the write-back queue. -/
def State.endPin (s : State) (n tile : Nat) : State :=
  (s.queueWriteBack n tile).modSlice n (fun x => { x with pins := x.pins.filter (·.1 != tile) })

/-- Ways of scratch in a slice are lost, one by one. -/
def State.loseWays (s : State) (n : Nat) (ways : BitVec 16) : State :=
  (bitsSet ways 16).foldl (fun t w => t.loseScratch (scratchBase n w) (2 ^ 22)) s

/-- A slice takes a split change (R202). Pins of a way that joins PIN are none of those that a way that leaves it ends. A way that leaves SCRATCH
loses its contents, and one that joins it reads zero. -/
def State.applySplit (s : State) (c : SplitChange) (n : Nat) : State :=
  let old := s.reg (0x440 + 2 * c.part + c.die)
  let pinOut := s.pinWays old n &&& ~~~(s.pinWays c.value n)
  let pinStay := s.pinWays old n &&& s.pinWays c.value n
  let t := if pinOut = 0 then s
    else (s.endingPins n c.part (popc pinOut) (popc pinStay)).foldl (fun t k => t.endPin n k) { s with free := s.free + 1 }
  let t := t.loseWays n (s.scratchWays old n ^^^ s.scratchWays c.value n)
  let t := { t with splitChanges := t.splitChanges.map (fun (e : SplitChange) =>
    if e.part = c.part ∧ e.die = c.die then { e with left := e.left.erase n } else e) }
  t.trim n (s.sliceOf n).chain.length

/-- SPLIT_CHANGE_SLOT: BUSY clears with the last slice. DESIGN CHOICE (log 90): the change comes to a slice through its service port. -/
def execSplitChangeSlot (part die sl : Nat) (s : State) : Result :=
  match s.splitChanges.find? (fun c => decide (c.part = part) && decide (c.die = die)) with
  | none => .next s
  | some c =>
    let n := 32 * die + sl
    if !c.left.contains n then .next s
    else .next (s.atPort n servicePort (fun s =>
      let t := s.applySplit c n
      if c.left.erase n = [] then
        { t with splitChanges := t.splitChanges.filter (fun e => !(decide (e.part = part) && decide (e.die = die))) }.setReg
          (0x440 + 2 * part + die) c.value
      else t))

/-- What a read of a split register gives: the value last accepted, and BUSY. -/
def State.readSplit (s : State) (p d : Nat) : Word64 :=
  match s.splitChanges.find? (fun c => decide (c.part = p) && decide (c.die = d)) with
  | some c => putBits c.value 63 63 1
  | none => s.reg (0x440 + 2 * p + d)

/-! ### Home changes (R197) -/

/-- Numbers, inside a die's block, of the staged registers that a home change applies. -/
def stagedRegs : List Nat := List.range 12 ++ (List.range 8).map (0x10 + ·)

/-- Some staged value of a die differs from the active one (R196). -/
def State.isStaged (s : State) (d : Nat) : Bool :=
  stagedRegs.any (fun i => s.reg (0x400 + 0x20 * d + i) != s.homeReg d i)
  || s.bucketsStaged.any (fun e => decide (e.1 / 16384 = d) && s.bucket e.1 != e.2)

/-- The staged domains of a die overlap. -/
def State.stagedOverlap (s : State) (d : Nat) : Bool :=
  let b := fun k => (s.reg (0x410 + 0x20 * d + 2 * k)).toNat
  let l := fun k => (s.reg (0x411 + 0x20 * d + 2 * k)).toNat
  [(0, 1), (0, 2), (0, 3), (1, 2), (1, 3), (2, 3)].any (fun e =>
    decide (b e.1 < l e.1) && decide (b e.2 < l e.2) && decide (max (b e.1) (b e.2) < min (l e.1) (l e.2)))

/-- The staged tables map a bucket of a non-empty domain to a slice that is not live. -/
def State.stagedDead (s : State) (d : Nat) : Bool :=
  let live := s.reg (0x41b + 0x20 * d)
  [0, 1, 2, 3].any (fun k =>
    decide ((s.reg (0x410 + 0x20 * d + 2 * k)).toNat < (s.reg (0x411 + 0x20 * d + 2 * k)).toNat)
    && (List.range 4096).any (fun b => !live.getLsbD (s.bucketStaged (d * 16384 + k * 4096 + b)).toNat))

/-- A version frame is held in a slice. -/
def State.framesHeld (s : State) (n : Nat) : Bool := !(s.sliceOf n).frames.isEmpty

/-- Slice scratch of a resident casting lies in a slice. -/
def State.scratchHeld (s : State) (n : Nat) : Bool := s.castings.any (fun c => c.resident && c.scratchSlices.contains n)

/-- A write of HASH_CTL.GO is refused as busy (R197). -/
def State.goRefused (s : State) (d : Nat) : Bool :=
  s.homeChanges.any (fun h => decide (h.die = d))
  || (dieSlices d).any (fun n => !(s.sliceOf n).pins.isEmpty || s.framesHeld n || s.scratchHeld n)
  || s.stagedOverlap d || s.stagedDead d

def State.startHomeChange (s : State) (d : Nat) (retire : Option Nat) : State :=
  { s with homeChanges := s.homeChanges ++ [{ die := d, retire := retire, switched := [] }] }

def State.homeChange? (s : State) (d : Nat) : Option HomeChange := s.homeChanges.find? (fun h => decide (h.die = d))

/-- DRAIN_MESSAGE: from this slot on the slice holds requests for the tiles that leave it, and it has none of them left. -/
def execDrainMessage (die sl : Nat) (s : State) : Result :=
  let n := 32 * die + sl
  match s.homeChange? die with
  | some h =>
    if h.retire.isSome || decide (32 ≤ sl) || (s.sliceOf n).drained then .next s
    else .next (s.atPort n servicePort (fun s =>
      let t := ((s.sliceOf n).tiles.filter (fun k => s.leaving n k)).foldl (fun t k => t.drainTile n k) s
      t.modSlice n (fun x => { x with drained := true })))
  | none => .next s

/-- Reservations that no slice has taken go to the homes that the active configuration names. -/
def State.reserveAnew (s : State) : State :=
  { s with castings := s.castings.map (fun c =>
      { c with reservation := c.reservation.map (fun f => (s.homeOf (256 * f.2.1), f.2.1, f.2.2)) }) }

/-- Ways of a slice whose scratch a change of the configuration gives to a partition or takes from one (R201, R202). -/
def State.scratchMoved (s t : State) (n : Nat) : BitVec 16 :=
  (List.range 24).foldl (fun m p =>
    let w := s.reg (0x440 + 2 * p + n / 32)
    if splitScratch w = 0 then m else m ||| (s.scratchWays w n ^^^ t.scratchWays w n)) 0

/-- A slice under a new configuration: scratch that it has no longer or not had before holds nothing, and its chain ends where its ways end now
(R185, R202). -/
def State.resplit (s t : State) (n : Nat) : State := (t.loseWays n (s.scratchMoved t n)).trim n (t.sliceOf n).chain.length

/-- Every slice of a die has switched: the staged configuration is the active one. -/
def State.finishHomeChange (s : State) (d : Nat) : State :=
  let t := { s with
    home := stagedRegs.foldl (fun m i => let n := 0x400 + 0x20 * d + i; FMap.set (regReset n) m n (s.reg n)) s.home,
    buckets := (s.bucketsStaged.filter (fun (e : Nat × BitVec 5) => decide (e.1 / 16384 = d))).foldl (fun (m : FMap (BitVec 5)) (e : Nat × BitVec 5) => FMap.set (bucketReset e.1) m e.1 e.2) s.buckets,
    bucketsStaged := s.bucketsStaged.filter (fun (e : Nat × BitVec 5) => decide (e.1 / 16384 ≠ d)),
    homeChanges := s.homeChanges.filter (fun h => decide (h.die ≠ d)) }
  let t := (dieSlices d).foldl (fun t n => (t.modSlice n (fun x => { x with drained := false })).moveMarks n) t
  let t := (dieSlices d).foldl s.resplit t
  (t.rehome t.misplaced).reserveAnew

/-- SWITCH_MESSAGE: the requests the slice holds for tiles it no longer homes are answered with rehome. -/
def execSwitchMessage (die sl : Nat) (s : State) : Result :=
  let n := 32 * die + sl
  match s.homeChange? die with
  | some h =>
    if h.retire.isSome || decide (32 ≤ sl) || h.switched.contains n || !(dieSlices die).all (fun m => (s.sliceOf m).drained) then .next s
    else .next (s.atPort n servicePort (fun s =>
      let t := s.rehome (fun r => decide (r.place = .slice n) && !r.scratch && s.leaving n r.tile)
      if (dieSlices die).all (fun m => (n :: h.switched).contains m) then t.finishHomeChange die
      else { t with homeChanges := t.homeChanges.map (fun e => if e.die = die then { e with switched := n :: e.switched } else e) }))
  | none => .next s

/-- Two requests come from one requester: a cluster's port, or the port of another package. -/
def Req.sameSender (q r : Req) : Bool := decide (q.who.cluster = r.who.cluster) && decide ((q.who.ladle = 0) = (r.who.ladle = 0))

/-- REHOME_REPLAY: a requester sends a rehomed request to the home that the active configuration names, after its earlier
ones to the same tile. It waits for the end of a home change, in which that configuration is changing, and not for a retirement, which may wait
for the request's casting (R212). -/
def execRehomeReplay (n : Nat) (s : State) : Result :=
  match s.rehomed[n]? with
  | none => .next s
  | some r =>
    let die := match r.place with | .slice m => m / 32 | _ => 0
    if (s.rehomed.take n).any (fun q => q.sameSender r && decide (q.tile = r.tile)) || (s.homeChange? die).any (·.retire.isNone) then .next s
    else
      let goal := if r.replica then s.replicaSlice (256 * r.tile) die else s.homeOf (256 * r.tile)
      let q := { r with place := .slice goal, arrived := none }
      let t := { s with rehomed := s.rehomed.eraseIdx n }
      .next (t.send q)

/-! ### Slice retirement (R212) -/

/-- A slice is the last live slice of a non-empty domain of its die. -/
def State.lastLive (s : State) (d slice : Nat) : Bool :=
  [0, 1, 2, 3].any (fun k => s.sliceInDomain d k slice && (s.receivers d k slice).isEmpty)

/-- A write of SLICE_RETIRE with GO = 1: none where it is refused (R212). -/
def State.retireSlice (s : State) (d slice : Nat) : Option State :=
  if s.homeChanges.any (fun h => decide (h.die = d)) || s.lastLive d slice then none
  else some ((s.setReg (0x41a + 0x20 * d) (BitVec.ofNat 64 slice)).startHomeChange d (some slice))

/-- The bucket entries that move as a slice retires, domain by domain. -/
def State.movedBuckets (s : State) (d slice : Nat) : List (Nat × BitVec 5) :=
  [0, 1, 2, 3].flatMap (fun k =>
    let goal := s.receivers d k slice
    let moved := (List.range 4096).filter (fun b => decide ((s.bucket (d * 16384 + k * 4096 + b)).toNat = slice))
    if goal.isEmpty then [] else moved.zipIdx.map (fun e => (d * 16384 + k * 4096 + e.1, BitVec.ofNat 5 (goal.getD (e.2 % goal.length) 0))))

/-- The slice that takes the boards and amax slots of a retiring one: the receiver of its lowest bucket, in the lowest domain that has one
(R212, step 4). DESIGN CHOICE (log 69): where no bucket maps to it, the next live slice of its die. -/
def State.boardReceiver (s : State) (d slice : Nat) : Nat :=
  match s.movedBuckets d slice with
  | e :: _ => 32 * d + e.2.toNat
  | [] =>
    let live := (List.range 32).filter (fun n => n != slice && (s.reg (0x41b + 0x20 * d)).getLsbD n)
    32 * d + (live.filter (slice < ·) ++ live.filter (· < slice)).headD slice

/-- The boards and amax slots homed on slice `n` are copied to slice `goal`. -/
def State.moveBoards (s : State) (n goal : Nat) : State :=
  { s with boardHomes := (List.range 64).foldl (fun m k => if s.boardHome k = n then FMap.set k m k goal else m) s.boardHomes }

/-- Steps 3 to 6 of a retirement. -/
def State.finishRetirement (s : State) (d slice : Nat) : State :=
  let n := 32 * d + slice
  let t := (s.sliceOf n).tiles.foldl (fun t k => t.drainTile n k) s
  let t := (t.loseScratch (scratchBase n 0) (2 ^ 26)).moveBoards n (s.boardReceiver d slice)
  let live := 0x41b + 0x20 * d
  let t := ({ t with
    buckets := (s.movedBuckets d slice).foldl (fun (m : FMap (BitVec 5)) (e : Nat × BitVec 5) => FMap.set (bucketReset e.1) m e.1 e.2) t.buckets,
    homeChanges := t.homeChanges.filter (fun h => decide (h.die ≠ d)) }).setReg live (putBits (s.reg live) slice slice 0)
  let t := t.moveMarks n
  (t.rehome t.misplaced).reserveAnew

/-- RETIREMENT_PROCEED: once no version frame and no slice scratch of a resident casting is left in the slice. -/
def execRetirementProceed (die : Nat) (s : State) : Result :=
  match s.homeChange? die with
  | some h =>
    match h.retire with
    | some slice =>
      let n := 32 * die + slice
      if s.framesHeld n || s.scratchHeld n then .next s
      else .next (s.atPort n servicePort (fun s => s.finishRetirement die slice))
    | none => .next s
  | none => .next s

end Sys2Proof.Machine
end

