-- ==== Sys2Proof/Machine/Registers.lean ====
section
/-!
DEFINITION. The device registers as `sysr`, `sysw` and the host reach them: what a read gives, and what a write does or
that it is refused as busy (R115 to R117, R167, R170, R196, R200, R228, R253, R276, R315, R316, R341, R369, R406, R415,
R416, R423, R424, R427).
-/

namespace Sys2Proof.Machine

/-! ### Reads -/

/-- COL_STATE of the column that COL_INDEX names (R228). -/
def State.readColState (s : State) (die : Nat) : Word64 :=
  let c := s.column die (bitsOf (s.reg (0x481 + 0x10 * die)) 7 0)
  BitVec.ofNat 64 (c.temp % 256 * 2 ^ 40 + c.cap % 4 * 2 ^ 32 + bit c.retrain * 2 + bit c.due)

/-- BOARD_CFG of a board of this package (R423). -/
def State.readBoardCfg (s : State) (board : Nat) : Word64 :=
  let b := s.board (s.pkg * 4096 + board)
  BitVec.ofNat 64 (bit b.assigned * 2 ^ 56 + b.owner * 2 ^ 48 + b.members)

/-- What a read of a device register gives. -/
def State.readReg (s : State) (n : Nat) : Word64 :=
  let die := (n - 0x400) / 0x20
  if 0x400 ≤ n ∧ n < 0x440 then
    match n % 0x20 with
    | 0xc => BitVec.ofNat 64 (bit (s.isStaged die) * 4 + bit (s.homeChanges.any (fun h => decide (h.die = die) && h.retire.isNone)) * 2)
    | 0x19 =>
      let i := (s.reg (0x418 + 0x20 * die)).toNat
      (s.bucket (die * 16384 + i)).zeroExtend 64
    | 0x1a => putBits (s.reg n) 8 8 (bit (s.homeChanges.any (fun h => decide (h.die = die) && h.retire.isSome)))
    | _ => s.reg n
  else if 0x440 ≤ n ∧ n < 0x470 then s.readSplit ((n - 0x440) / 2) (n % 2)
  else if n = 0x482 ∨ n = 0x492 then s.readColState ((n - 0x482) / 16)
  else if 0x300 ≤ n ∧ n < 0x360 ∧ n % 4 = 3 then FMap.get 0 s.windows ((n - 0x300) / 4)
  else if n = 0xc01 then s.readBoardCfg (s.reg 0xc00).toNat
  else if n = 0xc12 then (FMap.get 0 s.routes (s.reg 0xc11).toNat).zeroExtend 64
  else s.reg n

/-- The partition of a per-partition register, by its block. -/
def regPart (n : Nat) : Nat :=
  if n < 0x2c0 then (n - 0x200) / 8
  else if n < 0x2d8 then n - 0x2c0
  else if n < 0x360 then (n - 0x300) / 4
  else if n < 0x470 then (n - 0x440) / 2
  else if n < 0x560 then (n - 0x500) / 4
  else if n < 0x5b0 then (n - 0x580) / 2
  else if n < 0xa80 then (n - 0x900) / 16
  else (n - 0xb00) / 8

/-! ### Windows (R415) -/

/-- Windows of two partitions overlap. -/
def windowsOverlap (b l b' l' : Nat) : Bool := decide (b < l) && decide (b' < l') && decide (max b b' < min l l')

/-- A window register's new value makes partition `p`'s window `k` overlap one of another partition. -/
def State.windowClash (s : State) (n : Nat) (v : Word64) : Bool :=
  let p := (n - 0xb00) / 8
  let at_ := fun (m : Nat) => (if m = n then v else s.reg m).toNat
  let base := n - n % 2
  (List.range 24).any (fun q => q != p && [0, 1, 2, 3].any (fun k =>
    windowsOverlap (at_ base) (at_ (base + 1)) (s.reg (0xb00 + 8 * q + 2 * k)).toNat (s.reg (0xb01 + 8 * q + 2 * k)).toNat))

/-! ### Answers to translation records (R169, R420) -/

/-- The casting whose translation record has a sequence number, while it waits for its answer. -/
def State.waitingFor (s : State) (p : Nat) (seq : Word32) : Option (Casting × Suspension) :=
  s.castings.findSome? (fun c =>
    if c.part = p then
      match c.suspension with
      | some x => if x.seq = seq ∧ x.answered = false then some (c, x) else none
      | none => none
    else none)

/-- Castings held back at dispatch together with one (R21, R359, R362). -/
def State.heldWith (s : State) (c d : Casting) : Bool :=
  decide (d.state = .heldBack) && decide (d.graph = c.graph) && decide (d.mould = c.mould) && decide (d.readyAt = c.readyAt)
  && (s.sameGang c.uid d.uid || (match s.mouldOf c.uid with | some (_, _, m) => m.gang | none => false))

/-- The castings held back with one are ready again in their original place. -/
def State.releaseHeld (s : State) (c : Casting) : State :=
  { s with castings := s.castings.map (fun d =>
      if s.heldWith c d && d.uid != c.uid && d.suspension.isNone then { d with state := .ready, cluster := 0xff } else d) }

/-- A split whose access did not translate sends it again. -/
def Ladle.retranslate (l : Ladle) : Ladle :=
  (l.mapSplits (fun x => match x.blocked with | .walk _ _ => true | _ => false) (fun x => { x with blocked := .ready })).fillSlots

/-- Resume: a suspended casting is ready to be dispatched again, one held back at dispatch in its original place. One that has not been
saved yet stays stalled; it is ready to be dispatched again once it has been (R169, R170). -/
def State.answerResume (s : State) (p : Nat) (seq : Word32) : State :=
  match s.waitingFor p seq with
  | some (c, _) =>
    match c.state with
    | .heldBack => (s.releaseHeld c).modCasting c.uid (fun c => { c with state := .ready, cluster := 0xff, suspension := none })
    | .suspended => s.modCasting c.uid (fun c => { c with state := .saved, suspension := none, readyAt := s.ticks, readyClock := s.service })
    | .resident => s.modCasting c.uid (fun c => { c with suspension := c.suspension.map (fun x => { x with answered := true }) })
    | _ => s
  | none => s

/-- Abort: a casting fault with cause 0x0d, reported for the instruction whose access did not translate. -/
def State.answerAbort (s : State) (p : Nat) (seq : Word32) : State :=
  match s.waitingFor p seq with
  | some (c, x) =>
    (s.releaseHeld c).receiveFault { casting := c.uid, cause := .translationAbort, pc := x.pc, rank := x.rank, cluster := x.cluster, core := x.core }
  | none => s

/-! ### Shootdowns (R422) -/

/-- The words that splits wait on in a global `waita`, with their ladles, those of saved castings among them. -/
def State.globalWaits (s : State) (p : Nat) : List (Nat × Nat) :=
  ((s.ladles ++ s.castings.flatMap (·.saved)).filter (fun l => l.live && decide (l.part = p))).flatMap (fun l =>
    l.allSplits.filterMap (fun x => match x.blocked with | .waitaGlobal pa _ _ => some (l.uid, pa) | _ => none))

/-- A write of SD_CTL with GO = 1: none where it is refused; else cached entries over the range are dropped, and the waits on words of their
pages are accesses that the shootdown waits for. -/
def State.startShootdown (s : State) (p : Nat) : Option State :=
  let first := (s.reg (hostReg p 7)).toNat
  let n := (s.reg (hostReg p 8)).toNat
  if s.shootdowns.any (fun e => e.1 == p) || n = 0 || 2 ^ 57 < first + n * 65536 then none
  else
    let gone := fun (e : TlbEntry) => decide (e.part = p) && decide (e.base < first + n * 65536) && decide (first < e.base + 2 ^ e.log)
    let used := fun (pa : Nat) => s.tlb.any (fun e => gone e && decide (e.pa ≤ pa) && decide (pa < e.pa + 2 ^ e.log))
    some ({ s with
      tlb := s.tlb.filter (fun e => !gone e),
      shootdowns := s.shootdowns ++ [(p, s.nextReq)],
      shootdownWaits := s.shootdownWaits ++ ((s.globalWaits p).filter (fun (w : Nat × Nat) => used w.2)).map (fun w => (p, w)) }.setReg (hostReg p 11) 2)

/-! ### Boards (R423) -/

/-- The board that a configuration value describes, reset. -/
def boardOf (v : Word64) : Board :=
  { members := bitsOf v 8 0, level := 0, mask := 0, values := [], assigned := v.getLsbD 56,
    owner := if v.getLsbD 56 then bitsOf v 52 48 else 0 }

/-- A reset of a board on its way to its home's service port, where it takes its slot at once where nothing waits (R182). -/
def State.sendBoardReset (s : State) (board : Nat) (v : Word64) : State :=
  if s.quiet then
    ({ s with boards := FMap.set Board.fresh s.boards (s.pkg * 4096 + board) (boardOf v) } : State).portGranted (s.homeOfBoard board) servicePort
  else { s with boardResets := s.boardResets ++ [(board, v)] }

/-- The package has a new number: its boards keep their state under it (R423). What was known of the boards of the package whose number it takes
is gone. -/
def State.renumber (s : State) (old new : Nat) : State :=
  if old = new then s
  else { s with boards := (s.boards.filter (fun e => e.1 / 4096 == old)).foldl (fun m e => FMap.set Board.fresh m (new * 4096 + e.1 % 4096) e.2)
                  (s.boards.filter (fun e => e.1 / 4096 != old && e.1 / 4096 != new)) }

/-- The configuration a board has, or will have once the resets on their way have arrived. -/
def State.latestBoardCfg (s : State) (board : Nat) : Word64 :=
  match s.boardResets.reverse.find? (fun e => e.1 == board) with
  | some e => e.2
  | none => s.readBoardCfg board

/-- BRD_RESET: a board of the writer's partition is reset; a write naming another board is dropped. -/
def State.writeBrdReset (s : State) (p : Nat) (v : Word64) : Option State :=
  let board := bitsOf v 11 0
  let n := bitsOf v 20 12
  let cfg := s.latestBoardCfg board
  if !cfg.getLsbD 56 || decide (bitsOf cfg 52 48 ≠ p) then some s
  else if 256 < n then none
  else some (s.sendBoardReset board (if n = 0 then cfg else putBits cfg 8 0 n))

/-! ### The partition (R418) -/

/-- Numbers of the registers that belong to partition `p` and that a partition reset returns to their reset values: all but
its windows, its split registers and PART_CTL. -/
def partRegs (p : Nat) : List Nat :=
  (List.range 8).map (0x200 + 8 * p + ·) ++ [0x2c0 + p] ++ (List.range 4).map (0x300 + 4 * p + ·)
  ++ (List.range 3).map (0x500 + 4 * p + ·) ++ (List.range 2).map (0x580 + 2 * p + ·)
  ++ ((List.range 15).filter (· != 13)).map (0x900 + 16 * p + ·)

/-- The split registers of a partition go back to their reset value, slice by slice as any change of them does. -/
def State.resetSplit (s : State) (p d : Nat) : State :=
  let n := 0x440 + 2 * p + d
  let t := match s.splitChanges.find? (fun c => decide (c.part = p) && decide (c.die = d)) with
    | some c =>
      let u := c.left.foldl (fun (u : State) m => u.applySplit c m) s
      { u with splitChanges := u.splitChanges.filter (fun e => !(decide (e.part = p) && decide (e.die = d))) }.setReg n c.value
    | none => s
  if t.reg n = regReset n then t
  else match t.splitReach d (t.reg n) (regReset n) with
    | [] => t.setReg n (regReset n)
    | l => { t with splitChanges := t.splitChanges ++ [{ part := p, die := d, value := regReset n, left := l }] }

/-- Registers, queue pointers, amax slots, format copies and sequence numbers of a partition at their reset values. -/
def State.resetPartition (s : State) (p : Nat) : State :=
  let t := (partRegs p).foldl (fun t n => t.setReg n (regReset n)) s
  let t := { t with
    launch := FMap.erase p t.launch, lq := FMap.erase p t.lq, windows := FMap.erase p t.windows, consumed := FMap.erase p t.consumed,
    reportSeq := FMap.erase p t.reportSeq, tqSeq := FMap.erase p t.tqSeq, tqWaiting := FMap.erase p t.tqWaiting,
    amax := t.amax.filter (fun e => decide (e.1 / 128 ≠ p)), fmt := t.fmt.filter (fun e => decide (e.1 / 256 ≠ p)),
    codebooks := t.codebooks.filter (fun e => decide (e.1 / 4096 ≠ p)), fmtLoads := t.fmtLoads.filter (· != p) }
  (t.resetSplit p 0).resetSplit p 1

/-- A write of PART_CTL with RESET = 1. -/
def State.writePartReset (s : State) (p : Nat) : Option State :=
  if s.partBusy p || s.graphs.any (fun g => decide (g.part = p)) then none else some (s.resetPartition p)

/-! ### Writes, block by block; each value has its reserved bits cleared -/

/-- Registers of a report queue and save area (R167). -/
def State.writeRq (s : State) (p i : Nat) (v : Word64) : Option State :=
  let n := rqReg p i
  match i with
  | 1 => if s.partBusy p || decide (v.toNat < 6) || decide (16 < v.toNat) then none else some (s.setReg n v)
  | 2 => some s
  | 4 => some (s.setReg n (putBits v 63 32 (if bitsOf v 63 32 = 0 then 0 else bitsOf (s.reg n) 63 32)))
  | 5 => if s.partBusy p then none else some (s.setReg n v)
  | 6 => if s.partBusy p || decide (v.toNat < 16) || decide (26 < v.toNat) then none else some (s.setReg n v)
  | 7 => if s.partBusy p then none else some (s.setReg n v)
  | _ => some (s.setReg n v)

/-- Registers of the service controller (R369). -/
def State.writeSvc (s : State) (p i : Nat) (v : Word64) : Option State :=
  let n := 0x300 + 4 * p + i
  match i with
  | 0 =>
    let others := ((List.range 24).filter (· != p)).map (fun q => (s.reg (0x300 + 4 * q)).toNat)
    if 1024 < others.sum + v.toNat then none else some (s.setReg n v)
  | 2 => if bitsOf v 2 1 = 0 || bitsOf v 2 1 = 3 then none else some (s.setReg n v)
  | 3 => some s
  | _ => some (s.setReg n v)

/-- Registers of the home-selection block of a die (R196). -/
def State.writeHome (s : State) (d i : Nat) (v raw : Word64) : Option State :=
  let n := 0x400 + 0x20 * d + i
  match i with
  | 0xc => if raw.getLsbD 0 then (if s.goRefused d then none else some (s.startHomeChange d none)) else some s
  | 0x19 =>
    let x := s.reg (0x418 + 0x20 * d)
    let key := d * 16384 + x.toNat
    let b : BitVec 5 := v.setWidth 5
    some ({ s with bucketsStaged := if b = s.bucket key then FMap.erase key s.bucketsStaged else FMap.insert key b s.bucketsStaged }.setReg
      (0x418 + 0x20 * d) (putBits x 11 0 (bitsOf x 11 0 + 1)))
  | 0x1a => if raw.getLsbD 8 then s.retireSlice d v.toNat
      else if s.homeChanges.any (fun h => decide (h.die = d) && h.retire.isSome) then some s else some (s.setReg n v)
  | 0x1b => some s
  | _ => some (s.setReg n v)

/-- Registers of the governor (R228). -/
def State.writeGovernor (s : State) (n : Nat) (v : Word64) : Option State :=
  if n = 0x480 ∨ n = 0x490 then
    if bitsOf v 7 0 < bitsOf v 15 8 ∧ bitsOf v 15 8 < bitsOf v 23 16 ∧ bitsOf v 23 16 < bitsOf v 31 24 then some (s.setReg n v) else none
  else if n = 0x481 ∨ n = 0x491 then if 159 < v.toNat then none else some (s.setReg n v)
  else if n = 0x4a1 then if 3200 < v.toNat then none else some (s.setReg n v)
  else some s

/-- Registers of the format tables (R253, R254). -/
def State.writeFmt (s : State) (p i : Nat) (v raw : Word64) : Option State :=
  if i = 2 then
    if raw.getLsbD 0 then
      if s.partBusy p then none
      else some (if s.fmtLoads.contains p then s else { s with fmtLoads := s.fmtLoads ++ [p] })
    else some s
  else some (s.setReg (0x500 + 4 * p + i) v)

/-- Residue registers of a cluster (R315, R326). -/
def State.writeRns (s : State) (c i : Nat) (v : Word64) : Option State :=
  let n := 0x600 + 4 * c + i
  if i = 0 then
    let new := bitsOf v 13 8
    if 1 < popc (v.extractLsb' 8 6) || (decide (new ≠ bitsOf (s.reg n) 13 8) && s.controlHeld c) then none else some (s.setReg n v)
  else if i = 1 ∧ v = 0 then some (s.setReg n (putBits (s.reg n) 63 63 0))
  else some (s.setReg n v)

/-- RNS_INJECT (R316). -/
def State.writeInject (s : State) (v : Word64) : Option State :=
  if 23 < bitsOf v 60 56 || 5 < bitsOf v 26 24 || 95 < bitsOf v 14 8 || 95 < bitsOf v 6 0 then none else some (s.setReg 0x700 v)

/-- The error registers (R341). -/
def State.writeError (s : State) (n : Nat) (v : Word64) : Option State :=
  if n = 0x801 ∧ (bitsOf v 23 16 = 0 ∨ bitsOf v 15 0 = 0) then none
  else if n = 0x803 ∧ v = 0 then some (s.setReg n (putBits (s.reg n) 63 63 0))
  else if n = 0x804 then some (s.setReg n (s.reg n &&& v))
  else some (s.setReg n v)

/-- The host block of a partition (R416). -/
def State.writeHostBlock (s : State) (p i : Nat) (v raw : Word64) : Option State :=
  let n := hostReg p i
  match i with
  | 0 => if s.partBusy p then none else some (s.setReg n v)
  | 1 => if s.partBusy p then none else some (s.setReg n v)
  | 2 => if s.partBusy p || decide (v.toNat < 6) || decide (12 < v.toNat) then none else some (s.setReg n v)
  | 3 => some s
  | 6 => some (if raw.getLsbD 63 then s.answerAbort p (raw.setWidth 32) else s.answerResume p (raw.setWidth 32))
  | 11 => if raw.getLsbD 0 then s.startShootdown p else some s
  | 12 => s.writeBrdReset p raw
  | 13 => if raw.getLsbD 1 then s.writePartReset p else some (s.setReg n v)
  | _ => some (s.setReg n v)

/-- Windows of a partition (R415). -/
def State.writeWindow (s : State) (n : Nat) (v : Word64) : Option State :=
  if s.partBusy ((n - 0xb00) / 8) || s.windowClash n v then none else some (s.setReg n v)

/-- The package's own registers at 0xc00 and above (R406, R423, R424, R427). -/
def State.writePackage (s : State) (n : Nat) (v raw : Word64) : Option State :=
  if n = 0xc01 then
    let m := bitsOf raw 8 0
    if m = 0 || 256 < m then none else some (s.sendBoardReset (s.reg 0xc00).toNat (raw &&& (fieldMask 56 56 ||| fieldMask 52 48 ||| fieldMask 8 0)))
  else if n = 0xc10 then if s.accepting then none else some ((s.setReg n v).renumber s.pkg (s.setReg n v).pkg)
  else if n = 0xc12 then some { s with routes := FMap.set 0 s.routes (s.reg 0xc11).toNat (raw.setWidth 16 &&& ~~~s.failedPorts) }
  else if n = 0xc20 then if v ≠ s.reg n ∧ (s.vfEnable.contains true) = true then none else some (s.setReg n v)
  else if n = 0xc30 then some s
  else some (s.setReg n v)

/-- A write of a device register: none where the register refuses it as busy; a write of a number that is not assigned or is
read-only changes nothing. -/
def State.writeReg (s : State) (n : Nat) (raw : Word64) : Option State :=
  let v := raw &&& regBits n
  if !regAssigned n then some s
  else if n < 0x2c0 then s.writeRq (regPart n) (n % 8) v
  else if n < 0x2d8 then s.writePreempt (n - 0x2c0) v
  else if n < 0x360 then s.writeSvc (regPart n) (n % 4) v
  else if n < 0x440 then s.writeHome ((n - 0x400) / 0x20) (n % 0x20) v raw
  else if n < 0x470 then s.writeSplit (regPart n) (n % 2) v
  else if n < 0x4b0 then s.writeGovernor n v
  else if n < 0x560 then s.writeFmt (regPart n) (n % 4) v raw
  else if n < 0x5b0 then if s.partBusy (regPart n) then none else some (s.setReg n v)
  else if n < 0x700 then s.writeRns ((n - 0x600) / 4) (n % 4) v
  else if n = 0x700 then s.writeInject v
  else if n < 0x890 then s.writeError n v
  else if n < 0xa80 then s.writeHostBlock (regPart n) (n % 16) v raw
  else if n < 0xbc0 then s.writeWindow n v
  else s.writePackage n v raw

/-- A write by an event: one that is refused changes nothing. -/
def State.tryWrite (s : State) (n : Nat) (v : Word64) : State := (s.writeReg n v).getD s

/-! ### Loading the format tables (R254) -/

/-- The copies of partition `p` from the words of its descriptor table and the bytes of its codebook table. -/
def State.setTables (s : State) (p : Nat) (fmt : List Word64) (books : List Byte) : State :=
  let rows := (List.range 256).filterMap (fun i =>
    let w := (fmt.drop (4 * i)).take 4
    if w.all (· == 0) then none else some (p * 256 + i, w))
  let codes := (List.range 256).flatMap (fun i => (List.range 16).filterMap (fun c =>
    let v : BitVec 16 := BitVec.ofNat 16 (valueLE ((books.drop (32 * i + 2 * c)).take 2))
    if v = 0 then none else some ((p * 256 + i) * 16 + c, v)))
  { s with
    fmt := s.fmt.filter (fun e => decide (e.1 / 256 < p)) ++ rows ++ s.fmt.filter (fun e => decide (p < e.1 / 256)),
    codebooks := s.codebooks.filter (fun e => decide (e.1 / 4096 < p)) ++ codes ++ s.codebooks.filter (fun e => decide (p < e.1 / 4096)) }

/-- Load both tables, or keep the copies and set ERR. -/
def State.loadTables (s : State) (p : Nat) : State :=
  let s := (s.correctRange p .read (s.reg (0x500 + 4 * p)).toNat 8192).correctRange p .read (s.reg (0x501 + 4 * p)).toNat 8192
  let t := { s with fmtLoads := s.fmtLoads.filter (· != p) }
  let n := 0x502 + 4 * p
  match s.readWords p (s.reg (0x500 + 4 * p)).toNat 1024, s.readVirtual p (s.reg (0x501 + 4 * p)).toNat 8192 with
  | some f, some b => (t.setTables p f b).setReg n 0
  | _, _ => t.setReg n 2

end Sys2Proof.Machine
end

