-- ==== Sys2Proof/Machine/Uniform.lean ====
section
/-!
DEFINITION. Uniform instructions: scalar arithmetic, immediates, moves and the special registers (R108 to R113).
-/

namespace Sys2Proof.Machine

/-- A uniform instruction that writes s[sd] (R48, R108). It raises nothing and sets no flag. -/
def State.uni (s : State) (d : BitVec 6) (f : Ladle → Word64) : Result := .next (s.done (fun l => l.setS d (f l)))

/-- A two-operand scalar instruction. -/
def State.uni2 (s : State) (d a b : BitVec 6) (f : Word64 → Word64 → Word64) : Result :=
  s.uni d (fun l => f (l.getS a) (l.getS b))

/-- A one-operand scalar instruction. -/
def State.uni1 (s : State) (d a : BitVec 6) (f : Word64 → Word64) : Result := s.uni d (fun l => f (l.getS a))

/-- `scmp` by fn: eq, ne, lt signed, lt unsigned (R108). -/
def compareS (f : BitVec 2) (x y : Word64) : Bool :=
  match f.toNat with
  | 0 => x == y
  | 1 => x != y
  | 2 => decide (x.toInt < y.toInt)
  | _ => decide (x.toNat < y.toNat)

/-! ### Scalar arithmetic (R108) -/

def execSadd (d a b : BitVec 6) (s : State) : Result := s.uni2 d a b (fun x y => x + y)
def execSaddSatI64 (d a b : BitVec 6) (s : State) : Result := s.uni2 d a b (fun x y => satS 64 (x.toInt + y.toInt))
def execSaddSatN64 (d a b : BitVec 6) (s : State) : Result := s.uni2 d a b (fun x y => satN 64 ((x.toNat : Int) + y.toNat))
def execSsub (d a b : BitVec 6) (s : State) : Result := s.uni2 d a b (fun x y => x - y)
def execSsubSatI64 (d a b : BitVec 6) (s : State) : Result := s.uni2 d a b (fun x y => satS 64 (x.toInt - y.toInt))
def execSsubSatN64 (d a b : BitVec 6) (s : State) : Result := s.uni2 d a b (fun x y => satN 64 ((x.toNat : Int) - y.toNat))
def execSmulLo (d a b : BitVec 6) (s : State) : Result := s.uni2 d a b (fun x y => x * y)
def execSmulHiI64 (d a b : BitVec 6) (s : State) : Result := s.uni2 d a b (fun x y => mulHi 64 x.toInt y.toInt)
def execSmulHiN64 (d a b : BitVec 6) (s : State) : Result := s.uni2 d a b (fun x y => mulHi 64 x.toNat y.toNat)
def execSand (d a b : BitVec 6) (s : State) : Result := s.uni2 d a b (fun x y => x &&& y)
def execSor (d a b : BitVec 6) (s : State) : Result := s.uni2 d a b (fun x y => x ||| y)
def execSxor (d a b : BitVec 6) (s : State) : Result := s.uni2 d a b (fun x y => x ^^^ y)
def execSandn (d a b : BitVec 6) (s : State) : Result := s.uni2 d a b (fun x y => x &&& ~~~y)
def execSshl (d a b : BitVec 6) (s : State) : Result := s.uni2 d a b (fun x y => shiftL x y.toNat)
def execSshr (d a b : BitVec 6) (s : State) : Result := s.uni2 d a b (fun x y => shiftR x y.toNat)
def execSsha (d a b : BitVec 6) (s : State) : Result := s.uni2 d a b (fun x y => shiftA x y.toNat)
def execSrot (d a b : BitVec 6) (s : State) : Result := s.uni2 d a b (fun x y => rotL x y.toNat)
def execSminI64 (d a b : BitVec 6) (s : State) : Result := s.uni2 d a b (fun x y => if x.toInt ≤ y.toInt then x else y)
def execSmaxI64 (d a b : BitVec 6) (s : State) : Result := s.uni2 d a b (fun x y => if x.toInt ≤ y.toInt then y else x)
def execSminN64 (d a b : BitVec 6) (s : State) : Result := s.uni2 d a b (fun x y => if x.toNat ≤ y.toNat then x else y)
def execSmaxN64 (d a b : BitVec 6) (s : State) : Result := s.uni2 d a b (fun x y => if x.toNat ≤ y.toNat then y else x)
def execScmp (f : BitVec 2) (d a b : BitVec 6) (s : State) : Result := s.uni2 d a b (fun x y => boolWord (compareS f x y))
/-- `ssel` reads the old s[sd] as its condition. -/
def execSsel (d a b : BitVec 6) (s : State) : Result :=
  s.uni d (fun l => if l.getS d = 0 then l.getS b else l.getS a)
def execSclz (d a : BitVec 6) (s : State) : Result := s.uni1 d a (fun x => BitVec.ofNat 64 (leadingZeros x 64))
def execSpopc (d a : BitVec 6) (s : State) : Result := s.uni1 d a (fun x => BitVec.ofNat 64 (popc x))
def execSbrev (d a : BitVec 6) (s : State) : Result := s.uni1 d a (fun x => reverseBits x)
def execSffs (d a : BitVec 6) (s : State) : Result := s.uni1 d a (fun x => BitVec.ofNat 64 (findFirst x 64))

/-! ### Immediates (R109) -/

def execSaddi (d a : BitVec 6) (i : BitVec 13) (s : State) : Result := s.uni1 d a (fun x => x + i.signExtend 64)
def execSli (d : BitVec 6) (i : BitVec 13) (s : State) : Result := s.uni d (fun _ => i.zeroExtend 64)
def execShi (d : BitVec 6) (i : BitVec 13) (s : State) : Result := s.uni1 d d (fun x => x <<< 13 ||| i.zeroExtend 64)
def execSandi (d a : BitVec 6) (i : BitVec 13) (s : State) : Result := s.uni1 d a (fun x => x &&& i.signExtend 64)
def execSshifti (d a : BitVec 6) (t : BitVec 2) (n : BitVec 6) (s : State) : Result :=
  s.uni1 d a (fun x => shiftBy t x n.toNat)

/-! ### smov and the special registers (R111 to R113) -/

/-- The lowest-numbered lane of the issuing split. -/
def Ladle.leader (l : Ladle) : Nat := findFirst l.sp.mask 32

/-- The number of a core in the package: five to a cluster, the control core last. -/
def coreKey (cluster core : Nat) : Nat := 5 * cluster + core

/-- %pi as the ladle reads it: the progress field reads zero (R113). -/
def Ladle.pi (l : Ladle) : Word64 := BitVec.ofNat 64 (l.piPass * 65536)

/-- The value of a ladle special register of the issuing ladle; a number outside R112 has none. -/
def State.special (s : State) (n : Nat) : Option Word64 :=
  let l := s.me
  match n with
  | 0 => some (l.wid + BitVec.ofNat 64 l.leader)
  | 1 => some (BitVec.ofNat 64 l.leader)
  | 2 => some (BitVec.ofNat 64 l.rank)
  | 3 => some (BitVec.ofNat 64 l.core)
  | 4 => some (BitVec.ofNat 64 l.cluster)
  | 5 => some (BitVec.ofNat 64 (l.cluster / 32))
  | 6 => some (s.reg 0xc10 &&& 0x3ff)
  | 7 => some (BitVec.ofNat 64 l.index)
  | 8 => some (BitVec.ofNat 64 l.mould)
  | 9 => some (BitVec.ofNat 64 l.nladle)
  | 10 => some l.pi
  | 11 => some l.tpc
  | 12 => some l.tvec
  | 13 => some l.tcause
  | 14 => some (l.fmode.zeroExtend 64)
  | 15 => some (s.service + FMap.get 0 s.cyc (coreKey l.cluster l.core))
  | _ => none

def execSmov (d a : BitVec 6) (s : State) : Result := s.uni1 d a (fun x => x)
def execSmovFromMask (d : BitVec 6) (k : BitVec 3) (s : State) : Result := s.uni d (fun l => (l.getK k).zeroExtend 64)
/-- A control core's masks hold lane 0 alone (R24). -/
def execSmovToMask (k : BitVec 3) (a : BitVec 6) (s : State) : Result :=
  .next (s.done (fun l => l.setK k (if l.control then l.sp.mask &&& 1#32 else l.sp.mask) ((l.getS a).setWidth 32)))
/-- A value from outside the registers: a trailing shadow takes it from its load-value queue, and the instruction waits while
that queue is full (R335). -/
def State.outside (s : State) (d : BitVec 6) (x : Word64) : State :=
  if s.valuesFull then s else s.done (fun l => l.setOutside d x)

def execSmovSpecial (d n : BitVec 6) (s : State) : Result :=
  match s.special n.toNat with
  | some x => .next (s.outside d x)
  | none => .next (s.castFault .illegal)

end Sys2Proof.Machine
end

