-- ==== Sys2Proof/Machine/System.lean ====
section
/-!
DEFINITION. `sysr` and `sysw` (R114 to R117).
-/

namespace Sys2Proof.Machine

/-! ### sysr -/

/-- The clusters that a partition owns, one bit each (R115). -/
def State.partClusters (s : State) (p : Nat) : Word64 :=
  maskOf 64 ((List.range 64).filter (fun x => decide (FMap.get 0 s.owners x = p + 1)))

/-- A system register as a ladle reads it; none where the read is an illegal instruction (R115, R116). -/
def State.sysRead (s : State) (n : Nat) : Option Word64 :=
  let p := s.me.part
  if n < 0x40 then s.special n
  else if n = 0x40 then some (BitVec.ofNat 64 p)
  else if n = 0x41 then some (s.partClusters p)
  else if n = 0x42 then some (s.reg (0x300 + 4 * p))
  else if n = 0x43 then some (FMap.get 0 s.consumed p)
  else if n < 0x100 then none
  else if regAssigned n && (s.me.privileged || regOpen p n) then some (s.readReg n)
  else none

def execSysr (d : BitVec 6) (n : BitVec 13) (s : State) : Result :=
  match s.sysRead n.toNat with
  | some x => .next (s.outside d x)
  | none => .next (s.castFault .illegal)

/-! ### sysw -/

/-- The fields of %tpc, %tvec, %tcause and %fmode (R75, R155, R156). -/
def tpcBits : Word64 := fieldMask 56 2
def tvecBits : Word64 := fieldMask 56 1
def tcauseBits : Word64 := fieldMask 63 63 ||| fieldMask 60 56 ||| fieldMask 51 22 ||| fieldMask 12 0
def fmodeBits : Word64 := fieldMask 20 16 ||| fieldMask 12 8 ||| fieldMask 1 0

/-- A write of a ladle special register; none where it is not writable. -/
def Ladle.writeSpecial (l : Ladle) (n : Nat) (x : Word64) : Option Ladle :=
  match n with
  | 11 => some { l with tpc := x &&& tpcBits }
  | 12 => some { l with tvec := x &&& tvecBits }
  | 13 => some { l with tcause := x &&& tcauseBits }
  | 14 => some { l with fmode := (x &&& fmodeBits).setWidth 32 }
  | _ => none

/-- A `sysw` to a device register: legal for a privileged ladle, on an assigned register that is not read-only (R116). -/
def State.mayWrite (s : State) (n : Nat) : Bool := s.me.privileged && regAssigned n && !regReadOnly n

/-- The write at the register's owner, and its status in s[sd]: 1 where it is refused. The status of a table load lands only
after the load (R254). -/
def State.sysWrite (s : State) (d : BitVec 6) (n : Nat) (x : Word64) : State :=
  match s.writeReg n x with
  | some t =>
    let t := match t.fmtLoads.find? (fun p => decide (n = 0x502 + 4 * p)) with | some p => t.loadTables p | none => t
    t.outside d 0
  | none => s.outside d 1

/-- `sysw` reads s[sa] and writes a status; to a device register it first waits for the ladle's earlier accesses (R117). -/
def execSysw (d a : BitVec 6) (n : BitVec 13) (s : State) : Result :=
  let x := s.me.getS a
  if n.toNat < 0x40 then
    match s.me.writeSpecial n.toNat x with
    | some _ => .next (if s.valuesFull then s else s.compared [n.setWidth 64, x] (fun s => s.done (fun l => ((l.writeSpecial n.toNat x).getD l).setOutside d 0)))
    | none => .next (s.castFault .illegal)
  else if s.mayWrite n.toNat then
    .next (if s.unperformed s.me.uid 4 s.nextReq || s.valuesFull then s else s.compared [n.setWidth 64, x] (fun s => s.sysWrite d n.toNat x))
  else .next (s.castFault .illegal)

end Sys2Proof.Machine
end

