-- ==== Sys2Proof/Machine/LadleEvents.lean ====
section
/-!
DEFINITION. Events of a ladle: permit retries, demand-miss notifications, handler deferrals, landings, barrier releases,
register grants and denials, retirements of `exit`, and the wakes of `waita` and `fence` (R38, R46, R47, R57, R126, R157,
R161, R164, R175, R334, R335, R396 to R398).
-/

namespace Sys2Proof.Machine

/-! ### Acting on a ladle that is not the issuing one -/

/-- Make a ladle the issuing one, change the state, and give the issuing place back. -/
def State.onLadle (s : State) (uid : Nat) (f : State → State) : State :=
  if s.ladles.any (fun l => l.uid == uid && l.live) then (f (s.selectLadle uid)).selectLadle s.me.uid else s

/-- Make the first split that a test picks the issuing one. -/
def Ladle.selectSplit (l : Ladle) (p : Split → Bool) : Option Ladle :=
  if p l.sp then some l
  else match l.splits.find? p with
    | some x => some { l with sp := x, splits := l.sp :: l.splits.erase x }
    | none => none

/-- Act in the first split of a ladle that a test picks; nothing when there is none. -/
def State.onSplit (s : State) (uid : Nat) (p : Split → Bool) (f : State → State) : State :=
  s.onLadle uid (fun t => match t.me.selectSplit p with | some l => f { t with me := l } | none => t)

/-- The issuing split, blocked in an instruction with a result in a uniform register, gets it and goes on (R335: a value from
outside). -/
def State.wake (s : State) (d : BitVec 6) (x : Word64) : State :=
  s.mapMe (fun l => { l.setOutside d x with sp := { l.sp with blocked := .ready, pc := l.sp.pc + 4 } }.fillSlots)

/-! ### Traps (R157, R161, R175) -/

/-- TRAP_PERMIT_RETRY: the split tries its instruction again. -/
def execTrapPermitRetry (ladle : Nat) (s : State) : Result :=
  .next (s.onSplit ladle (fun x => match x.blocked with | .backoff _ => true | _ => false)
    (fun t => t.mapMe (fun l => { l with sp := { l.sp with blocked := .ready } }.fillSlots)))

/-- Instructions that close every open window of their ladle (R59). -/
def closesWindows (i : Instr) : Bool :=
  match i with
  | .bar .. | .waita .. | .mwait .. | .rget .. | .rrel .. | .exit .. | .exitAbort .. | .trap .. | .tsysNop .. | .tsysTret ..
  | .tsysTmask .. | .tsysBkpt .. | .call .. | .jmp .. | .calli .. | .ret .. | .fence .. | .spawn .. => true
  | _ => false

/-- The tile groups of a pending load that are being served from HBM: their places in the load's order. -/
def State.missGroups (s : State) (l : Ladle) (p : Pending) : List Nat :=
  ((s.requests.filter (fun r => r.who.ladle == l.uid && r.pend == some p.id && !r.scratch)).filter (fun r =>
    (match r.place with
     | .slice n => !(s.sliceOf n).resident r.tile || (s.sliceOf n).miss.contains r.tile
     | _ => false))).map (fun r => r.id - p.first)

/-- The load that the issuing split waits for, with its first group from HBM: one that stands at its landing point, or, before an
instruction that closes the windows (R59), any. -/
def State.demandMiss (s : State) : Option (Pending × Nat) :=
  let closes := match s.fetch with | .ok i => closesWindows i | .error _ => false
  if s.me.canIssue s.me.sp then
    s.me.pend.findSome? (fun p =>
      if p.globalLoad && (p.awaitedIn s.me.sp || (closes && !p.suspended && decide (p.missing ≠ 0))) then
        ((s.missGroups s.me p).min?).map (fun g => (p, g))
      else none)
  else none

/-- A result's remaining counts are 0: it lands as soon as it may. -/
def Ladle.countOut (l : Ladle) (id : Nat) : Ladle :=
  { l with pend := l.pend.map (fun p => if p.id = id then { p with counts := Vector.replicate 32 0 } else p) }

/-- The notification of one load in the issuing split, at its next instruction. -/
def Ladle.notifyMiss (l : Ladle) (p : Pending) (group : Nat) : Ladle :=
  let lanes := if p.dest.isLane && p.awaitedIn l.sp then p.dueLanes false &&& l.sp.mask else p.lanes
  (l.countOut p.id).enterHandler 4 group (.landing p.pc (p.window lanes))

/-- DEMAND_MISS_NOTIFICATION: taken in place of a wait; it is dropped when no permit is free. -/
def execDemandMissNotification (ladle : Nat) (s : State) : Result :=
  .next (s.onLadle ladle (fun t =>
    let t := t.settle
    let l := t.me
    if !l.canRun || !l.tvec.getLsbD 1 || causeM l.tcause || decide (bitsOf l.tvec 56 2 = 0) || !t.permitFree then t
    else
      match [0, 1, 2, 3].findSome? (fun n => (t.mapMe (fun l => l.selectSlot n)).demandMiss.map (fun e => (n, e))) with
      | some (n, p, g) => t.mapMe (fun l => (l.selectSlot n).notifyMiss p g)
      | none => t))

/-- HANDLER_DEFERRAL_EXPIRY: a deferred ladle stops inside its handler after 8,192 further instructions. -/
def execHandlerDeferralExpiry (ladle : Nat) (s : State) : Result :=
  .next (s.onLadle ladle (fun t => t.mapMe (fun l =>
    if l.deferred && decide (8192 ≤ l.handlerIssued) then { l with stopped := true, deferred := false } else l)))

/-! ### Landings (R57) -/

/-- LONG_RESULT_LANDING: the n-th pending result lands, when it is due and its data are there. -/
def execLongResultLanding (ladle n : Nat) (s : State) : Result :=
  .next (s.onLadle ladle (fun t =>
    match t.me.pend[n]? with
    | some p => if t.me.landable false p && !t.me.stopped then t.land p false else t
    | none => t))

/-! ### Barriers and registers (R38, R46, R47, R126) -/

/-- BARRIER_RELEASE: the completed phases of a barrier reach its members. -/
def execBarrierRelease (n : Nat) (s : State) : Result :=
  match s.barriers[n]? with
  | some b => if b.released < b.completed then .next (s.releaseBarrier b) else .next s
  | none => .next s

/-- A split waits in `rget`. -/
def Split.waitsRget (x : Split) : Bool := match x.blocked with | .rget _ => true | _ => false

/-- Answer every split of the issuing ladle that waits in `rget` with a status. -/
def State.answerRget (status : Word64) : Nat → State → State
  | 0, s => s
  | n + 1, s =>
    match s.me.selectSplit Split.waitsRget with
    | some l =>
      match l.sp.blocked with
      | .rget d => State.answerRget status n (({ s with me := l } : State).wake d status)
      | _ => s
    | none => s

/-- A ladle has 32 lanes, so at most 32 splits. -/
def maxSplits : Nat := 32

/-- RGET_GRANT: the head of a core's queue gets its extended block. -/
def execRgetGrant (core : Nat) (s : State) : Result :=
  match FMap.get [] s.rgetQueue core with
  | [] => .next s
  | (uid, _) :: r =>
    match s.ladle? uid with
    | some l =>
      if s.blocksFor l then
        .next (({ s with rgetQueue := FMap.set [] s.rgetQueue core r }).onLadle uid (fun t =>
          t.extend.answerRget 1 maxSplits))
      else .next s
    | none => .next { s with rgetQueue := FMap.set [] s.rgetQueue core r }

/-- A member of a barrier that has not arrived counts as blocked in `rget` (R46). -/
def State.waitsForRegisters (s : State) (cluster : Nat) (b : Barrier) (m : Ladle) : Bool :=
  b.arrived.contains m.uid
  || (decide (m.cluster = cluster) && s.ladles.any (fun r => r.uid == m.uid && r.live)
      && m.allSplits.all (fun x => x.mask == 0 || x.mask &&& ~~~(m.bar (barKey b.level b.id)).lanes == 0 || x.waitsRget))

/-- A split is blocked in `rget`, or at a barrier whose missing members are (R46). -/
def State.splitStuck (s : State) (l : Ladle) (x : Split) : Bool :=
  let at_ := fun (level : Level) (id phase : Nat) =>
    let b := s.barrier level id (s.groupOf l level)
    decide (b.completed < phase) && (s.members level b.group).all (s.waitsForRegisters l.cluster b) && !s.groupAbsent level b.group && s.othersArrived b
  x.waitsRget || x.mask == 0 ||
  (match x.blocked with
   | .barrier level id phase _ => at_ level id phase
   | .barrierAgain level id phase => at_ level id phase
   | _ => false)

/-- A core is deadlocked on registers (R46). -/
def State.registersStuck (s : State) (core : Nat) : Bool :=
  (match FMap.get [] s.rgetQueue core with
   | [] => false
   | (uid, _) :: _ => match s.ladle? uid with | some l => !s.blocksFor l | none => false)
  && (s.ladles.filter (fun l => l.live && decide (coreKey l.cluster l.core = core))).all (fun l => l.allSplits.all (s.splitStuck l))

/-- REGISTER_EXAMINATION: the youngest request is denied with status 0. -/
def execRegisterExamination (core : Nat) (s : State) : Result :=
  let q := FMap.get [] s.rgetQueue core
  match q.getLast? with
  | some (uid, _) =>
    if s.registersStuck core then
      .next (({ s with rgetQueue := FMap.set [] s.rgetQueue core q.dropLast }).onLadle uid (fun t => t.answerRget 0 maxSplits))
    else .next s
  | none => .next s

/-! ### exit, waita and fence (R164, R396 to R398) -/

/-- EXIT_RETIRE. -/
def execExitRetire (ladle : Nat) (s : State) : Result :=
  .next (s.onSplit ladle (fun x => x.blocked == .exitWait) (fun t => if t.exitReady t.me then t.retireExit else t))

/-- A split waits in a `waita` whose word has met its condition, or meets it as the split, resumed, tests it again (R171). -/
def State.waitaReady (s : State) (l : Ladle) (x : Split) : Bool :=
  match x.blocked with
  | .waitaMet _ _ => true
  | .waitaPad u _ _ _ => !s.padPaused u && s.padMet l u x
  | _ => false

/-- WAITA_WAKE: the split continues with the word in its register. -/
def execWaitaWake (ladle : Nat) (s : State) : Result :=
  .next (s.onSplit ladle (fun x => match s.ladle? ladle with | some l => s.waitaReady l x | none => false) (fun t =>
    match (t.takePad t.me.sp).blocked with
    | .waitaMet v d => t.wake d (v.setWidth 64)
    | _ => t))

/-- A global `waita` that has no watch, and no test on its way: its requester tests again (R398). -/
def State.unwatched (s : State) (uid : Nat) (x : Split) : Bool :=
  match x.blocked with
  | .waitaGlobal pa old _ =>
    !s.testing uid x.pc
    && (match (s.placeOf 0 pa false false).1 with
        | .slice n => !(s.sliceOf n).watches.contains { ladle := uid, pa := pa, old := old }
        | _ => true)
  | _ => false

/-- WAITA_RETRY: the test is sent again; one of slice scratch is a use of it (R201). -/
def execWaitaRetry (ladle : Nat) (s : State) : Result :=
  .next (s.onSplit ladle (s.unwatched ladle) (fun t =>
    match t.me.sp.blocked with
    | .waitaGlobal pa old _ =>
      let r := t.waitReq t.me.who pa old
      (t.noteScratch t.me.casting [r]).submitAll [r]
    | _ => t))

/-- WAITA_WATCH_TEST: a watch of a slice tests its word; a write has done so at its own slot already. -/
def execWaitaWatchTest (sl n : Nat) (s : State) : Result :=
  match (s.sliceOf sl).watches[n]? with
  | some w => .next (s.testWatch sl w)
  | none => .next s

/-- FENCE_COMPLETE. -/
def execFenceComplete (ladle : Nat) (s : State) : Result :=
  .next (s.onSplit ladle
    (fun x => match x.blocked with | .fence sc _ upTo => !s.unperformed ladle sc.toNat upTo | _ => false)
    (fun t => t.mapMe (fun l => { l with sp := { l.sp with blocked := .ready, pc := l.sp.pc + 4 } }.fillSlots)))

/-! ### Checking (R334, R335) -/

/-- OPPORTUNISTIC_REPLAY: the oldest entry of the replay queue is replayed; a mismatch is a fault at its instruction. -/
def execOpportunisticReplay (ladle : Nat) (mismatch : Bool) (s : State) : Result :=
  match s.ladle? ladle with
  | none => .next s
  | some l =>
    match l.replay with
    | [] => .next s
    | e :: r =>
      let t := s.modLadle ladle (fun l => { l with replay := r })
      .next (if mismatch && l.live then t.raiseFor l.casting l.rank l.cluster l.core .checkMismatch e.pc else t)

/-- The requests of a compared operation go on their way, or are never performed. -/
def State.compareRequests (s : State) (ids : List Nat) (keep : Bool) : State :=
  { s with requests := if keep then s.requests.map (fun r => if ids.contains r.id then { r with held := false } else r)
                       else s.requests.filter (fun r => !ids.contains r.id) }

/-- The trailing shadow has caught up with its ladle: its registers are the ladle's. DEDUCED (log 75): the model gives it them then, and
does not run its words one by one. -/
def Ladle.catchUp (l : Ladle) : Ladle :=
  { l with shadow := l.shadow.map (fun x => if x.buffer.isEmpty && x.values.isEmpty then { x with v := l.v, s := l.s, k := l.k } else x) }

/-- The instruction at `pc` that waits in the comparison buffer may act. -/
def State.clearSplit (s : State) (ladle : Nat) (pc : Word64) : State :=
  s.onSplit ladle (fun x => x.blocked == .comparing && x.pc == pc)
    (fun t => t.mapMe (fun l => { l with sp := { l.sp with blocked := .ready, cleared := true } }))

/-- The trailing shadow comes to a value before it comes to an operation: it goes in issue order (R335). -/
def Shadow.valueFirst (x : Shadow) : Bool :=
  match x.values, x.buffer with
  | [], _ => false
  | _, [] => true
  | v :: _, e :: _ => decide (v.order < e.order)

/-- The data of the value at the head of the load-value queue are there. -/
def Ladle.valueCome (l : Ladle) (x : Shadow) : Bool :=
  match x.values with
  | v :: _ => !l.pend.any (fun p => v.pend == some p.id && decide (p.missing ≠ 0))
  | [] => true

/-- SHADOW_COMPARISON: in issue order the shadow takes the next value from its load-value queue, or the oldest operation of the comparison
buffer is released, or never performed. -/
def execShadowComparison (ladle : Nat) (mismatch : Bool) (s : State) : Result :=
  match s.ladle? ladle with
  | none => .next s
  | some l =>
    match l.shadow with
    | none => .next s
    | some x =>
      if x.valueFirst then
        .next (if l.valueCome x then s.modLadle ladle (fun l => Ladle.catchUp { l with shadow := some { x with values := x.values.tail } }) else s)
      else
        match x.buffer with
        | [] => .next (s.modLadle ladle Ladle.catchUp)
        | e :: r =>
          let t := (s.compareRequests e.requests (!mismatch)).modLadle ladle (fun l => Ladle.catchUp { l with shadow := some { x with buffer := r } })
          .next (if mismatch then t.raiseFor l.casting l.rank l.cluster l.core .checkMismatch e.pc
            else if e.requests.isEmpty then t.clearSplit ladle e.pc else t)

end Sys2Proof.Machine
end

