-- ==== Sys2Proof/Machine/Slots.lean ====
section
/-!
DEFINITION. Slots and grants: the events at which waiting requests are performed, and what a slice does by itself (R145,
R150, R181, R186 to R189, R191, R207, R216, R222, R303, R348, R350, R389, R394, R395, R423).
-/

namespace Sys2Proof.Machine

/-- Grant the n-th waiting request, when a test picks it, it can be granted, and it wins at its arbiter. -/
def State.grantAt (s : State) (n : Nat) (f : Req → Bool) : Result :=
  match s.requests[n]? with
  | some r => if f r && s.grantable r && s.wins r then .next (s.grant r) else .next s
  | none => .next s

/-- Performed at a home slice or at another package. -/
def Place.home : Place → Bool
  | .slice _ => true
  | .remote _ => true
  | _ => false

def Place.isHostMem : Place → Bool
  | .host _ => true
  | _ => false

def ReqKind.isTouch : ReqKind → Bool
  | .touch => true
  | _ => false

def ReqKind.isSyncWord : ReqKind → Bool
  | .syncLoad => true
  | .syncStore => true
  | .waitTest _ => true
  | _ => false

def ReqKind.isAtomic : ReqKind → Bool
  | .atomic _ _ => true
  | _ => false

/-- Requests of the instructions on distance (R214). -/
def ReqKind.isDistance : ReqKind → Bool
  | .dist _ => true
  | .touch => true
  | .pin => true
  | .unpin => true
  | .rwb => true
  | _ => false

/-- BANK_GRANT. -/
def execBankGrant (n : Nat) (s : State) : Result := s.grantAt n (fun r => r.place.isPad)

/-- GLOBAL_ACCESS_SLOT: plain loads and stores, and `touchg`. -/
def execGlobalAccessSlot (n : Nat) (s : State) : Result := s.grantAt n (fun r => r.place.home && (r.kind.plainData || r.kind.isTouch))

/-- SYNC_ACCESS_SLOT: `ldgs`, `stgs`, and the test of a global `waita`. -/
def execSyncAccessSlot (n : Nat) (s : State) : Result := s.grantAt n (fun r => !r.place.isPad && r.kind.isSyncWord)

/-- ATOMIC_GROUP_SLOT. -/
def execAtomicGroupSlot (n : Nat) (s : State) : Result := s.grantAt n (fun r => !r.place.isPad && r.kind.isAtomic)

/-- DISTANCE_REQUEST_SLOT. -/
def execDistanceRequestSlot (n : Nat) (s : State) : Result := s.grantAt n (fun r => r.kind.isDistance)

/-- HOST_MEMORY_COMPLETION. -/
def execHostMemoryCompletion (n : Nat) (s : State) : Result := s.grantAt n (fun r => r.place.isHostMem && r.kind.plainData)

/-- REPLICA_DROP: a `rinv` at its slot. -/
def execReplicaDrop (n : Nat) (s : State) : Result := s.grantAt n (fun r => r.kind == .rinv)

/-- BOARD_OPERATION_SLOT. -/
def execBoardOperationSlot (n : Nat) (s : State) : Result := s.grantAt n (fun r => r.kind == .post)

/-- BOARD_READ_SLOT. -/
def execBoardReadSlot (n : Nat) (s : State) : Result := s.grantAt n (fun r => r.kind == .boardRead)

/-- AMAX_FOLD. -/
def execAmaxFold (n : Nat) (s : State) : Result := s.grantAt n (fun r => r.kind == .fold)

/-- AMAX_READ_SLOT. -/
def execAmaxReadSlot (n : Nat) (s : State) : Result := s.grantAt n (fun r => r.kind.isAmaxRead)

/-- REDG_CONTRIBUTION. -/
def execRedgContribution (n : Nat) (s : State) : Result := s.grantAt n (fun r => r.kind.isRedg)

/-- A contribution as its cluster sends it again: to the home that its target has now (R198). -/
def State.resent (s : State) (r : Req) : Req :=
  { r with place := (s.placeOf (r.who.cluster / 32) (r.bytes.headD 0) false false).1, arrived := none }

/-- REDG_RETRY: the oldest contribution in a cluster's retry queue is sent again. -/
def execRedgRetry (cluster : Nat) (s : State) : Result :=
  match FMap.get [] s.retry cluster with
  | [] => .next s
  | r :: q =>
    let t := { s with retry := FMap.set [] s.retry cluster q }
    if t.grantable (s.resent r) && t.wins (s.resent r) then .next ((t.noteGrant (s.resent r)).perform (s.resent r)) else .next s

/-- REPLICA_MERGE: dirty bytes on their way to a slice, for a tile, are merged. -/
def execReplicaMerge (sl tile : Nat) (s : State) : Result :=
  match s.requests.find? (fun r => r.kind == .merge && r.place == .slice sl && r.tile == tile) with
  | some r => if s.grantable r && s.wins r then .next (s.grant r) else .next s
  | none => .next s

/-- MISS_DATA_ARRIVAL: a miss register is free. -/
def execMissDataArrival (sl tile : Nat) (s : State) : Result :=
  if (s.sliceOf sl).miss.contains tile then .next (s.modSlice sl (fun x => { x with miss := x.miss.erase tile })) else .next s

/-- MOTION_LANDING: a tile in motion lands in ring 0. -/
def execMotionLanding (sl tile : Nat) (s : State) : Result :=
  match (s.sliceOf sl).motion.find? (fun e => e.1 == tile) with
  | some e => .next (if s.busStill sl then s else s.modSlice sl (fun x => { x with motion := x.motion.erase e }))
  | none => .next s

/-- BOUNDARY_MOVE: the oldest queued move of a slice is made. -/
def execBoundaryMove (sl : Nat) (s : State) : Result :=
  .next (if s.busStill sl then s else s.modSlice sl (fun x => { x with cascade := x.cascade.tail }))

/-- WRITE_BACK: the oldest tile in a slice's write-back queue goes to HBM. -/
def execWriteBack (sl : Nat) (s : State) : Result :=
  match (s.sliceOf sl).writeBack with
  | t :: _ => .next (s.writeBackTile sl t)
  | [] => .next s

/-- BOARD_RESET_SLOT: the oldest reset of a board on its way takes its slot, on the service port of the board's home. -/
def execBoardResetSlot (board : Nat) (s : State) : Result :=
  match s.boardResets.find? (fun e => e.1 == board) with
  | some e =>
    .next (s.atPort (s.homeOfBoard board) servicePort (fun s =>
      { s with boardResets := s.boardResets.erase e,
               boards := FMap.set Board.fresh s.boards (s.pkg * 4096 + board) (boardOf e.2) }))
  | none => .next s

end Sys2Proof.Machine
end

