-- ==== Sys2Proof/Machine/Placement.lean ====
section
/-!
DEFINITION. Placing the ladles of castings on the cores of a cluster (R22, R35, R36, R132, R333, R361), and the entry state
of a ladle (R23, R24, R31, R132, R133).
-/

namespace Sys2Proof.Machine

/-! ### What a core has, and what a ladle needs -/

/-- What a vector core has given out: ladle slots with their base blocks, shadow and extended blocks, stretches of its
scratchpad by first byte and length, and trap permits. -/
structure Room where
  slots : List Nat
  granted : List Nat
  pads : List (Nat × Nat)
  permits : Nat
  deriving DecidableEq, Repr

/-- A core with nothing given out. -/
def Room.empty : Room := { slots := [], granted := [], pads := [], permits := 0 }

/-- What a ladle needs: its rank, its register blocks beside its base block, its scratchpad bytes, and a permit where its
handler was active. -/
structure Need where
  rank : Nat
  extra : Nat
  bytes : Nat
  permit : Bool
  deriving DecidableEq, Repr

/-- Where a ladle goes: its rank, core and slot, its register blocks beside the slot's, and the start of its scratchpad. -/
structure Spot where
  rank : Nat
  core : Nat
  place : Nat
  blocks : List Nat
  base : Nat
  deriving DecidableEq, Repr

/-- Ladle slots that are free and whose block is free (R35). -/
def Room.openSlots (r : Room) : List Nat := (List.range 64).filter (fun j => !r.slots.contains j && !r.granted.contains j)
def Room.free (r : Room) : Nat := r.openSlots.length

/-- A stretch of a core's 512 KiB scratchpad is free. -/
def Room.clear (r : Room) (base size : Nat) : Bool :=
  decide (base + size ≤ 524288) && r.pads.all (fun p => decide (p.2 = 0) || decide (base + size ≤ p.1) || decide (p.1 + p.2 ≤ base))

/-- The start of a new allocation: a 4 KiB boundary from which it is contiguous (R132). DESIGN CHOICE (log 27): the lowest. -/
def Room.padBase (r : Room) (size : Nat) : Option Nat :=
  if size = 0 then some 0 else ((List.range 128).map (4096 * ·)).find? (fun b => r.clear b size)

/-- The place of a ladle on a core that can take it (R22, R35, R36): the lowest open slot, and as further blocks the highest free
ones, so that a placement succeeds whenever some choice of blocks lets it. DESIGN CHOICE (log 28): which slot and blocks. -/
def Room.spot (r : Room) (core : Nat) (n : Need) : Option Spot :=
  match r.openSlots with
  | [] => none
  | j :: _ =>
    let blocks := (((List.range 128).filter (fun b => b != j && !r.slots.contains b && !r.granted.contains b)).reverse).take n.extra
    if blocks.length < n.extra ∨ (n.permit && decide (4 ≤ r.permits)) = true then none
    else (r.padBase n.bytes).map (fun b => { rank := n.rank, core := core, place := j, blocks := blocks, base := b })

def Room.give (r : Room) (n : Need) (p : Spot) : Room :=
  { slots := p.place :: r.slots, granted := p.blocks ++ r.granted, pads := (p.base, n.bytes) :: r.pads, permits := r.permits + bit n.permit }

/-- What core `k` of a cluster has given out; a core that is out of service has nothing to give (R232). -/
def State.room (s : State) (x k : Nat) : Room :=
  if s.outOfService.contains (coreKey x k) then { Room.empty with slots := List.range 64 } else
  let ls := s.ladles.filter (fun l => l.live && decide (l.cluster = x) && decide (l.core = k))
  { slots := ls.map (·.place), granted := ls.flatMap (fun l => l.shadowBlock.toList ++ l.extBlocks),
    pads := ls.map (fun l => (l.pad.base, l.pad.size)), permits := (ls.filter (·.permit)).length }

/-- The four vector cores of a cluster. -/
def State.rooms (s : State) (x : Nat) : List Room := [0, 1, 2, 3].map (s.room x)

/-- The core with the most free ladle slots, the lowest number on ties (R361). -/
def firstCore (rooms : List Room) : Nat :=
  let most := rooms.foldl (fun m r => max m r.free) 0
  ((List.range 4).find? (fun k => decide ((rooms.getD k Room.empty).free = most))).getD 0

/-- The place a ladle takes: in pack placement on the lowest-numbered core that can take it, else on core (f + rank) mod 4
(R22). -/
def spotFor (pack : Bool) (f : Nat) (rooms : List Room) (n : Need) : Option Spot :=
  (if pack then [0, 1, 2, 3] else [(f + n.rank) % 4]).findSome? (fun k => (rooms.getD k Room.empty).spot k n)

/-- Place ladles in rank order: the place of each, and what the cores have then given out. -/
def placeLadles (pack : Bool) (f : Nat) : List Need → List Room → Option (List Spot × List Room)
  | [], rooms => some ([], rooms)
  | n :: r, rooms =>
    match spotFor pack f rooms n with
    | none => none
    | some p =>
      (placeLadles pack f r (rooms.set p.core ((rooms.getD p.core Room.empty).give n p))).map (fun e => (p :: e.1, e.2))

/-- A casting's placement: 0 opportunistic, 1 shadow, 2 half, and the place of each of its vector ladles. -/
structure Plan where
  placement : Nat
  spots : List Spot
  deriving DecidableEq, Repr

/-- The placements of a declared checking mode, in the order they are tried (R333). -/
def placementsOf (check : BitVec 2) : List Nat :=
  match check.toNat with
  | 0 => [0]
  | 1 => [1]
  | 2 => [2]
  | _ => [1, 2]

/-- Place one casting, whose ladles' needs depend on its placement. -/
def placeCasting (pack : Bool) (kinds : List Nat) (needs : Nat → List Need) (rooms : List Room) : Option (Plan × List Room) :=
  kinds.findSome? (fun k => (placeLadles pack (firstCore rooms) (needs k) rooms).map (fun e => ({ placement := k, spots := e.1 }, e.2)))

/-- Place castings one after another. -/
def placeGroup (pack : Bool) (kinds : List Nat) : List (Nat → List Need) → List Room → Option (List Plan)
  | [], _ => some []
  | n :: r, rooms =>
    match placeCasting pack kinds n rooms with
    | none => none
    | some e => (placeGroup pack kinds r e.2).map (e.1 :: ·)

/-! ### Needs -/

/-- Blocks of a base or an extended block: two when shadowed (R36). -/
def blocksOf (placement : Nat) : Nat := if placement = 1 then 2 else 1

/-- A ladle's scratchpad allocation: whole 4 KiB pages (R132). -/
def padBytes (b : Nat) : Nat := 4096 * ((b + 4095) / 4096)

/-- The vector ladles of a new casting of a mould. -/
def Mould.needs (m : Mould) (placement : Nat) : List Need :=
  (List.range m.ladles).map (fun r => { rank := r, extra := blocksOf placement - 1, bytes := padBytes m.scratch, permit := false })

/-- The vector ladles of a saved casting: those that have exited are not placed, a held extended block is placed with its
ladle, and an active handler needs a permit (R174). -/
def Casting.needs (c : Casting) (placement : Nat) : List Need :=
  (c.saved.filter (fun l => l.live && !l.control)).map (fun l =>
    { rank := l.rank, extra := blocksOf placement * (if l.ext then 2 else 1) - 1, bytes := l.pad.size, permit := l.permit })

/-- The castings of one cluster gang of a mould fit in an empty cluster (R357): shadow.half counts as half. -/
def Mould.fits (m : Mould) : Bool :=
  (placeGroup m.pack (if m.check = 3 then [2] else placementsOf m.check) (List.replicate (min (2 ^ m.w2) m.count) m.needs)
    (List.replicate 4 Room.empty)).isSome

/-- A cluster can take castings with a control ladle: its control core is free, MATRIX_OFF is clear, and residue tiles find
the RETIRED they left (R329, R343, R361). -/
def State.controlFree (s : State) (x : Nat) (retired : Option (BitVec 6)) : Bool :=
  !s.controlHeld x && !(s.reg 0x804).getLsbD x
  && (match retired with | some r => decide (bitsOf (s.reg (0x600 + 4 * x)) 13 8 = r.toNat) | none => true)

/-! ### Entry (R23, R24) -/

/-- The place of a control ladle: its core has one slot and no register blocks (R22, R24). -/
def controlSpot (rank : Nat) : Spot := { rank := rank, core := 4, place := 0, blocks := [], base := 0 }

/-- A ladle on the core, in the slot and with the blocks and the scratchpad stretch of its place: its shadow's block comes before the
extended ones. -/
def Ladle.put (l : Ladle) (p : Spot) (shadowed : Bool) : Ladle :=
  { l with
    core := p.core, place := p.place, pad := { l.pad with base := p.base },
    shadowBlock := if shadowed then p.blocks.head? else none,
    extBlocks := if l.ext then (if shadowed then p.blocks.tail else p.blocks) else [] }

/-- The uniform registers at entry: the launch arguments, the casting index, the base work identifier. -/
def entryS (args : Vector Word64 8) (index : Nat) (wid : Word64) : Vector Word64 64 :=
  Vector.ofFn (fun r : Fin 64 => if h : r.val < 8 then args[r.val] else if r.val = 8 then BitVec.ofNat 64 index
    else if r.val = 9 then wid else 0)

/-- The lane registers at entry: v0 and v1 hold each lane's work identifier; in half placement a pair starts equal. -/
def entryV (half : Bool) (wid : Word64) : Vector LaneVec 64 :=
  let id := fun (j : Nat) => wid + BitVec.ofNat 64 (if half then j % 16 else j)
  Vector.ofFn (fun r : Fin 64 =>
    if r.val = 0 then Vector.ofFn (fun j : Fin 32 => (id j.val).setWidth 32)
    else if r.val = 1 then Vector.ofFn (fun j : Fin 32 => (id j.val).extractLsb' 32 32)
    else Vector.replicate 32 0#32)

/-- A ladle of a casting at entry; rank `m.ladles` of a mould with CT = 1 is its control ladle. -/
def entryLadle (g : Graph) (m : Mould) (c : Casting) (placement uid : Nat) (p : Spot) (held : Bool) : Ladle :=
  let control := p.core = 4
  let wid := widOf m c.index p.rank 0
  let s := entryS g.args c.index wid
  let v := if control then Ladle.idle.v else entryV (decide (placement = 2)) wid
  { Ladle.idle.put p (decide (placement = 1) && !control) with
    uid := uid, casting := c.uid, part := c.part, rank := p.rank, cluster := c.cluster,
    index := c.index, mould := c.mould, nladle := m.ladles + bit m.control, wid := wid, live := true, heldAtEntry := held,
    half := decide (placement = 2) && !control, lowLanes := m.check.getLsbD 1 && !control, mayExtend := m.extended,
    gangMould := m.gang, privileged := g.privileged, v := v, s := s,
    sp := { Split.entry m.code with mask := if control then 1#32 else 0xffffffff#32 },
    pad := { Ladle.idle.pad with base := p.base, size := if control then 0 else padBytes m.scratch },
    shadow := if placement = 1 && !control then some { v := v, s := s, k := Ladle.idle.k, values := [], buffer := [] } else none }

/-- A ladle joins the barriers of its gang at the phase they have reached. -/
def State.joinBarriers (s : State) (l : Ladle) : Ladle :=
  s.barriers.foldl (fun l b =>
    if 2 ≤ b.level.toNat ∧ s.groupOf l b.level = b.group then
      l.setBar (barKey b.level b.id) { lanes := 0, arrived := b.completed, waited := b.completed }
    else l) l

/-- A ladle enters its slot. -/
def State.enterLadle (s : State) (g : Graph) (m : Mould) (c : Casting) (placement : Nat) (held : Bool) (p : Spot) : State :=
  let l := entryLadle g m c placement s.nextUid p held
  { s with rest := s.rest ++ [s.joinBarriers l], nextUid := s.nextUid + 1 }

/-- All ladles of a casting enter; a control ladle finds the matrix state as R267 gives it at dispatch. -/
def State.enterCasting (s : State) (g : Graph) (m : Mould) (c : Casting) (p : Plan) (held : Bool) : State :=
  let t := p.spots.foldl (fun t e => t.enterLadle g m c p.placement held e) s
  if m.control then (t.setMat c.cluster Matrix.start).enterLadle g m c p.placement held (controlSpot m.ladles) else t

end Sys2Proof.Machine
end

