-- ==== Sys2Proof/Machine/GraphLoad.lean ====
section
/-!
DEFINITION. Launch ports, launch records, graph images and their loading (R17, R18, R172, R353 to R358, R410 to R412).
-/

namespace Sys2Proof.Machine

/-! ### The launch port (R410) -/

def LqCounts.zero : LqCounts := { dropped := 0, rejected := 0, lost := 0 }

/-- Change the counts of LQ_STATUS. -/
def State.modLq (s : State) (p : Nat) (f : LqCounts → LqCounts) : State := { s with lq := FMap.modify LqCounts.zero s.lq p f }

/-- The launch queue of a partition. -/
def State.queueOf (s : State) (p : Nat) : List LaunchRec := FMap.get [] s.launch p

/-- A link presents a function (R405, R406). -/
def State.presents (s : State) (p : Nat) (viaPF : Bool) (link : Nat) : Bool :=
  s.links.toList.getD link false
  && (viaPF || (s.vfEnable.toList.getD link false && decide (bit ((s.reg 0xc20).getLsbD p) = link)))

/-- A write to a launch page: offset 0 is the port, offset 0x40 clears the counts of LQ_STATUS. -/
def State.launchWrite (s : State) (p : Nat) (viaPF : Bool) (link offset size : Nat) (record : List Word64) : State :=
  if offset = 0x40 ∧ size = 8 then
    if record.headD 0 = 0 then { s with lq := FMap.set LqCounts.zero s.lq p LqCounts.zero } else s
  else if 0x40 ≤ offset then s
  else if !(s.reg (hostReg p 13)).getLsbD 0 then s.modLq p (fun c => { c with dropped := c.dropped + 1 })
  else if offset ≠ 0 ∨ size ≠ 64 then s.modLq p (fun c => { c with rejected := c.rejected + 1 })
  else if 64 ≤ (s.queueOf p).length then s.modLq p (fun c => { c with dropped := c.dropped + 1 })
  else { s with launch := FMap.modify [] s.launch p (· ++ [{
    words := (record ++ List.replicate 8 0).take 8, function := if viaPF then 0 else vfOf p, link := link, privileged := viaPF }]) }

def execLaunchPort (part : Nat) (viaPF : Bool) (link offset size : Nat) (record : List (BitVec 64)) (s : State) : Result :=
  if part < 24 ∧ s.presents part viaPF link = true then .next (s.launchWrite part viaPF link offset size record) else .next s

/-! ### Launch records (R411, R412) -/

/-- A nonzero reserved bit of a launch record. -/
def recordBad (w : List Word64) : Bool :=
  decide (w.getD 0 0 &&& (fieldMask 59 57 ||| fieldMask 5 0) ≠ 0) || decide (w.getD 1 0 &&& ~~~fieldMask 56 6 ≠ 0)
  || decide (w.getD 2 0 &&& ~~~fieldMask 56 3 ≠ 0) || decide (w.getD 4 0 &&& ~~~(fieldMask 0 0 ||| fieldMask 13 8) ≠ 0)
  || (w.drop 5).any (· != 0)

/-- The graph image address of a launch record. -/
def recordImage (w : List Word64) : Word64 := w.getD 0 0 &&& fieldMask 56 6

/-- The launch arguments of a record: zero, or the words of its block; none where they cannot be read. -/
def State.recordArgs (s : State) (p : Nat) (w : List Word64) : Option (Vector Word64 8) :=
  let a := bitsOf (w.getD 1 0) 56 6 * 64
  if a = 0 then some (Vector.replicate 8 0) else (s.readWords p a 8).map (fun l => Vector.ofFn (fun i : Fin 8 => l.getD i.val 0))

/-! ### Headers and descriptors (R353, R354) -/

/-- Where an image is rejected: the mould index and the address of a report. -/
abbrev Rejection := Nat × Nat

/-- A part of an image that must be readable, at an address. -/
def orReject (o : Option α) (mould pc : Nat) : Except Rejection α := match o with | some a => .ok a | none => .error (mould, pc)

/-- The causes a relaunch policy may name. -/
def policyBits : Word64 := maskOf 64 [1, 2, 3, 4, 5, 6, 7, 8, 0x0c, 0x0d, 0x0e, 0x11]

/-- Mould, edge and range counts of a header. -/
def headerMoulds (w : List Word64) : Nat := bitsOf (w.getD 0 0) 15 0
def headerEdges (w : List Word64) : Nat := bitsOf (w.getD 0 0) 31 16
def headerRanges (w : List Word64) : Nat := bitsOf (w.getD 0 0) 47 32

def headerBad (w : List Word64) : Bool :=
  decide (bitsOf (w.getD 0 0) 63 48 ≠ 0) || decide (headerMoulds w = 0) || decide (4096 < headerMoulds w)
  || decide (w.getD 1 0 &&& ~~~policyBits ≠ 0) || (w.drop 2).any (· != 0)

/-- A descriptor without its ranges. -/
def descriptorOf (w : List Word64) : Mould :=
  let x := w.getD 2 0
  let g := w.getD 4 0
  { code := w.getD 0 0 &&& fieldMask 56 2, count := bitsOf (w.getD 1 0) 47 0, args := bitsOf x 63 60, scratch := bitsOf x 59 40,
    restartable := x.getLsbD 36, gang := x.getLsbD 35, check := x.extractLsb' 33 2, extended := x.getLsbD 32, pack := x.getLsbD 31,
    control := x.getLsbD 30, ladles := bitsOf x 29 24, w1 := bitsOf x 2 0, w2 := bitsOf x 5 3, reads := [], writes := [],
    board := bitsOf g 53 42, package := bitsOf g 41 32, watchdog := bitsOf g 25 20, rank := bitsOf g 19 10,
    members := if bitsOf g 9 0 = 0 then 1024 else bitsOf g 9 0 }

/-- The first range entry of a descriptor, and its read and write ranges. -/
def descriptorFirst (w : List Word64) : Nat := bitsOf (w.getD 3 0) 15 0
def descriptorReads (w : List Word64) : Nat := bitsOf (w.getD 3 0) 23 16
def descriptorWrites (w : List Word64) : Nat := bitsOf (w.getD 3 0) 31 24
def descriptorRanges (w : List Word64) : Nat := descriptorReads w + descriptorWrites w

/-- A reserved bit is nonzero, or a field lies outside its range. -/
def descriptorBad (w : List Word64) : Bool :=
  let x := w.getD 2 0
  let m := descriptorOf w
  decide (w.getD 0 0 &&& ~~~fieldMask 56 2 ≠ 0) || decide (bitsOf (w.getD 1 0) 63 48 ≠ 0) || decide (m.count = 0)
  || decide (8 < m.args) || decide (524288 < m.scratch) || decide (bitsOf x 39 37 ≠ 0)
  || decide (m.ladles = 0) || decide ((if m.control then 31 else 32) < m.ladles)
  || decide (5 < m.w1) || decide (4 < m.w2) || decide (58 < bitsOf x 11 6) || decide (58 < bitsOf x 17 12) || decide (58 < bitsOf x 23 18)
  || decide (bitsOf (w.getD 3 0) 63 32 ≠ 0) || decide (16 < descriptorReads w) || decide (16 < descriptorWrites w)
  || (if m.gang then
        decide (bitsOf (w.getD 4 0) 63 54 ≠ 0) || decide (bitsOf (w.getD 4 0) 31 26 ≠ 0)
        || !(decide (m.watchdog = 0) || (decide (16 ≤ m.watchdog) && decide (m.watchdog ≤ 40)))
      else decide (w.getD 4 0 ≠ 0))
  || (w.drop 5).any (· != 0)

/-- Ladles of a casting, a control ladle counted. -/
def Mould.allLadles (m : Mould) : Nat := m.ladles + bit m.control

/-- A descriptor breaks R18. -/
def breaksWidths (w : List Word64) : Bool :=
  let m := descriptorOf w
  let x := w.getD 2 0
  let gangs := m.w2 + bitsOf x 11 6 + bitsOf x 17 12 + bitsOf x 23 18
  decide (2 ^ m.w1 < m.allLadles) || decide (64 < 5 + m.w1 + gangs) || decide (2 ^ gangs < m.count)
  || decide (256 < 2 ^ m.w2 * m.allLadles) || (m.control && decide (m.w2 ≠ 0))

/-- Save-slot bytes that a casting of a mould needs (R172): the extended block counts whenever the mould declares one. -/
def Mould.slotNeed (m : Mould) : Nat :=
  4096 + m.ladles * (0x3000 + 4096 * bit m.extended + padBytes m.scratch) + 0x2000 * bit m.control

/-- A gang mould that no member can run (R357). -/
def State.gangBad (s : State) (m : Mould) : Bool :=
  m.gang && (decide (m.members ≤ m.rank) || m.control || !(decide (m.package = s.pkg) || s.routed m.package))

/-- A descriptor is rejected for partition `p`. -/
def State.rejectsMould (s : State) (p : Nat) (w : List Word64) : Bool :=
  descriptorBad w || breaksWidths w || !(descriptorOf w).fits
  || decide (2 ^ (s.reg (rqReg p 6)).toNat < (descriptorOf w).slotNeed) || s.gangBad (descriptorOf w)

/-! ### Edges -/

/-- The edge of a word. -/
def edgeOf (x : Word64) : Nat × Nat := (bitsOf x 15 0, bitsOf x 31 16)

def edgeBad (n : Nat) (x : Word64) : Bool :=
  decide (bitsOf x 63 32 ≠ 0) || decide (n ≤ (edgeOf x).1) || decide (n ≤ (edgeOf x).2) || decide ((edgeOf x).1 = (edgeOf x).2)

/-- Moulds that no order of the edges can reach: what stays when moulds without a predecessor among the rest are taken away,
at most `k` times. -/
def unordered (edges : List (Nat × Nat)) : Nat → List Nat → List Nat
  | 0, l => l
  | k + 1, l => unordered edges k (l.filter (fun i => edges.any (fun e => e.2 == i && l.contains e.1)))

/-- The number of the first edge that lies on a cycle or behind one. -/
def cycleEdge (n : Nat) (edges : List (Nat × Nat)) : Option Nat :=
  let l := unordered edges n (List.range n)
  (List.range edges.length).find? (fun j => match edges[j]? with | some e => l.contains e.1 && l.contains e.2 | none => false)

/-! ### Range entries (R355) -/

def rangeOf (w : List Word64) : Range :=
  let x := w.getD 0 0
  { mult := x.extractLsb' 16 16, lenArg := x.extractLsb' 5 3, la := x.getLsbD 4, baseArg := x.extractLsb' 1 3, ba := x.getLsbD 0,
    base := w.getD 1 0, stride := w.getD 2 0, len := (w.getD 3 0).extractLsb' 0 40 }

def rangeBad (w : List Word64) : Bool :=
  decide (bitsOf (w.getD 0 0) 63 32 ≠ 0) || decide (bitsOf (w.getD 0 0) 15 8 ≠ 0) || decide (bitsOf (w.getD 3 0) 63 40 ≠ 0)

/-- A range names an argument at or above the mould's Args. -/
def Range.beyond (r : Range) (args : Nat) : Bool :=
  (r.ba && decide (args ≤ r.baseArg.toNat)) || (r.la && decide (args ≤ r.lenArg.toNat))

/-- The lowest-numbered mould whose ranges include an entry; 0xffff where none does. -/
def rangeOwner (ds : List (List Word64)) (k : Nat) : Nat :=
  ((List.range ds.length).find? (fun i =>
    let w := ds.getD i []
    decide (descriptorFirst w ≤ k) && decide (k < descriptorFirst w + descriptorRanges w))).getD 0xffff

/-! ### Reading an image (R357) -/

/-- Run a check that may reject over a list, in order. -/
def rejectAll (f : α → Except Rejection β) : List α → Except Rejection (List β)
  | [] => .ok []
  | a :: r => match f a with
    | .error e => .error e
    | .ok b => match rejectAll f r with | .error e => .error e | .ok bs => .ok (b :: bs)

/-- Descriptor `i` of an image. -/
def State.readDescriptor (s : State) (p image i : Nat) : Except Rejection (List Word64) :=
  let a := image + 0x40 + 64 * i
  match s.readWords p a 8 with
  | none => .error (i, a)
  | some w => if s.rejectsMould p w then .error (i, a) else .ok w

/-- Edge `j` of an image of `n` moulds. -/
def State.readEdge (s : State) (p image n j : Nat) : Except Rejection (Nat × Nat) :=
  let a := image + 0x40 + 64 * n + 8 * j
  match s.readWords p a 1 with
  | none => .error (0xffff, a)
  | some w => if edgeBad n (w.headD 0) then .error (0xffff, a) else .ok (edgeOf (w.headD 0))

/-- Range entry `k`, whose entries start at `base`. -/
def State.readRange (s : State) (p base : Nat) (ds : List (List Word64)) (k : Nat) : Except Rejection Range :=
  let a := base + 32 * k
  match s.readWords p a 4 with
  | none => .error (rangeOwner ds k, a)
  | some w => if rangeBad w then .error (rangeOwner ds k, a) else .ok (rangeOf w)

/-- Mould `i` with its ranges: a rejection names the range entry that lies beyond the count, or that names an argument too many. -/
def finishMould (base : Nat) (ds : List (List Word64)) (ranges : List Range) (i : Nat) : Except Rejection Mould :=
  let w := ds.getD i []
  let m := descriptorOf w
  let first := descriptorFirst w
  let beyond := max first ranges.length
  if beyond < first + descriptorRanges w then .error (rangeOwner ds beyond, base + 32 * beyond)
  else
    let own := (ranges.drop first).take (descriptorRanges w)
    match (List.range own.length).find? (fun k => match own[k]? with | some r => r.beyond m.args | none => false) with
    | some k => .error (rangeOwner ds (first + k), base + 32 * (first + k))
    | none => .ok { m with reads := own.take (descriptorReads w), writes := own.drop (descriptorReads w) }

/-- Read and check an image: its moulds, its edges and its relaunch policy, or where it is rejected. -/
def State.readImage (s : State) (p image : Nat) : Except Rejection (List Mould × List (Nat × Nat) × Word64) :=
  match s.readWords p image 8 with
  | none => .error (0xffff, image)
  | some h =>
    if headerBad h then .error (0xffff, image)
    else
      let n := headerMoulds h
      let edgesAt := image + 0x40 + 64 * n
      let base := edgesAt + 8 * headerEdges h
      match rejectAll (s.readDescriptor p image) (List.range n) with
      | .error e => .error e
      | .ok ds =>
        match rejectAll (s.readEdge p image n) (List.range (headerEdges h)) with
        | .error e => .error e
        | .ok edges =>
          match cycleEdge n edges with
          | some j => .error (0xffff, edgesAt + 8 * j)
          | none =>
            match rejectAll (s.readRange p base ds) (List.range (headerRanges h)) with
            | .error e => .error e
            | .ok ranges => (rejectAll (finishMould base ds ranges) (List.range n)).map (fun ms => (ms, edges, h.getD 1 0))

/-! ### Readiness (R358) -/

def MouldRun.start : MouldRun := { ready := false, since := 0, clock := 0, next := 0, committed := 0 }
def Graph.run (g : Graph) (i : Nat) : MouldRun := FMap.get MouldRun.start g.runs i
def Graph.setRun (g : Graph) (i : Nat) (r : MouldRun) : Graph := { g with runs := FMap.set MouldRun.start g.runs i r }

/-- Cluster gangs of a mould, and those of them that this package runs: in a gang mould every m-th, from its rank on (R368). -/
def Mould.gangs (m : Mould) : Nat := (m.count + 2 ^ m.w2 - 1) / 2 ^ m.w2
def Mould.ownGangs (m : Mould) : Nat :=
  if m.gang then (if m.rank < m.gangs then (m.gangs - 1 - m.rank) / m.members + 1 else 0) else m.gangs

/-- This package runs casting `c` of a mould. -/
def Mould.runs (m : Mould) (c : Nat) : Bool := decide (c < m.count) && (!m.gang || decide (c / 2 ^ m.w2 % m.members = m.rank))

/-- Castings of a mould that this package runs; the last cluster gang may be partial (R21). -/
def Mould.ownCount (m : Mould) : Nat :=
  m.ownGangs * 2 ^ m.w2 - (if m.runs (m.count - 1) then m.gangs * 2 ^ m.w2 - m.count else 0)

/-- The first casting index at or above `i` that this package runs. -/
def Mould.nextIndex (m : Mould) (i : Nat) : Option Nat :=
  let q := i / 2 ^ m.w2
  let c := if m.runs i then i else if m.gang then (q + (m.rank + m.members - q % m.members) % m.members) * 2 ^ m.w2 else i
  if m.runs c && decide (i ≤ c) then some c else none

/-- Every casting of mould `i` that this package runs has been committed. -/
def Graph.mouldDone (g : Graph) (i : Nat) : Bool :=
  match g.moulds[i]? with
  | some m => (g.run i).ready && decide (m.ownCount ≤ (g.run i).committed)
  | none => false

/-- Moulds that become ready: not ready yet, and every predecessor done. -/
def Graph.due (g : Graph) : List Nat :=
  (List.range g.moulds.length).filter (fun i => !(g.run i).ready && (g.edges.filter (fun e => e.2 == i)).all (fun e => g.mouldDone e.1))

/-- Moulds that are due become ready at a slot. A mould with no casting on this package is done as it becomes ready, and may
make others due: at most once for each mould. -/
def Graph.makeReady (t : Nat) (clock : Word64) : Nat → Graph → Graph
  | 0, g => g
  | n + 1, g =>
    match g.due with
    | [] => g
    | l => Graph.makeReady t clock n (l.foldl (fun g i => g.setRun i { MouldRun.start with ready := true, since := t, clock := clock }) g)

def Graph.ready (g : Graph) (t : Nat) (clock : Word64) : Graph := Graph.makeReady t clock g.moulds.length g

/-! ### The end of a graph (R357, R365, R413) -/

/-- The completion write, and the interrupt that follows it on the link that the graph's record came through; one that cannot be made is
lost. -/
def State.completionWrite (s : State) (g : Graph) : State :=
  if g.completion = 0 then s
  else
    match s.walkAddr g.part g.completion.toNat .write with
    | none => s.modLq g.part (fun c => { c with lost := c.lost + 1 })
    | some pa =>
      let t := (s.correctWalk g.part g.completion.toNat).commitWord pa 8 g.value.toNat
      if g.ci then t.interrupt g.link g.function g.vector else t

/-- A graph that has ended leaves the pool, with the barriers and starts of its moulds. -/
def State.removeGraph (s : State) (uid : Nat) : State :=
  { s with
    graphs := s.graphs.filter (fun g => g.uid != uid), barriers := s.barriers.filter (fun b => b.group / 2 ^ 80 != uid),
    gangs := s.gangs.filter (fun e => e.graph != uid) }

/-- A gang mould's start is on record (R368). -/
def GangStart.isOf (e : GangStart) (graph mould : Nat) : Bool := decide (e.graph = graph) && decide (e.mould = mould)

def GangStart.fresh (graph mould : Nat) : GangStart :=
  { graph := graph, mould := mould, posted := false, watchdog := false, outcome := none, started := false }

/-- A ready gang mould with no casting on this package starts too: its member posts with nothing to hold (R368). -/
def State.openStarts (s : State) (uid : Nat) : State :=
  match s.graph? uid with
  | some g =>
    { s with gangs := s.gangs ++ ((List.range g.moulds.length).filter (fun i =>
        (g.run i).ready && g.moulds[i]?.any (fun m => m.gang && decide (m.ownGangs = 0)) && !s.gangs.any (·.isOf uid i))).map (GangStart.fresh uid) }
  | none => s

/-- A graph commits when every mould of it is done, and every start of it has been posted. -/
def State.commitGraph (s : State) (uid : Nat) : State :=
  match s.graph? uid with
  | some g =>
    if !g.dead && (List.range g.moulds.length).all g.mouldDone && s.gangs.all (fun e => e.posted || decide (e.graph ≠ uid)) then (s.completionWrite g).removeGraph uid else s
  | none => s

/-- A graph that can no longer commit ends once no casting of it is left, and none that had become ready waits. -/
def State.endGraph (s : State) (uid : Nat) : State :=
  match s.graph? uid with
  | some g =>
    if g.dead && !s.castings.any (fun c => decide (c.graph = uid))
        && (List.range g.moulds.length).all (fun i => !(g.run i).ready || (match g.moulds[i]? with | some m => (m.nextIndex (g.run i).next).isNone | none => true)) then
      s.removeGraph uid
    else s
  | none => s

/-! ### GRAPH_LOAD -/

/-- A rejection writes one report with cause 0x10 (R357, R412). -/
def State.rejectGraph (s : State) (p : Nat) (image : Word64) (mould pc : Nat) : State :=
  s.report p mould 0x10 0xff 0xff 7 image 0 (BitVec.ofNat 64 pc)

/-- A loaded graph, with the moulds that have no predecessor ready. -/
def State.addGraph (s : State) (p : Nat) (r : LaunchRec) (args : Vector Word64 8) (e : List Mould × List (Nat × Nat) × Word64) : State :=
  let w := r.words
  let g : Graph := {
    uid := s.nextUid, part := p, image := recordImage w, moulds := e.1, edges := e.2.1, policy := e.2.2, args := args,
    priority := bitsOf (w.getD 0 0) 63 60, completion := w.getD 2 0, value := w.getD 3 0, ci := (w.getD 4 0).getLsbD 0,
    vector := bitsOf (w.getD 4 0) 13 8, function := r.function, link := r.link, privileged := r.privileged, runs := [], dead := false, lost := [] }
  (({ s with graphs := s.graphs ++ [g.ready s.ticks s.service], nextUid := s.nextUid + 1 } : State).openStarts g.uid).commitGraph g.uid

/-- The reads of a load correct what they pass (R337): the arguments, the header, and what it counts. -/
def State.correctImage (s : State) (p : Nat) (r : LaunchRec) : State :=
  let args := bitsOf (r.words.getD 1 0) 56 6 * 64
  let image := (recordImage r.words).toNat
  let t := if args = 0 then s else s.correctRange p .read args 64
  let t := t.correctRange p .read image 64
  match t.readWords p image 8 with
  | some h => if headerBad h then t
      else t.correctRange p .read (image + 64) (64 * headerMoulds h + 8 * headerEdges h + 32 * headerRanges h)
  | none => t

/-- Load the graph of a launch record, or report its rejection. -/
def State.loadRecord (s : State) (p : Nat) (r : LaunchRec) : State :=
  let image := recordImage r.words
  let s := if recordBad r.words then s else s.correctImage p r
  if recordBad r.words then s.rejectGraph p image 0xffff 0
  else
    match s.recordArgs p r.words with
    | none => s.rejectGraph p image 0xffff (bitsOf (r.words.getD 1 0) 56 6 * 64)
    | some args =>
      match s.readImage p image.toNat with
      | .error e => s.rejectGraph p image e.1 e.2
      | .ok e => s.addGraph p r args e

/-- Graphs of a partition that have not ended: all that the pool keeps (R357). -/
def State.graphsOf (s : State) (p : Nat) : Nat := (s.graphs.filter (fun g => decide (g.part = p))).length

/-- GRAPH_LOAD: the pool takes the oldest record, unless 64 graphs of the partition have not ended. -/
def execGraphLoad (part : Nat) (s : State) : Result :=
  match s.queueOf part with
  | [] => .next s
  | r :: q =>
    if !s.accepting || decide (64 ≤ s.graphsOf part) then .next s
    else .next (({ s with launch := FMap.set [] s.launch part q } : State).loadRecord part r)

end Sys2Proof.Machine
end

