-- ==== Sys2Proof/Machine/LaneInt.lean ====
section
/-!
DEFINITION. Lane instructions: integer arithmetic, bit fields, comparisons, masks, selection, immediates and moves (R79 to
R89).
-/

namespace Sys2Proof.Machine

/-! ### The shared shape of a lane instruction (R54, R55, R73, R334) -/

/-- A ladle in opportunistic placement: neither half, nor shadowed (R333). -/
def Ladle.opportunistic (l : Ladle) : Bool := !l.half && l.shadow.isNone

/-- A completed integer-pipe or floating-pipe instruction enters the replay queue; a seventeenth pushes the oldest out (R334). -/
def Ladle.logReplay (l : Ladle) (r : Replay) : Ladle :=
  if l.opportunistic then
    let q := l.replay ++ [r]
    { l with replay := q.drop (q.length - 16) }
  else l

/-- Mask registers and uniform registers that an integer-pipe instruction reads as operands, beside its active mask. -/
def maskOperands (i : Instr) : List (BitVec 3) :=
  match i with
  | .kand _ _ a b => [a, b]
  | .kor _ _ a b => [a, b]
  | .kxor _ _ a b => [a, b]
  | .kandn _ _ a b => [a, b]
  | .sel k _ _ _ _ => [k]
  | .movFromMask _ _ _ a => [a]
  | _ => []
def scalarOperands (i : Instr) : List (BitVec 6) := match i with | .movBroadcast _ _ _ a => [a] | _ => []

/-- The replay entry of an instruction of the issuing split. -/
def Ladle.replayOf (l : Ladle) (i : Instr) (ops : List (BitVec 6)) (act : Word32) (out : Ladle) (d : BitVec 6) (k : BitVec 3)
    (e : Exc) : Replay :=
  { pc := l.sp.pc, instr := i, operands := ops.map l.getV, masks := (maskOperands i).map l.getK,
    scalars := (scalarOperands i).map l.getS, active := act, fmode := l.fmode, result := out.getV d,
    maskResult := out.getK k, exceptions := e }

/-- An integer lane instruction: each active lane's destination takes a value of the registers before it. -/
def State.laneInt (s : State) (i : Instr) (k : BitVec 3) (d : BitVec 6) (ops : List (BitVec 6)) (f : Ladle → Nat → Word32) : State :=
  s.laneWord (d :: ops) (fun s =>
    let l := s.me
    let act := l.active k
    s.done (fun x => let out := x.setV d act (f l); out.logReplay (l.replayOf i (d :: ops) act out d 0 0)))

/-- An instruction that writes a mask in every lane of the issuing split (R55). -/
def State.maskOp (s : State) (i : Instr) (k : BitVec 3) (ops : List (BitVec 6)) (f : Ladle → Nat → Bool) : State :=
  s.laneWord ops (fun s =>
    let l := s.me
    s.done (fun x => let out := x.setK k l.sp.mask (laneMask (f l)); out.logReplay (l.replayOf i ops l.sp.mask out 0 k 0)))

/-- A two-operand integer instruction on words. -/
def State.intOp (s : State) (i : Instr) (k : BitVec 3) (d a b : BitVec 6) (f : Word32 → Word32 → Word32) : State :=
  s.laneInt i k d [a, b] (fun l j => f (laneAt (l.getV a) j) (laneAt (l.getV b) j))

/-- A one-operand integer instruction on words. -/
def State.intOp1 (s : State) (i : Instr) (k : BitVec 3) (d a : BitVec 6) (f : Word32 → Word32) : State :=
  s.laneInt i k d [a] (fun l j => f (laneAt (l.getV a) j))

/-- An immediate sign-extended to 32 bits (R52). -/
def imm10 (i : BitVec 10) : Word32 := i.signExtend 32

/-! ### Integer arithmetic (R79) -/

def execIaddI32 (k : BitVec 3) (h : BitVec 2) (d a b : BitVec 6) (s : State) : Result :=
  .next (s.intOp (.iaddI32 k h d a b) k d a b (fun x y => x + y))
def execIaddSatI32 (k : BitVec 3) (h : BitVec 2) (d a b : BitVec 6) (s : State) : Result :=
  .next (s.intOp (.iaddSatI32 k h d a b) k d a b (fun x y => satS 32 (x.toInt + y.toInt)))
def execIaddSatN32 (k : BitVec 3) (h : BitVec 2) (d a b : BitVec 6) (s : State) : Result :=
  .next (s.intOp (.iaddSatN32 k h d a b) k d a b (fun x y => satN 32 ((x.toNat : Int) + y.toNat)))
def execIsubI32 (k : BitVec 3) (h : BitVec 2) (d a b : BitVec 6) (s : State) : Result :=
  .next (s.intOp (.isubI32 k h d a b) k d a b (fun x y => x - y))
def execIsubSatI32 (k : BitVec 3) (h : BitVec 2) (d a b : BitVec 6) (s : State) : Result :=
  .next (s.intOp (.isubSatI32 k h d a b) k d a b (fun x y => satS 32 (x.toInt - y.toInt)))
def execIsubSatN32 (k : BitVec 3) (h : BitVec 2) (d a b : BitVec 6) (s : State) : Result :=
  .next (s.intOp (.isubSatN32 k h d a b) k d a b (fun x y => satN 32 ((x.toNat : Int) - y.toNat)))
def execImulLo (k : BitVec 3) (h : BitVec 2) (d a b : BitVec 6) (s : State) : Result :=
  .next (s.intOp (.imulLo k h d a b) k d a b (fun x y => x * y))
def execImulHiI32 (k : BitVec 3) (h : BitVec 2) (d a b : BitVec 6) (s : State) : Result :=
  .next (s.intOp (.imulHiI32 k h d a b) k d a b (fun x y => mulHi 32 x.toInt y.toInt))
def execImulHiN32 (k : BitVec 3) (h : BitVec 2) (d a b : BitVec 6) (s : State) : Result :=
  .next (s.intOp (.imulHiN32 k h d a b) k d a b (fun x y => mulHi 32 x.toNat y.toNat))
/-- `imad` reads its destination as the third operand. -/
def execImad (k : BitVec 3) (h : BitVec 2) (d a b : BitVec 6) (s : State) : Result :=
  .next (s.laneInt (.imad k h d a b) k d [a, b]
    (fun l j => laneAt (l.getV a) j * laneAt (l.getV b) j + laneAt (l.getV d) j))
def execIminI32 (k : BitVec 3) (h : BitVec 2) (d a b : BitVec 6) (s : State) : Result :=
  .next (s.intOp (.iminI32 k h d a b) k d a b (fun x y => if x.toInt ≤ y.toInt then x else y))
def execImaxI32 (k : BitVec 3) (h : BitVec 2) (d a b : BitVec 6) (s : State) : Result :=
  .next (s.intOp (.imaxI32 k h d a b) k d a b (fun x y => if x.toInt ≤ y.toInt then y else x))
def execIminN32 (k : BitVec 3) (h : BitVec 2) (d a b : BitVec 6) (s : State) : Result :=
  .next (s.intOp (.iminN32 k h d a b) k d a b (fun x y => if x.toNat ≤ y.toNat then x else y))
def execImaxN32 (k : BitVec 3) (h : BitVec 2) (d a b : BitVec 6) (s : State) : Result :=
  .next (s.intOp (.imaxN32 k h d a b) k d a b (fun x y => if x.toNat ≤ y.toNat then y else x))
def execAnd (k : BitVec 3) (h : BitVec 2) (d a b : BitVec 6) (s : State) : Result :=
  .next (s.intOp (.and k h d a b) k d a b (fun x y => x &&& y))
def execOr (k : BitVec 3) (h : BitVec 2) (d a b : BitVec 6) (s : State) : Result :=
  .next (s.intOp (.or k h d a b) k d a b (fun x y => x ||| y))
def execXor (k : BitVec 3) (h : BitVec 2) (d a b : BitVec 6) (s : State) : Result :=
  .next (s.intOp (.xor k h d a b) k d a b (fun x y => x ^^^ y))
def execAndn (k : BitVec 3) (h : BitVec 2) (d a b : BitVec 6) (s : State) : Result :=
  .next (s.intOp (.andn k h d a b) k d a b (fun x y => x &&& ~~~y))

/-! ### Shifts, counts and bit fields (R80 to R82) -/

def execShl (k : BitVec 3) (h : BitVec 2) (d a b : BitVec 6) (s : State) : Result :=
  .next (s.intOp (.shl k h d a b) k d a b (fun x y => shiftL x y.toNat))
def execShr (k : BitVec 3) (h : BitVec 2) (d a b : BitVec 6) (s : State) : Result :=
  .next (s.intOp (.shr k h d a b) k d a b (fun x y => shiftR x y.toNat))
def execSha (k : BitVec 3) (h : BitVec 2) (d a b : BitVec 6) (s : State) : Result :=
  .next (s.intOp (.sha k h d a b) k d a b (fun x y => shiftA x y.toNat))
def execRot (k : BitVec 3) (h : BitVec 2) (d a b : BitVec 6) (s : State) : Result :=
  .next (s.intOp (.rot k h d a b) k d a b (fun x y => rotL x y.toNat))
def execClz (k : BitVec 3) (h : BitVec 2) (d a : BitVec 6) (s : State) : Result :=
  .next (s.intOp1 (.clz k h d a) k d a (fun x => BitVec.ofNat 32 (leadingZeros x 32)))
def execPopc (k : BitVec 3) (h : BitVec 2) (d a : BitVec 6) (s : State) : Result :=
  .next (s.intOp1 (.popc k h d a) k d a (fun x => BitVec.ofNat 32 (popc x)))
def execBrev (k : BitVec 3) (h : BitVec 2) (d a : BitVec 6) (s : State) : Result :=
  .next (s.intOp1 (.brev k h d a) k d a (fun x => reverseBits x))
def execFfs (k : BitVec 3) (h : BitVec 2) (d a : BitVec 6) (s : State) : Result :=
  .next (s.intOp1 (.ffs k h d a) k d a (fun x => BitVec.ofNat 32 (findFirst x 32)))
def execBfxI32 (k : BitVec 3) (h : BitVec 2) (d a b : BitVec 6) (s : State) : Result :=
  .next (s.intOp (.bfxI32 k h d a b) k d a b (bitFieldExtract true))
def execBfxN32 (k : BitVec 3) (h : BitVec 2) (d a b : BitVec 6) (s : State) : Result :=
  .next (s.intOp (.bfxN32 k h d a b) k d a b (bitFieldExtract false))
def execBfi (k : BitVec 3) (h : BitVec 2) (d a b : BitVec 6) (s : State) : Result :=
  .next (s.intOp (.bfi k h d a b) k d a b bitFieldInsert)

/-! ### Comparisons, masks and selection (R83 to R86) -/

/-- `icmp` by fn: eq, ne, lt, le, signed. -/
def compareI (f : BitVec 2) (x y : Word32) : Bool :=
  match f.toNat with
  | 0 => x == y
  | 1 => x != y
  | 2 => decide (x.toInt < y.toInt)
  | _ => decide (x.toInt ≤ y.toInt)

/-- `icmpn` by fn: lt, le, gt, ge, unsigned. -/
def compareN (f : BitVec 2) (x y : Word32) : Bool :=
  match f.toNat with
  | 0 => decide (x.toNat < y.toNat)
  | 1 => decide (x.toNat ≤ y.toNat)
  | 2 => decide (y.toNat < x.toNat)
  | _ => decide (y.toNat ≤ x.toNat)

/-- `icmpi` by condition: eq, ne, lt, le, gt, ge signed; lt.n32, ge.n32 unsigned. -/
def compareImm (f : BitVec 3) (x y : Word32) : Bool :=
  match f.toNat with
  | 0 => x == y
  | 1 => x != y
  | 2 => decide (x.toInt < y.toInt)
  | 3 => decide (x.toInt ≤ y.toInt)
  | 4 => decide (y.toInt < x.toInt)
  | 5 => decide (y.toInt ≤ x.toInt)
  | 6 => decide (x.toNat < y.toNat)
  | _ => decide (y.toNat ≤ x.toNat)

def execIcmp (k : BitVec 3) (h f : BitVec 2) (a b : BitVec 6) (s : State) : Result :=
  .next (s.maskOp (.icmp k h f a b) k [a, b] (fun l j => compareI f (laneAt (l.getV a) j) (laneAt (l.getV b) j)))
def execIcmpn (k : BitVec 3) (h f : BitVec 2) (a b : BitVec 6) (s : State) : Result :=
  .next (s.maskOp (.icmpn k h f a b) k [a, b] (fun l j => compareN f (laneAt (l.getV a) j) (laneAt (l.getV b) j)))
def execIcmpi (k f : BitVec 3) (a : BitVec 6) (i : BitVec 10) (s : State) : Result :=
  .next (s.maskOp (.icmpi k f a i) k [a] (fun l j => compareImm f (laneAt (l.getV a) j) (imm10 i)))

/-- `sel` writes every lane of the split: va where the selector is set, vb elsewhere (R85). -/
def execSel (k : BitVec 3) (h : BitVec 2) (d a b : BitVec 6) (s : State) : Result :=
  .next (s.laneWord [d, a, b] (fun s =>
    let l := s.me
    s.done (fun x =>
      let out := x.setV d l.sp.mask (fun j => if (l.getK k).getLsbD j then laneAt (l.getV a) j else laneAt (l.getV b) j)
      out.logReplay (l.replayOf (.sel k h d a b) [d, a, b] l.sp.mask out d 0 0))))

def execKand (k : BitVec 3) (h : BitVec 2) (a b : BitVec 3) (s : State) : Result :=
  .next (s.maskOp (.kand k h a b) k [] (fun l j => (l.getK a &&& l.getK b).getLsbD j))
def execKor (k : BitVec 3) (h : BitVec 2) (a b : BitVec 3) (s : State) : Result :=
  .next (s.maskOp (.kor k h a b) k [] (fun l j => (l.getK a ||| l.getK b).getLsbD j))
def execKxor (k : BitVec 3) (h : BitVec 2) (a b : BitVec 3) (s : State) : Result :=
  .next (s.maskOp (.kxor k h a b) k [] (fun l j => (l.getK a ^^^ l.getK b).getLsbD j))
def execKandn (k : BitVec 3) (h : BitVec 2) (a b : BitVec 3) (s : State) : Result :=
  .next (s.maskOp (.kandn k h a b) k [] (fun l j => (l.getK a &&& ~~~(l.getK b)).getLsbD j))

/-! ### Immediates and moves (R87 to R89) -/

def execIaddi (k : BitVec 3) (d a : BitVec 6) (i : BitVec 10) (s : State) : Result :=
  .next (s.intOp1 (.iaddi k d a i) k d a (fun x => x + imm10 i))
def execImuli (k : BitVec 3) (d a : BitVec 6) (i : BitVec 10) (s : State) : Result :=
  .next (s.intOp1 (.imuli k d a i) k d a (fun x => x * imm10 i))
def execAndi (k : BitVec 3) (d a : BitVec 6) (i : BitVec 10) (s : State) : Result :=
  .next (s.intOp1 (.andi k d a i) k d a (fun x => x &&& imm10 i))
def execOri (k : BitVec 3) (d a : BitVec 6) (i : BitVec 10) (s : State) : Result :=
  .next (s.intOp1 (.ori k d a i) k d a (fun x => x ||| imm10 i))
def execXori (k : BitVec 3) (d a : BitVec 6) (i : BitVec 10) (s : State) : Result :=
  .next (s.intOp1 (.xori k d a i) k d a (fun x => x ^^^ imm10 i))
def execShifti (k : BitVec 3) (d a : BitVec 6) (t : BitVec 2) (n : BitVec 5) (s : State) : Result :=
  .next (s.intOp1 (.shifti k d a t n) k d a (fun x => shiftBy t x n.toNat))
def execMovi (k : BitVec 3) (d : BitVec 6) (i : BitVec 16) (s : State) : Result :=
  .next (s.laneInt (.movi k d i) k d [] (fun _ _ => i.zeroExtend 32))
/-- `movhi` replaces bits [31:16] and keeps bits [15:0]. -/
def execMovhi (k : BitVec 3) (d : BitVec 6) (i : BitVec 16) (s : State) : Result :=
  .next (s.laneInt (.movhi k d i) k d [] (fun l j => i ++ (laneAt (l.getV d) j).extractLsb' 0 16))
def execMov (k : BitVec 3) (h : BitVec 2) (d a : BitVec 6) (s : State) : Result :=
  .next (s.intOp1 (.mov k h d a) k d a (fun x => x))
/-- `mov vd, sa`: the low word of a uniform register in every lane. -/
def execMovBroadcast (k : BitVec 3) (h : BitVec 2) (d a : BitVec 6) (s : State) : Result :=
  .next (s.laneInt (.movBroadcast k h d a) k d [] (fun l _ => (l.getS a).setWidth 32))
def execMovFromMask (k : BitVec 3) (h : BitVec 2) (d : BitVec 6) (a : BitVec 3) (s : State) : Result :=
  .next (s.laneInt (.movFromMask k h d a) k d [] (fun l j => if (l.getK a).getLsbD j then 1#32 else 0#32))

end Sys2Proof.Machine
end

