-- ==== Sys2Proof/Machine/Special.lean ====
section
/-!
DEFINITION. The special functions of `fsfu`: exact results, special operands, and the accuracy bounds that hold a free
value (R99).
-/

namespace Sys2Proof.Machine

/-- The integer square root, bit by bit from bit n - 1 down. -/
def sqrtBits (x : Nat) : Nat → Nat → Nat
  | 0, r => r
  | n + 1, r => sqrtBits x n (if (r + 2 ^ n) * (r + 2 ^ n) ≤ x then r + 2 ^ n else r)

/-- √(m · 2^e) as a number with at least 38 bits and a sticky last bit. -/
def sqrtNum (m : Nat) (e : Int) : Num :=
  let m2 := if e % 2 = 0 then m else 2 * m
  let e2 := if e % 2 = 0 then e else e - 1
  let n := m2 * 2 ^ 76
  let r := sqrtBits n 52 0
  .fin false (2 * r + bit (decide (r * r ≠ n))) (e2 / 2 - 38 - 1)

/-- 1 / √(m · 2^e) with a sticky last bit: r is the whole part of 2^60 / √m. -/
def rsqrtNum (m : Nat) (e : Int) : Num :=
  let m2 := if e % 2 = 0 then m else 2 * m
  let e2 := if e % 2 = 0 then e else e - 1
  let r := sqrtBits (2 ^ 120 / m2) 61 0
  .fin false (2 * r + bit (decide (r * r * m2 ≠ 2 ^ 120))) (-(e2 / 2) - 61)

/-- n / d · 2^e with a sticky last bit. -/
def divNum (neg : Bool) (n d : Nat) (e : Int) : Num :=
  let q := n * 2 ^ 80 / d
  .fin neg (2 * q + bit (decide (n * 2 ^ 80 % d ≠ 0))) (e - 81)

/-- A code at most one unit in the last place from the exact result `x`, chosen by a free value: between the two codes
that bracket it, or the code itself and its neighbours where it is exact. DESIGN CHOICE (log 8): R99 does not say what one unit is at a power of
two; here it is the step to the next code on either side. -/
def withinUlp (x : Num) (free : Word32) : Word32 :=
  match x with
  | .fin n m e =>
    let t := f32.roundFin .tz false m e
    let lo := if t.2 = 0 then t.1 - 1 else t.1
    let hi := min (t.1 + 1) f32.maxCode
    BitVec.ofNat 32 (f32.signed n (lo + free.toNat % (hi + 1 - lo)))
  | _ => free

/-! The values that R99 bounds, as fixed-point numbers with 256 fraction bits. Their error is far below the slack that
`ulpTol` and `absTol` allow, so no result that the bound admits is shut out. -/

/-- 1 in fixed point. -/
def fxOne : Int := 2 ^ 256

/-- A product in fixed point. -/
def fxMul (x y : Int) : Int := x * y / fxOne

/-- 2π, ln 2 and 1 / ln 2. -/
def fxTwoPi : Int := 727543153783532648560469885555459725306786754656784859917544302235877788932371
def fxLn2 : Int := 80260960185991308862233904206310070533990667611589946606122867505419956976172
def fxLog2e : Int := 167052672916848388242985626561247531987276682633131050150846402744536260568208

/-- An F32 value (its exponent is at least -149). -/
def toFx (neg : Bool) (m : Nat) (e : Int) : Int := (if neg then -1 else 1) * ((m * 2 ^ (e + 256).toNat : Nat) : Int)

/-- `n` further terms of a series: each is the last times `y` over (i + 1)(i + 2) or, with `step` 1, over i + 1. -/
def fxSeries (y : Int) (step : Nat) : Nat → Nat → Int → Int → Int
  | 0, _, _, acc => acc
  | n + 1, i, t, acc =>
    let t' := fxMul t y / ((if step = 1 then i + 1 else (i + 1) * (i + 2) : Nat) : Int)
    fxSeries y step n (i + step) t' (acc + t')

/-- 2^x; below 2^-400 it is 0 here. -/
def exp2Fx (x : Int) : Int :=
  let n := x / fxOne
  let r := fxSeries (fxMul (x % fxOne) fxLn2) 1 60 0 fxOne fxOne
  if n < -400 then 0 else if 0 ≤ n then r * 2 ^ n.toNat else r / 2 ^ (-n).toNat

/-- The sum of z^(2i+1) / (2i+1), by terms. -/
def fxAtanh (z2 : Int) : Nat → Nat → Int → Int → Int
  | 0, _, _, acc => acc
  | n + 1, i, p, acc => fxAtanh z2 n (i + 2) (fxMul p z2) (acc + p / (i : Int))

/-- log2 (m · 2^e): the argument is brought into [3/4, 3/2). -/
def log2Fx (m : Nat) (e : Int) : Int :=
  let l := Nat.log2 m
  let y : Int := (m * 2 ^ (256 - l) : Nat)
  let big := decide (3 * fxOne ≤ 2 * y)
  let y := if big then y / 2 else y
  let z := (y - fxOne) * fxOne / (y + fxOne)
  (e + (l : Int) + (if big then 1 else 0)) * fxOne + fxMul (2 * fxAtanh (fxMul z z) 64 1 z 0) fxLog2e

/-- sin and cos of m · 2^e reduced modulo 2π. -/
def sinFx (neg : Bool) (m : Nat) (e : Int) : Int :=
  let r := toFx false m e % fxTwoPi
  (if neg then -1 else 1) * fxSeries (-(fxMul r r)) 2 45 1 r r
def cosFx (m : Nat) (e : Int) : Int :=
  let r := toFx false m e % fxTwoPi
  fxSeries (-(fxMul r r)) 2 45 0 fxOne fxOne

/-- tanh x = (e^2x - 1) / (e^2x + 1); from 32 up it is 1 here. -/
def tanhFx (neg : Bool) (m : Nat) (e : Int) : Int :=
  let x := toFx false m e
  let v := if 32 * fxOne ≤ x then fxOne
    else
      let p := exp2Fx (fxMul (2 * x) fxLog2e)
      (p - fxOne) * fxOne / (p + fxOne)
  (if neg then -1 else 1) * v

/-- Bounds in units of 2^-296: `k` units in the last place of the value `x`, and an absolute error of 2^-22, each with a slack. DESIGN CHOICE
(log 8): a unit is that of the binade of `x`. -/
def ulpTol (k : Nat) (x : Int) : Int := (k * 2 ^ 40 + 1) * 2 ^ (max (Nat.log2 x.natAbs - 23) 107)
def absTol : Int := (2 ^ 40 + 1) * 2 ^ 234

/-- A result within a bound of the value `x`: the free value where it lies there, else the nearest code. -/
def withinTol (x tol : Int) (free : Word32) : Word32 :=
  let near := BitVec.ofNat 32 (f32.roundFin .ne (decide (x < 0)) x.natAbs (-256)).1
  match f32.decode free.toNat with
  | .fin n m e => if 2 ^ 40 * (((toFx n m e - x).natAbs : Nat) : Int) ≤ tol then free else near
  | _ => near

/-- `fsfu` by function code on one operand, with its exceptions. A result that R99 fixes by a bound is read from
Config.sfuValue, inside the bound (log 8). -/
def sfu (fn : Nat) (a : Word32) : Word32 × Exc :=
  let free := Sys2Proof.Config.sfuValue fn a
  match f32.decode a.toNat with
  | .nan s => (nan32, excIf s excNV)
  | .inf n =>
    match fn with
    | 0 => (if n then 0x80000000#32 else 0, 0)
    | 1 => if n then (nan32, excNV) else (0, 0)
    | 2 => if n then (nan32, excNV) else (a, 0)
    | 3 => (if n then 0 else a, 0)
    | 4 => if n then (nan32, excNV) else (a, 0)
    | 5 => (nan32, excNV)
    | 6 => (nan32, excNV)
    | _ => (if n then 0xbf800000#32 else 0x3f800000#32, 0)
  | .fin n m e =>
    let inf32 := if n then 0xff800000#32 else 0x7f800000#32
    if m = 0 then
      match fn with
      | 0 => (inf32, excDZ)
      | 1 => (inf32, excDZ)
      | 2 => (a, 0)
      | 3 => (0x3f800000#32, 0)
      | 4 => (0xff800000#32, excDZ)
      | 5 => (a, 0)
      | 6 => (0x3f800000#32, 0)
      | _ => (a, 0)
    else
      match fn with
      | 0 => if bitsOf a 30 0 ≤ 0x00200000 then (inf32, excOF) else (withinUlp (divNum n 1 m (-e)) free, 0)
      | 1 =>
        if n then (nan32, excNV)
        else (withinUlp (rsqrtNum m e) free, 0)
      | 2 =>
        if n then (nan32, excNV)
        else match sqrtNum m e with
          | .fin _ r q => let t := f32.roundFin .ne false r q; (BitVec.ofNat 32 t.1, t.2)
          | _ => (free, 0)
      | 3 =>
        let r := quantize .tz n m e 0
        let v : Int := if n then -(r.1 : Int) else (r.1 : Int)
        if 128 ≤ v then (0x7f800000#32, excOF)
        else if r.2 = false ∧ -149 ≤ v then (BitVec.ofNat 32 (f32.roundFin .ne false 1 v).1, 0)
        else let x := exp2Fx (toFx n m e); (withinTol x (ulpTol 2 x) free, 0)
      | 4 =>
        if n then (nan32, excNV)
        else if m = 2 ^ Nat.log2 m then ((cvtFromInt .ne (e + (Nat.log2 m : Nat))).1, 0)
        else
          let x := log2Fx m e
          let near := decide (-1 ≤ e + (Nat.log2 m : Nat)) && decide (e + (Nat.log2 m : Nat) ≤ 0)
          (withinTol x (if near then min (ulpTol 2 x) absTol else ulpTol 2 x) free, 0)
      | 5 => (withinTol (sinFx n m e) absTol free, 0)
      | 6 => (withinTol (cosFx m e) absTol free, 0)
      | _ => let x := tanhFx n m e; (withinTol x (ulpTol 2 x) free, 0)

end Sys2Proof.Machine
end

