-- ==== Sys2Proof/Machine/LaneFloat.lean ====
section
/-!
DEFINITION. Lane instructions: floating point, conversions and the special functions (R90 to R99).
-/

namespace Sys2Proof.Machine

/-- The results of a lane function in the lanes of a mask, with their exceptions; nothing is computed elsewhere. -/
def laneResults (lanes : Word32) (f : Nat → Word32 × Exc) : Vector (Word32 × Exc) 32 :=
  Vector.ofFn (fun j : Fin 32 => if lanes.getLsbD j then f j else (0, 0))

/-- The union of the lanes' exceptions. -/
def resultExc (r : Vector (Word32 × Exc) 32) : Exc := r.toList.foldl (fun e x => e ||| x.2) 0

/-- The value of a lane. -/
def resultAt (r : Vector (Word32 × Exc) 32) (j : Nat) : Word32 := if h : j < 32 then (r[j]).1 else 0

/-- A floating lane instruction: one result and one set of exceptions a lane; a trap has no effect in any lane (R76). -/
def State.laneFloat (s : State) (i : Instr) (k : BitVec 3) (d : BitVec 6) (ops : List (BitVec 6))
    (f : Ladle → Nat → Word32 × Exc) : State :=
  s.laneWord (d :: ops) (fun s =>
    let l := s.me
    let act := l.active k
    let r := laneResults act (f l)
    s.arith (resultExc r) (fun x =>
      let out := x.setV d act (resultAt r)
      out.logReplay (l.replayOf i (d :: ops) act out d 0 (resultExc r))))

/-- A floating instruction that changes bits alone: it raises nothing (R78, R93). -/
def State.floatBits (s : State) (i : Instr) (k : BitVec 3) (d : BitVec 6) (ops : List (BitVec 6)) (f : Ladle → Nat → Word32) : State :=
  s.laneInt i k d ops f

/-- One of the five operations of R90 in the rounding mode %fmode holds (R77). -/
def State.floatOp (s : State) (i : Instr) (k : BitVec 3) (f : BitVec 2) (d a b : BitVec 6) (op : FOp) : State :=
  s.laneFloat i k d [a, b] (fun l j =>
    fopLane f op (fmodeRound l.fmode) (laneAt (l.getV a) j) (laneAt (l.getV b) j) (laneAt (l.getV d) j))

def execFadd (k : BitVec 3) (h f : BitVec 2) (d a b : BitVec 6) (s : State) : Result :=
  .next (s.floatOp (.fadd k h f d a b) k f d a b .add)
def execFsub (k : BitVec 3) (h f : BitVec 2) (d a b : BitVec 6) (s : State) : Result :=
  .next (s.floatOp (.fsub k h f d a b) k f d a b .sub)
def execFmul (k : BitVec 3) (h f : BitVec 2) (d a b : BitVec 6) (s : State) : Result :=
  .next (s.floatOp (.fmul k h f d a b) k f d a b .mul)
def execFfma (k : BitVec 3) (h f : BitVec 2) (d a b : BitVec 6) (s : State) : Result :=
  .next (s.floatOp (.ffma k h f d a b) k f d a b .fma)
def execFfms (k : BitVec 3) (h f : BitVec 2) (d a b : BitVec 6) (s : State) : Result :=
  .next (s.floatOp (.ffms k h f d a b) k f d a b .fms)

/-- A minimum or maximum of R91. -/
def State.floatMinMax (s : State) (i : Instr) (k : BitVec 3) (d a b : BitVec 6) (greater num : Bool) : State :=
  s.laneFloat i k d [a, b] (fun l j => minMaxF32 greater num (laneAt (l.getV a) j) (laneAt (l.getV b) j))

def execFmin (k : BitVec 3) (h : BitVec 2) (d a b : BitVec 6) (s : State) : Result :=
  .next (s.floatMinMax (.fmin k h d a b) k d a b false false)
def execFmax (k : BitVec 3) (h : BitVec 2) (d a b : BitVec 6) (s : State) : Result :=
  .next (s.floatMinMax (.fmax k h d a b) k d a b true false)
def execFminnum (k : BitVec 3) (h : BitVec 2) (d a b : BitVec 6) (s : State) : Result :=
  .next (s.floatMinMax (.fminnum k h d a b) k d a b false true)
def execFmaxnum (k : BitVec 3) (h : BitVec 2) (d a b : BitVec 6) (s : State) : Result :=
  .next (s.floatMinMax (.fmaxnum k h d a b) k d a b true true)

/-- `fcmp` writes a mask; an enabled NV trap is decided over all lanes of the split (R92). -/
def execFcmp (k : BitVec 3) (h f : BitVec 2) (a b : BitVec 6) (s : State) : Result :=
  .next (s.laneWord [a, b] (fun s =>
    let l := s.me
    let r := laneResults l.sp.mask (fun j =>
      let c := cmpF32 f (laneAt (l.getV a) j) (laneAt (l.getV b) j)
      (BitVec.ofNat 32 (bit c.1), c.2))
    s.arith (resultExc r) (fun x =>
      let out := x.setK k l.sp.mask (laneMask (fun j => (resultAt r j).getLsbD 0))
      out.logReplay (l.replayOf (.fcmp k h f a b) [a, b] l.sp.mask out 0 k (resultExc r)))))

def execFabs (k : BitVec 3) (h : BitVec 2) (d a : BitVec 6) (s : State) : Result :=
  .next (s.floatBits (.fabs k h d a) k d [a] (fun l j => laneAt (l.getV a) j &&& 0x7fffffff#32))
def execFneg (k : BitVec 3) (h : BitVec 2) (d a : BitVec 6) (s : State) : Result :=
  .next (s.floatBits (.fneg k h d a) k d [a] (fun l j => laneAt (l.getV a) j ^^^ 0x80000000#32))
def execFcopysign (k : BitVec 3) (h : BitVec 2) (d a b : BitVec 6) (s : State) : Result :=
  .next (s.floatBits (.fcopysign k h d a b) k d [a, b]
    (fun l j => (laneAt (l.getV a) j &&& 0x7fffffff#32) ||| (laneAt (l.getV b) j &&& 0x80000000#32)))
def execFclass (k : BitVec 3) (h : BitVec 2) (d a : BitVec 6) (s : State) : Result :=
  .next (s.floatBits (.fclass k h d a) k d [a] (fun l j => classF32 (laneAt (l.getV a) j)))
def execFcvt (k : BitVec 3) (h r : BitVec 2) (d a c : BitVec 6) (s : State) : Result :=
  .next (s.laneFloat (.fcvt k h r d a c) k d [a] (fun l j => cvtLane c (fnRound r l.fmode) (laneAt (l.getV a) j)))
def execFrnd (k : BitVec 3) (h r : BitVec 2) (d a : BitVec 6) (s : State) : Result :=
  .next (s.laneFloat (.frnd k h r d a) k d [a] (fun l j => rndF32 (fnRound r l.fmode) (laneAt (l.getV a) j)))
def execFdot2 (k : BitVec 3) (h f : BitVec 2) (d a b : BitVec 6) (s : State) : Result :=
  .next (s.laneFloat (.fdot2 k h f d a b) k d [a, b]
    (fun l j => dot2 (if f = 0 then bf16 else f16) (fmodeRound l.fmode) (laneAt (l.getV a) j) (laneAt (l.getV b) j)))

/-- A long lane instruction that needs no access: its results and exceptions are known at issue and land with its window. `scan` is
what the stages of an `lred` or `lscan` work on. -/
def State.laneLong (s : State) (lanes : Word32) (d : BitVec 6) (n : BitVec 4) (vals : List Word64) (e : Exc) (scan : Option ScanRec) : State :=
  s.long (fun s =>
    if lanes = 0 then s.done id
    else s.issueLong { s.me.newPending (.lane d) n lanes vals with exceptions := e, scan := scan })

/-- `fsfu` is long; it ignores the rounding mode (R99). -/
def execFsfu (k : BitVec 3) (n : BitVec 4) (d a f : BitVec 6) (s : State) : Result :=
  .next (s.laneWord [d, a] (fun s =>
    let l := s.me
    let r := laneResults (l.active k) (fun j => sfu f.toNat (laneAt (l.getV a) j))
    s.laneLong (l.active k) d n (r.toList.map (fun x => x.1.setWidth 64)) (resultExc r) none))

end Sys2Proof.Machine
end

