-- ==== Sys2Proof/Machine/LaneMove.lean ====
section
/-!
DEFINITION. Lane instructions that read other lanes of the issuing split (R100 to R105).
-/

namespace Sys2Proof.Machine

/-- The source lane of `lshf` by fn, when it lies in 0 to 31 (R100). -/
def shuffleSource (f : BitVec 2) (j e : Nat) : Option Nat :=
  match f.toNat with
  | 0 => some e
  | 1 => if e ≤ j then some (j - e) else none
  | 2 => if j + e ≤ 31 then some (j + e) else none
  | _ => some (j ^^^ e)

/-- Lanes that take part in an exchange: the program's lanes among the active ones (R105). -/
def Ladle.exchangeLanes (l : Ladle) (lanes : Word32) : Word32 := l.programLanes lanes

/-- What a lane of a half ladle computes in an exchange is its program lane's result, in both lanes of the pair (R336). -/
def Ladle.programLane (l : Ladle) (j : Nat) : Nat := if l.half then j % 16 else j

/-- Lanes that an exchange writes: the taking-part lanes, and in half placement their copies. -/
def Ladle.exchangeWrites (l : Ladle) (lanes : Word32) : Word32 :=
  let m := l.exchangeLanes lanes
  if l.half then m ||| (m <<< 16 &&& lanes) else m

def execLshf (k : BitVec 3) (_h f : BitVec 2) (d a b : BitVec 6) (s : State) : Result :=
  .next (s.laneWord [d, a, b] (fun s =>
    let l := s.me
    let act := l.exchangeLanes (l.active k)
    s.done (fun x => x.setV d (l.exchangeWrites (l.active k)) (fun i =>
      let j := l.programLane i
      match shuffleSource f j (bitsOf (laneAt (l.getV b) j) 4 0) with
      | some e => if act.getLsbD e then laneAt (l.getV a) e else laneAt (l.getV a) j
      | none => laneAt (l.getV a) j))))

/-- Op(a, b) of a reduction, by operation code (R101). DESIGN CHOICE (log 62): add.f32 rounds as R90 gives for every operand, so in mode
RD the identity -0.0 and an active +0 give -0. -/
def reduceOp (p : Nat) (mode : Round) (a b : Word32) : Word32 × Exc :=
  match p with
  | 0 => (a + b, 0)
  | 1 => addF32 mode a b
  | 2 => (if a.toInt ≤ b.toInt then a else b, 0)
  | 3 => (if a.toInt ≤ b.toInt then b else a, 0)
  | 4 => (if a.toNat ≤ b.toNat then a else b, 0)
  | 5 => (if a.toNat ≤ b.toNat then b else a, 0)
  | 6 => minMaxF32 false false a b
  | 7 => minMaxF32 true false a b
  | 8 => (a &&& b, 0)
  | 9 => (a ||| b, 0)
  | _ => (a ^^^ b, 0)

/-- The identity of an operation (R101). -/
def reduceIdentity (p : Nat) : Word32 :=
  match p with
  | 1 => 0x80000000#32
  | 2 => 0x7fffffff#32
  | 3 => 0x80000000#32
  | 4 => 0xffffffff#32
  | 6 => 0x7f800000#32
  | 7 => 0xff800000#32
  | 8 => 0xffffffff#32
  | _ => 0#32

/-- One stage of the pairwise tree: neighbours combined, exceptions merged (R101). -/
def pairStage (op : Word32 → Word32 → Word32 × Exc) : List Word32 → List Word32 × Exc
  | a :: b :: r =>
    let x := op a b
    let y := pairStage op r
    (x.1 :: y.1, x.2 ||| y.2)
  | l => (l, 0)

/-- `n` stages of the tree. -/
def pairTree (op : Word32 → Word32 → Word32 × Exc) : Nat → List Word32 × Exc → List Word32 × Exc
  | 0, x => x
  | n + 1, x =>
    let y := pairStage op x.1
    pairTree op n (y.1, x.2 ||| y.2)

/-- One stage of the scan: every lane from `d` up takes Op of the lane `d` below it and itself (R102). A node makes x[j] of its lane j, and raises
exceptions where that lane is active (R54, R76). -/
def scanStage (op : Word32 → Word32 → Word32 × Exc) (act : Word32) (d : Nat) (x : List Word32) : List Word32 × Exc :=
  let r := (x.zipIdx).map (fun e =>
    if d ≤ e.2 then
      let y := op (x.getD (e.2 - d) 0) e.1
      (y.1, if act.getLsbD e.2 then y.2 else 0)
    else (e.1, 0))
  (r.map (·.1), r.foldl (fun a e => a ||| e.2) 0)

/-- Stages with distances 1, 2, 4, … . -/
def scanStages (op : Word32 → Word32 → Word32 × Exc) (act : Word32) : Nat → Nat → List Word32 × Exc → List Word32 × Exc
  | 0, _, x => x
  | n + 1, d, x =>
    let y := scanStage op act d x.1
    scanStages op act n (2 * d) (y.1, x.2 ||| y.2)

/-- The lanes' inputs: inactive ones hold the identity. -/
def Ladle.reduceInputs (l : Ladle) (act : Word32) (p : Nat) (a : BitVec 6) : List Word32 :=
  (List.range 32).map (fun j => if act.getLsbD j then laneAt (l.getV a) j else reduceIdentity p)

def execLred (k : BitVec 3) (n : BitVec 4) (d a : BitVec 6) (p : BitVec 5) (s : State) : Result :=
  .next (s.laneWord [d, a] (fun s =>
    let l := s.me
    let act := l.exchangeLanes (l.active k)
    let r := pairTree (reduceOp p.toNat (fmodeRound l.fmode)) 5 (l.reduceInputs act p.toNat a, 0)
    s.laneLong (l.exchangeWrites (l.active k)) d n (List.replicate 32 ((r.1.headD 0).setWidth 64)) r.2
      (some { op := p, scan := false, exclusive := false, fmode := l.fmode, x := l.reduceInputs act p.toNat a, done := 0 })))

def execLscan (k : BitVec 3) (n : BitVec 4) (d a : BitVec 6) (e : BitVec 1) (p : BitVec 5) (s : State) : Result :=
  .next (s.laneWord [d, a] (fun s =>
    let l := s.me
    let act := l.exchangeLanes (l.active k)
    let r := scanStages (reduceOp p.toNat (fmodeRound l.fmode)) act 5 1 (l.reduceInputs act p.toNat a, 0)
    let x := if e = 1 then reduceIdentity p.toNat :: r.1.take 31 else r.1
    s.laneLong (l.exchangeWrites (l.active k)) d n
      ((List.range 32).map (fun j => (x.getD (l.programLane j) 0).setWidth 64)) r.2
      (some { op := p, scan := true, exclusive := e == 1, fmode := l.fmode, x := l.reduceInputs act p.toNat a, done := 0 })))

/-! ### Stages, and a pre-emption between them (R103) -/

/-- `n` stages of the reduction on x[0..31], whose first `len` elements the next stage reads (R101). -/
def reduceStages (op : Word32 → Word32 → Word32 × Exc) : Nat → Nat → List Word32 → List Word32
  | 0, _, x => x
  | n + 1, len, x => reduceStages op n (len / 2) ((pairStage op (x.take len)).1 ++ x.drop (len / 2))

/-- x[0..31] after `n` further stages. -/
def ScanRec.advance (r : ScanRec) (n : Nat) : ScanRec :=
  let op := reduceOp r.op.toNat (fmodeRound r.fmode)
  { r with
    x := if r.scan then (scanStages op 0 n (2 ^ r.done) (r.x, 0)).1 else reduceStages op n (32 / 2 ^ r.done) r.x,
    done := r.done + n }

/-- The results of the lanes once the last stage is done. -/
def ScanRec.vals (r : ScanRec) (half : Bool) : List Word64 :=
  let x := (r.advance (5 - r.done)).x
  let y := if r.exclusive then reduceIdentity r.op.toNat :: x.take 31 else x
  (List.range 32).map (fun j => ((if r.scan then y.getD (if half then j % 16 else j) 0 else x.getD 0 0)).setWidth 64)

/-- A save stops an `lred` or `lscan` that is in flight after one of its stages: which, a free value says (R103, R171; log 53). -/
def Ladle.stopScans (l : Ladle) (seed : Nat) : Ladle :=
  { l with pend := l.pend.map (fun p =>
      { p with scan := p.scan.map (fun r => r.advance ((Sys2Proof.Config.freeValue (seed + p.id)).toNat % (6 - r.done))) }) }

/-- On resume it goes on at the next stage, and its result is what the remaining stages make of the saved x[0..31]. -/
def Ladle.resumeScans (l : Ladle) : Ladle :=
  { l with pend := l.pend.map (fun p => match p.scan with | some r => { p with vals := r.vals l.half } | none => p) }

/-- The bit `vote` writes, over the taking-part lanes of the split (R104). -/
def voteBit (f : BitVec 2) (lanes : List Nat) (x : Nat → Word32) : Bool :=
  match f.toNat with
  | 0 => lanes.all (fun j => x j != 0)
  | 1 => lanes.any (fun j => x j != 0)
  | _ => match lanes with | [] => true | i :: r => r.all (fun j => x j == x i)

/-- `vote` writes its bit for every lane of the split. DESIGN CHOICE (log 63): for the lanes 16-31 of a shadow.half ladle placed as
shadow too, which take no part in the vote (R105, R333). -/
def execVote (k : BitVec 3) (_h f : BitVec 2) (a : BitVec 6) (s : State) : Result :=
  .next (s.laneWord [a] (fun s =>
    let l := s.me
    let b := voteBit f (bitsSet (l.exchangeLanes l.sp.mask) 32) (laneAt (l.getV a))
    s.done (fun x => x.setK k l.sp.mask (if b then 0xffffffff#32 else 0))))

end Sys2Proof.Machine
end

