-- ==== Sys2Proof/Machine/ReadyPool.lean ====
section
/-!
DEFINITION. Dispatch: the ready order, the heads of the priorities, placeable clusters, write ranges and version reservations,
and resumes (R21, R174, R208, R339, R355, R359 to R362, R368).
-/

namespace Sys2Proof.Machine

/-! ### The ready order (R360) -/

/-- What waits for dispatch together: castings not taken from the ready order yet, by their index; castings that were taken
and are ready again; saved castings. -/
inductive Group where
  | fresh (graph mould : Nat) (indices : List Nat)
  | again (castings : List Casting)
  | saved (castings : List Casting)
  deriving DecidableEq, Repr

/-- A group in the ready order of its priority: the slot and the cycle at which it became ready, its mould, its lowest casting
index, and its graph. -/
structure Candidate where
  priority : Nat
  since : Nat
  clock : Word64
  mould : Nat
  index : Nat
  graph : Nat
  group : Group
  deriving DecidableEq, Repr

/-- One group stands before another of its priority. -/
def Candidate.before (a b : Candidate) : Bool :=
  decide (a.since < b.since)
  || (decide (a.since = b.since) && (decide (a.mould < b.mould)
      || (decide (a.mould = b.mould) && (decide (a.index < b.index) || (decide (a.index = b.index) && decide (a.graph < b.graph))))))

/-- The first of a list of groups. -/
def firstCandidate : List Candidate → Option Candidate
  | [] => none
  | c :: r => match firstCandidate r with | some d => if c.before d then some c else some d | none => some c

/-- Indices that go together from index `i` on: the cluster gang, or all the castings of a gang mould. More than 256 castings
fit no cluster. -/
def Mould.together (m : Mould) (i : Nat) : List Nat :=
  if m.gang then ((List.range (min m.ownGangs 257)).flatMap (fun k =>
      (List.range (2 ^ m.w2)).map (fun j => (m.rank + k * m.members) * 2 ^ m.w2 + j))).filter (fun c => m.runs c && decide (i ≤ c))
  else ((List.range (2 ^ m.w2)).map (fun j => i / 2 ^ m.w2 * 2 ^ m.w2 + j)).filter (fun c => m.runs c && decide (i ≤ c))

/-- The group of a ready mould `k` whose lowest index is `i`. -/
def Graph.group (g : Graph) (k : Nat) (r : MouldRun) (m : Mould) (i : Nat) : Candidate :=
  { priority := g.priority, since := r.since, clock := r.clock, mould := k, index := i, graph := g.uid, group := .fresh g.uid k (m.together i) }

/-- The ready moulds of a graph with a group that has not been taken, and the lowest index of the first. -/
def Graph.waiting (g : Graph) : List (Nat × MouldRun × Mould × Nat) :=
  g.runs.filterMap (fun e =>
    match g.moulds[e.1]? with
    | none => none
    | some m => if e.2.ready then (m.nextIndex e.2.next).map (fun i => (e.1, e.2, m, i)) else none)

/-- The first group of each ready mould. -/
def Graph.candidates (g : Graph) : List Candidate := g.waiting.map (fun e => g.group e.1 e.2.1 e.2.2.1 e.2.2.2)

/-- Some index from `i` on, of `n` indices, passes a test. -/
def anyFrom (f : Nat → Bool) : Nat → Nat → Bool
  | 0, _ => false
  | n + 1, i => f i || anyFrom f n (i + 1)

/-- Some group of a graph that has not been taken, the first of its mould or a later one, passes a test. -/
def Graph.anyGroup (g : Graph) (f : Candidate → Bool) : Bool :=
  g.waiting.any (fun e =>
    let i := e.2.2.2
    f (g.group e.1 e.2.1 e.2.2.1 i)
    || (!e.2.2.1.gang && anyFrom (fun j => decide (j % 2 ^ e.2.2.1.w2 = 0) && f (g.group e.1 e.2.1 e.2.2.1 j)) (e.2.2.1.count - (i + 1)) (i + 1)))

/-- Castings that wait again together with one: its cluster gang, or its gang mould's castings of the same slot. -/
def State.readyWith (s : State) (c d : Casting) : Bool :=
  decide (d.state = c.state) && decide (d.graph = c.graph) && decide (d.mould = c.mould)
  && (match c.state with
      | .saved => s.sameGang c.uid d.uid
      | _ => decide (d.readyAt = c.readyAt) && (s.sameGang c.uid d.uid || (match s.mouldOf c.uid with | some (_, _, m) => m.gang | none => false)))

/-- Some casting of a saved casting's gang still waits for its answer or is being saved. -/
def State.gangAway (s : State) (c : Casting) : Bool :=
  s.castings.any (fun d => s.sameGang c.uid d.uid && (decide (d.state = .suspended) || (decide (d.state = .resident) && d.toStop)))

/-- Castings in increasing order of their index. -/
def insertCasting (c : Casting) : List Casting → List Casting
  | [] => [c]
  | d :: r => if c.index ≤ d.index then c :: d :: r else d :: insertCasting c r
def byIndex (l : List Casting) : List Casting := l.foldr insertCasting []

/-- The group of a casting that is ready again, when it is the lowest of it. -/
def State.againCandidate (s : State) (c : Casting) : Option Candidate :=
  let all := byIndex (s.castings.filter (s.readyWith c))
  let since := (all.map (·.readyAt)).foldl max 0
  let mk := fun (g : Graph) (grp : Group) =>
    ({ priority := g.priority, since := since, clock := c.readyClock, mould := c.mould, index := c.index, graph := g.uid, group := grp } : Candidate)
  if (all.head?.map (·.uid)) ≠ some c.uid then none
  else
    match s.graph? c.graph, c.state with
    | some g, .ready => some (mk g (.again all))
    | some g, .saved => if s.gangAway c then none else some (mk g (.saved all))
    | _, _ => none

/-- All groups of a partition that wait for dispatch. -/
def State.candidates (s : State) (p : Nat) : List Candidate :=
  (s.graphs.filter (fun g => decide (g.part = p))).flatMap Graph.candidates
  ++ (s.castings.filter (fun c => decide (c.part = p))).filterMap s.againCandidate

/-- Some ready casting or group of a partition, the head of its priority or one behind it, passes a test. -/
def State.anyReady (s : State) (p : Nat) (f : Candidate → Bool) : Bool :=
  s.graphs.any (fun g => decide (g.part = p) && g.anyGroup f)
  || s.castings.any (fun c => decide (c.part = p) && (s.againCandidate c).any f)

/-- The head of a priority. -/
def State.headOf (s : State) (p prio : Nat) : Option Candidate := firstCandidate ((s.candidates p).filter (fun c => decide (c.priority = prio)))

/-- A head's record names a group. -/
def Head.is (h : Head) (c : Candidate) : Bool := decide (h.graph = c.graph) && decide (h.mould = c.mould) && decide (h.index = c.index)

/-- A head has waited 2^16 cycles: it stops the dispatches of lower priority until it is dispatched. -/
def State.stops (s : State) (h : Head) : Bool := decide (2 ^ 16 ≤ (s.service - h.since).toNat)

/-- A head's casting is held back for a page that does not translate: it has not been dispatched (R362). -/
def State.headHeld (s : State) (h : Head) : Bool :=
  s.castings.any (fun d => d.state == .heldBack && decide (d.graph = h.graph) && decide (d.mould = h.mould) && decide (d.index = h.index))

/-- The records of a priority at this slot: its head, with the time since which it has been the head, and castings that another has passed
after they had stopped lower priorities, for as long as they wait or are held back (R360, R362). -/
def State.headsOf (s : State) (p prio : Nat) : List Head :=
  let cs := (s.candidates p).filter (fun c => decide (c.priority = prio))
  let old := FMap.get [] s.heads (16 * p + prio)
  let waits := fun (h : Head) => s.stops h && (cs.any h.is || s.headHeld h)
  match firstCandidate cs with
  | none => old.filter waits
  | some c =>
    let kept := old.filter (fun h => h.is c || waits h)
    if kept.any (·.is c) then kept else { graph := c.graph, mould := c.mould, index := c.index, since := s.service } :: kept

/-- The heads of a partition at this slot. -/
def State.noteHeads (s : State) (p : Nat) : State :=
  { s with heads := (List.range 16).foldl (fun m q => FMap.set [] m (16 * p + q) (s.headsOf p q)) s.heads }

/-- The heads of every partition (R360). -/
def State.noteAllHeads (s : State) : State :=
  ((s.graphs.map (·.part)).eraseDups).foldl State.noteHeads
    { s with heads := s.heads.filter (fun e => s.graphs.any (fun g => decide (g.part = e.1 / 16))) }

/-- A casting of a priority stops the dispatches below it. -/
def State.headStops (s : State) (p prio : Nat) : Bool := (FMap.get [] s.heads (16 * p + prio)).any s.stops

/-! ### Placeable clusters (R361) -/

/-- The graph and mould of a group. -/
def State.groupMould (s : State) (c : Candidate) : Option (Graph × Mould) :=
  match s.graph? c.graph with
  | some g => (g.moulds[c.mould]?).map (fun m => (g, m))
  | none => none

/-- The placement of a group on a cluster, one plan for each of its castings; none where it cannot be placed. The chains of saved castings
need their slots of the copy engine (R278). -/
def State.planOn (s : State) (m : Mould) (grp : Group) (x : Nat) : Option (List Plan) :=
  let retired := match grp with | .saved cs => cs.findSome? (·.retired) | _ => none
  let chains := match grp with | .saved cs => (cs.map (·.savedChains.length)).sum | _ => 0
  if (m.control && !s.controlFree x retired) || decide (8 < chains + (s.chainList x).length) then none
  else
    let needs := match grp with
      | .fresh _ _ is => is.map (fun _ => m.needs)
      | .again cs => cs.map (fun _ => m.needs)
      | .saved cs => cs.map Casting.needs
    placeGroup m.pack (placementsOf m.check) needs (s.rooms x)

/-- A group may go to a cluster of a set: a relaunch avoids the cluster of its fault whenever the set holds another (R339). -/
def Group.allows (grp : Group) (set : List Nat) (x : Nat) : Bool :=
  match grp with
  | .again cs => !(cs.any (fun c => c.avoid == some x) && set.any (· != x))
  | _ => true

/-- The clusters of a partition. -/
def State.clusterSet (s : State) (p : Nat) : List Nat := (List.range 64).filter (fun x => decide (FMap.get 0 s.owners x = p + 1))

/-- The lowest-numbered cluster on which a group can be placed. -/
def State.findCluster (s : State) (p : Nat) (m : Mould) (grp : Group) : Option (Nat × List Plan) :=
  ((s.clusterSet p).filter (grp.allows (s.clusterSet p))).findSome? (fun x => (s.planOn m grp x).map (fun l => (x, l)))

/-! ### Write ranges and reservations (R355, R362) -/

/-- What a casting's write ranges come to: a fault, with cause 0x10 or where a table entry cannot be read 0x09, a page that does not translate
and why, or the space-0 tiles with their declared bytes. -/
inductive RangeFate where
  | bad (cause : Cause)
  | walk (va reason : Nat)
  | tiles (l : FMap (BitVec 256))
  deriving DecidableEq, Repr

/-- Bits [hi - 1 : lo] of a tile's byte mask. -/
def byteMask (lo hi : Nat) : BitVec 256 := BitVec.ofNat 256 (2 ^ hi - 2 ^ lo)

/-- Translate the tiles of a range, `va` on, and gather those in space 0. -/
def State.rangeTiles (s : State) (p : Nat) : Nat → Nat → Nat → FMap (BitVec 256) → RangeFate
  | 0, _, _, acc => .tiles acc
  | fuel + 1, va, n, acc =>
    if n = 0 then .tiles acc
    else
      let k := min n (256 - va % 256)
      match s.walk p va .write with
      | .error reason => if reason = walkPoison then .bad .uncorrectable else .walk va reason
      | .ok l =>
        let pa := l.addr va
        if isRemote pa || (isHbm pa && decide (hbmLimit ≤ pa)) then .bad .descriptor
        else s.rangeTiles p fuel (va + k) (n - k)
          (if isHbm pa then FMap.modify 0 acc (tileOf pa) (· ||| byteMask (va % 256) (va % 256 + k)) else acc)

/-- The ranges of a casting, one after another. -/
def State.allRanges (s : State) (p : Nat) : List (Nat × Nat) → FMap (BitVec 256) → RangeFate
  | [], acc => .tiles acc
  | r :: rs, acc =>
    match s.rangeTiles p (r.2 / 256 + 2) r.1 r.2 acc with
    | .tiles l => s.allRanges p rs l
    | e => e

/-- Frames for tiles, each in its home slice. -/
def State.framesFor (s : State) (l : FMap (BitVec 256)) : List (Nat × Nat × BitVec 256) := l.map (fun e => (s.homeOf (256 * e.1), e.1, e.2))

/-- The slices of a list of frames. -/
def frameSlices (fs : List (Nat × Nat × BitVec 256)) : List Nat := (fs.map (·.1)).eraseDups

/-- Evaluate the write ranges of casting `index` at its dispatch. -/
def State.rangeFate (s : State) (g : Graph) (m : Mould) (index : Nat) : RangeFate :=
  let rs := (m.writes.map (rangeBytes g.args index)).filter (fun r => r.2 != 0)
  if (m.writes.map (rangeBytes g.args index)).any (fun r => decide (2 ^ 57 ≤ r.1) || decide (2 ^ 57 < r.1 + r.2)) then .bad .descriptor
  else if 2 ^ (s.reg (rqReg g.part 6)).toNat < m.slotNeed then .bad .descriptor
  else
    match s.allRanges g.part rs [] with
    | .tiles l => if (frameSlices (s.framesFor l)).any (fun n => decide (8192 * 4 < framesIn (s.framesFor l) n)) then .bad .descriptor else .tiles l
    | e => e

/-- The walks of a casting's ranges correct the entries that they read (R337). -/
def State.correctRanges (s : State) (g : Graph) (m : Mould) (index : Nat) : State :=
  if s.noErrors then s else (m.writes.map (rangeBytes g.args index)).foldl (fun t r => t.correctRange g.part .write r.1 r.2) s

/-- Every home slice can take its frames at once. -/
def State.canReserve (s : State) (fs : List (Nat × Nat × BitVec 256)) : Bool :=
  (frameSlices fs).all (fun n => decide ((s.sliceOf n).frames.length + s.promised n + framesIn fs n ≤ 8192 * s.frameWays n))
  && fs.all (fun f => s.takesFrames f.1 f.2.1)

/-- Reserve frames in a slice at one slot: the chain shrinks (R185, R208). -/
def State.reserveIn (s : State) (casting n : Nat) (fs : List (Nat × Nat × BitVec 256)) : State :=
  let new := (fs.filter (fun f => f.1 == n)).map (fun f => ({ casting := casting, tile := f.2.1, bytes := [], declared := f.2.2, tags := [] } : Frame))
  let t := s.modSlice n (fun x => { x with frames := x.frames ++ new })
  t.trim n (t.sliceOf n).chain.length

/-- A reservation: a message to the service port of each slice, which takes its slot at once where nothing waits there; the ladles wait for
the others (R182, R208). -/
def State.reserve (s : State) (casting : Nat) (fs : List (Nat × Nat × BitVec 256)) : State :=
  if s.quiet then (frameSlices fs).foldl (fun t n => (t.reserveIn casting n fs).portGranted n servicePort) s
  else s.modCasting casting (fun c => { c with reservation := fs })

/-- The reservation of a casting has been taken: its ladles start, unless a gang start holds them. -/
def State.startLadles (s : State) (uid : Nat) : State :=
  match s.casting? uid with
  | some c =>
    if c.reservation.isEmpty && !s.gangs.any (fun e => e.isOf c.graph c.mould && !e.started) then
      s.mapLadles (fun l => decide (l.casting = uid)) (fun l => { l with heldAtEntry := false })
    else s
  | none => s

/-- VERSION_RESERVATION: the first slice that has not taken its part of a casting's reservation takes it, where it may (R208, R212). -/
def execVersionReservation (casting : Nat) (s : State) : Result :=
  match s.casting? casting with
  | some c =>
    match c.reservation with
    | (n, _) :: _ =>
      if (c.reservation.all (fun f => f.1 != n || s.takesFrames n f.2.1))
          && decide ((s.sliceOf n).frames.length + framesIn c.reservation n ≤ 8192 * s.frameWays n) then
        .next (s.atPort n servicePort (fun s => ((s.reserveIn casting n c.reservation).modCasting casting (fun c =>
          { c with reservation := c.reservation.filter (fun f => f.1 != n) })).startLadles casting))
      else .next s
    | [] => .next s
  | none => .next s

/-! ### Dispatching a new group -/

/-- A casting taken from the ready order. -/
def newCasting (g : Graph) (mould index uid since : Nat) (clock : Word64) : Casting where
  uid := uid
  part := g.part
  graph := g.uid
  mould := mould
  index := index
  dispatchNo := 0
  placedAt := 0
  state := .ready
  cluster := 0xff
  placement := 0
  unversioned := false
  scratchSlices := []
  spawns := []
  relaunches := 0
  avoid := none
  readyAt := since
  readyClock := clock
  reservation := []
  commitNo := 0
  awaited := []
  fault := none
  suspension := none
  preempt := none
  along := false
  started := false
  saveSlot := none
  mxsBlock := none
  saved := []
  savedMatrix := none
  savedChains := []
  resend := []
  retired := none

/-- The castings of a group; those of a fresh one are made here. -/
def State.groupCastings (s : State) (g : Graph) (c : Candidate) : List Casting :=
  match c.group with
  | .fresh _ _ is => is.zipIdx.map (fun e => newCasting g c.mould e.1 (s.nextUid + e.2) c.since c.clock)
  | .again cs => cs
  | .saved cs => cs

/-- A fresh group has been taken: its castings are listed, and its mould's next index is the one after it. -/
def State.takeGroup (s : State) (c : Candidate) (cs : List Casting) : State :=
  match c.group with
  | .fresh g m is =>
    { s.modGraph g (fun g => g.setRun m { g.run m with next := (is.getLast?.getD 0) + 1 }) with
      castings := s.castings ++ cs, nextUid := s.nextUid + cs.length }
  | _ => s

/-- The group's castings are held back: the first whose page does not translate waits for an answer, the others for it. -/
def State.holdGroup (s : State) (g : Graph) (m : Mould) (cs : List Casting) (uid va reason : Nat) : State :=
  let t := cs.foldl (fun t c => t.modCasting c.uid (fun c => { c with state := .heldBack, cluster := 0x100 })) s
  match cs.find? (fun c => decide (c.uid = uid)) with
  | none => t
  | some c =>
    let x : Suspension := { va := va, kind := .write, reason := reason, seq := 0, pc := m.code, rank := 0xff, cluster := 0xff, core := 7 }
    let q := t.queueTranslation c.part x g.image (widOf m c.index 0 0) c.mould 0xff
    q.1.modCasting uid (fun c => { c with suspension := some { x with seq := q.2 } })

/-- The code of a cause (R165). -/
def causeCode (c : Cause) : Nat :=
  match c with
  | .illegal => 1
  | .undeclaredWrite => 2
  | .memoryOrder => 3
  | .address => 4
  | .peerGone => 5
  | .alignment => 6
  | .padBound => 7
  | .format => 8
  | .uncorrectable => 9
  | .checkMismatch => 10
  | .abort => 11
  | .unhandledTrap => 12
  | .translationAbort => 13
  | .residue => 14
  | .gangAbort => 15
  | .descriptor => 16
  | .pinQuota => 17

/-- Causes whose relaunches are limited (R339). -/
def Cause.limited (c : Cause) : Bool := c == .uncorrectable || c == .checkMismatch

/-- Causes that are never relaunched (R366). -/
def Cause.final (c : Cause) : Bool := c == .abort || c == .gangAbort || c == .descriptor

/-- A casting that takes a fault is relaunched. -/
def State.relaunches (s : State) (c : Casting) (g : Graph) (cause : Cause) : Bool :=
  s.restartable c && !cause.final
  && (if cause.limited then decide (c.relaunches < bitsOf (s.reg 0x801) 27 24) else g.policy.getLsbD (causeCode cause))

/-- A casting that may run again is ready once more, as a new one (R166, R339). -/
def State.relaunch (s : State) (g : Graph) (c : Casting) (avoid : Option Nat) (cause : Cause) : State :=
  { s with
    castings := s.castings ++ [{ newCasting g c.mould c.index s.nextUid s.ticks s.service with
      avoid := avoid, relaunches := c.relaunches + bit cause.limited }],
    nextUid := s.nextUid + 1 }

/-- A casting that fails at its dispatch: a report, and where it is not relaunched its graph can no longer commit (R16, R362, R366). -/
def State.rejectCasting (s : State) (g : Graph) (m : Mould) (c : Casting) (cause : Cause) : State :=
  let t := s.report c.part c.mould (causeCode cause) 0xff 0xff 7 g.image (widOf m c.index 0 0) m.code
  let t := { t with castings := t.castings.filter (fun d => d.uid != c.uid) }
  if s.relaunches c g cause then t.relaunch g c none cause
  else t.modGraph g.uid (fun g => { g with dead := true, lost := g.lost ++ [(c.mould, c.index)] })

/-- Dispatch one casting of a group to cluster `x`; its ladles stand at their entry until the slices have taken its frames, and in a gang mould
until the start (R208, R368). -/
def State.dispatchOne (s : State) (g : Graph) (m : Mould) (x : Nat) (c : Casting) (p : Plan) (fs : List (Nat × Nat × BitVec 256)) : State :=
  let f := fun (d : Casting) => { d with state := CastState.resident, cluster := x, placement := p.placement, dispatchNo := s.lastCommit, placedAt := s.ticks }
  let t := s.modCasting c.uid f
  ((t.enterCasting g m (f c) p true).reserve c.uid fs).startLadles c.uid

/-- Castings with their plans and what their ranges come to: dispatched, or rejected at the slot of their dispatch. -/
def State.dispatchAll (s : State) (g : Graph) (m : Mould) (x : Nat) : List (Casting × Plan × RangeFate) → State
  | [] => s
  | (c, p, .tiles l) :: r => (s.dispatchOne g m x c p (s.framesFor l)).dispatchAll g m x r
  | (c, _, .bad k) :: r => (s.rejectCasting g m c k).dispatchAll g m x r
  | (c, _, .walk _ _) :: r => (s.rejectCasting g m c .descriptor).dispatchAll g m x r

/-- Dispatch a group of castings that run from their entry: none where it cannot be placed now. Those of a gang mould that has not started
yet are held at entry, and its member posts (R368). -/
def State.dispatchNew (s : State) (g : Graph) (m : Mould) (c : Candidate) : Option State :=
  match s.findCluster g.part m c.group with
  | none => none
  | some (x, plans) =>
    let cs := s.groupCastings g c
    let fates := cs.map (fun d => s.rangeFate g m d.index)
    let s := cs.foldl (fun t d => t.correctRanges g m d.index) s
    match (cs.zip fates).findSome? (fun e => match e.2 with | .walk va r => some (e.1.uid, va, r) | _ => none) with
    | some (uid, va, reason) => some ((s.takeGroup c cs).holdGroup g m cs uid va reason)
    | none =>
      let need := fates.flatMap (fun f => match f with | .tiles l => s.framesFor l | _ => [])
      if !s.canReserve need then none
      else
        let t := s.takeGroup c cs
        let start := s.gangs.find? (·.isOf g.uid c.mould)
        let t := if m.gang && start.isNone then { t with gangs := t.gangs ++ [GangStart.fresh g.uid c.mould] } else t
        some ((t.dispatchAll g m x (cs.zip (plans.zip fates))).endGraph g.uid)

/-- A group can be placed on a cluster that is counted as its partition's (R361). -/
def State.placeable (s : State) (p : Nat) (c : Candidate) (x : Nat) : Bool :=
  match s.groupMould c with
  | some (g, m) =>
    c.group.allows (x :: s.clusterSet p) x && (s.planOn m c.group x).isSome
    && (match c.group with
        | .saved _ => true
        | _ => s.canReserve ((s.groupCastings g c).flatMap (fun d => match s.rangeFate g m d.index with | .tiles l => s.framesFor l | _ => [])))
  | none => false

/-! ### Resume (R174) -/

/-- A mask with the bits of lanes 0-15 in lanes 16-31 too, and a list of values by lane. -/
def pairMask (m : Word32) : Word32 := m &&& 0xffff#32 ||| (m &&& 0xffff#32) <<< 16
def pairVals (l : List Word64) : List Word64 := if l.length = 32 then l.take 16 ++ l.take 16 else l

/-- A ladle that has run outside half placement, in half placement: lanes 16-31 compute what lanes 0-15 do, so each starts as its
partner's copy, in its registers, masks, splits and pending results (R333, R336). A split of lanes 16-31 alone is gone. -/
def Ladle.toHalf (l : Ladle) : Ladle :=
  let row := fun (r : LaneVec) => Vector.ofFn (fun j : Fin 32 => laneAt r (j.val % 16))
  let split := fun (x : Split) => { x with mask := pairMask x.mask }
  let all := (l.allSplits.map split).filter (fun x => x.mask != 0)
  { l with
    v := l.v.map row, k := l.k.map pairMask,
    sp := all.headD { split l.sp with slot := none }, splits := all.tail,
    pend := l.pend.map (fun p => if p.dest.isLane then
        { p with lanes := pairMask p.lanes, vals := pairVals p.vals,
                 counts := Vector.ofFn (fun j : Fin 32 => p.counts.toList.getD (j.val % 16) 0) }
      else p),
    bars := l.bars.map (fun e => (e.1, { e.2 with lanes := pairMask e.2.lanes })) }

/-- A trailing shadow that restarts from its leader's record: the values of loads that are sent again are still to come (R172, R335). -/
def Shadow.restart (l : Ladle) : Shadow :=
  let vs := ((l.pend.filter (fun p => decide (p.missing ≠ 0))).zipIdx).map (fun e =>
    ({ order := e.2, pend := some e.1.id, vals := [] } : ShadowValue))
  { v := l.v, s := l.s, k := l.k, values := vs, buffer := [], count := vs.length }

/-- A ladle goes back to a slot: back-off waits restart at 64 cycles, an access that did not translate is sent again, an `lred` or `lscan`
goes on at its next stage, and its trailing shadow restarts from its registers. DESIGN CHOICE (log 87): the race tags of its allocation stay as
they were at the save. -/
def State.restoreLadle (s : State) (c : Casting) (p : Plan) (l : Ladle) : State :=
  let spot := if l.control then controlSpot l.rank else (p.spots.find? (fun e => e.rank == l.rank)).getD (controlSpot l.rank)
  let l := if p.placement = 2 ∧ l.half = false ∧ l.control = false then l.toHalf else l
  let l := l.mapSplits (·.cleared) (fun x => { x with cleared := false })
  let l := Ladle.resumeScans { (l.retranslate.mapSplits (fun x => match x.blocked with | .backoff _ => true | _ => false) (fun x => { x with blocked := .backoff 64 })).put
      spot (decide (p.placement = 1) && !l.control) with
    cluster := c.cluster, stopped := false, backoff := 64,
    half := decide (p.placement = 2) && !l.control,
    shadow := if p.placement = 1 && !l.control then some (Shadow.restart l) else none }
  let l := (s.barriers.filter (fun b => decide (s.groupOf l b.level = b.group))).foldl (fun l b => l.releaseBar b.level b.id b.released) l
  let asked := l.allSplits.findSome? (fun x => match x.blocked with | .rget d => some d | _ => none)
  let t := { s with rest := s.rest ++ [l] }
  match asked with
  | some d => { t with rgetQueue := FMap.modify [] t.rgetQueue (coreKey c.cluster l.core) (· ++ [(l.uid, d)]) }
  | none => t

/-- A maker of requests at its new place. -/
def State.whoAt (s : State) (w : Who) : Who := match s.ladle? w.ladle with | some l => { w with cluster := l.cluster, core := l.core } | none => w

/-- A load group is sent again, through the replica or the home that its new die gives it; one of slice scratch is a use of it (R201). -/
def State.resendOne (s : State) (r : Req) : State :=
  let w := s.whoAt r.who
  let p := s.placeOf (w.cluster / 32) (256 * r.tile) r.rpl true
  let r := { r with who := w, place := p.1, replica := p.2, arrived := none, late := [] }
  (s.noteScratch w.casting [r]).send r

/-- A chain walks on at its new place: the strides of its loop are read again from the LOOP entry (R284). -/
def State.restoreChain (s : State) (c : Chain) : Chain :=
  let c := { c with who := s.whoAt c.who }
  match c.loop, s.ladle? c.source with
  | some off, some l => { c with srcStride := (entryWords l.pad.bytes off).getD 2 0, dstStride := (entryWords l.pad.bytes off).getD 3 0 }
  | _, _ => c

/-- Resume one saved casting on cluster `x`: its save slot is free from here on (R173), and ladles that were held at entry start where the start
of their gang has come (R368). -/
def State.resumeOne (s : State) (x : Nat) (c : Casting) (p : Plan) : State :=
  let d := { c with
    state := .resident, cluster := x, placement := p.placement, placedAt := s.ticks, suspension := none, preempt := none, along := false, started := false,
    saveSlot := none, mxsBlock := none, saved := [], savedMatrix := none, savedChains := [], resend := [], retired := none }
  let t := s.modCasting c.uid (fun _ => d)
  let t := c.saved.foldl (fun t l => t.restoreLadle d p l) t
  let t := match c.savedMatrix with | some m => t.setMat x m | none => t
  let t := { t with chains := FMap.modify [] t.chains x (· ++ c.savedChains.map t.restoreChain) }
  (c.resend.foldl State.resendOne t).startLadles c.uid

/-- Resume a group. -/
def State.resumeGroup (s : State) (g : Graph) (m : Mould) (c : Candidate) (cs : List Casting) : Option State :=
  (s.findCluster g.part m c.group).map (fun e => (cs.zip e.2).foldl (fun t d => t.resumeOne e.1 d.1 d.2) s)

/-! ### The owners of clusters (R369 to R371) -/

/-- A partition's windowed consumption, target and margin. -/
def State.windowOf (s : State) (p : Nat) : Nat := (FMap.get 0 s.windows p).toNat
def State.target (s : State) (p : Nat) : Nat := (s.reg (0x300 + 4 * p)).toNat
def State.margin (s : State) (p : Nat) : Nat := (s.reg (0x301 + 4 * p)).toNat

/-- The sum of W over all partitions. -/
def State.windowSum (s : State) : Nat := ((List.range 24).map s.windowOf).sum

/-- T · S - 1024 · W of a partition. -/
def State.score (s : State) (p : Nat) : Int := (s.target p * s.windowSum : Nat) - (1024 * s.windowOf p : Nat)

/-- The first element of a list with the largest value. -/
def firstMost (f : Nat → Int) : List Nat → Option Nat
  | [] => none
  | p :: r => match firstMost f r with | some q => if f p < f q then some q else some p | none => some p

/-- Partitions with a ready casting or group placeable on a cluster. -/
def State.wanting (s : State) (x : Nat) : List Nat := (List.range 24).filter (fun p => s.anyReady p (fun c => s.placeable p c x))

/-- A cluster that holds no casting goes to the partition of the largest score that can use it (R371). -/
def State.chooseOwner (s : State) (x : Nat) : State :=
  if s.clusterHeld x then s
  else
    match firstMost s.score (s.wanting x) with
    | some p => { s with owners := FMap.set 0 s.owners x (p + 1) }
    | none => s

def State.chooseOwners (s : State) : State := (List.range 64).foldl State.chooseOwner s

/-! ### Commit numbers (R364, R377) -/

/-- Every slice has acknowledged the latest horizon. -/
def State.horizonKnown (s : State) : Bool := (List.range 64).all (fun n => !modNewer 48 s.horizon (s.sliceOf n).horizon)

/-- Castings that are dispatched, saved or suspended: every instruction of one that has completed has finished (R363). -/
def State.running (s : State) : List Casting :=
  s.castings.filter (fun d => d.live && !(d.state == .completed || d.state == .committing))

/-- The next commit number may be given to a completed casting (R364, R377). DEDUCED (log 70): castings that wait for theirs take them in
the order of their completions. -/
def State.mayCommit (s : State) (c : Casting) : Bool :=
  s.castings.all (fun d => d.state != .completed || decide (c.readyAt ≤ d.readyAt))
  && s.running.all (fun d => decide ((s.nextCommit + 2 ^ 48 - d.dispatchNo) % 2 ^ 48 < 2 ^ 31))
  && s.horizonKnown
  && (decide (s.nextCommit % 2 ^ 32 ≠ 0) || s.running.isEmpty)

/-! ### DISPATCH -/

/-- The pool waits with every dispatch: a table load of the partition has its slot first (R254), or a completed casting waits for the next
commit number, which only a casting alone may take (R377) or which it may take at this slot already (R373). -/
def State.dispatchHeld (s : State) (p : Nat) : Bool :=
  s.fmtLoads.contains p
  || s.castings.any (fun c => c.state == .completed && (decide (s.nextCommit % 2 ^ 32 = 0) || s.mayCommit c))

/-- Dispatch the head of highest priority that can be placed; one that has waited too long stops those below it. -/
def State.dispatchWalk (s : State) (p : Nat) : List Nat → State
  | [] => s
  | q :: r =>
    let lower := if s.headStops p q then s else s.dispatchWalk p r
    match s.headOf p q with
    | none => lower
    | some c =>
      match s.groupMould c with
      | none => lower
      | some (g, m) => ((match c.group with | .saved cs => s.resumeGroup g m c cs | _ => s.dispatchNew g m c)).getD lower

/-- One slot of the pool for a partition. -/
def State.dispatchFor (s : State) (p : Nat) : State :=
  let t := s.noteHeads p
  if t.dispatchHeld p then t else t.dispatchWalk p (List.range 16).reverse

/-- One slot of the pool: the clusters that hold no casting find their owners, and each partition dispatches at that slot (R360, R371).
DESIGN CHOICE (log 85): every owner is chosen before the first dispatch, and partitions go in the order of `parts`. -/
def State.poolSlot (s : State) (parts : List Nat) : State := parts.foldl State.dispatchFor s.chooseOwners

/-- DISPATCH: one slot of the pool, for the partition named and then for the others. -/
def execDispatch (part : Nat) (s : State) : Result := .next (s.poolSlot (part :: (List.range 24).filter (· != part)))

end Sys2Proof.Machine
end

