-- ==== Sys2Proof/Machine/Commit.lean ====
section
/-!
DEFINITION. Completion, commit, discard and relaunch, and what the slices do with a casting's version (R16, R166, R210, R211,
R339, R343, R363 to R367, R376, R377, R403).
-/

namespace Sys2Proof.Machine

/-! ### The horizon (R211, R376, R377) -/

/-- Stamps of a slice, in it and in the side band of the tiles homed there, that are settled at a horizon it receives: they
count as 0 from here on (R376). -/
def State.settleStamps (s : State) (n h : Nat) : State :=
  { s.modSlice n (fun x => { x with horizon := h, stamps := x.stamps.filter (fun e => !settled e.2 h) }) with
    sideband := s.sideband.filter (fun e => !(decide (s.homeOf (256 * e.1) = n) && settled e.2.1 h)) }

/-- HORIZON_MESSAGE: a slice receives the horizon. -/
def execHorizonMessage (sl : Nat) (s : State) : Result :=
  if 64 ≤ sl then .next s else .next (s.atPort sl servicePort (fun s => s.settleStamps sl s.horizon))

/-- The horizon goes to the service port of every slice, and takes its slot at once where nothing waits there (R182, R377). -/
def State.announceHorizon (s : State) : State :=
  if s.quiet then (List.range 64).foldl (fun t n => (t.settleStamps n s.horizon).portGranted n servicePort) s else s

/-! ### Completion (R343, R363) -/

/-- Castings whose discard is over are ready again once no casting of their cluster gang is still being pre-empted (R174). -/
def State.releaseDiscarded (s : State) : State :=
  { s with castings := s.castings.map (fun c =>
      if c.state = .discarded ∧ !s.castings.any (fun d => s.sameGang c.uid d.uid && d.leaving) then
        { c with state := .ready, readyAt := s.ticks, readyClock := s.service }
      else c) }

/-- The error policy names a channel in a cluster's RETIRED (R326): none where it is refused. -/
def State.nameChannel (s : State) (x ch : Nat) : Option State :=
  s.writeRns x 0 (putBits (s.reg (0x600 + 4 * x)) 13 8 (2 ^ ch))

/-- Channels of a cluster whose retirement was refused, as a mask under its own key. -/
def refusedKey (x : Nat) : Nat := 512 + x

/-- The policy acts on a channel: names it where RETIRED is empty, to be tried again where that is refused; closes the matrix
unit where RETIRED names another (R343). -/
def State.retireChannel (s : State) (x ch : Nat) : State :=
  let old := bitsOf (s.reg (0x600 + 4 * x)) 13 8
  let mask : BitVec 6 := BitVec.ofNat 6 (FMap.get 0 s.policyPrev (refusedKey x))
  let set := fun (t : State) (m : BitVec 6) => { t with policyPrev := FMap.set 0 t.policyPrev (refusedKey x) m.toNat }
  if old = 0 then
    match s.nameChannel x ch with
    | some t => set t (putBits mask ch ch 0)
    | none => set s (putBits mask ch ch 1)
  else if old = 2 ^ ch then set s (putBits mask ch ch 0)
  else set (s.setReg 0x804 (putBits (s.reg 0x804) x x 1)) (putBits mask ch ch 0)

/-- Retirements that were refused are tried again at a completion on the cluster, lowest channel first. -/
def State.retryChannels (s : State) (x : Nat) : State :=
  (bitsSet (BitVec.ofNat 6 (FMap.get 0 s.policyPrev (refusedKey x))) 6).foldl (fun t ch => t.retireChannel x ch) s

/-- The pool has every exit, chain stop and matrix word of a casting. -/
def State.isComplete (s : State) (c : Casting) : Bool :=
  c.state == .resident && c.suspension.isNone && c.reservation.isEmpty
  && !s.ladles.any (fun l => l.live && decide (l.casting = c.uid))
  && !(s.chainList c.cluster).any (fun e => decide (e.who.casting = c.uid))
  && !s.faults.any (fun f => decide (f.casting = c.uid))

/-! ### Commit (R210, R363 to R367) -/

/-- Waiting spawned records enter the launch queue while it has room. -/
def State.enqueueSpawned (p : Nat) : Nat → State → State
  | 0, s => s
  | n + 1, s =>
    match FMap.get [] s.spawned p with
    | [] => s
    | r :: q =>
      if 64 ≤ (s.queueOf p).length then s
      else State.enqueueSpawned p n { s with spawned := FMap.set [] s.spawned p q, launch := FMap.modify [] s.launch p (· ++ [r]) }

/-- SPAWN_RECORD_ENQUEUE. -/
def execSpawnRecordEnqueue (part : Nat) (s : State) : Result := .next (State.enqueueSpawned part 1 s)

/-- The launch records that a committed casting has spawned, in order. -/
def spawnedRecords (g : Graph) (c : Casting) : List LaunchRec :=
  c.spawns.map (fun w => { words := w, function := g.function, link := g.link, privileged := g.privileged })

/-- A casting is committed: its spawned records are launched, moulds become ready, its graph may commit or end. -/
def State.commitCasting (s : State) (c : Casting) : State :=
  let t := { s with castings := s.castings.filter (fun d => d.uid != c.uid) }
  let t := match s.graph? c.graph with
    | some g => { t with spawned := FMap.modify [] t.spawned c.part (· ++ spawnedRecords g c) }
    | none => t
  let t := State.enqueueSpawned c.part c.spawns.length t
  let t := t.modGraph c.graph (fun g =>
    let h := g.setRun c.mould { g.run c.mould with committed := (g.run c.mould).committed + 1 }
    if h.dead then h else h.ready s.ticks s.service)
  (((t.openStarts c.graph).commitGraph c.graph).endGraph c.graph).announceHorizon

/-- COMMITTED: the last acknowledgement has come. -/
def execCommitted (casting : Nat) (s : State) : Result :=
  match s.casting? casting with
  | some c => if c.state = .committing ∧ c.awaited = [] then .next (s.commitCasting c) else .next s
  | none => .next s

/-- A completed casting takes the next commit number of 48 bits where it may, and a message goes to each slice that holds frames; with
none the casting is committed at this slot (R363). -/
def State.assignCommit (s : State) (c : Casting) : State :=
  if c.state = .completed ∧ s.mayCommit c = true then
    let d := { c with state := CastState.committing, commitNo := s.nextCommit, awaited := s.framesOf c.uid }
    let t := { s.modCasting c.uid (fun _ => d) with nextCommit := (s.nextCommit + 1) % 2 ^ 48, lastCommit := s.nextCommit }
    if d.awaited.isEmpty then t.commitCasting d else t
  else s

/-- COMMIT_ASSIGNMENT: a completed casting that has waited takes its number (R364, R377). -/
def execCommitAssignment (casting : Nat) (s : State) : Result :=
  match s.casting? casting with
  | some c => .next (s.assignCommit c)
  | none => .next s

/-- Completed castings that wait take their numbers at the slot at which they may: that of the completion, the discard or the
acknowledgement after which they may (R364, R373, R377). -/
def State.assignWaiting : Nat → State → State
  | 0, s => s
  | n + 1, s =>
    match s.castings.find? (fun c => c.state == .completed && s.mayCommit c) with
    | some c => State.assignWaiting n (s.assignCommit c)
    | none => s

/-- A casting has completed: what is left of its ladles goes, and a pre-emption of it is dropped. -/
def State.completeCasting (s : State) (c : Casting) : State :=
  let uids := (s.ladles.filter (fun l => decide (l.casting = c.uid))).map (·.uid)
  let t := s.modCasting c.uid (fun c =>
    { c with state := .completed, preempt := none, along := false, started := false, saveSlot := none, mxsBlock := none, readyAt := s.ticks })
  let t := ({ t with rest := t.rest.filter (fun l => decide (l.casting ≠ c.uid)) } : State).dropBarriers c.uid uids
  (t.retryChannels c.cluster).releaseDiscarded

/-- CASTING_COMPLETE: its cluster may be empty now, and at this slot it takes its commit number where it may (R363, R373). -/
def execCastingComplete (casting : Nat) (s : State) : Result :=
  match s.casting? casting with
  | some c =>
    if s.isComplete c then
      let t := s.completeCasting c
      .next (match t.casting? casting with | some d => t.assignCommit d | none => t)
    else .next s
  | none => .next s

/-- The sectors of a tile that a frame's bytes lie in. -/
def Frame.sectors (f : Frame) : List Nat := ((f.bytes.map (fun e => 4 * f.tile + e.1 / 64))).eraseDups

/-- The sectors of a frame take a stamp (R210). -/
def Slice.stampFrame (x : Slice) (stamp : Word32) (f : Frame) : Slice :=
  { x with stamps := f.sectors.foldl (fun m k => FMap.set 0 m k stamp) x.stamps }

/-- A merge reads a frame: its words that hold a correctable error are corrected, and counted (R337). -/
def State.correctMerged (s : State) (n : Nat) (f : Frame) : State := f.errors.foldl (fun t w => t.correctFrame n f.casting (8 * w)) s

/-- Merge a frame into its committed tile: the sectors written become dirty and take the stamp, and one that could not be read is poisoned
(R338, R363). The merged sectors of a tile that is not resident go to the write-back queue, with the metadata that the tile then has (R210,
R211). -/
def State.mergeFrame (s : State) (n : Nat) (stamp : Word32) (f : Frame) : State :=
  let t := (s.correctMerged n f).mergeBytes (f.bytes.map (fun e => (256 * f.tile + e.1, e.2))) (f.sectors.filter (fun k => f.lost.contains k))
  if f.bytes.isEmpty then s
  else if (s.sliceOf n).resident f.tile then t.modSlice n (fun x => x.stampFrame stamp f)
  else
    let t := ((t.refillStamps n f.tile).modSlice n (fun x => x.stampFrame stamp f)).writeSideband n f.tile
    let t := if (s.sliceOf n).writeBack.contains f.tile then t
      else (t.queueRoomAt n).modSlice n (fun x => { x with writeBack := x.writeBack ++ [f.tile] })
    t.modSlice n (fun x => { x with dirty := (x.dirty ++ f.sectors).eraseDups })

/-- A casting's frames leave a slice, and the slice acknowledges. -/
def State.dropFrames (s : State) (n casting : Nat) : State :=
  (s.modSlice n (fun x => { x with frames := x.frames.filter (fun f => f.casting != casting) })).modCasting casting (fun c =>
    { c with awaited := c.awaited.filter (· != n) })

/-- A slice applies commits in increasing commit-number order. -/
def State.commitsBefore (s : State) (n : Nat) (c : Casting) : Bool :=
  s.castings.any (fun d => decide (d.state = .committing) && modNewer 48 c.commitNo d.commitNo && d.awaited.contains n)

/-- COMMIT_MESSAGE. -/
def execCommitMessage (sl casting : Nat) (s : State) : Result :=
  match s.casting? casting with
  | some c =>
    if c.state = .committing ∧ c.awaited.contains sl = true ∧ s.commitsBefore sl c = false then
      .next (s.atPort sl servicePort (fun s =>
        let mine := (s.sliceOf sl).frames.filter (fun f => f.casting == casting)
        (mine.foldl (fun t f => t.mergeFrame sl (BitVec.ofNat 32 c.commitNo) f) s).dropFrames sl casting))
    else .next s
  | none => .next s

/-- DISCARD_MESSAGE: a slice drops a casting's frames without merging anything. -/
def execDiscardMessage (sl casting : Nat) (s : State) : Result :=
  match s.casting? casting with
  | some c =>
    if (c.state = .faulted ∨ c.state = .discarding) ∧ c.awaited.contains sl = true then
      .next (s.atPort sl servicePort (fun s => s.dropFrames sl casting))
    else .next s
  | none => .next s

/-! ### Faults and discards (R16, R166, R339, R366) -/

/-- CASTING_FAULT: the n-th fault on its way reaches the pool. -/
def execCastingFault (n : Nat) (s : State) : Result :=
  match s.faults[n]? with
  | some f => .next (({ s with faults := s.faults.eraseIdx n } : State).receiveFault f)
  | none => .next s

/-- The discard of a faulted casting is over: its resources are free, the report is written, and it is relaunched, or its graph
can no longer commit. -/
def State.endFaulted (s : State) (c : Casting) (f : FaultRec) : State :=
  let t := s.freeCasting c
  let t := { t with castings := t.castings.filter (fun d => d.uid != c.uid) }
  match s.mouldOf c.uid with
  | none => t
  | some (_, g, m) =>
    let t := t.report c.part c.mould (causeCode f.cause) f.rank f.cluster f.core g.image (widOf m c.index 0 0) f.pc
    let t := if s.relaunches c g f.cause then t.relaunch g c (some f.cluster) f.cause
      else t.modGraph c.graph (fun g => { g with dead := true, lost := g.lost ++ [(c.mould, c.index)] })
    ((t.releaseDiscarded).endGraph c.graph).announceHorizon

/-- The discard of a pre-empted casting is over: it is ready again with no saved state, together with its gang. -/
def State.endDiscarded (s : State) (c : Casting) : State :=
  let t := s.freeCasting c
  match s.mouldOf c.uid with
  | none => t
  | some (_, g, _) =>
    let d := { newCasting g c.mould c.index t.nextUid s.ticks s.service with state := .discarded, relaunches := c.relaunches }
    ((({ t with castings := t.castings.filter (fun e => e.uid != c.uid) ++ [d], nextUid := t.nextUid + 1 } : State).releaseDiscarded).endGraph
      c.graph).announceHorizon

/-- The discard of a casting that another's report stands for is over (R368). -/
def State.endSilent (s : State) (c : Casting) : State :=
  let t := s.freeCasting c
  ((((({ t with castings := t.castings.filter (fun d => d.uid != c.uid) } : State).modGraph c.graph (fun g =>
    { g with lost := g.lost ++ [(c.mould, c.index)] })).releaseDiscarded).endGraph c.graph).announceHorizon)

/-- DISCARD_ACKNOWLEDGED: every slice has dropped the casting's frames, and its stores to scratchpads have been performed and the entries in
progress have come to their ends. -/
def execDiscardAcknowledged (casting : Nat) (s : State) : Result :=
  match s.casting? casting with
  | some c =>
    if c.awaited ≠ [] ∨ s.padStoresLeft casting = true ∨ s.entriesLeft c = true then .next s
    else
      match c.state, c.fault with
      | .faulted, some f => .next (s.endFaulted c f)
      | .faulted, none => .next (s.endSilent c)
      | .discarding, _ => .next (s.endDiscarded c)
      | _, _ => .next s
  | none => .next s

end Sys2Proof.Machine
end

