-- ==== Sys2Proof/Machine/Distance.lean ====
section
/-!
DEFINITION. Instructions on distance: `dist`, `touch`, `pin`, `unpin`, `rwb` and `rinv` (R178, R213 to R223).
-/

namespace Sys2Proof.Machine

/-- The virtual bytes that name the tiles of an instruction, lowest first (R215): byte ea, then the tiles that follow it. -/
def rangeTargets (base off : Word64) (n : Nat) : Except Stop (List Nat) :=
  let ea := bitsOf base 56 0 + off.toNat
  if bitsOf base 62 57 ≠ 0 ∨ 4096 < n then .error (.fault .address)
  else if n = 0 then .ok []
  else if 2 ^ 57 ≤ ea / 256 * 256 + 256 * n - 1 then .error (.fault .address)
  else .ok (ea :: (List.range (n - 1)).map (fun i => ea / 256 * 256 + 256 * (i + 1)))

/-- The number of tiles: one, or what the count register of a `.r` form holds. -/
def Ladle.tileCount (l : Ladle) (count : Option (BitVec 6)) : Nat :=
  match count with
  | none => 1
  | some r => (l.getS r).toNat

/-- The translated bytes of a range: every one, before any request (R216). -/
def State.rangePlaces (s : State) (l : Ladle) (kind : AccessKind) (base off : Word64) (n : Nat) : Except Stop (List (Nat × Leaf)) :=
  match rangeTargets base off n with
  | .error e => .error e
  | .ok vas => checkAll (fun va => s.physical l.who va kind) vas

/-- One tile's request at a place. -/
def tileReq (w : Who) (kind : ReqKind) (place : Place × Bool) (pend : Option Nat) (pa : Nat) : Req :=
  { id := 0, who := w, kind := kind, place := place.1, tile := tileOf pa, bypass := false, replica := place.2, rpl := false, pend := pend,
    ops := [{ lane := 0, bytes := [pa], bit := 0, width := 8, desc := 0, scale := none, x := 0, y := 0 }], held := false }

/-- `dist` (fn 00) asks where a plain load is served, `dist.h` (fn 01) the home (R217). -/
def State.distance (s : State) (home : Bool) (d a b : BitVec 6) (n : BitVec 4) : State :=
  s.uniformLong (.uniform d) n false false (fun l =>
    (s.rangePlaces l .read (l.getS a) (l.getS b) 1).map (fun ps pend =>
      ps.map (fun p => tileReq l.who (.dist home) (s.placeOf (l.cluster / 32) p.1 p.2.rpl (!home)) pend p.1)))

def execDist (d a b : BitVec 6) (n : BitVec 4) (s : State) : Result := .next (s.distance false d a b n)
def execDistH (d a b : BitVec 6) (n : BitVec 4) (s : State) : Result := .next (s.distance true d a b n)

/-- Send one request for each tile of a range, in increasing address order; `pick` chooses a tile's place, or none, and
`note` marks the issue. -/
def State.rangeOp (s : State) (note : State → State) (kind : AccessKind) (req : ReqKind) (count : Option (BitVec 6)) (a b : BitVec 6)
    (pick : State → Nat → Leaf → Except Stop (Option (Place × Bool))) : State :=
  let l := s.me
  match s.rangePlaces l kind (l.getS a) (l.getS b) (l.tileCount count) with
  | .error e => s.stopAt e
  | .ok ps =>
    match checkAll (fun p => (pick s p.1 p.2).map (fun o => (o, p.1))) ps with
    | .error e => s.stopAt e
    | .ok qs =>
      let rs := qs.filterMap (fun q => q.1.map (fun place => { tileReq l.who req place none q.2 with ranged := true }))
      ((note s).done (fun l => l)).submitAll rs

/-- The home of a byte, plain or not. -/
def State.homePlace (s : State) (pa : Nat) : Place × Bool := s.placeOf (s.me.cluster / 32) pa false false

/-- The replica slice of a byte of a replica page homed on the other die; other bytes have none. -/
def State.replicaPlace (s : State) (pa : Nat) (leaf : Leaf) : Option (Place × Bool) :=
  let p := s.placeOf (s.me.cluster / 32) pa leaf.rpl true
  if p.2 then some p else none

/-- `pin`: host memory is an address fault at translation (R219). -/
def State.pinOp (s : State) (count : Option (BitVec 6)) (a b : BitVec 6) : State :=
  s.rangeOp id .read .pin count a b (fun s pa _ => if isHost pa then .error (.fault .address) else .ok (some (s.homePlace pa)))

/-- `unpin`: an address in host memory makes no request (R221). -/
def State.unpinOp (s : State) (count : Option (BitVec 6)) (a b : BitVec 6) : State :=
  s.rangeOp id .read .unpin count a b (fun s pa _ => .ok (if isHost pa then none else some (s.homePlace pa)))

/-- `rwb` acts on replicas only, and ends restartability at issue (R216, R222, R375). -/
def State.rwbOp (s : State) (count : Option (BitVec 6)) (a b : BitVec 6) : State :=
  s.rangeOp (fun s => s.unversion s.me.casting) .sync .rwb count a b (fun s pa leaf => .ok (s.replicaPlace pa leaf))

/-- `rinv` acts on replicas only (R222). -/
def State.rinvOp (s : State) (count : Option (BitVec 6)) (a b : BitVec 6) : State :=
  s.rangeOp id .read .rinv count a b (fun s pa leaf => .ok (s.replicaPlace pa leaf))

def execPin (a b : BitVec 6) (s : State) : Result := .next (s.pinOp none a b)
def execPinR (n a b : BitVec 6) (s : State) : Result := .next (s.pinOp (some n) a b)
def execUnpin (a b : BitVec 6) (s : State) : Result := .next (s.unpinOp none a b)
def execUnpinR (n a b : BitVec 6) (s : State) : Result := .next (s.unpinOp (some n) a b)
def execRwb (a b : BitVec 6) (s : State) : Result := .next (s.rwbOp none a b)
def execRwbR (n a b : BitVec 6) (s : State) : Result := .next (s.rwbOp (some n) a b)
def execRinv (a b : BitVec 6) (s : State) : Result := .next (s.rinvOp none a b)
def execRinvR (n a b : BitVec 6) (s : State) : Result := .next (s.rinvOp (some n) a b)

/-- `touch` drops each tile that does not translate; the bypass hint makes no request (R215, R216, R218). -/
def State.touchRange (s : State) (count : Option (BitVec 6)) (a b : BitVec 6) : State :=
  let l := s.me
  match rangeTargets (l.getS a) (l.getS b) (l.tileCount count) with
  | .error e => s.stopAt e
  | .ok vas =>
    if bypassHint (l.getS a) then s.done (fun l => l)
    else
      match s.walkNeeded l.who vas with
      | some v => s.stopAt (.walk v .touch)
      | none =>
        let rs := (vas.flatMap (fun va => s.touchOp l.who 0 va)).map (fun g =>
          let pa := g.op.bytes.headD 0
          { tileReq l.who .touch (s.placeOf (l.cluster / 32) pa g.rpl true) none pa with ranged := true })
        (s.done (fun l => l)).submitAll rs

def execTouch (a b : BitVec 6) (s : State) : Result := .next (s.touchRange none a b)
def execTouchR (n a b : BitVec 6) (s : State) : Result := .next (s.touchRange (some n) a b)

end Sys2Proof.Machine
end

