-- ==== Sys2Proof/Machine/Gangs.lean ====
section
/-!
DEFINITION. The start of a gang mould over several packages, by a start board (R368).
-/

namespace Sys2Proof.Machine

/-! ### Starts -/

/-- The start of a gang mould on this package. -/
def State.gangStart? (s : State) (graph mould : Nat) : Option GangStart :=
  s.gangs.find? (fun e => decide (e.graph = graph) && decide (e.mould = mould))

def State.modGangs (s : State) (p : GangStart → Bool) (f : GangStart → GangStart) : State :=
  { s with gangs := s.gangs.map (fun e => if p e then f e else e) }

/-- The mould of a start. -/
def State.startMould (s : State) (graph mould : Nat) : Option Mould :=
  match s.graph? graph with
  | some g => g.moulds[mould]?
  | none => none

/-- The start board of a mould. -/
def Mould.boardKey (m : Mould) : Nat := m.package * 4096 + m.board

/-- A start waits for the outcome of a board: it has posted to it. -/
def State.waitsOn (s : State) (key : Nat) (e : GangStart) : Bool :=
  e.posted && (match s.startMould e.graph e.mould with | some m => decide (m.boardKey = key) | none => false)

/-- The home of a start board sends an outcome to every member that has posted; one that has its outcome keeps it. -/
def State.announceStart (s : State) (key : Nat) (start : Bool) : State :=
  s.modGangs (s.waitsOn key) (fun e => if e.outcome.isSome then e else { e with outcome := some start })

/-- The answer of the home to one member. -/
def State.answerStart (s : State) (graph mould : Nat) (start : Bool) : State :=
  s.modGangs (·.isOf graph mould) (fun e => { e with outcome := some start })

def State.setBoard (s : State) (key : Nat) (b : Board) : State := { s with boards := FMap.set Board.fresh s.boards key b }

/-! ### Operations at the home -/

/-- A ready operation for a slot at a start board of this package, and the answer to its sender. -/
def State.readyOp (s : State) (key slot : Nat) : State × Option Bool :=
  let b := s.board key
  if b.level = 0 then
    if b.full then (s, none)
    else
      let b := { b with mask := b.mask ||| BitVec.ofNat 256 (2 ^ slot) }
      let t := s.setBoard key b
      (if b.full then t.announceStart key true else t, none)
  else (s, some false)

/-- An abort operation for a slot. -/
def State.abortOp (s : State) (key slot : Nat) : State × Option Bool :=
  let b := s.board key
  if b.level = 0 then
    if b.full then (s, some true)
    else ((s.setBoard key { b with level := 1, mask := BitVec.ofNat 256 (2 ^ slot) }).announceStart key false, none)
  else (s, some false)

/-- An operation of this package's member: a start board homed on another package answers from there. -/
def State.memberOp (s : State) (graph mould : Nat) (m : Mould) (ready : Bool) : State :=
  if m.package ≠ s.pkg then s
  else
    let r := if ready then s.readyOp m.boardKey m.rank else s.abortOp m.boardKey m.rank
    match r.2 with
    | some start => r.1.answerStart graph mould start
    | none => r.1

/-- An operation of another member on a start board of this package. -/
def State.otherOp (s : State) (key slot : Nat) (ready : Bool) : State :=
  if key / 4096 ≠ s.pkg then s else if ready then (s.readyOp key slot).1 else (s.abortOp key slot).1

/-- The outcome of a start board of another package. -/
def State.otherOutcome (s : State) (key : Nat) (start : Bool) : State :=
  if key / 4096 = s.pkg then s else s.announceStart key start

/-! ### Outcomes at a member -/

/-- The castings of a start. -/
def State.startCastings (s : State) (graph mould : Nat) : List Casting :=
  byIndex (s.castings.filter (fun c => decide (c.graph = graph) && decide (c.mould = mould)))

/-- A start is over. -/
def State.endStart (s : State) (graph mould : Nat) : State := { s with gangs := s.gangs.filter (fun e => !e.isOf graph mould) }

/-- A casting that waits for its next dispatch holds nothing: a discard of it ends at once. -/
def Casting.withdrawn (c : Casting) : Casting :=
  match c.state with
  | .ready => { c with state := .heldBack, cluster := 0x100 }
  | .discarded => { c with state := .heldBack, cluster := 0x100 }
  | _ => c

/-- The abort of a start comes to the casting that its report names: as a fault; one that is being discarded already takes the report with it,
and one whose own fault has come first has two (R166, R368). -/
def State.takeAbort (s : State) (g : Option Graph) (m : Mould) (f : FaultRec) : State :=
  match s.casting? f.casting with
  | none => s
  | some c =>
    if c.takesFault then s.receiveFault f
    else if c.fault.isNone then s.modCasting c.uid (fun c => { c with state := .faulted, fault := some f })
    else s.report c.part c.mould (causeCode f.cause) f.rank f.cluster f.core ((g.map (·.image)).getD 0) (widOf m c.index 0 0) f.pc

/-- A member's castings are discarded; one report names the lowest, ladle rank 0. -/
def State.abortStart (s : State) (graph mould : Nat) (m : Mould) : State :=
  match s.startCastings graph mould with
  | [] => s.endStart graph mould
  | c :: r =>
    let core := ((s.ladles.find? (fun l => l.live && decide (l.casting = c.uid) && decide (l.rank = 0))).map (·.core)).getD 0
    let t := (c :: r).foldl (fun t d => t.modCasting d.uid Casting.withdrawn) s
    let t := t.takeAbort (s.graph? graph) m { casting := c.uid, cause := .gangAbort, pc := m.code, rank := 0, cluster := c.cluster, core := core }
    (r.foldl (fun t d => t.startDiscard d.uid .faulted) t).endStart graph mould

/-! ### Events -/

/-- GANG_READY_POST: a post to a board whose member count is not m aborts this member at once. A member with no casting has posted all that
it does. -/
def execGangReadyPost (graph mould : Nat) (s : State) : Result :=
  match s.gangStart? graph mould, s.startMould graph mould with
  | some e, some m =>
    if e.posted then .next s
    else if m.package = s.pkg ∧ (s.board m.boardKey).members ≠ m.members then .next (s.abortStart graph mould m)
    else .next (((s.modGangs (·.isOf graph mould) (fun e => { e with posted := true, watchdog := true })).memberOp graph mould m true).commitGraph graph)
  | _, _ => .next s

/-- GANG_WATCHDOG_EXPIRY: no outcome has come within 2^Watchdog cycles. -/
def execGangWatchdogExpiry (graph mould : Nat) (s : State) : Result :=
  .next (s.modGangs (fun e => e.isOf graph mould && e.outcome.isNone) (fun e => { e with watchdog := false }))

/-- GANG_ABORT_OPERATION: a member whose watchdog has expired before any outcome. -/
def execGangAbortOperation (graph mould : Nat) (s : State) : Result :=
  match s.gangStart? graph mould, s.startMould graph mould with
  | some e, some m => if e.posted ∧ e.watchdog = false ∧ e.outcome = none then .next (s.memberOp graph mould m false) else .next s
  | _, _ => .next s

/-- GANG_START: a member receives start. -/
def execGangStart (graph mould : Nat) (s : State) : Result :=
  match s.gangStart? graph mould with
  | some e =>
    if e.outcome = some true ∧ e.started = false then
      .next ((s.startCastings graph mould).foldl (fun t c => t.startLadles c.uid)
        (s.modGangs (·.isOf graph mould) (fun e => { e with started := true })))
    else .next s
  | none => .next s

/-- GANG_ABORT: a member receives abort. -/
def execGangAbort (graph mould : Nat) (s : State) : Result :=
  match s.gangStart? graph mould, s.startMould graph mould with
  | some e, some m => if e.outcome = some false then .next (s.abortStart graph mould m) else .next s
  | _, _ => .next s

end Sys2Proof.Machine
end

