-- ==== Sys2Proof/Machine/RegisterEvents.lean ====
section
/-!
DEFINITION. Register writes that the host, or a privileged ladle's `sysw`, sends on its own slot: each is the write of its
register, and one that is refused is dropped (R117, R196, R197, R201, R212, R253, R254, R316, R325, R326, R406, R407, R409,
R418, R422, R423).
-/

namespace Sys2Proof.Machine

/-! ### The home-selection block (R196, R197, R212) -/

/-- HASH_CTL_GO. -/
def execHashCtlGo (die : Nat) (s : State) : Result := if 2 ≤ die then .next s else .next (s.tryWrite (0x40c + 0x20 * die) 1)

/-- BT_DATA. -/
def execBtData (die : Nat) (value : BitVec 64) (s : State) : Result :=
  if 2 ≤ die then .next s else .next (s.tryWrite (0x419 + 0x20 * die) value)

/-- SLICE_RETIRE with GO = 1. -/
def execSliceRetire (die sl : Nat) (s : State) : Result :=
  if 2 ≤ die ∨ 32 ≤ sl then .next s else .next (s.tryWrite (0x41a + 0x20 * die) (BitVec.ofNat 64 (0x100 + sl)))

/-- SPLIT_REGISTER_WRITE. -/
def execSplitRegisterWrite (part die : Nat) (value : BitVec 64) (s : State) : Result :=
  if 24 ≤ part ∨ 2 ≤ die then .next s else .next (s.tryWrite (0x440 + 2 * part + die) value)

/-! ### Format tables (R253, R254) -/

/-- FMT_SYNC: a load of the partition's tables is queued. -/
def execFmtSync (part : Nat) (s : State) : Result := if 24 ≤ part then .next s else .next (s.tryWrite (0x502 + 4 * part) 1)

/-- FMT_TABLE_LOAD: the queued load takes its slot. -/
def execFmtTableLoad (part : Nat) (s : State) : Result := if s.fmtLoads.contains part then .next (s.loadTables part) else .next s

/-! ### Shootdowns (R422) -/

/-- SD_CTL with GO = 1. -/
def execSdCtl (part : Nat) (s : State) : Result := if 24 ≤ part then .next s else .next (s.tryWrite (hostReg part 11) 1)

/-- An access of a partition that was sent before a shootdown began is still to be performed, or a fold or a merge of one (R266): one that
has not been acknowledged yet is not (R383). DEDUCED (log 96): a `waita` is one access until it ends. -/
def State.accessBefore (s : State) (p first : Nat) : Bool :=
  let old := fun (r : Req) => decide (r.who.part = p) && decide (r.order < first)
  s.requests.any old || s.rehomed.any old || s.retry.any (fun e => e.2.any old) || s.returning.any (fun e => old e.2.1)
  || s.shootdownWaits.any (fun w => decide (w.1 = p) && (s.globalWaits p).contains w.2) || s.castings.any (fun c => c.resend.any old)

/-- SHOOTDOWN_COMPLETE: the completion value is written to host memory, and BUSY clears. DESIGN CHOICE (log 94): at a completion address that is
not one of host space, which R416 does not provide for, nothing is written. -/
def execShootdownComplete (part : Nat) (s : State) : Result :=
  match s.shootdowns.find? (fun e => e.1 == part) with
  | some (_, first) =>
    if s.accessBefore part first then .next s
    else
      let pa := (s.reg (hostReg part 9)).toNat
      let t := if isHost pa then s.commitWord pa 8 (s.reg (hostReg part 10)).toNat else s
      .next (({ t with shootdowns := t.shootdowns.filter (fun e => e.1 != part),
                       shootdownWaits := t.shootdownWaits.filter (fun w => w.1 != part) }).setReg (hostReg part 11) 0)
  | none => .next s

/-! ### Boards and partitions (R418, R423) -/

/-- BOARD_CFG. -/
def execBoardCfg (value : BitVec 64) (s : State) : Result := .next (s.tryWrite 0xc01 value)

/-- BRD_RESET. -/
def execBrdReset (part : Nat) (value : BitVec 64) (s : State) : Result :=
  if 24 ≤ part then .next s else .next (s.tryWrite (hostReg part 12) value)

/-- PART_CTL with RESET = 1. -/
def execPartCtlReset (part : Nat) (s : State) : Result :=
  if 24 ≤ part then .next s else .next (s.tryWrite (hostReg part 13) 2)

/-- PART_CTL with RESET = 0. -/
def execPartCtlEn (part : Nat) (enable : Bool) (s : State) : Result :=
  if 24 ≤ part then .next s else .next (s.tryWrite (hostReg part 13) (BitVec.ofNat 64 (bit enable)))

/-! ### Residue registers (R315, R316, R325, R326) -/

/-- RNS_INJECT. -/
def execRnsInject (value : BitVec 64) (s : State) : Result := .next (s.tryWrite 0x700 value)

/-- RNS_CTL.MF of a cluster. -/
def execRnsCtlMf (cluster : Nat) (mf : Bool) (s : State) : Result :=
  if 64 ≤ cluster then .next s
  else .next (s.tryWrite (0x600 + 4 * cluster) (putBits (s.reg (0x600 + 4 * cluster)) 0 0 (bit mf)))

/-- RNS_CTL.RETIRED of a cluster. -/
def execRnsCtlRetired (cluster : Nat) (retired : BitVec 6) (s : State) : Result :=
  if 64 ≤ cluster then .next s
  else .next (s.tryWrite (0x600 + 4 * cluster) (putBits (s.reg (0x600 + 4 * cluster)) 13 8 retired.toNat))

/-! ### Any register through BAR0 (R407, R409, R416) -/

/-- Registers that a VF host may write: those of its partition that R167, R253, R276 and R416 give it. -/
def vfWrites (p n : Nat) : Bool :=
  (decide (n / 8 = (0x200 + 8 * p) / 8) && decide (n % 8 ≠ 2))
  || (decide (n / 4 = (0x500 + 4 * p) / 4) && decide (n % 4 ≠ 3))
  || decide (n / 2 = (0x580 + 2 * p) / 2)
  || (decide (n / 16 = hostReg p 0 / 16) && [0, 1, 2, 4, 5, 6, 7, 8, 9, 10, 11, 12, 14].contains (n % 16))

/-- A link presents partition `p`'s virtual function. -/
def State.vfPresented (s : State) (p : Nat) : Bool := decide (p < 24) && (s.presents p false 0 || s.presents p false 1)

/-- A host can reach the physical function. -/
def State.pfPresented (s : State) : Bool := s.links.contains true

/-- REGISTER_WRITE: an aligned 8-byte write through BAR0 of the physical function, or of the partition's own. -/
def execRegisterWrite (number : BitVec 13) (value : BitVec 64) (viaVF : Bool) (part : Nat) (s : State) : Result :=
  let n := number.toNat
  if (if viaVF then s.vfPresented part && vfWrites part n else s.pfPresented && decide (0x100 ≤ n)) then .next (s.tryWrite n value)
  else .next s

/-! ### The BARs as a host reads and writes them (R407, R409, R410, R414) -/

/-- The register at an offset of partition `p`'s view. -/
def viewReg (p offset : Nat) : Option Nat :=
  let i := offset / 8
  if i < 8 then some (rqReg p i)
  else if i = 8 then some (0x2c0 + p)
  else if 9 ≤ i ∧ i < 13 then some (0x300 + 4 * p + (i - 9))
  else if 16 ≤ i ∧ i < 19 then some (0x500 + 4 * p + (i - 16))
  else if 19 ≤ i ∧ i < 21 then some (0x580 + 2 * p + (i - 19))
  else if 21 ≤ i ∧ i < 23 then some (0x440 + 2 * p + (i - 21))
  else if 32 ≤ i ∧ i < 48 then some (hostReg p (i - 32))
  else if 48 ≤ i ∧ i < 56 then some (0xb00 + 8 * p + (i - 48))
  else none

/-- What a host reads of a device register, as `sysr` gives it; an unassigned number reads zero (log 77). -/
def State.registerWord (s : State) (n : Nat) : Word64 := if regAssigned n then s.readReg n else 0

/-- A word of a function's MSI-X table, two for each vector, and its 64 pending bits. -/
def State.tableWord (s : State) (link function i : Nat) : Word64 :=
  let e := FMap.get msixEntry s.msixTable (vectorKey link function (i / 2))
  if i % 2 = 0 then e.1 else e.2
def State.pendingWord (s : State) (link function : Nat) : Word64 :=
  maskOf 64 ((List.range 64).filter (fun v => FMap.get false s.msixPending (vectorKey link function v)))

/-- An 8-byte word of BAR0: the physical function's registers, or a partition's view; each with its table and pending bits. -/
def State.bar0Word (s : State) (link function offset : Nat) : Word64 :=
  let at_ := fun (table pba : Nat) =>
    if table ≤ offset ∧ offset < table + 1024 then some (s.tableWord link function ((offset - table) / 8))
    else if offset = pba then some (s.pendingWord link function) else none
  match function with
  | 0 => (at_ 0x10000 0x10400).getD (if 0x800 ≤ offset ∧ offset < 0x10000 then s.registerWord (offset / 8) else 0)
  | p + 1 =>
    (at_ 0x800 0xc00).getD (
      if 0x400 ≤ offset ∧ offset < 0x800 then (FMap.get 0 s.amax (p * 128 + (offset - 0x400) / 8)).setWidth 64
      else match viewReg p offset with | some n => s.registerWord n | none => 0)

/-- LQ_STATUS of a partition (R410). -/
def State.lqStatus (s : State) (p : Nat) : Word64 :=
  let c := FMap.get LqCounts.zero s.lq p
  BitVec.ofNat 64 (c.dropped.toNat * 2 ^ 48 + c.rejected.toNat * 2 ^ 32 + c.lost.toNat * 2 ^ 16 + (s.queueOf p).length)

/-- The partition of a launch page: BAR2 of the physical function holds one for each, a virtual function's its own. -/
def pageOf (function offset : Nat) : Option Nat :=
  match function with
  | 0 => if offset / 4096 < 24 then some (offset / 4096) else none
  | p + 1 => if offset < 4096 then some p else none

/-- A link presents a function (R405, R406). -/
def State.presentsFunction (s : State) (link function : Nat) : Bool :=
  match function with
  | 0 => s.presents 0 true link
  | p + 1 => decide (p < 24) && s.presents p false link

/-- What a host read of a BAR completes with. A BAR0 access is an aligned one of 8 bytes: other sizes complete with all ones. Of a launch page
LQ_STATUS alone reads other than zero. -/
def State.barRead (s : State) (link function bar offset size : Nat) : List Byte :=
  if bar = 0 then
    if size = 8 ∧ offset % 8 = 0 then bytesLE 8 (s.bar0Word link function offset).toNat else List.replicate size 0xff#8
  else match pageOf function offset with
    | some p => if offset % 4096 = 0x40 ∧ size = 8 then bytesLE 8 (s.lqStatus p).toNat else List.replicate size 0
    | none => List.replicate size 0

/-- A host reads BAR0 or a launch page through a link that presents the function. -/
def State.readBar (s : State) (link function bar offset size : Nat) : State :=
  if s.presentsFunction link function && (bar == 0 || bar == 2) then
    { s with replies := s.replies ++ [.data (s.barRead link function bar offset size)] }
  else s

/-- Vectors of a function that are pending and can send their messages now send them, the lowest first (R414). -/
def State.sendPending (s : State) (link function : Nat) : State :=
  (List.range 64).foldl (fun t v =>
    if FMap.get false t.msixPending (vectorKey link function v) && t.vectorOpen link function v then
      { t with msix := t.msix ++ [(function, v, link)], msixPending := FMap.set false t.msixPending (vectorKey link function v) false }
    else t) s

/-- A write of a word of a function's MSI-X table. -/
def State.writeTable (s : State) (link function i : Nat) (value : Word64) : State :=
  let k := vectorKey link function (i / 2)
  let e := FMap.get msixEntry s.msixTable k
  ({ s with msixTable := FMap.set msixEntry s.msixTable k (if i % 2 = 0 then (value, e.2) else (e.1, value)) } : State).sendPending link function

/-- A host writes 8 bytes of BAR0: a register as `sysw` writes it, through a view those that it may write, or a word of the MSI-X table. -/
def State.bar0Write (s : State) (link function offset : Nat) (value : Word64) : State :=
  let table := if function = 0 then 0x10000 else 0x800
  if table ≤ offset ∧ offset < table + 1024 then s.writeTable link function ((offset - table) / 8) value
  else match function with
    | 0 => if 0x800 ≤ offset ∧ offset < 0x10000 then s.tryWrite (offset / 8) value else s
    | p + 1 => match viewReg p offset with | some n => if vfWrites p n then s.tryWrite n value else s | none => s

/-- A host writes BAR0 through a link that presents the function. -/
def State.writeBar (s : State) (link function bar offset size : Nat) (value : Word64) : State :=
  if s.presentsFunction link function && bar == 0 && size == 8 && offset % 8 == 0 then s.bar0Write link function offset value else s

/-- A host sets a function's MSI-X enable and function mask. -/
def State.msixControl (s : State) (link function : Nat) (enable mask : Bool) : State :=
  if s.presentsFunction link function then
    ({ s with msixEnable := FMap.set (false, false) s.msixEnable (link * 32 + function) (enable, mask) } : State).sendPending link function
  else s

end Sys2Proof.Machine
end

