-- ==== Sys2Proof/Machine/HostAccess.lean ====
section
/-!
DEFINITION. Accesses of hosts and of the Ethernet ports to memory: the physical window, the partitions' memory windows, and
RDMA (R407, R408, R419, R431). Each is a synchronising access at its home, one for each tile.
-/

namespace Sys2Proof.Machine

/-! ### One access -/

/-- Where a request from outside enters: the die and the input port of that die's crossbar; it reaches a home of the other die through that
die's link port (R182). -/
structure Entrance where
  die : Nat
  port : Nat
  deriving DecidableEq, Repr

/-- The port by which it comes to slice `n`. -/
def Entrance.portAt (e : Entrance) (n : Nat) : Nat := if n / 32 = e.die then e.port else diePort

/-- A host's link enters its own die, 33 its port; an Ethernet port enters through the collective engine of its die (R182, R405, R431). -/
def linkEntrance (link : Nat) : Entrance := { die := link, port := 33 }
def ethernetEntrance (port : Nat) : Entrance := { die := port / 2, port := fabricPort }

/-- The access takes its slot at the slice of a place, with a miss register where it needs one, or waits: its port does not win, no miss
register is free, or the slice holds requests for the tile (R182, R189, R191, R197). It promotes nothing (log 46). -/
def State.outerSlot (s : State) (e : Entrance) (pa : Nat) : Option State :=
  if isHbm pa || isScratch pa then
    let n := s.sliceOfTile (tileOf pa)
    let port := e.portAt n
    if (isHbm pa && (s.holdsTile n (tileOf pa) || !((s.sliceOf n).resident (tileOf pa) || (s.sliceOf n).missRoom (tileOf pa))))
        || !s.portWins n port none then none
    else
      let t := s.portGranted n port
      some (if isHbm pa then t.useMiss n (tileOf pa) else t)
  else some s

/-- The value of a poisoned byte is open (log 6); any other reads as committed. -/
def State.outerByte (s : State) (pa : Nat) : Byte :=
  if s.poisoned pa then (Sys2Proof.Config.freeValue (s.free + pa % 256)).setWidth 8 else s.mem.read pa

/-- A read from outside of bytes of one tile, as a request at its slice: what it gives may have to wait for a realignment. -/
def State.outerReq (s : State) (pas : List Nat) : Req :=
  let tile := tileOf (pas.headD 0)
  { id := 0, who := .device, kind := .syncLoad, place := .slice (s.sliceOfTile tile), tile := tile, bypass := true, replica := false, rpl := false,
    pend := none, held := false, unit := some 7,
    ops := pas.zipIdx.map (fun e => { lane := e.2, bytes := [e.1], bit := 0, width := 8, desc := 0, scale := none, x := 0, y := 0 }) }

/-- What a read from outside has read: the bytes, and the slices whose realignment holds some of them (R230). -/
abbrev OuterData := List Byte × List Nat

/-- Read `n` bytes of one tile from a place; all ones where there is none. None where the access waits. -/
def State.outerRead (s : State) (e : Entrance) (o : Option Nat) (n : Nat) : Option (State × OuterData) :=
  match o with
  | some pa => (s.outerSlot e pa).map (fun t =>
      let pas := (List.range n).map (pa + ·)
      ({ t.correctBytes pas with free := t.free + 256 }, (pas.map t.outerByte, if isHbm pa || isScratch pa then s.lateAt (s.outerReq pas) else [])))
  | none => some (s, (List.replicate n 0xff#8, []))

/-- Write bytes of one tile at a place; dropped where there is none. -/
def State.outerWrite (s : State) (e : Entrance) (o : Option Nat) (bs : List Byte) : Option State :=
  match o with
  | some pa => (s.outerSlot e pa).map (fun t => t.commitBytes (bs.zipIdx.map (fun b => (pa + b.2, b.1))))
  | none => some s

/-- Read parts in increasing address order, each through a translation. -/
def State.outerReads (e : Entrance) (tr : State → Nat → Option Nat) : List (Nat × Nat) → State → Option (State × OuterData)
  | [], s => some (s, ([], []))
  | (a, k) :: r, s =>
    match s.outerRead e (tr s a) k with
    | some x => (State.outerReads e tr r x.1).map (fun q => (q.1, (x.2.1 ++ q.2.1, x.2.2 ++ q.2.2)))
    | none => none

/-- Write parts in increasing address order. -/
def State.outerWrites (e : Entrance) (tr : State → Nat → Option Nat) : List (Nat × Nat) → List Byte → State → Option State
  | [], _, s => some s
  | (a, k) :: r, bs, s =>
    match s.outerWrite e (tr s a) (bs.take k) with
    | some t => State.outerWrites e tr r (bs.drop k) t
    | none => none

/-- The reply to a read from outside: at once, or when no realignment holds its data any more (R230). -/
def State.outerReply (s : State) (a : Nat) (d : OuterData) : State :=
  match d.2.eraseDups with
  | [] => { s with replies := s.replies ++ [.data d.1] }
  | n :: r => { s with returning := s.returning ++ [(n, { s.outerReq [a] with late := n :: r }, d.1.zipIdx.map (fun b => (b.2, b.1.setWidth 64)))] }

/-- A write, or a read whose data the reply carries, one access for each tile; nothing where one of them has to wait: the agenda brings the
access again. -/
def State.outerAccess (s : State) (e : Entrance) (write : Bool) (tr : State → Nat → Option Nat) (a : Nat) (bs : List Byte) : State :=
  let parts := tileParts a bs.length (bs.length + 1)
  if write then (State.outerWrites e tr parts bs s).getD s
  else match State.outerReads e tr parts s with
    | some x => x.1.outerReply a x.2
    | none => s

/-! ### The physical window (R408) -/

/-- A byte of HBM by its physical address, where there is one. -/
def State.hbmPlace (s : State) (a : Nat) : Option Nat :=
  if hbmLimit ≤ a ∨ s.domainOf (dieOf a) (dieOffset a) = none then none else some a

/-- An access to the physical window through a link: offset x is address x. -/
def State.physicalWindow (s : State) (link : Nat) (write : Bool) (offset : Nat) (bytes : List Byte) : State :=
  if s.links.toList.getD link false && decide (offset + bytes.length ≤ 2 ^ 40) then
    s.outerAccess (linkEntrance link) write State.hbmPlace offset bytes
  else s

/-- HOST_PHYSICAL_WINDOW_ACCESS through a link. A read's length is that of its list. -/
def execHostPhysicalWindowAccess (link : Nat) (write : Bool) (offset : Nat) (bytes : List (BitVec 8)) (s : State) : Result :=
  .next (s.physicalWindow link write offset bytes)

/-! ### The memory windows (R419) and RDMA (R431) -/

/-- The place of a partition's virtual address, for a read or a write. -/
def outerPlace (p : Nat) (write : Bool) (s : State) (va : Nat) : Option Nat :=
  if 2 ^ 57 ≤ va then none else s.walkAddr p va (if write then .write else .read)

/-- An aligned access of one tile. -/
def alignedAccess (offset n : Nat) : Bool := [1, 2, 4, 8, 16, 32, 64, 128, 256].contains n && decide (offset % n = 0)

/-- An access to a partition's virtual addresses: its walks correct the entries that they read (R337). -/
def State.virtualAccess (s : State) (e : Entrance) (p : Nat) (write : Bool) (va : Nat) (bytes : List Byte) : State :=
  (s.correctRange p .write va bytes.length).outerAccess e write (outerPlace p write) va bytes

/-- An access to a partition's memory window: window offset x reaches HWIN_BASE + x. -/
def State.memoryWindow (s : State) (part : Nat) (write : Bool) (offset : Nat) (bytes : List Byte) : State :=
  if s.vfPresented part && alignedAccess offset bytes.length && decide (offset < 2 ^ 36) then
    s.virtualAccess (linkEntrance (s.vfLink part)) part write ((s.reg (hostReg part 14)).toNat + offset) bytes
  else s

/-- HOST_MEMORY_WINDOW_ACCESS. -/
def execHostMemoryWindowAccess (part : Nat) (write : Bool) (offset : Nat) (bytes : List (BitVec 8)) (s : State) : Result :=
  .next (s.memoryWindow part write offset bytes)

/-- RDMA_WRITE, through an Ethernet port into a buffer of the partition that owns the queue pair. -/
def execRdmaWrite (pair : Nat × Nat) (va : BitVec 64) (bytes : List (BitVec 8)) (s : State) : Result :=
  if 4 ≤ pair.1 ∨ 24 ≤ pair.2 then .next s
  else .next (s.virtualAccess (ethernetEntrance pair.1) pair.2 true va.toNat bytes)

/-- RDMA_READ. -/
def execRdmaRead (pair : Nat × Nat) (va : BitVec 64) (length : Nat) (s : State) : Result :=
  if 4 ≤ pair.1 ∨ 24 ≤ pair.2 then .next s
  else .next (s.virtualAccess (ethernetEntrance pair.1) pair.2 false va.toNat (List.replicate length 0))

/-! ### BARs (R407) -/

/-- The size of a function's BAR; 0 where it has none. -/
def barSize (function bar : Nat) : Nat :=
  match function, bar with
  | 0, 0 => 2 ^ 17
  | 0, 2 => 2 ^ 17
  | 0, 4 => 2 ^ 40
  | _ + 1, 0 => 2 ^ 12
  | _ + 1, 2 => 2 ^ 37
  | _, _ => 0

/-- A host's access to a BAR that is one to a window: the physical window in BAR4 of the physical function, the memory window in BAR2 of a
virtual one from 64 GiB on. -/
def State.windowOfBar (s : State) (link function bar offset : Nat) (write : Bool) (bytes : List Byte) : Option State :=
  match function, bar with
  | 0, 4 => some (s.physicalWindow link write offset bytes)
  | p + 1, 2 => if 2 ^ 36 ≤ offset then some (s.memoryWindow p write (offset - 2 ^ 36) bytes) else none
  | _, _ => none

/-- A host reads within a BAR of a function that its link presents. -/
def State.hostRead (s : State) (link function bar offset size : Nat) : State :=
  if barSize function bar < offset + size || !s.presentsFunction link function then s
  else (s.windowOfBar link function bar offset false (List.replicate size 0)).getD (s.readBar link function bar offset size)

/-- A host writes within a BAR of a function that its link presents; the pages of BAR2 that launch graphs have their own event. -/
def State.hostWrite (s : State) (link function bar offset size : Nat) (value : Word64) : State :=
  if barSize function bar < offset + size || !s.presentsFunction link function then s
  else (s.windowOfBar link function bar offset true (bytesLE size value.toNat)).getD (s.writeBar link function bar offset size value)

end Sys2Proof.Machine
end

