-- ==== Sys2Proof/Machine/Management.lean ====
section
/-!
DEFINITION. Links, bring-up, the management channel, and a failing Nystra port (R232, R405, R406, R424 to R427).
-/

namespace Sys2Proof.Machine

def State.sendReply (s : State) (r : Reply) : State := { s with replies := s.replies ++ [r] }

/-! ### Links and functions (R405, R406) -/

/-- LINK_TRAINED: bring-up has enabled the links (R232, step 6). -/
def execLinkTrained (link : Nat) (s : State) : Result :=
  if !s.enabled then .next s
  else if h : link < 2 then .next { s with links := s.links.set link true } else .next s

/-- VF_ENABLE: the bit of the physical function's SR-IOV capability on a link. -/
def execVfEnable (link : Nat) (enable : Bool) (s : State) : Result :=
  if h : link < 2 then .next { s with vfEnable := s.vfEnable.set link enable } else .next s

/-! ### Bring-up (R232, R424) and reset (R426) -/

/-- A column has failed its training: its slice is retired, or its core is out of service. -/
def State.failColumn (s : State) (e : Nat × Nat) : State :=
  if e.2 < 32 then s.finishRetirement e.1 e.2
  else { s with outOfService := s.outOfService ++ [coreKey (32 * e.1 + (e.2 - 32) / 4) ((e.2 - 32) % 4)] }

/-- BRING_UP, as far as its step 6: the boot ROM accepts the firmware, whose signature verifies and whose security version is at least the fused
minimum, or the package stays in recovery mode until a reset; the list names the columns, by die, that fail their training. The counters count
from 0 from its step 5 on (R7), and the links may train. -/
def execBringUp (verified : Bool) (version : BitVec 8) (failed : List (Nat × Nat)) (s : State) : Result :=
  if s.enabled || s.recovery then .next s
  else if verified && decide (Sys2Proof.Config.fusedMinimum.toNat ≤ version.toNat) then
    let t := (failed.filter (fun e => decide (e.1 < 2) && decide (e.2 < 160))).foldl State.failColumn s
    .next { t.setReg 0xc30 (BitVec.ofNat 64 (1 + version.toNat * 256)) with
      enabled := true, firmware := none, image := s.firmware.getD s.image, service := 0, cyc := [] }
  else .next { s.setReg 0xc30 2 with recovery := true }

/-- The last step of bring-up: the ready pool accepts launches. -/
def State.accept (s : State) : State := if s.enabled then { s with accepting := true } else s

/-- Memory outside the package: another package's HBM and host memory. -/
def State.outerMemory (s : State) : Memory := s.mem.filter (fun c => isHost c.1 || isRemote c.1)

/-- RESET: every register and store at its reset value, as before bring-up has ended. A staged image waits for bring-up. -/
def execResetPackage (s : State) : Result :=
  .next { State.reset.setReg 0xc30 0 with
    accepting := false, enabled := false, links := Vector.replicate 2 false, mem := s.outerMemory, firmware := s.firmware, image := s.image,
    msix := s.msix,
    replies := s.replies, agenda := s.agenda, hold := s.hold, free := s.free, ticks := s.ticks }

/-- STAGE_FIRMWARE: the image is used at the next reset. -/
def execStageFirmware (image : Nat) (s : State) : Result := .next ({ s with firmware := some image }.sendReply .staged)

/-! ### SPDM (R425) -/

def execGetVersion (s : State) : Result := .next (s.sendReply .version)
def execGetCapabilities (s : State) : Result := .next (s.sendReply .capabilities)

/-- NEGOTIATE_ALGORITHMS: ECDSA P-384 with SHA-384 only. -/
def execNegotiateAlgorithms (ecdsaP384 sha384 : Bool) (s : State) : Result :=
  .next (s.sendReply (.algorithms (ecdsaP384 && sha384)))

def execGetDigests (s : State) : Result := .next (s.sendReply .digests)
/-- The certificate chain is slot 0. -/
def execGetCertificate (slot : Nat) (s : State) : Result := .next (s.sendReply (if slot = 0 then .certificate 0 else .error))
def execChallenge (nonce : Nat) (s : State) : Result := .next (s.sendReply (.challenge nonce))

/-- The security version of the firmware that runs. -/
def State.securityVersion (s : State) : Nat := bitsOf (s.reg 0xc30) 15 8

/-- GET_MEASUREMENTS: the boot ROM, the firmware image that runs, the security version, and the fused configuration; the spec does not fix the
bits of the digests (log 12). -/
def execGetMeasurements (index : Nat) (s : State) : Result :=
  match index with
  | 1 => .next (s.sendReply (.measurement 1 (Sys2Proof.Config.measurement 1)))
  | 2 => .next (s.sendReply (.measurement 2 (Sys2Proof.Config.imageDigest s.image)))
  | 3 => .next (s.sendReply (.measurement 3 (BitVec.ofNat 64 s.securityVersion)))
  | 4 => .next (s.sendReply (.measurement 4 (Sys2Proof.Config.measurement 4)))
  | _ => .next (s.sendReply .error)

/-! ### Tveduth (R426) -/

def execIdentify (s : State) : Result :=
  .next (s.sendReply (.identify Sys2Proof.Config.partNumber (BitVec.ofNat 64 s.securityVersion) (BitVec.ofNat 64 s.pkg)))

/-- The temperature of the hottest column of a die. -/
def State.hottest (s : State) (die : Nat) : Nat := ((List.range 160).map (fun k => (s.column die k).temp)).foldl max 0

def execSensors (s : State) : Result := .next (s.sendReply (.sensors (s.hottest 0) (s.hottest 1) (s.reg 0x4a0) s.power))

/-- ERRORS: ERR_UE, ERR_LAST and SLICE_LIVE of both dies. -/
def execErrorsQuery (s : State) : Result := .next (s.sendReply (.errors (s.reg 0x802) (s.reg 0x803) (s.reg 0x41b) (s.reg 0x43b)))

/-- A Tveduth command with a code that R426 does not list is answered with an error. -/
def State.tveduth (s : State) (code : Nat) : State := if 1 ≤ code ∧ code ≤ 5 then s else s.sendReply .error

/-! ### Nystra (R427) -/

/-- NYSTRA_PORT_FAILURE: the port leaves every route mask, and those that are written later. -/
def execNystraPortFailure (port : Nat) (s : State) : Result :=
  let gone : BitVec 16 := BitVec.ofNat 16 (2 ^ port)
  let left := s.routes.map (fun (e : Nat × BitVec 16) => (e.1, e.2 &&& ~~~gone))
  .next { s with routes := left.filter (fun (e : Nat × BitVec 16) => e.2 != 0), failedPorts := s.failedPorts ||| gone }

end Sys2Proof.Machine
end

