-- ==== Sys2Proof/Machine/Preemption.lean ====
section
/-!
DEFINITION. Page walks that wait, translation records, pre-emption and the save of a casting (R144, R169 to R177, R276, R277,
R284, R420 to R422).
-/

namespace Sys2Proof.Machine

/-! ### Walks and records (R169, R420 to R422) -/

/-- A split that waits for a page walk, with its ladle, the byte and the access. -/
abbrev Walk := Ladle × Split × Nat × AccessKind

/-- The die that walks, and the page walked for. -/
def Walk.die (e : Walk) : Nat := e.1.cluster / 32
def Walk.page (e : Walk) : Nat × Nat := (e.1.part, e.2.2.1 / 65536)

/-- All splits that wait for a page walk. -/
def State.waitingWalks (s : State) : List Walk :=
  s.ladles.flatMap (fun l => if l.live then
    l.allSplits.filterMap (fun x => match x.blocked with | .walk va k => some (l, x, va, k) | _ => none) else [])

/-- The walks that run: a die has at most 128, and a further page waits in arrival order (R422). -/
def State.walks (s : State) : List Walk :=
  let all := s.waitingWalks
  all.filter (fun e => decide (((all.filter (fun f => f.die == e.die && decide (f.2.1.walkSince < e.2.1.walkSince))).map Walk.page).eraseDups.length < 128))

/-- A split waits for a page that a leaf translates. -/
def Leaf.serves (leaf : Leaf) (x : Split) : Bool :=
  match x.blocked with
  | .walk va k => decide (leaf.base ≤ va) && decide (va < leaf.base + 2 ^ leaf.log) && permitted leaf.r leaf.w leaf.x k
  | _ => false

/-- A walk of a cluster serves every split of its die that waits for its page (R422). -/
def State.servePage (s : State) (cluster p : Nat) (leaf : Leaf) : State :=
  let near := fun (l : Ladle) => l.live && decide (l.cluster / 32 = cluster / 32) && decide (l.part = p)
  let others := (s.ladles.filter (fun l => near l && l.allSplits.any leaf.serves)).map (·.cluster)
  ((others.foldl (fun (t : State) x => t.cacheLeaf x p leaf) s).cacheLeaf cluster p leaf).mapLadles near (fun l =>
    (l.mapSplits leaf.serves (fun x => { x with blocked := .ready })).fillSlots)

/-- TRANSLATION_WALK: the n-th running walk fills the caches, or suspends the casting; a touch drops what does not translate, and
its split goes on (R147, R216). A walk corrects what it reads, and one that meets a poisoned entry raises cause 0x09 (R337, R338). -/
def execTranslationWalk (n : Nat) (s : State) : Result :=
  match s.walks[n]? with
  | none => .next s
  | some (l, x, va, kind) =>
    let t := s.correctTables l.cluster l.part va kind
    match s.translate l.cluster l.part va kind with
    | .ok leaf => .next (t.servePage l.cluster l.part leaf)
    | .error reason =>
      .next (if kind = .touch then t.modLadle l.uid (fun l =>
          (l.mapSplits (fun y => y.blocked == .walk va .touch) (fun y => { y with blocked := .ready })).fillSlots)
        else if reason = walkPoison then t.raiseFor l.casting l.rank l.cluster l.core .uncorrectable x.pc
        else t.suspendCasting (l.whoAt x.pc) none va kind reason)

/-- TRANSLATION_RECORD_WRITE. -/
def execTranslationRecordWrite (part : Nat) (s : State) : Result :=
  .next (State.writeTranslationRecords part (FMap.get [] s.tqWaiting part).length s)

/-- TQ_TAIL. -/
def execTqTail (part : Nat) (value : BitVec 64) (s : State) : Result := .next (s.tryWrite (hostReg part 4) value)

/-- TQ_ANSWER with bit 63 clear, and set. -/
def execTqAnswerResume (part : Nat) (seq : BitVec 32) (s : State) : Result := .next (s.tryWrite (hostReg part 6) (seq.setWidth 64))
def execTqAnswerAbort (part : Nat) (seq : BitVec 32) (s : State) : Result :=
  .next (s.tryWrite (hostReg part 6) (seq.setWidth 64 ||| fieldMask 63 63))

/-! ### Requests (R170) -/

/-- A value of PREEMPT_CTL. -/
def preemptWord (mode : Nat) (all : Bool) (cluster : Nat) : Word64 := BitVec.ofNat 64 (cluster % 64 * 2 ^ 8 + bit all * 4 + mode)

/-- PREEMPT_CTL with mode 01, and with mode 10. -/
def execPreemptCtlSave (part : Nat) (all : Bool) (cluster : Nat) (s : State) : Result :=
  .next (s.tryWrite (0x2c0 + part) (preemptWord 1 all cluster))
def execPreemptCtlDiscard (part : Nat) (all : Bool) (cluster : Nat) (s : State) : Result :=
  .next (s.tryWrite (0x2c0 + part) (preemptWord 2 all cluster))

/-! ### PREEMPTION_START (R171, R173, R175) -/

/-- A casting that is to be stopped will be saved: a discard of one that is not restartable is carried out as a save, and a
translation suspension is a save. -/
def State.willSave (s : State) (c : Casting) : Bool :=
  match c.preempt with
  | some save => save || !s.restartable c
  | none => true

/-- A ladle stops at its next instruction boundary; one in a handler with M = 1 is waited for. -/
def Ladle.stopOrDefer (l : Ladle) : Ladle :=
  if l.handlerActive && causeM l.tcause then { l with deferred := true, handlerIssued := 0 } else { l with stopped := true }

/-- Stop the ladles of a casting. -/
def State.stopCasting (s : State) (uid : Nat) : State :=
  s.mapLadles (fun l => l.live && decide (l.casting = uid) && !l.stopped) Ladle.stopOrDefer

/-- PREEMPTION_START: a save starts only with a free slot, and with a control ladle a free matrix save block too. -/
def execPreemptionStart (casting : Nat) (s : State) : Result :=
  match s.casting? casting with
  | none => .next s
  | some c =>
    if c.state ≠ .resident ∨ c.started = true ∨ c.toStop = false then .next s
    else if s.willSave c then
      match s.freeSlot c.part, (if s.hasControl c then (s.freeBlock c.part).map some else some none) with
      | some n, some b =>
        .next ((s.modCasting casting (fun c => { c with started := true, saveSlot := some n, mxsBlock := b })).stopCasting casting)
      | _, _ => .next s
    else .next ((s.modCasting casting (fun c => { c with started := true })).stopCasting casting)

/-! ### What must be over before the save (R171, R284, R288) -/

/-- A plain global load: it is sent again on resume. -/
def Req.resends (r : Req) : Bool := (match r.kind with | .load _ => true | _ => false) && !r.place.isPad && r.pend.isSome

/-- The chain or matrix word of a number is the one whose access did not translate. -/
def Casting.stuckAt (c : Casting) (number : Nat) : Bool := c.suspension.any (fun x => x.stops number)

/-- A chain stands between entries, waits in a WAITW, or has stopped inside the entry that does not translate. -/
def Chain.atRest (x : Chain) (c : Casting) : Bool := x.entry.isEmpty || x.waiting || c.stuckAt x.after

/-- A queued matrix word that does not stop the save: one that has not started, `mm` and `mmr` at a step boundary, and the word
that does not translate. -/
def QEntry.atRest (e : QEntry) (c : Casting) : Bool :=
  !e.started || c.stuckAt e.after || (match e.instr with | .mm .. => true | .mmr .. => true | _ => false)

def QEntry.isRnsq (e : QEntry) : Bool := match e.instr with | .rnsq .. => true | _ => false

/-- Pending results whose data are outstanding wait only for loads that are sent again. -/
def State.pendingAtRest (s : State) (l : Ladle) : Bool :=
  l.pend.all (fun p => decide (p.missing ≤ ((s.outstanding l.uid).filter (fun r => r.pend == some p.id)).length))

/-- The results of a stopped ladle that stand at their landing points land (R57). -/
def Ladle.landQuiet (l : Ladle) : Ladle :=
  (l.pend.filter (fun p => p.lands false && decide (p.traps = 0) && p.fault.isNone)).foldl (fun l p => l.landed p false) l

/-- Tile groups of a global load whose data have arrived, in the order of R141 (R144). -/
def Pending.groupsBack (p : Pending) : Nat := (p.groups.takeWhile (fun r => p.back.contains r.id)).length

/-- A result waits for groups that are sent again: those at and after the count. -/
def Pending.resent (p : Pending) : List Req := if p.globalLoad && decide (p.missing ≠ 0) then p.groups.drop p.groupsBack else []

/-- A result as it is kept: it waits for what is sent again. -/
def Pending.kept (p : Pending) : Pending :=
  if p.globalLoad && decide (p.missing ≠ 0) then
    { p with missing := p.resent.length, back := (p.groups.take p.groupsBack).map (·.id) }
  else p

/-- Progress units of a long instruction in flight: stages of an `lred` or `lscan`, tile groups of a global load (R103, R144). -/
def Pending.progress (p : Pending) : Nat :=
  match p.scan with
  | some r => r.done
  | none => if p.globalLoad then p.groupsBack else 0

/-- The `exit` of a ladle waits for a chain or matrix word that does not translate: it can retire only after the casting has been resumed, and is
saved blocked (R281, R293, R299). -/
def State.exitStuck (s : State) (c : Casting) (l : Ladle) : Bool :=
  (s.chainsOf l.uid).any (fun x => c.stuckAt x.after) || (l.control && (s.mat l.cluster).queue.any (fun e => c.stuckAt e.after))

/-- The save can be made: every ladle has stopped, and what may not be carried over is over. -/
def State.canSave (s : State) (c : Casting) : Bool :=
  let mine := s.ladles.filter (fun l => l.live && decide (l.casting = c.uid))
  let q := (s.mat c.cluster).queue
  mine.all (fun l => l.stopped && (!l.exiting || s.exitStuck c l) && l.compares.isEmpty && s.pendingAtRest l
      && (s.outstanding l.uid).all (fun r => r.resends))
  && ((s.chainList c.cluster).filter (fun x => decide (x.who.casting = c.uid))).all (fun x => x.atRest c)
  && (!mine.any (·.control) || (q.all (fun e => e.atRest c) && (q.any (fun e => c.stuckAt e.after) || !q.any QEntry.isRnsq)))
  && !s.faults.any (fun f => decide (f.casting = c.uid))

/-! ### The image of a save slot (R172, R277, R284; log 11) -/

/-- Bytes at offsets of a save area. -/
abbrev Image := List (Nat × List Byte)

/-- 64-bit words as bytes. -/
def bytesOfWords (l : List Word64) : List Byte := l.flatMap (fun w => bytesLE 8 w.toNat)

/-- The record of a chain. -/
def Chain.record (x : Chain) : List Byte :=
  let progress := if x.waiting then 0 else x.progress
  bytesLE 16 (x.off + x.who.rank % 32 * 2 ^ 32 + 2 ^ 37 + bit x.loop.isSome * 2 ^ 38 + progress % 2 ^ 24 * 2 ^ 39
    + x.pass % 2 ^ 32 * 2 ^ 64 + x.loop.getD 0 * 2 ^ 96)

/-- The phases that a barrier of a casting has completed, and how many ladles of the casting stand in its open phase, a byte each
(R129, R172; log 11). -/
def State.barrierRecord (s : State) (c : Casting) (level id : Nat) : List Byte :=
  match s.ladles.filter (fun l => l.live && decide (l.casting = c.uid)) with
  | [] => [0, 0]
  | l :: r =>
    let b := s.barrier (BitVec.ofNat 2 level) id (s.groupOf l (BitVec.ofNat 2 level))
    [BitVec.ofNat 8 b.completed, BitVec.ofNat 8 ((l :: r).filter (fun x => b.arrived.contains x.uid)).length]

/-- The barriers' part of a header: casting, cluster-gang and mould barriers, in the order of their numbers. -/
def State.barrierRecords (s : State) (c : Casting) : List Byte :=
  [1, 2, 3].flatMap (fun level => (List.range 16).flatMap (fun id => s.barrierRecord c level id))

/-- The header of a slot. -/
def headerImage (c : Casting) (g : Graph) (m : Mould) (restartable : Bool) (chains : List Chain) (barriers : List Byte) : Image :=
  [(0, bytesOfWords [widOf m c.index 0 0, g.image,
      BitVec.ofNat 64 (c.mould + m.allLadles * 2 ^ 16 + bit restartable * 2 ^ 24), BitVec.ofNat 64 (c.dispatchNo % 2 ^ 48)]),
   (0x20, barriers),
   (0x80, chains.flatMap Chain.record ++ List.replicate (16 * (8 - chains.length)) 0#8)]

/-- The state word of a ladle record. -/
def Ladle.stateWord (l : Ladle) (queued : Bool) : Word64 :=
  BitVec.ofNat 64 (bit l.permit + bit l.ext * 2 + bit queued * 4 + bit l.loop.isSome * 8 + bit l.handlerActive * 16)

/-- The loop buffer of a record. -/
def loopWords (b : Option LoopBuf) : List Word64 :=
  match b with
  | some b => [b.addr, BitVec.ofNat 64 b.words.length, b.rem, b.steps, b.stride, BitVec.ofNat 64 b.pass, BitVec.ofNat 64 b.index]
  | none => List.replicate 7 0

/-- The long instruction in flight whose progress a record holds. DESIGN CHOICE (log 81): of several the oldest `lred` or `lscan`, else the
oldest global load. -/
def Ladle.inFlight (l : Ladle) : Option Pending :=
  match l.pend.find? (fun p => p.scan.isSome) with
  | some p => some p
  | none => l.pend.find? (fun p => p.globalLoad)

/-- %pi of a record: the passes of the loop, and the progress of the long instruction in flight (R103, R113; log 81). -/
def Ladle.savedPi (l : Ladle) : Word64 := l.pi ||| BitVec.ofNat 64 ((l.inFlight.map Pending.progress).getD 0 % 65536)

/-- An entry of the split table: pc, mask, slot, 0xffff when parked, and a code of the blocked state, which is open (log 11). -/
def Split.record (x : Split) (seed : Nat) : List Byte :=
  bytesLE 8 x.pc.toNat ++ bytesLE 4 x.mask.toNat ++ bytesLE 2 (x.slot.getD 0xffff) ++ bytesLE 2 (Sys2Proof.Config.freeValue seed).toNat

/-- The split table: the unused entries of its 32 have an empty mask. -/
def Ladle.splitImage (l : Ladle) (seed : Nat) : List Byte :=
  (l.allSplits.zipIdx).flatMap (fun e => e.1.record (seed + e.2)) ++ List.replicate (16 * (32 - l.allSplits.length)) 0#8

/-- The register number of a destination, and above its six bits the number of a post's view. -/
def Dest.number (d : Dest) : Nat :=
  match d with
  | .lane d => d.toNat
  | .lanePair d => d.toNat
  | .uniform d => d.toNat
  | .uniformPair d => d.toNat
  | .post d n => d.toNat + 64 * n.toNat

/-- The data of a pending result: a value for each lane, or the uniform values; a post's view stands after its status word (log 11). -/
def Pending.data (p : Pending) : List Word64 :=
  match p.dest with
  | .post _ _ => p.vals.headD 0 :: (List.range 4).map (fun i => p.view.extractLsb' (64 * i) 64)
  | _ => p.vals

/-- An entry of the pending results: the destination, whose kind has an open code above its number, four bits of count for each lane, the
lanes, the address, and eight bytes of data for each lane (log 11). -/
def Pending.record (p : Pending) (seed : Nat) : List Byte :=
  bytesLE 4 (p.dest.number + (Sys2Proof.Config.freeValue seed).toNat * 256)
  ++ bytesLE 16 (p.counts.toList.foldr (fun c acc => c % 16 + 16 * acc) 0) ++ bytesLE 4 p.lanes.toNat ++ bytesLE 8 p.pc.toNat
  ++ bytesOfWords ((List.range 32).map (fun j => p.data.getD j 0))

/-- The pending results: the unused entries of the 16 have an empty lane mask. -/
def Ladle.pendImage (l : Ladle) (seed : Nat) : List Byte :=
  (l.pend.zipIdx).flatMap (fun e => e.1.record (seed + e.2)) ++ List.replicate (288 * (16 - l.pend.length)) 0#8

/-- x[0..31] of the long instruction in flight whose progress %pi holds, eight bytes each (R103; log 81). -/
def Ladle.partialImage (l : Ladle) : List Byte :=
  match l.inFlight.bind (·.scan) with
  | some r => bytesOfWords (r.x.map (·.setWidth 64))
  | none => List.replicate 256 0#8

/-- The part of a record that every ladle has: registers, special registers, state word, masks, views, splits, loop buffer, pending results
and partial state. -/
def Ladle.commonImage (l : Ladle) (queued : Bool) (seed : Nat) : Image :=
  [(0, bytesOfWords l.s.toList),
   (0x200, bytesOfWords [l.savedPi, l.tpc, l.tvec, l.tcause, l.fmode.setWidth 64, l.stateWord queued]),
   (0x240, (l.k.set 0 (BitVec.allOnes 32)).toList.flatMap (fun k => bytesLE 4 k.toNat)),
   (0x260, l.bv.toList.flatMap (fun b => bytesLE 32 b.toNat)),
   (0x300, l.splitImage seed), (0x500, bytesOfWords (loopWords l.loop)), (0x600, l.pendImage (seed + 32)), (0x1800, l.partialImage)]

/-- A row of lane registers: register n, lane j at 128 n + 4 j. -/
def rowBytes (rows : List LaneVec) : List Byte := rows.flatMap (fun r => r.toList.flatMap (fun x => bytesLE 4 x.toNat))

/-- A vector ladle's record. -/
def Ladle.vectorImage (l : Ladle) (queued : Bool) (seed : Nat) : Image :=
  l.commonImage queued seed
  ++ [(0x1900, bytesOfWords ((List.range 128).map (fun i => (FMap.get 0 l.pad.attrs i).setWidth 64))),
      (0x2000, rowBytes (l.v.toList.take 32))]
  ++ (if l.ext then [(0x3000, rowBytes (l.v.toList.drop 32))] else [])
  ++ [(0x3000 + 4096 * bit l.ext, l.pad.bytes.readBytes 0 l.pad.size)]

/-- An entry of the matrix queue: the word, its completed steps, the captured operands, and the loop address add (log 11). -/
def QEntry.record (e : QEntry) : List Byte :=
  bytesLE 4 (((encode e.instr).map (·.toNat)).getD 0) ++ bytesLE 4 e.steps
  ++ bytesOfWords [e.src1, e.src2, e.add]

/-- An entry of the weight slot table: valid, format, orientation and codebook, a byte each (log 11). -/
def WeightSlot.record (x : WeightSlot) : List Byte :=
  [BitVec.ofNat 8 (bit x.valid), x.format.setWidth 8, BitVec.ofNat 8 (bit x.along), BitVec.ofNat 8 x.book, 0, 0, 0, 0]

/-- A control ladle's record, with the matrix header. -/
def Ladle.controlImage (l : Ladle) (queued : Bool) (x : Matrix) (block seed : Nat) : Image :=
  l.commonImage queued seed
  ++ [(0x1900, bytesLE 6 x.closed ++ bytesLE 6 x.completed ++ bytesLE 4 x.opened),
      (0x1910, x.residue.toList.map (fun r => BitVec.ofNat 8 (bit r)) ++ bytesLE 8 block),
      (0x1920, (x.my.toList ++ x.mx.toList).flatMap (fun m => bytesLE 12 m.toNat)),
      (0x1980, x.md.toList.flatMap (fun m => bytesLE 6 m.toNat)),
      (0x19a0, x.depth.toList.flatMap (fun d => bytesLE 8 d)),
      (0x1a00, x.queue.flatMap QEntry.record ++ List.replicate (32 * (32 - x.queue.length)) 0#8),
      (0x1e00, (List.range 32).flatMap (fun n => (x.slot n).record))]

/-- Residues with the bytes of retired channels as 0 (R318). -/
def keptResidues (retired : BitVec 6) (e : BitVec 48) : Nat :=
  (List.range 6).foldl (fun n c => if retired.getLsbD c then n else n + bitsOf (e.setWidth 64) (8 * c + 7) (8 * c) * 256 ^ c) 0

/-- Codes of a width packed as stored, the first in the lowest bits (R243). -/
def packCodes (width : Nat) (codes : List Nat) : Nat := codes.foldr (fun c acc => c % 2 ^ width + 2 ^ width * acc) 0

/-- A weight slot in a save block: its packed elements by depth, then its scales and its codebook. -/
def WeightSlot.image (x : WeightSlot) : List Byte :=
  let width := fmtBits x.format.toNat
  bytesLE (576 * width) (packCodes width ((List.range 4608).map (fun i => (FMap.get 0 x.elems i).toNat)))
  ++ x.scales ++ x.codebook.flatMap (fun c => bytesLE 2 c.toNat)

/-- The matrix save block: each tile row-major, four bytes an element in float mode and six in residue mode, and the weight slots. -/
def Matrix.blockImage (x : Matrix) (retired : BitVec 6) : Image :=
  (List.range 8).map (fun z =>
    (0x10000 * z, (List.range 9216).flatMap (fun e =>
      let v := FMap.get 0 x.z (9216 * z + e)
      if x.residue.toList.getD z false then bytesLE 6 (keptResidues retired v) else bytesLE 4 v.toNat)))
  ++ x.slots.map (fun e => (0x80000 + 0x8000 * e.1, e.2.image))

/-- Bytes of a mould's ladle record: the record of rank r starts at 4096 + r times this. -/
def Mould.recordBytes (m : Mould) : Nat := 0x3000 + 4096 * bit m.extended + padBytes m.scratch

/-- The records of a casting, in rank order; an exited ladle's has its state word alone. -/
def State.recordImages (s : State) (c : Casting) (m : Mould) (block seed : Nat) : Image :=
  (List.range m.allLadles).flatMap (fun r =>
    let at_ := 4096 + r * m.recordBytes
    match s.ladles.find? (fun l => l.live && decide (l.casting = c.uid) && decide (l.rank = r)) with
    | none => [(at_ + 0x228, bytesLE 8 32)]
    | some l =>
      let queued := (FMap.get [] s.rgetQueue (coreKey l.cluster l.core)).any (fun q => q.1 == l.uid)
      (if l.control then l.controlImage queued (s.mat c.cluster) block (seed + 64 * r) else l.vectorImage queued (seed + 64 * r)).map
        (fun e => (at_ + e.1, e.2)))

/-- Write an image into a partition's memory; a part that does not translate is not written. -/
def State.writeImage (s : State) (p va : Nat) (i : Image) : State := i.foldl (fun t e => (t.writeVirtual p (va + e.1) e.2).getD t) s

/-- Write the save slot of a casting, and with a control ladle its matrix save block. -/
def State.writeSave (s : State) (c : Casting) (g : Graph) (m : Mould) : State :=
  let p := c.part
  let chains := (s.chainList c.cluster).filter (fun x => decide (x.who.casting = c.uid))
  let va := (s.reg (rqReg p 5)).toNat + c.saveSlot.getD 0 * 2 ^ (s.reg (rqReg p 6)).toNat
  let t := ({ s with free := s.free + 4096 } : State).writeImage p va
    (headerImage c g m (s.restartable c) chains (s.barrierRecords c) ++ s.recordImages c m (c.mxsBlock.getD 0) s.free)
  match c.mxsBlock with
  | some b => t.writeImage p ((s.reg (0x580 + 2 * p)).toNat + b * 2 ^ 21) ((s.mat c.cluster).blockImage (s.retiredOf c.cluster))
  | none => t

/-! ### PREEMPTION_SAVE (R172 to R174) -/

/-- Take ladles out of the package; some other ladle is then the issuing one. -/
def State.removeLadles (s : State) (f : Ladle → Bool) : State :=
  match s.ladles.filter (fun l => !f l) with
  | [] => { s with me := Ladle.idle, rest := [] }
  | l :: r => { s with me := l, rest := r }

/-- A chain as a record keeps it: its entry is fetched again, a WAITW that is abandoned, whatever has met it, and a stopped entry with its
progress (R284). -/
def Chain.kept (x : Chain) : Chain :=
  { x with waiting := false, entry := [], progress := if x.waiting then 0 else x.progress, watch := none, met := false }

/-- A suspension is over that the host has answered before the save. -/
def Casting.keptSuspension (c : Casting) : Option Suspension := c.suspension.filter (fun x => !x.answered)

/-- A ladle as it is kept. -/
def Ladle.kept (l : Ladle) : Ladle := { l with stopped := false, deferred := false, pend := l.pend.map Pending.kept }

/-- The casting leaves its cluster with its state: ladles, chains, matrix state, and the loads to send again. One with a control ladle owns the
matrix state, that ladle's exit or not (R22, R329). -/
def State.takeAway (s : State) (c : Casting) : State :=
  let mine := fun (l : Ladle) => l.live && decide (l.casting = c.uid)
  let uids := (s.ladles.filter mine).map (·.uid)
  let control := s.hasControl c
  let x := s.mat c.cluster
  let d := { c with
    state := if c.keptSuspension.isSome then CastState.suspended else CastState.saved, cluster := 0xff, started := false, preempt := none,
    along := false, suspension := c.keptSuspension, scratchSlices := [],
    readyAt := s.ticks, readyClock := s.service,
    saved := (s.ladles.filter mine).map Ladle.kept,
    savedMatrix := if control then some x else none,
    savedChains := ((s.chainList c.cluster).filter (fun e => decide (e.who.casting = c.uid))).map Chain.kept,
    resend := (s.ladles.filter mine).flatMap (fun l => l.pend.flatMap Pending.resent),
    retired := if control && x.residue.toList.any (· == true) then some (s.retiredOf c.cluster) else none }
  let t := ((s.dropChainsOf c.cluster c.uid).dropWatches uids).dropRgets uids
  let t := if control then t.setMat c.cluster Matrix.start else t
  let t := { t with
    requests := t.requests.filter (fun r => !uids.contains r.who.ladle), rehomed := t.rehomed.filter (fun r => !uids.contains r.who.ladle),
    returning := t.returning.filter (fun e => !uids.contains e.2.1.who.ladle),
    standing := t.standing.filter (fun e => e.req.who.casting != c.uid) }
  (t.removeLadles (fun l => decide (l.casting = c.uid))).modCasting c.uid (fun _ => d)

/-- What a casting's long instructions come to as it is saved: due results land, and an `lred` or `lscan` has stopped after one of its
stages. -/
def State.stopLongs (s : State) (c : Casting) : State :=
  { s.mapLadles (fun l => l.live && decide (l.casting = c.uid)) (fun l => l.landQuiet.stopScans (s.free + 64 * l.rank)) with
    free := s.free + 2048 }

/-- PREEMPTION_SAVE: the casting is saved; or, for a discard, its version is discarded. -/
def execPreemptionSave (casting : Nat) (s : State) : Result :=
  match s.casting? casting with
  | none => .next s
  | some c =>
    if c.state ≠ .resident ∨ c.started = false ∨ s.canSave c = false then .next s
    else if c.saveSlot.isNone then .next (s.startDiscard casting .discarding)
    else
      match s.mouldOf casting with
      | some (_, g, m) =>
        let t := s.stopLongs c
        .next (((t.writeSave c g m).takeAway c).releaseDiscarded)
      | none => .next s

end Sys2Proof.Machine
end

