-- ==== Sys2Proof/Machine/Repair.lean ====
section
/-!
DEFINITION. Scrubbing, uncorrectable errors, and the retirement policy (R338, R340 to R344).
-/

namespace Sys2Proof.Machine

/-! ### Errors -/

/-- An uncorrectable error is logged: its unit, its die and the place within it; where it lies in the unit is a free value (R338, R341). DESIGN
CHOICE (log 77): of the two links that present the physical function, link 0 carries the interrupt. -/
def State.logError (s : State) (unit die index : Nat) : State :=
  let place := bitsOf (Sys2Proof.Config.freeValue s.free) 44 0
  let t := ({ s with free := s.free + 1 } : State).countReg 0x802
  let t := t.setReg 0x803 (BitVec.ofNat 64 (2 ^ 63 + unit * 2 ^ 60 + die * 2 ^ 59 + index * 2 ^ 54 + place * 8))
  if (t.reg 0x800).getLsbD 16 then t.interrupt 0 0 (bitsOf (t.reg 0x800) 13 8) else t

/-- A sector's committed data lie in rings 1 to 4 of slice `n`: those of its tile, or of slice scratch (R199). -/
def State.inRings (s : State) (n sector : Nat) : Bool :=
  let x := s.sliceOf n
  let tile := sector / 4
  x.pinned tile || (match x.distance tile with | some d => decide (1024 ≤ d) | none => false)
  || (isScratch (64 * sector) && decide (s.sliceOfTile tile = n))

/-- Nothing of a tile in a slice is dirty. -/
def Slice.unwritten (x : Slice) (tile : Nat) : Bool :=
  !x.dirty.any (fun d => d / 4 == tile) && (match x.replica? tile with | some q => decide (q.dirty = 0) | none => true)

/-- A clean tile with an uncorrectable error is dropped, which counts as a correction; a pinned one is read again in its
place. -/
def State.dropClean (s : State) (n tile : Nat) : State :=
  let t := s.countReg (sliceCe n)
  if (s.sliceOf n).pinned tile then t
  else (if ((s.sliceOf n).replica? tile).isSome then t else t.leaveStamps n tile).modSlice n (·.drop tile)

/-- A sector of a slice cannot be read from now on: the mark stays with a replica, or with the home's or slice scratch's sector. -/
def Slice.spoil (x : Slice) (sector : Nat) : Slice :=
  if (x.replica? (sector / 4)).isSome then
    { x with replicas := x.replicas.map (fun q => if q.tile = sector / 4 then { q with poison := (q.poison ++ [sector]).eraseDups } else q) }
  else x.poisonSector sector

/-- An uncorrectable error in a sector of a slice's rings, logged for the policy where it is in rings 1 to 4 (R342): a clean tile is dropped,
any other sector is poisoned. -/
def State.ringError (s : State) (n sector : Nat) : State :=
  let t := s.logError 2 (n / 32) (n % 32)
  let t := if s.inRings n sector then { t with policyPrev := FMap.set 0 t.policyPrev (64 + n) 1 } else t
  if (s.sliceOf n).resident (sector / 4) && (s.sliceOf n).unwritten (sector / 4) then t.dropClean n (sector / 4)
  else t.modSlice n (·.spoil sector)

/-- A sector of a casting's version frame, which lies in ring 4, cannot be read: its casting's reads of it fault, and a merge poisons the
committed sector (R338, R342, R363). -/
def State.frameError (s : State) (n casting sector : Nat) : State :=
  let t := s.logError 3 (n / 32) (n % 32)
  ({ t with policyPrev := FMap.set 0 t.policyPrev (64 + n) 1 } : State).modSlice n (fun x => { x with frames := x.frames.map (fun f =>
    if f.casting = casting ∧ f.tile = sector / 4 then { f with lost := (f.lost ++ [sector]).eraseDups } else f) })

/-! ### Scrubbing (R340) -/

/-- Stored words that hold a correctable error, with one more. -/
def withError (l : List Nat) (word : Nat) : List Nat := if l.contains word then l else l ++ [word]

/-- A casting's version frame of a sector's tile, changed. -/
def Slice.modFrame (x : Slice) (casting sector : Nat) (f : Frame → Frame) : Slice :=
  { x with frames := x.frames.map (fun e => if e.casting = casting ∧ e.tile = sector / 4 then f e else e) }

/-- A scrubber finds a correctable error in a word of a sector, committed or of a casting's version frame: it counts, and a corrected write is
on its way. -/
def State.scrubFinds (s : State) (n casting sector word : Nat) : State :=
  (s.countReg (sliceCe n)).modSlice n (fun x =>
    let x := { x with scrub := some (casting, sector, false) }
    if casting = 0 then { x with errors := withError x.errors word }
    else x.modFrame casting sector (fun f => { f with errors := withError f.errors word }))

/-- The words with a correctable error in what a scrubber reads. -/
def Slice.errorsOf (x : Slice) (casting sector : Nat) : List Nat :=
  ((if casting = 0 then some x.errors else (x.frame? casting (sector / 4)).map (·.errors)).getD []).filter (fun w => w / 8 == sector)

/-- What a scrubber reads is there: a sector of rings 1 to 4, or a casting's version frame, which ring 4 holds (R208). -/
def State.scrubbable (s : State) (n casting sector : Nat) : Bool :=
  if casting = 0 then s.inRings n sector else ((s.sliceOf n).frame? casting (sector / 4)).isSome

/-- SCRUB_READ: the scrubber of a slice reads one sector of rings 1 to 4, of committed data or, where it names a
casting that is not 0, of that casting's version frame. It may hold an error: a new one, in a word that a free value chooses, or one that was
left there. -/
def execScrubRead (sl : Nat) (sector : Nat × Nat) (correctable uncorrectable : Bool) (s : State) : Result :=
  if 64 ≤ sl ∨ s.scrubbable sl sector.1 sector.2 = false then .next s
  else .next (s.atPort sl servicePort (fun s =>
    if uncorrectable then (if sector.1 = 0 then s.ringError sl sector.2 else s.frameError sl sector.1 sector.2)
    else if correctable then
      ({ s with free := s.free + 1 } : State).scrubFinds sl sector.1 sector.2 (8 * sector.2 + (Sys2Proof.Config.freeValue s.free).toNat % 8)
    else match (s.sliceOf sl).errorsOf sector.1 sector.2 with
      | w :: _ => s.scrubFinds sl sector.1 sector.2 w
      | [] => s))

/-- SCRUB_WRITE: the corrected sector is written where no write has come between; else it is dropped, and the error is left. -/
def execScrubWrite (sl : Nat) (s : State) : Result :=
  .next (s.atPort sl servicePort (fun s => s.modSlice sl (fun x =>
    match x.scrub with
    | some (0, k, false) => { x with scrub := none, errors := x.errors.filter (fun w => w / 8 != k) }
    | some (c, k, false) => ({ x with scrub := none } : Slice).modFrame c k (fun f => { f with errors := f.errors.filter (fun w => w / 8 != k) })
    | _ => { x with scrub := none })))

/-! ### Errors that an access meets (R337, R338) -/

/-- The casting of a ladle takes cause 0x09: at the request that it has sent, or at the instruction it stands at. -/
def State.ladleFault (s : State) (uid : Nat) (request : Option Nat) : State :=
  match request.bind (fun i => s.sent.find? (fun r => r.id == i && r.who.ladle == uid)), s.ladle? uid with
  | some r, _ => s.slotFault r .uncorrectable
  | none, some l => s.raiseFor l.casting l.rank l.cluster l.core .uncorrectable l.sp.pc
  | none, none => s

/-- The matrix word that runs in a cluster takes cause 0x09. -/
def State.matrixFault (s : State) (x : Nat) : State :=
  match s.controlLadle x, (s.mat x).queue with
  | some l, e :: _ => s.raiseFor l.casting l.rank l.cluster l.core .uncorrectable e.pc
  | _, _ => s

/-- Whoever meets an uncorrectable error takes its fault at that access; a scrubber or a write-back takes none (R338). -/
def State.readerFault (s : State) (r : Reader) : State :=
  match r with
  | .ladle uid request => s.ladleFault uid request
  | .matrix x => s.matrixFault x
  | .chain x n =>
    match (FMap.get [] s.chains x)[n]? with
    | some c => s.raiseFor c.who.casting c.who.rank c.who.cluster c.who.core .uncorrectable c.who.pc
    | none => s
  | .scrubber => s

/-- The cluster of a reader. -/
def State.clusterOf (s : State) (r : Reader) : Nat :=
  match r with
  | .ladle uid _ => match s.ladle? uid with | some l => l.cluster | none => 0
  | .matrix x => x
  | .chain x _ => x
  | .scrubber => 0

/-- An uncorrectable error in a stored word, met by `reader`. DEDUCED (log 71): the reader of a sector that becomes poisoned so takes the
fault that every later reader takes; a tag store counts as its slice's. A frame that is being merged is lost in one of its sectors, which a
free value chooses. -/
def State.uncorrected (s : State) (p : Stored) (reader : Reader) : State :=
  let at_ := s.clusterOf reader
  match p with
  | .registers _ => (s.logError 0 (at_ / 32) (at_ % 32)).readerFault reader
  | .pad u =>
    let x := match s.ladle? u with | some l => l.cluster | none => at_
    (s.logError 1 (x / 32) (x % 32)).readerFault reader
  | .frame n c tile =>
    (({ s with free := s.free + 1 } : State).frameError n c (4 * tile + (Sys2Proof.Config.freeValue s.free).toNat % 4)).readerFault reader
  | .weights x => (s.logError 4 (x / 32) (x % 32)).matrixFault x
  | .board b => (s.logError 5 (s.homeOfBoard b / 32) (s.homeOfBoard b % 32)).readerFault reader
  | .tags n => (s.logError 2 (n / 32) (n % 32)).readerFault reader
  | .ring n k =>
    let clean := (s.sliceOf n).resident (k / 4) && (s.sliceOf n).unwritten (k / 4)
    let t := s.ringError n k
    if clean then t else t.readerFault reader
  | .hbm k =>
    let n := s.homeOf (64 * k)
    ((s.logError 6 (dieOf (64 * k)) (stackOf (64 * k))).modSlice n (·.poisonSector k)).readerFault reader

/-- A correctable error: the access receives the corrected bits. What a slice holds counts in its SLICE_CE; the spec names no register for
the corrections of a cluster (log 71). -/
def State.corrected (s : State) (p : Stored) : State :=
  match p with
  | .frame n _ _ => s.countReg (sliceCe n)
  | .board b => s.countReg (sliceCe (s.homeOfBoard b))
  | .tags n => s.countReg (sliceCe n)
  | .ring n _ => s.countReg (sliceCe n)
  | _ => s

/-- A stored word exists where an error is said to be. -/
def State.holds (s : State) (p : Stored) : Bool :=
  match p with
  | .registers u => (s.ladle? u).any (·.live)
  | .pad u => (s.ladle? u).any (fun l => l.live && decide (0 < l.pad.size))
  | .frame n c t => decide (n < 64) && ((s.sliceOf n).frame? c t).isSome
  | .weights x => decide (x < 64)
  | .board b => decide (b < 4096)
  | .tags n => decide (n < 64)
  | .ring n k => decide (n < 64) && ((s.sliceOf n).resident (k / 4) || s.inRings n k)
  | .hbm k => decide (64 * k < hbmLimit)

/-- An access meets an error in a stored word. -/
def State.bitError (s : State) (p : Stored) (reader : Reader) (uncorrectable : Bool) : State :=
  if !s.holds p then s else if uncorrectable then s.uncorrected p reader else s.corrected p

/-! ### The policy (R342 to R344) -/

/-- The value a count had at the previous examination, or a slice's flag of an uncorrectable error since (key 64 + n). -/
def State.policyAt (s : State) (k : Nat) : Nat := FMap.get 0 s.policyPrev k
def State.setPolicy (s : State) (k v : Nat) : State := { s with policyPrev := FMap.set 0 s.policyPrev k v }

/-- A live slice that meets a condition of R342. -/
def State.sliceFails (s : State) (n : Nat) : Bool :=
  (s.reg (0x41b + 0x20 * (n / 32))).getLsbD (n % 32)
  && (decide (bitsOf (s.reg 0x801) 15 0 ≤ (s.reg (sliceCe n)).toNat - s.policyAt n) || decide (s.policyAt (64 + n) ≠ 0))

/-- A slice's counts have been examined. -/
def State.noteSlice (s : State) (n : Nat) : State := (s.setPolicy n (s.reg (sliceCe n)).toNat).setPolicy (64 + n) 0

/-- The examination of the slices of a die: the lowest that fails and whose retirement is not refused is retired; the others
that fail are tried again at the next examination. -/
def State.examineSlices (s : State) (d : Nat) : State :=
  let auto := (s.reg 0x800).getLsbD 0
  let failing := if auto then (dieSlices d).filter s.sliceFails else []
  let t := ((dieSlices d).filter (fun n => !failing.contains n)).foldl State.noteSlice s
  match failing.findSome? (fun n => (t.retireSlice d (n % 32)).map (fun u => (n, u))) with
  | some (n, u) => u.noteSlice n
  | none => t

/-- The count of a channel of a cluster. -/
def State.channelCount (s : State) (x ch : Nat) : Nat := bitsOf (s.reg (0x602 + 4 * x)) (8 * ch + 7) (8 * ch)

/-- The key of a channel's count. -/
def channelKey (x ch : Nat) : Nat := 128 + 6 * x + ch

/-- The examination of one channel. -/
def State.examineChannel (s : State) (x ch : Nat) : State :=
  let risen := s.channelCount x ch - s.policyAt (channelKey x ch)
  let t := if (s.reg 0x800).getLsbD 1 && decide (bitsOf (s.reg 0x801) 23 16 ≤ risen) then s.retireChannel x ch else s
  t.setPolicy (channelKey x ch) (s.channelCount x ch)

/-- ERROR_POLICY_EXAMINATION. -/
def execErrorPolicyExamination (s : State) : Result :=
  let t := (s.examineSlices 0).examineSlices 1
  .next ((List.range 64).foldl (fun t x => (List.range 6).foldl (fun t ch => t.examineChannel x ch) t) t)

end Sys2Proof.Machine
end

