-- ==== Sys2Proof/Machine/Service.lean ====
section
/-!
DEFINITION. The service controller: the windowed consumption, the owners of clusters and the examination that may pre-empt
(R369 to R372).
-/

namespace Sys2Proof.Machine

/-- WINDOW_HALVING: every W_p is halved, rounding down. -/
def execWindowHalving (s : State) : Result :=
  .next { s with windows := (s.windows.map (fun (e : Nat × Word64) => (e.1, e.2 >>> 1))).filter (fun (e : Nat × Word64) => e.2 != 0) }

/-- CLUSTER_OWNER_CHOICE: every cluster that holds no casting finds its owner at this slot, the one named among them, and the dispatches of
that one's partition follow at the same slot (R371). -/
def execClusterOwnerChoice (cluster : Nat) (s : State) : Result :=
  if decide (64 ≤ cluster) || s.clusterHeld cluster then .next s
  else
    let t := s.chooseOwners
    match FMap.get 0 t.owners cluster with
    | 0 => .next t
    | p + 1 => .next (t.dispatchFor p)

/-- Events that come to the ready pool's arbiter (R373): the dispatches and the changes of owner that they bring about take their slot. -/
def poolEvent (i : Instr) : Bool :=
  match i with
  | .graphLoad _ | .castingComplete _ | .commitAssignment _ | .committed _ | .castingFault _ | .discardAcknowledged _ | .preemptionStart _
  | .horizonMessage _ | .preemptionSave _ | .preemptCtlSave .. | .preemptCtlDiscard .. | .spawnRecordEnqueue _ | .tqAnswerResume .. | .tqAnswerAbort .. => true
  | _ => false

/-- What an event brings about at its slot, in `s` before it and `t` after it: completed castings that waited take their numbers, and castings are
dispatched, with the commit number that was assigned last before the slot (R359, R373). -/
def State.slotAfter (s t : State) : State :=
  let u := State.assignWaiting t.castings.length t
  { ({ u with lastCommit := s.lastCommit } : State).poolSlot (List.range 24) with lastCommit := u.lastCommit }

/-- An instruction of the agenda, and what follows at the slot of an event of the pool. -/
def poolAfter (i : Instr) (s : State) (r : Result) : Result :=
  match r with
  | .next t => if poolEvent i then .next (s.slotAfter t) else r
  | _ => r

/-- How far a partition's consumption stands above its share: 1024 · W - (T + M) · S. -/
def State.excess (s : State) (q : Nat) : Int :=
  (1024 * s.windowOf q : Nat) - ((s.target q + s.margin q) * s.windowSum : Nat)

/-- Partitions that the controller may pre-empt and that stand above their share. -/
def State.overShare (s : State) : List Nat :=
  (List.range 24).filter (fun q => (s.reg (0x302 + 4 * q)).getLsbD 0 && decide (0 < s.excess q))

/-- A ready casting of a partition has waited 2^20 cycles and is placeable on no cluster. -/
def State.starved (s : State) (p : Nat) : Bool :=
  s.anyReady p (fun c =>
    decide (2 ^ 20 ≤ (s.service - c.clock).toNat)
    && !(List.range 64).any (fun x => (decide (FMap.get 0 s.owners x = p + 1) || !s.clusterHeld x) && s.placeable p c x))

/-- The resident casting of a partition that was dispatched last. -/
def State.latestOf (s : State) (q : Nat) : Option Casting :=
  let mine := s.castings.filter (fun c => decide (c.part = q) && c.state == .resident)
  let last := (mine.map (·.placedAt)).foldl max 0
  (mine.filter (fun (c : Casting) => decide (c.placedAt = last))).getLast?

/-- SERVICE_EXAMINATION: at most one request, by the path of PREEMPT_CTL; one that is refused as busy is not repeated. -/
def execServiceExamination (s : State) : Result :=
  match firstMost s.excess s.overShare with
  | none => .next s
  | some q =>
    if (List.range 24).any (fun p => p != q && s.starved p) && !s.preempting q then
      match s.latestOf q with
      | some c => .next (s.requestPreempt [c] (decide (bitsOf (s.reg (0x302 + 4 * q)) 2 1 = 1)))
      | none => .next s
    else .next s

end Sys2Proof.Machine
end

