-- ==== Sys2Proof/Machine/Thermal.lean ====
section
/-!
DEFINITION. Columns: realignment of their buses and the thermal governor (R224 to R230).
-/

namespace Sys2Proof.Machine

def State.setColumn (s : State) (die column : Nat) (c : Column) : State :=
  { s with columns := FMap.set Column.start s.columns (columnKey die column) c }

/-- The die and column exist. -/
def columnExists (die column : Nat) : Bool := decide (die < 2) && decide (column < 160)

/-! ### Realignment (R229, R230) -/

/-- COLUMN_DUE. -/
def execColumnDue (die column : Nat) (s : State) : Result :=
  let c := s.column die column
  if columnExists die column && !c.retrain then .next (s.setColumn die column { c with due := true }) else .next s

/-- Columns that may not realign together: the cores of one cluster, and the slices of one group of four. -/
def columnGroup (column : Nat) : List Nat :=
  let base := column / 4 * 4
  [base, base + 1, base + 2, base + 3]

/-- The cluster and core of a column. -/
def columnCluster (die column : Nat) : Nat := 32 * die + (column - 32) / 4
def columnCore (column : Nat) : Nat := (column - 32) % 4

/-- A ladle's scratchpad lies on a core. -/
def State.padOn (s : State) (x k uid : Nat) : Bool :=
  match s.ladle? uid with
  | some l => decide (l.cluster = x) && decide (l.core = k)
  | none => false

/-- A copy-engine entry that has begun has data crossing the column of a core. -/
def State.entryCrosses (s : State) (x k : Nat) : Bool :=
  s.chains.any (fun e => e.2.any (fun c =>
    !c.entry.isEmpty && (match s.ladle? c.who.ladle with | some l => (s.entryPads l c c.entry).any (s.padOn x k) | none => false)))

/-- A `wload`, or a matrix word that reads an operand, has begun and not finished, and its data cross the column of a core (R229). -/
def State.wordCrosses (s : State) (x k : Nat) : Bool :=
  match s.controlLadle x, (s.mat x).queue with
  | some l, e :: _ => e.started && !e.isDrain && (match s.wordPad l e with | some u => s.padOn x k u | none => false)
  | _, _ => false

/-- A transfer is in progress on a column; a slice serves each transfer within one step. -/
def State.transferOn (s : State) (die column : Nat) : Bool :=
  decide (32 ≤ column)
  && (s.entryCrosses (columnCluster die column) (columnCore column) || s.wordCrosses (columnCluster die column) (columnCore column))

/-- REALIGNMENT_START: one that is not forced waits for transfers on the column. -/
def execRealignmentStart (die column : Nat) (forced : Bool) (s : State) : Result :=
  let c := s.column die column
  if columnExists die column && c.due && !c.retrain && !(columnGroup column).any (fun k => (s.column die k).retrain)
      && (forced || !s.transferOn die column) then
    .next (s.setColumn die column { c with retrain := true })
  else .next s

/-- A request that has been performed returns: its answer, the value of a `waita`, or a reply to a reader from outside. -/
def State.returnOne (s : State) (r : Req) (vals : List (Nat × Word64)) : State :=
  match r.pend, r.kind with
  | some p, _ => s.modLadle r.who.ladle (fun l => l.fill p r.id vals)
  | none, .waitTest old => s.wakeTester r.who (r.bytes.headD 0) old ((vals.headD (0, 0)).2.setWidth 32)
  | none, _ => if r.unit = some 7 then { s with replies := s.replies ++ [.data (vals.map (fun v => v.2.setWidth 8))] } else s

/-- What a slice has served while its column realigned returns, in the order in which it was granted, unless another realignment holds some
of its data (R230). -/
def State.returnLate (s : State) (n : Nat) : State :=
  let left := s.returning.map (fun e => (e.1, { e.2.1 with late := e.2.1.late.filter (· != n) }, e.2.2))
  (left.filter (fun e => e.2.1.late.isEmpty)).foldl (fun (t : State) (e : Nat × Req × List (Nat × Word64)) => t.returnOne e.2.1 e.2.2)
    { s with returning := left.filter (fun e => !e.2.1.late.isEmpty) }

/-- REALIGNMENT_END. -/
def execRealignmentEnd (die column : Nat) (s : State) : Result :=
  let c := s.column die column
  if columnExists die column && c.retrain then
    let t := s.setColumn die column { c with due := false, retrain := false }
    .next (if column < 32 then t.returnLate (32 * die + column) else t)
  else .next s

/-! ### The governor (R225 to R228) -/

/-- The thresholds of a die, T1 to T3, and T_CLOCK. -/
def State.thresholds (s : State) (die : Nat) : List Nat :=
  let t := s.reg (0x480 + 0x10 * die)
  [bitsOf t 7 0, bitsOf t 15 8, bitsOf t 23 16]
def State.clockLimit (s : State) (die : Nat) : Nat := bitsOf (s.reg (0x480 + 0x10 * die)) 31 24

/-- The cap level after an examination. -/
def nextCap (ts : List Nat) (temp cap : Nat) : Nat :=
  let met := (ts.filter (fun t => decide (t ≤ temp))).length
  if cap < met then met
  else if 0 < cap ∧ temp + 5 < ts.getD (cap - 1) 0 then cap - 1
  else cap

/-- The temperature of a column: the highest reading of its sensors, one in every layer, else what it read before (R224). -/
def State.tempOf (s : State) (die : Nat) (temps : List (Nat × Nat)) (column : Nat) : Nat :=
  match temps.filter (fun e => e.1 == column) with
  | [] => (s.column die column).temp
  | l => (l.map (fun e => min e.2 255)).foldl max 0

/-- The columns of a die after an examination. -/
def State.examineColumns (s : State) (die : Nat) (temps : List (Nat × Nat)) : State :=
  (List.range 160).foldl (fun t k =>
    let c := t.column die k
    let temp := s.tempOf die temps k
    t.setColumn die k { c with temp := temp, cap := nextCap (s.thresholds die) temp c.cap }) s

/-- Some column stands at its die's T_CLOCK or above; every column stands more than 5 °C below it. -/
def State.tooHot (s : State) : Bool :=
  [0, 1].any (fun d => (List.range 160).any (fun k => decide (s.clockLimit d ≤ (s.column d k).temp)))
def State.coolEnough (s : State) : Bool :=
  [0, 1].all (fun d => (List.range 160).all (fun k => decide ((s.column d k).temp + 5 < s.clockLimit d)))

/-- The clock moves by one step: step 0 is the fastest of five. -/
def State.moveClock (s : State) (power : Nat) : State :=
  let step := bitsOf (s.reg 0x4a0) 2 0
  let limit := bitsOf (s.reg 0x4a1) 11 0
  if s.tooHot || decide (limit < power) then s.setReg 0x4a0 (BitVec.ofNat 64 (min 4 (step + 1)))
  else if s.coolEnough && decide (power < limit) then s.setReg 0x4a0 (BitVec.ofNat 64 (step - 1))
  else s

/-- GOVERNOR_EXAMINATION, with what the sensors read (log 10). -/
def execGovernorExamination (die : Nat) (temps : List (Nat × Nat)) (power : Nat) (s : State) : Result :=
  if 2 ≤ die then .next s else .next ((({ s with power := power } : State).examineColumns die temps).moveClock power)

end Sys2Proof.Machine
end

