-- ==== Sys2Proof/Machine/Dispatch.lean ====
section
/-!
DEFINITION. The dispatch: one arm per row of the opcode table, each one direct call of that instruction's meaning.
-/

namespace Sys2Proof.Machine

/-- The meaning of one instruction or event in a state. -/
def exec (i : Instr) (s : State) : Host.Outcome State Fault Refusal :=
  match i with
  | .iaddI32 k h d a b => Sys2Proof.Machine.execIaddI32 k h d a b s
  | .iaddSatI32 k h d a b => Sys2Proof.Machine.execIaddSatI32 k h d a b s
  | .iaddSatN32 k h d a b => Sys2Proof.Machine.execIaddSatN32 k h d a b s
  | .isubI32 k h d a b => Sys2Proof.Machine.execIsubI32 k h d a b s
  | .isubSatI32 k h d a b => Sys2Proof.Machine.execIsubSatI32 k h d a b s
  | .isubSatN32 k h d a b => Sys2Proof.Machine.execIsubSatN32 k h d a b s
  | .imulLo k h d a b => Sys2Proof.Machine.execImulLo k h d a b s
  | .imulHiI32 k h d a b => Sys2Proof.Machine.execImulHiI32 k h d a b s
  | .imulHiN32 k h d a b => Sys2Proof.Machine.execImulHiN32 k h d a b s
  | .imad k h d a b => Sys2Proof.Machine.execImad k h d a b s
  | .iminI32 k h d a b => Sys2Proof.Machine.execIminI32 k h d a b s
  | .imaxI32 k h d a b => Sys2Proof.Machine.execImaxI32 k h d a b s
  | .iminN32 k h d a b => Sys2Proof.Machine.execIminN32 k h d a b s
  | .imaxN32 k h d a b => Sys2Proof.Machine.execImaxN32 k h d a b s
  | .and k h d a b => Sys2Proof.Machine.execAnd k h d a b s
  | .or k h d a b => Sys2Proof.Machine.execOr k h d a b s
  | .xor k h d a b => Sys2Proof.Machine.execXor k h d a b s
  | .andn k h d a b => Sys2Proof.Machine.execAndn k h d a b s
  | .shl k h d a b => Sys2Proof.Machine.execShl k h d a b s
  | .shr k h d a b => Sys2Proof.Machine.execShr k h d a b s
  | .sha k h d a b => Sys2Proof.Machine.execSha k h d a b s
  | .rot k h d a b => Sys2Proof.Machine.execRot k h d a b s
  | .clz k h d a => Sys2Proof.Machine.execClz k h d a s
  | .popc k h d a => Sys2Proof.Machine.execPopc k h d a s
  | .brev k h d a => Sys2Proof.Machine.execBrev k h d a s
  | .ffs k h d a => Sys2Proof.Machine.execFfs k h d a s
  | .bfxI32 k h d a b => Sys2Proof.Machine.execBfxI32 k h d a b s
  | .bfxN32 k h d a b => Sys2Proof.Machine.execBfxN32 k h d a b s
  | .bfi k h d a b => Sys2Proof.Machine.execBfi k h d a b s
  | .icmp k h f a b => Sys2Proof.Machine.execIcmp k h f a b s
  | .icmpn k h f a b => Sys2Proof.Machine.execIcmpn k h f a b s
  | .sel k h d a b => Sys2Proof.Machine.execSel k h d a b s
  | .kand k h a b => Sys2Proof.Machine.execKand k h a b s
  | .kor k h a b => Sys2Proof.Machine.execKor k h a b s
  | .kxor k h a b => Sys2Proof.Machine.execKxor k h a b s
  | .kandn k h a b => Sys2Proof.Machine.execKandn k h a b s
  | .iaddi k d a im => Sys2Proof.Machine.execIaddi k d a im s
  | .imuli k d a im => Sys2Proof.Machine.execImuli k d a im s
  | .andi k d a im => Sys2Proof.Machine.execAndi k d a im s
  | .ori k d a im => Sys2Proof.Machine.execOri k d a im s
  | .xori k d a im => Sys2Proof.Machine.execXori k d a im s
  | .shifti k d a t n => Sys2Proof.Machine.execShifti k d a t n s
  | .icmpi k f a im => Sys2Proof.Machine.execIcmpi k f a im s
  | .movi k d im => Sys2Proof.Machine.execMovi k d im s
  | .movhi k d im => Sys2Proof.Machine.execMovhi k d im s
  | .mov k h d a => Sys2Proof.Machine.execMov k h d a s
  | .movBroadcast k h d a => Sys2Proof.Machine.execMovBroadcast k h d a s
  | .movFromMask k h d a => Sys2Proof.Machine.execMovFromMask k h d a s
  | .fadd k h f d a b => Sys2Proof.Machine.execFadd k h f d a b s
  | .fsub k h f d a b => Sys2Proof.Machine.execFsub k h f d a b s
  | .fmul k h f d a b => Sys2Proof.Machine.execFmul k h f d a b s
  | .ffma k h f d a b => Sys2Proof.Machine.execFfma k h f d a b s
  | .ffms k h f d a b => Sys2Proof.Machine.execFfms k h f d a b s
  | .fmin k h d a b => Sys2Proof.Machine.execFmin k h d a b s
  | .fmax k h d a b => Sys2Proof.Machine.execFmax k h d a b s
  | .fminnum k h d a b => Sys2Proof.Machine.execFminnum k h d a b s
  | .fmaxnum k h d a b => Sys2Proof.Machine.execFmaxnum k h d a b s
  | .fcmp k h f a b => Sys2Proof.Machine.execFcmp k h f a b s
  | .fabs k h d a => Sys2Proof.Machine.execFabs k h d a s
  | .fneg k h d a => Sys2Proof.Machine.execFneg k h d a s
  | .fcopysign k h d a b => Sys2Proof.Machine.execFcopysign k h d a b s
  | .fclass k h d a => Sys2Proof.Machine.execFclass k h d a s
  | .fcvt k h r d a c => Sys2Proof.Machine.execFcvt k h r d a c s
  | .frnd k h r d a => Sys2Proof.Machine.execFrnd k h r d a s
  | .fsfu k l d a f => Sys2Proof.Machine.execFsfu k l d a f s
  | .fdot2 k h f d a b => Sys2Proof.Machine.execFdot2 k h f d a b s
  | .lshf k h f d a b => Sys2Proof.Machine.execLshf k h f d a b s
  | .lred k l d a p => Sys2Proof.Machine.execLred k l d a p s
  | .lscan k l d a e p => Sys2Proof.Machine.execLscan k l d a e p s
  | .vote k h f a => Sys2Proof.Machine.execVote k h f a s
  | .lds k l d a sb c => Sys2Proof.Machine.execLds k l d a sb c s
  | .lds2 k l d a sb c => Sys2Proof.Machine.execLds2 k l d a sb c s
  | .ldsf k l d a sb c => Sys2Proof.Machine.execLdsf k l d a sb c s
  | .sts k d a sb c => Sys2Proof.Machine.execSts k d a sb c s
  | .sts2 k d a sb c => Sys2Proof.Machine.execSts2 k d a sb c s
  | .stsf k d a sb c => Sys2Proof.Machine.execStsf k d a sb c s
  | .ldp k l d a sb c => Sys2Proof.Machine.execLdp k l d a sb c s
  | .stp k d a sb c => Sys2Proof.Machine.execStp k d a sb c s
  | .ldg k l d a sb c => Sys2Proof.Machine.execLdg k l d a sb c s
  | .ldg2 k l d a sb c => Sys2Proof.Machine.execLdg2 k l d a sb c s
  | .stg k d a sb c => Sys2Proof.Machine.execStg k d a sb c s
  | .stg2 k d a sb c => Sys2Proof.Machine.execStg2 k d a sb c s
  | .ldgs k l d a sb c => Sys2Proof.Machine.execLdgs k l d a sb c s
  | .stgs k d a sb c => Sys2Proof.Machine.execStgs k d a sb c s
  | .atom k l p d a sb => Sys2Proof.Machine.execAtom k l p d a sb s
  | .atomb k l p d a sb => Sys2Proof.Machine.execAtomb k l p d a sb s
  | .redg k p d a sb => Sys2Proof.Machine.execRedg k p d a sb s
  | .atoms k l p d a sb => Sys2Proof.Machine.execAtoms k l p d a sb s
  | .touchg k a sb c => Sys2Proof.Machine.execTouchg k a sb c s
  | .sadd d a b => Sys2Proof.Machine.execSadd d a b s
  | .saddSatI64 d a b => Sys2Proof.Machine.execSaddSatI64 d a b s
  | .saddSatN64 d a b => Sys2Proof.Machine.execSaddSatN64 d a b s
  | .ssub d a b => Sys2Proof.Machine.execSsub d a b s
  | .ssubSatI64 d a b => Sys2Proof.Machine.execSsubSatI64 d a b s
  | .ssubSatN64 d a b => Sys2Proof.Machine.execSsubSatN64 d a b s
  | .smulLo d a b => Sys2Proof.Machine.execSmulLo d a b s
  | .smulHiI64 d a b => Sys2Proof.Machine.execSmulHiI64 d a b s
  | .smulHiN64 d a b => Sys2Proof.Machine.execSmulHiN64 d a b s
  | .sand d a b => Sys2Proof.Machine.execSand d a b s
  | .sor d a b => Sys2Proof.Machine.execSor d a b s
  | .sxor d a b => Sys2Proof.Machine.execSxor d a b s
  | .sandn d a b => Sys2Proof.Machine.execSandn d a b s
  | .sshl d a b => Sys2Proof.Machine.execSshl d a b s
  | .sshr d a b => Sys2Proof.Machine.execSshr d a b s
  | .ssha d a b => Sys2Proof.Machine.execSsha d a b s
  | .srot d a b => Sys2Proof.Machine.execSrot d a b s
  | .sminI64 d a b => Sys2Proof.Machine.execSminI64 d a b s
  | .smaxI64 d a b => Sys2Proof.Machine.execSmaxI64 d a b s
  | .sminN64 d a b => Sys2Proof.Machine.execSminN64 d a b s
  | .smaxN64 d a b => Sys2Proof.Machine.execSmaxN64 d a b s
  | .scmp f d a b => Sys2Proof.Machine.execScmp f d a b s
  | .ssel d a b => Sys2Proof.Machine.execSsel d a b s
  | .sclz d a => Sys2Proof.Machine.execSclz d a s
  | .spopc d a => Sys2Proof.Machine.execSpopc d a s
  | .sbrev d a => Sys2Proof.Machine.execSbrev d a s
  | .sffs d a => Sys2Proof.Machine.execSffs d a s
  | .saddi d a im => Sys2Proof.Machine.execSaddi d a im s
  | .sli d im => Sys2Proof.Machine.execSli d im s
  | .shi d im => Sys2Proof.Machine.execShi d im s
  | .sandi d a im => Sys2Proof.Machine.execSandi d a im s
  | .sshifti d a t n => Sys2Proof.Machine.execSshifti d a t n s
  | .smov d a => Sys2Proof.Machine.execSmov d a s
  | .smovFromMask d k => Sys2Proof.Machine.execSmovFromMask d k s
  | .smovToMask k a => Sys2Proof.Machine.execSmovToMask k a s
  | .smovSpecial d n => Sys2Proof.Machine.execSmovSpecial d n s
  | .b d => Sys2Proof.Machine.execB d s
  | .bs sb n d => Sys2Proof.Machine.execBs sb n d s
  | .bk k m d => Sys2Proof.Machine.execBk k m d s
  | .call d => Sys2Proof.Machine.execCall d s
  | .jmp a => Sys2Proof.Machine.execJmp a s
  | .calli a => Sys2Proof.Machine.execCalli a s
  | .ret => Sys2Proof.Machine.execRet s
  | .loop n c im t => Sys2Proof.Machine.execLoop n c im t s
  | .bar l k im => Sys2Proof.Machine.execBar l k im s
  | .rget d => Sys2Proof.Machine.execRget d s
  | .rrel => Sys2Proof.Machine.execRrel s
  | .waita f d a b => Sys2Proof.Machine.execWaita f d a b s
  | .sld f d a b l => Sys2Proof.Machine.execSld f d a b l s
  | .sst f d a b => Sys2Proof.Machine.execSst f d a b s
  | .spattr a b => Sys2Proof.Machine.execSpattr a b s
  | .fence sb k => Sys2Proof.Machine.execFence sb k s
  | .dist d a b l => Sys2Proof.Machine.execDist d a b l s
  | .distH d a b l => Sys2Proof.Machine.execDistH d a b l s
  | .pin a b => Sys2Proof.Machine.execPin a b s
  | .pinR n a b => Sys2Proof.Machine.execPinR n a b s
  | .unpin a b => Sys2Proof.Machine.execUnpin a b s
  | .unpinR n a b => Sys2Proof.Machine.execUnpinR n a b s
  | .rwb a b => Sys2Proof.Machine.execRwb a b s
  | .rwbR n a b => Sys2Proof.Machine.execRwbR n a b s
  | .rinv a b => Sys2Proof.Machine.execRinv a b s
  | .rinvR n a b => Sys2Proof.Machine.execRinvR n a b s
  | .touch a b => Sys2Proof.Machine.execTouch a b s
  | .touchR n a b => Sys2Proof.Machine.execTouchR n a b s
  | .chain a => Sys2Proof.Machine.execChain a s
  | .chainq d a l => Sys2Proof.Machine.execChainq d a l s
  | .bpost v d a b l => Sys2Proof.Machine.execBpost v d a b l s
  | .bread d a l => Sys2Proof.Machine.execBread d a l s
  | .bvopTest d v b => Sys2Proof.Machine.execBvopTest d v b s
  | .bvopCount d v => Sys2Proof.Machine.execBvopCount d v s
  | .bvopWord d v b => Sys2Proof.Machine.execBvopWord d v b s
  | .bvopAnd d a b => Sys2Proof.Machine.execBvopAnd d a b s
  | .spawn d a b => Sys2Proof.Machine.execSpawn d a b s
  | .exit => Sys2Proof.Machine.execExit s
  | .exitAbort => Sys2Proof.Machine.execExitAbort s
  | .trap c a im => Sys2Proof.Machine.execTrap c a im s
  | .tsysNop => Sys2Proof.Machine.execTsysNop s
  | .tsysTret => Sys2Proof.Machine.execTsysTret s
  | .tsysTmask d a => Sys2Proof.Machine.execTsysTmask d a s
  | .tsysBkpt => Sys2Proof.Machine.execTsysBkpt s
  | .mmz z => Sys2Proof.Machine.execMmz z s
  | .mm z sb a b p t k => Sys2Proof.Machine.execMm z sb a b p t k s
  | .mmr z sb a b p t k => Sys2Proof.Machine.execMmr z sb a b p t k s
  | .wload sb a b p t g => Sys2Proof.Machine.execWload sb a b p t g s
  | .mstore z sb a b c p => Sys2Proof.Machine.execMstore z sb a b c p s
  | .mstt z sb a b c p => Sys2Proof.Machine.execMstt z sb a b c p s
  | .msetmRow sb a b => Sys2Proof.Machine.execMsetmRow sb a b s
  | .msetmCol sb a b => Sys2Proof.Machine.execMsetmCol sb a b s
  | .msetmDepth sb a => Sys2Proof.Machine.execMsetmDepth sb a s
  | .msetmFull sb => Sys2Proof.Machine.execMsetmFull sb s
  | .mbatch a => Sys2Proof.Machine.execMbatch a s
  | .mwait a => Sys2Proof.Machine.execMwait a s
  | .rnsf z sb a b g => Sys2Proof.Machine.execRnsf z sb a b g s
  | .rnsr z sb a b t c p => Sys2Proof.Machine.execRnsr z sb a b t c p s
  | .rnsq z a c => Sys2Proof.Machine.execRnsq z a c s
  | .amax d a l => Sys2Proof.Machine.execAmax d a l s
  | .amaxClr d a l => Sys2Proof.Machine.execAmaxClr d a l s
  | .sysr d n => Sys2Proof.Machine.execSysr d n s
  | .sysw d a n => Sys2Proof.Machine.execSysw d a n s
  | .trapPermitRetry ladle => Sys2Proof.Machine.execTrapPermitRetry ladle s
  | .demandMissNotification ladle => Sys2Proof.Machine.execDemandMissNotification ladle s
  | .handlerDeferralExpiry ladle => Sys2Proof.Machine.execHandlerDeferralExpiry ladle s
  | .longResultLanding ladle n => Sys2Proof.Machine.execLongResultLanding ladle n s
  | .barrierRelease n => Sys2Proof.Machine.execBarrierRelease n s
  | .rgetGrant core => Sys2Proof.Machine.execRgetGrant core s
  | .registerExamination core => Sys2Proof.Machine.execRegisterExamination core s
  | .exitRetire ladle => Sys2Proof.Machine.execExitRetire ladle s
  | .bankGrant n => Sys2Proof.Machine.execBankGrant n s
  | .globalAccessSlot n => Sys2Proof.Machine.execGlobalAccessSlot n s
  | .syncAccessSlot n => Sys2Proof.Machine.execSyncAccessSlot n s
  | .atomicGroupSlot n => Sys2Proof.Machine.execAtomicGroupSlot n s
  | .distanceRequestSlot n => Sys2Proof.Machine.execDistanceRequestSlot n s
  | .replicaMerge slice tile => Sys2Proof.Machine.execReplicaMerge slice tile s
  | .replicaDrop n => Sys2Proof.Machine.execReplicaDrop n s
  | .missDataArrival slice tile => Sys2Proof.Machine.execMissDataArrival slice tile s
  | .motionLanding slice tile => Sys2Proof.Machine.execMotionLanding slice tile s
  | .boundaryMove slice => Sys2Proof.Machine.execBoundaryMove slice s
  | .writeBack slice => Sys2Proof.Machine.execWriteBack slice s
  | .boardOperationSlot n => Sys2Proof.Machine.execBoardOperationSlot n s
  | .boardReadSlot n => Sys2Proof.Machine.execBoardReadSlot n s
  | .amaxFold n => Sys2Proof.Machine.execAmaxFold n s
  | .amaxReadSlot n => Sys2Proof.Machine.execAmaxReadSlot n s
  | .redgContribution n => Sys2Proof.Machine.execRedgContribution n s
  | .redgRetry cluster => Sys2Proof.Machine.execRedgRetry cluster s
  | .waitaWatchTest slice n => Sys2Proof.Machine.execWaitaWatchTest slice n s
  | .waitaRetry ladle => Sys2Proof.Machine.execWaitaRetry ladle s
  | .waitaWake ladle => Sys2Proof.Machine.execWaitaWake ladle s
  | .fenceComplete ladle => Sys2Proof.Machine.execFenceComplete ladle s
  | .matrixWordStart cluster => Sys2Proof.Machine.execMatrixWordStart cluster s
  | .matrixStep cluster => Sys2Proof.Machine.execMatrixStep cluster s
  | .batchComplete cluster => Sys2Proof.Machine.execBatchComplete cluster s
  | .copyEntry cluster chain => Sys2Proof.Machine.execCopyEntry cluster chain s
  | .mcastEntry cluster chain => Sys2Proof.Machine.execMcastEntry cluster chain s
  | .signalEntry cluster chain => Sys2Proof.Machine.execSignalEntry cluster chain s
  | .loopEntry cluster chain => Sys2Proof.Machine.execLoopEntry cluster chain s
  | .condEntry cluster chain => Sys2Proof.Machine.execCondEntry cluster chain s
  | .reduceEntry cluster chain => Sys2Proof.Machine.execReduceEntry cluster chain s
  | .waitwEntry cluster chain => Sys2Proof.Machine.execWaitwEntry cluster chain s
  | .endEntry cluster chain => Sys2Proof.Machine.execEndEntry cluster chain s
  | .chainTransfer cluster chain => Sys2Proof.Machine.execChainTransfer cluster chain s
  | .waitwWake cluster chain => Sys2Proof.Machine.execWaitwWake cluster chain s
  | .launchPort part viaPF link offset size record => Sys2Proof.Machine.execLaunchPort part viaPF link offset size record s
  | .graphLoad part => Sys2Proof.Machine.execGraphLoad part s
  | .dispatch part => Sys2Proof.Machine.execDispatch part s
  | .versionReservation casting => Sys2Proof.Machine.execVersionReservation casting s
  | .castingComplete casting => Sys2Proof.Machine.execCastingComplete casting s
  | .commitAssignment casting => Sys2Proof.Machine.execCommitAssignment casting s
  | .commitMessage slice casting => Sys2Proof.Machine.execCommitMessage slice casting s
  | .discardMessage slice casting => Sys2Proof.Machine.execDiscardMessage slice casting s
  | .horizonMessage slice => Sys2Proof.Machine.execHorizonMessage slice s
  | .committed casting => Sys2Proof.Machine.execCommitted casting s
  | .spawnRecordEnqueue part => Sys2Proof.Machine.execSpawnRecordEnqueue part s
  | .castingFault n => Sys2Proof.Machine.execCastingFault n s
  | .discardAcknowledged casting => Sys2Proof.Machine.execDiscardAcknowledged casting s
  | .translationWalk n => Sys2Proof.Machine.execTranslationWalk n s
  | .translationRecordWrite part => Sys2Proof.Machine.execTranslationRecordWrite part s
  | .tqTail part value => Sys2Proof.Machine.execTqTail part value s
  | .tqAnswerResume part seq => Sys2Proof.Machine.execTqAnswerResume part seq s
  | .tqAnswerAbort part seq => Sys2Proof.Machine.execTqAnswerAbort part seq s
  | .preemptCtlSave part all cluster => Sys2Proof.Machine.execPreemptCtlSave part all cluster s
  | .preemptCtlDiscard part all cluster => Sys2Proof.Machine.execPreemptCtlDiscard part all cluster s
  | .preemptionStart casting => Sys2Proof.Machine.execPreemptionStart casting s
  | .preemptionSave casting => Sys2Proof.Machine.execPreemptionSave casting s
  | .columnDue die column => Sys2Proof.Machine.execColumnDue die column s
  | .realignmentStart die column forced => Sys2Proof.Machine.execRealignmentStart die column forced s
  | .realignmentEnd die column => Sys2Proof.Machine.execRealignmentEnd die column s
  | .governorExamination die temps power => Sys2Proof.Machine.execGovernorExamination die temps power s
  | .hashCtlGo die => Sys2Proof.Machine.execHashCtlGo die s
  | .drainMessage die slice => Sys2Proof.Machine.execDrainMessage die slice s
  | .switchMessage die slice => Sys2Proof.Machine.execSwitchMessage die slice s
  | .rehomeReplay n => Sys2Proof.Machine.execRehomeReplay n s
  | .btData die value => Sys2Proof.Machine.execBtData die value s
  | .sliceRetire die slice => Sys2Proof.Machine.execSliceRetire die slice s
  | .retirementProceed die => Sys2Proof.Machine.execRetirementProceed die s
  | .splitRegisterWrite part die value => Sys2Proof.Machine.execSplitRegisterWrite part die value s
  | .splitChangeSlot part die slice => Sys2Proof.Machine.execSplitChangeSlot part die slice s
  | .fmtSync part => Sys2Proof.Machine.execFmtSync part s
  | .fmtTableLoad part => Sys2Proof.Machine.execFmtTableLoad part s
  | .sdCtl part => Sys2Proof.Machine.execSdCtl part s
  | .shootdownComplete part => Sys2Proof.Machine.execShootdownComplete part s
  | .boardCfg value => Sys2Proof.Machine.execBoardCfg value s
  | .brdReset part value => Sys2Proof.Machine.execBrdReset part value s
  | .boardResetSlot board => Sys2Proof.Machine.execBoardResetSlot board s
  | .partCtlReset part => Sys2Proof.Machine.execPartCtlReset part s
  | .partCtlEn part enable => Sys2Proof.Machine.execPartCtlEn part enable s
  | .rnsInject value => Sys2Proof.Machine.execRnsInject value s
  | .rnsCtlMf cluster mf => Sys2Proof.Machine.execRnsCtlMf cluster mf s
  | .rnsCtlRetired cluster retired => Sys2Proof.Machine.execRnsCtlRetired cluster retired s
  | .errorPolicyExamination => Sys2Proof.Machine.execErrorPolicyExamination s
  | .scrubRead slice sector correctable uncorrectable => Sys2Proof.Machine.execScrubRead slice sector correctable uncorrectable s
  | .scrubWrite slice => Sys2Proof.Machine.execScrubWrite slice s
  | .windowHalving => Sys2Proof.Machine.execWindowHalving s
  | .clusterOwnerChoice cluster => Sys2Proof.Machine.execClusterOwnerChoice cluster s
  | .serviceExamination => Sys2Proof.Machine.execServiceExamination s
  | .gangReadyPost graph mould => Sys2Proof.Machine.execGangReadyPost graph mould s
  | .gangAbortOperation graph mould => Sys2Proof.Machine.execGangAbortOperation graph mould s
  | .gangWatchdogExpiry graph mould => Sys2Proof.Machine.execGangWatchdogExpiry graph mould s
  | .gangStart graph mould => Sys2Proof.Machine.execGangStart graph mould s
  | .gangAbort graph mould => Sys2Proof.Machine.execGangAbort graph mould s
  | .hostPhysicalWindowAccess link write offset bytes => Sys2Proof.Machine.execHostPhysicalWindowAccess link write offset bytes s
  | .hostMemoryWindowAccess part write offset bytes => Sys2Proof.Machine.execHostMemoryWindowAccess part write offset bytes s
  | .registerWrite number value viaVF part => Sys2Proof.Machine.execRegisterWrite number value viaVF part s
  | .linkTrained link => Sys2Proof.Machine.execLinkTrained link s
  | .bringUp verified version failed => Sys2Proof.Machine.execBringUp verified version failed s
  | .getVersion => Sys2Proof.Machine.execGetVersion s
  | .getCapabilities => Sys2Proof.Machine.execGetCapabilities s
  | .negotiateAlgorithms ecdsaP384 sha384 => Sys2Proof.Machine.execNegotiateAlgorithms ecdsaP384 sha384 s
  | .getDigests => Sys2Proof.Machine.execGetDigests s
  | .getCertificate slot => Sys2Proof.Machine.execGetCertificate slot s
  | .challenge nonce => Sys2Proof.Machine.execChallenge nonce s
  | .getMeasurements index => Sys2Proof.Machine.execGetMeasurements index s
  | .identify => Sys2Proof.Machine.execIdentify s
  | .sensors => Sys2Proof.Machine.execSensors s
  | .errorsQuery => Sys2Proof.Machine.execErrorsQuery s
  | .stageFirmware image => Sys2Proof.Machine.execStageFirmware image s
  | .resetPackage => Sys2Proof.Machine.execResetPackage s
  | .nystraPortFailure port => Sys2Proof.Machine.execNystraPortFailure port s
  | .rdmaWrite pair va bytes => Sys2Proof.Machine.execRdmaWrite pair va bytes s
  | .rdmaRead pair va length => Sys2Proof.Machine.execRdmaRead pair va length s
  | .matrixWordComplete cluster => Sys2Proof.Machine.execMatrixWordComplete cluster s
  | .opportunisticReplay ladle mismatch => Sys2Proof.Machine.execOpportunisticReplay ladle mismatch s
  | .shadowComparison ladle mismatch => Sys2Proof.Machine.execShadowComparison ladle mismatch s
  | .vfEnable link enable => Sys2Proof.Machine.execVfEnable link enable s
  | .hostMemoryCompletion n => Sys2Proof.Machine.execHostMemoryCompletion n s

end Sys2Proof.Machine
end

