-- ==== Sys2Proof/Machine/Outside.lean ====
section
/-!
DEFINITION. What comes from outside the package's own instructions and events: arrivals at arbiters (R150, R182), other packages (R126,
R348, R368, R427, R428), errors in stored words (R337, R338), and hosts and the management channel (R232, R407, R426). Log 5 and log 65 say
that the agenda chooses when.
-/

namespace Sys2Proof.Machine

/-- What an access of another package does at its home here: a plain load reads committed data and is not race-checked, as a synchronising
one is not (R429). -/
def ReqKind.fromAfar : ReqKind → Option ReqKind
  | .load _ => some .syncLoad
  | .syncLoad => some .syncLoad
  | .syncStore => some .syncStore
  | .atomic b a => some (.atomic b a)
  | .redg a i => some (.redg a i)
  | .dist h => some (.dist h)
  | .touch => some .touch
  | .post => some .post
  | .boardRead => some .boardRead
  | _ => none

/-- A request of another package has its home here: a tile of this package's HBM, or a board. -/
def State.homedHere (s : State) (r : Req) : Bool :=
  match r.place with
  | .slice n => decide (n = s.homeOf (256 * r.tile)) && decide (256 * r.tile < hbmLimit) && r.ops.all (fun o => o.bytes.all (fun a => tileOf a == r.tile))
  | .board k => decide (k / 4096 = s.pkg)
  | _ => false

/-- An access of another package is performed at its home here, where its port wins the slot (R182, R428). A contribution that the home would
hold back stays with its sender (R395). -/
def State.fabricAccess (s : State) (r : Req) : State :=
  match r.kind.fromAfar with
  | none => s
  | some k =>
    let q := { r with kind := k, who := { Who.device with part := r.who.part }, pend := none, held := false, engine := none, peer := none,
                      replica := false, arrived := none, late := [], id := s.nextReq, unit := none, ranged := false, undo := [] }
    let held := match k with | .redg _ i => s.redgHeld q i | _ => false
    if s.homedHere q && !held && s.placeReady q && s.wins q then (s.noteGrant q).perform q else s

/-- A request is on its way to another package. -/
def Req.abroad (r : Req) (pkg : Nat) : Bool :=
  match r.place with
  | .remote _ => true
  | .board k => decide (k / 4096 ≠ pkg)
  | _ => false

/-- A request to another package is lost beyond resend: its casting takes cause 0x09 (R427). -/
def State.lose (s : State) (id : Nat) : State :=
  match s.requests.find? (fun r => r.id == id) with
  | some r => if r.abroad s.pkg then ({ s with requests := s.requests.filter (fun q => q.id != id) } : State).faultNow r .uncorrectable else s
  | none => s

/-- One thing that the world outside does. -/
def State.world (s : State) (o : Outside) : State :=
  match o with
  | .arrive id => s.arrive id
  | .overdue id => s.overdue id
  | .barrierArrival g m id => s.remoteArrival g m id
  | .fabricAccess r => s.fabricAccess r
  | .remoteBoard key b => if key / 4096 = s.pkg then s else { s with boards := FMap.set Board.fresh s.boards key b }
  | .gangOperation key slot ready => s.otherOp key slot ready
  | .gangOutcome key start => s.otherOutcome key start
  | .bitError p reader u => s.bitError p reader u
  | .lost id => s.lose id
  | .hostRead link function bar offset size => s.hostRead link function bar offset size
  | .hostWrite link function bar offset size value => s.hostWrite link function bar offset size value
  | .msixControl link function enable mask => s.msixControl link function enable mask
  | .tveduth code => s.tveduth code
  | .accept => s.accept

end Sys2Proof.Machine
end

