-- ==== Sys2Proof/Machine/Step.lean ====
section
/-!
DEFINITION. One step of the package: the next move of the agenda, an instruction, an event or what comes from outside, or the issuing
ladle's next instruction (log 1).
-/

namespace Sys2Proof.Machine

/-- The issuing split fetches and issues its next instruction, when it can: its core does not realign (R230), and no `rnsq` it depends on is
queued (R60). -/
def issueStep (s : State) : Host.Outcome State Fault Refusal :=
  if s.me.canRun && s.me.canIssue s.me.sp && !s.retrains s.me.cluster s.me.core then
    let t := s.prepare
    if t.me.canRun && t.me.canIssue t.me.sp && !t.me.mustWait then
      match t.fetch with
      | .ok i => if t.interlocked i then .next t.fetched else t.fetched.afterIssue (exec i t.fetched)
      | .error e => .next (t.stopAt e)
    else .next t
  else .next s

/-- One step: the pool has noted its heads, and time passes (R7, R360); then the head of the agenda moves,
and dispatches follow at an event of the pool (R373); with an empty agenda the issuing
split issues, or the first that can. -/
def step (s : State) : Host.Outcome State Fault Refusal :=
  let t := s.noteAllHeads.tick
  match t.agenda with
  | .issue uid slot :: r => issueStep ((({ t with agenda := r }).selectLadle uid).mapMe (fun l => l.selectSlot slot))
  | .event i :: r => poolAfter i { t with agenda := r } (exec i { t with agenda := r })
  | .outside o :: r => .next (({ t with agenda := r } : State).world o)
  | [] =>
    if t.me.canRun && t.me.canIssue t.me.sp then issueStep t
    else match t.readyLadle with
      | some (uid, slot) => issueStep ((t.selectLadle uid).mapMe (fun l => l.selectSlot slot))
      | none => .next t

/-- The page of the issuing split's program counter, cached as readable, writable and executable, and the physical page
it stands for: the start of HBM, which a window of the partition holds (R415). -/
def fetchPage (pc : Nat) : TlbEntry :=
  { cluster := 0, part := 0, base := pc / 2 ^ 30 * 2 ^ 30, log := 30, pa := 0, fmt := 0, rpl := false, x := true, w := true, r := true }

/-- The state with an instruction stored where `step` fetches its next one (log 13): a resident ladle issues there, on the
control core for the words that are legal only there (R49). The words of events have no place in memory. -/
def State.withFetchWord (s : State) (_nbits w : Nat) : State :=
  let word : Word32 := BitVec.ofNat 32 w
  let op := bitsOf word 30 25
  let matrix := word.getLsbD 31 && decide (0x30 ≤ op) && decide (op ≤ 0x3b)
  let pc := bitsOf s.me.sp.pc 56 2 * 4
  let me := { s.me with
    live := true, stopped := false, heldAtEntry := false, core := if matrix then 4 else 0, cluster := 0, part := 0,
    handlerActive := false, loop := none, pend := [], splits := [],
    sp := { s.me.sp with pc := BitVec.ofNat 64 pc, slot := some 0, blocked := .ready, looping := false, handler := false,
                         mask := if matrix then 1#32 else if s.me.sp.mask = 0 then 0xffffffff#32 else s.me.sp.mask } }
  { s with me := me, agenda := [], columns := [], tlb := fetchPage pc :: s.tlb, mem := s.mem.writeBytes (pc % 2 ^ 30) (bytesOfWord word),
           regs := FMap.set (regReset 0xb00) (FMap.set (regReset 0xb01) s.regs 0xb01 0x40000000) 0xb00 0 }

end Sys2Proof.Machine
end

