-- ==== Sys2Proof/Safety.lean ====
section
/-!
DEFINITION. What counts as a safe run: one in which no casting has taken a fault (R154), and the invariants that every
step keeps.
-/

namespace Sys2Proof.Machine

/-- No fault is on its way to the ready pool, and no casting stands faulted. -/
def State.faultFree (s : State) : Bool := s.faults.isEmpty && s.castings.all (fun c => c.state != .faulted)

/-- Committed memory keeps its canonical form. -/
abbrev State.memOk (s : State) : Prop := s.mem.wf

end Sys2Proof.Machine
end

