-- ==== Sys2Proof/Certificates/Slice0/Obligations.lean ====
section
/-!
DEFINITION. The statements for the provers. First the vocabulary they share, then the statements, by the order of the
opcode table. Every statement that names a next state says it as `exec i s = .next t`, so it is also the statement that
the instruction completes there.
-/

namespace Sys2Proof.Spec

open Sys2Proof.Machine

/-! ### Vocabulary -/

/-- The instruction completes, and the package becomes `t`, of which `Q` holds. -/
def Completes (i : Instr) (s : State) (Q : State → Prop) : Prop := ∃ t, exec i s = .next t ∧ Q t

/-- Every byte of memory, and every byte of the issuing ladle's scratchpad, reads as before. -/
def SameBytes (s t : State) : Prop :=
  (∀ a, t.mem.read a = s.mem.read a) ∧ (∀ a, t.me.pad.bytes.read a = s.me.pad.bytes.read a)

/-- The instruction completes and changes the issuing ladle alone: the instruction leaves the ladle `l`, of which `Q`
holds, and then the ladle goes to its next word (`Ladle.advance`, stated in NextWord). Nothing outside the ladle changes:
no other ladle, no byte of memory, no device register, no slice, queue, board or matrix state. -/
def Issues (i : Instr) (s : State) (Q : Ladle → Prop) : Prop :=
  ∃ l, exec i s = .next { s with me := l.advance } ∧ SameBytes s { s with me := l.advance } ∧ Q l

/-- The same for an instruction that moves the program counter itself. -/
def Jumps (i : Instr) (s : State) (goal : Word64) (Q : Ladle → Prop) : Prop :=
  ∃ l, exec i s = .next { s with me := l.setPc goal } ∧ SameBytes s { s with me := l.setPc goal } ∧ Q l

/-- A lane-set word is legal: the ladle runs on a vector core, and names v32-v63 only when it holds its extended block
(R24, R37). -/
def Legal (l : Ladle) (regs : List (BitVec 6)) : Prop := l.control = false ∧ (l.ext = true ∨ regs.any extended = false)

/-- The lanes that an instruction with predicate `k` acts on (R54). -/
def lanesOf (l : Ladle) (k : BitVec 3) : Word32 := l.sp.mask &&& l.getK k

/-- Lane register `d` takes `f j` in each lane `j` of a mask; its other lanes and every other lane register keep theirs. -/
def LanesWritten (l l' : Ladle) (d : BitVec 6) (lanes : Word32) (f : Nat → Word32) : Prop :=
  (∀ j < 32, laneAt (l'.getV d) j = if lanes.getLsbD j then f j else laneAt (l.getV d) j) ∧
  ∀ r, r ≠ d → l'.getV r = l.getV r

/-- A uniform register takes a value, and every other keeps its own. -/
def UniformWritten (l l' : Ladle) (d : BitVec 6) (x : Word64) : Prop :=
  l'.getS d = x ∧ ∀ r, r ≠ d → l'.getS r = l.getS r

/-- A mask takes the bits `f j` in the lanes of the issuing split; its other bits and every other mask keep theirs, and so
does k0, which is fixed (R23, R55, R86). -/
def MaskWritten (l l' : Ladle) (k : BitVec 3) (f : Nat → Bool) : Prop :=
  (k ≠ 0 → ∀ j < 32, (l'.getK k).getLsbD j = if l.sp.mask.getLsbD j then f j else (l.getK k).getLsbD j) ∧
  (∀ q, q ≠ k → l'.getK q = l.getK q) ∧ (k = 0 → l'.k = l.k)

/-- A ladle that differs from the issuing ladle, with its issue counted (R58), in its lane registers and its replay queue
(R334) alone. -/
def OnlyLanes (l l' : Ladle) : Prop := l' = { l.issued with v := l'.v, replay := l'.replay }
def OnlyMasks (l l' : Ladle) : Prop := l' = { l.issued with k := l'.k, replay := l'.replay }
def OnlyUniform (l l' : Ladle) : Prop := l' = { l.issued with s := l'.s }

/-- A lane instruction without exceptions: predicate `k`, destination `d`, the value `f j` in each active lane. -/
def LaneWrites (i : Instr) (s : State) (k : BitVec 3) (d : BitVec 6) (f : Nat → Word32) : Prop :=
  Issues i s (fun l => LanesWritten s.me l d (lanesOf s.me k) f ∧ OnlyLanes s.me l)

/-- A two-operand lane instruction by a function of the lane's va and vb. -/
def LaneWrites2 (i : Instr) (s : State) (k : BitVec 3) (d a b : BitVec 6) (f : Word32 → Word32 → Word32) : Prop :=
  LaneWrites i s k d (fun j => f (laneAt (s.me.getV a) j) (laneAt (s.me.getV b) j))

/-- A one-operand lane instruction. -/
def LaneWrites1 (i : Instr) (s : State) (k : BitVec 3) (d a : BitVec 6) (f : Word32 → Word32) : Prop :=
  LaneWrites i s k d (fun j => f (laneAt (s.me.getV a) j))

/-- An instruction that writes a mask and nothing else. -/
def MaskWrites (i : Instr) (s : State) (k : BitVec 3) (f : Nat → Bool) : Prop :=
  Issues i s (fun l => MaskWritten s.me l k f ∧ OnlyMasks s.me l)

/-- A uniform instruction that writes s[d] and nothing else. -/
def UniWrites (i : Instr) (s : State) (d : BitVec 6) (x : Word64) : Prop :=
  Issues i s (fun l => UniformWritten s.me l d x ∧ OnlyUniform s.me l)

/-- A width-preserving clamp to the signed and to the unsigned range. -/
def satSigned (w : Nat) (x : Int) : BitVec w := BitVec.ofInt w (if x < -2 ^ (w - 1) then -2 ^ (w - 1) else if 2 ^ (w - 1) ≤ x then 2 ^ (w - 1) - 1 else x)
def satUnsigned (w : Nat) (x : Int) : BitVec w := BitVec.ofInt w (if x < 0 then 0 else if 2 ^ w ≤ x then 2 ^ w - 1 else x)

/-- The upper half of a product. -/
def highHalf (w : Nat) (x : Int) : BitVec w := (BitVec.ofInt (2 * w) x).extractLsb' w w

/-- Leading zeros, set bits and the lowest set bit of a word of `w` bits. -/
def leading {w : Nat} (x : BitVec w) : BitVec w := if x = 0 then BitVec.ofNat w w else BitVec.ofNat w (w - 1 - Nat.log2 x.toNat)
def setBits {w : Nat} (x : BitVec w) : BitVec w := BitVec.ofNat w ((List.range w).countP (fun i => x.getLsbD i))
def lowestSet {w : Nat} (x : BitVec w) : BitVec w := if x = 0 then BitVec.ofNat w w else BitVec.ofNat w (Nat.log2 (x &&& -x).toNat)

/-- A shift by its kind, of any amount (R80, R108). -/
def shifted {w : Nat} (kind : Nat) (x : BitVec w) (n : Nat) : BitVec w :=
  match kind with
  | 0 => if w ≤ n then 0 else BitVec.ofNat w (x.toNat * 2 ^ n)
  | 1 => if w ≤ n then 0 else BitVec.ofNat w (x.toNat / 2 ^ n)
  | 2 => BitVec.ofInt w (x.toInt / 2 ^ min n (w - 1))
  | _ => x.rotateLeft (n % w)

/-- The bit field that a descriptor names, by the pseudocode of R82. -/
def fieldOf (signed : Bool) (x desc : Word32) : Word32 :=
  let p := desc.toNat % 32
  let w := min (min (desc.toNat / 256 % 64) 32) (32 - p)
  if w = 0 then 0
  else if signed then ((x >>> p).setWidth w).signExtend 32 else ((x >>> p).setWidth w).zeroExtend 32

def fieldInto (x desc : Word32) : Word32 :=
  let p := desc.toNat % 32
  let w := min (min (desc.toNat / 256 % 32) 16) (32 - p)
  let mask := ((1#32 <<< w) - 1) <<< p
  (x &&& ~~~mask) ||| (((desc >>> 16) <<< p) &&& mask)

/-- The union of the exceptions that the active lanes raise, NV DZ OF UF NX from bit 4 down; inactive lanes raise nothing. -/
def unionExc (lanes : Word32) (r : Nat → Word32 × Exc) : Exc :=
  (List.range 32).foldl (fun e j => if lanes.getLsbD j then e ||| (r j).2 else e) 0

/-- The exceptions raised whose enable bits %fmode[12:8] holds (R75, R76). -/
def enabled (l : Ladle) (e : Exc) : Exc := l.fmode.extractLsb' 8 5 &&& e

/-- %fmode with exceptions ORed into its flag bits [20:16]. -/
def flagged (m : Word32) (e : Exc) : Word32 := m ||| (e.zeroExtend 32 <<< 16)

/-- Apply(m, x) of R392 on a target that holds `m`, by the operation's code. -/
def redgResult (op : BitVec 3) (m : Nat) (x : Word64) : Nat :=
  match op.toNat with
  | 0 => (fop f32 .add .ne (m % 2 ^ 32) (x.toNat % 2 ^ 32) 0).1
  | 1 => (minMaxF32 true false (BitVec.ofNat 32 m) (x.setWidth 32)).1.toNat
  | 2 => (m + x.toNat) % 2 ^ 32
  | _ => (fop f64 .add .ne m x.toNat 0).1

/-- A floating lane instruction (R76): with no raised exception enabled, each active lane takes its result and the union of
the exceptions enters the flags; otherwise it has no effect and the arithmetic trap is taken (TrapEntry). -/
def FloatWrites (i : Instr) (s : State) (k : BitVec 3) (d : BitVec 6) (r : Nat → Word32 × Exc) : Prop :=
  let e := unionExc (lanesOf s.me k) r
  (enabled s.me e = 0 → Issues i s (fun l =>
    LanesWritten s.me l d (lanesOf s.me k) (fun j => (r j).1) ∧ l.fmode = flagged s.me.fmode e ∧
    l = { s.me.issued with v := l.v, replay := l.replay, fmode := l.fmode })) ∧
  (enabled s.me e ≠ 0 → exec i s = .next (s.takeTrap 3 (enabled s.me e).toNat .own))

/-- The issuing split can go on: its ladle is not stopped, and it is not blocked. -/
def Running (s : State) : Prop := s.me.stopped = false ∧ s.me.sp.blocked = .ready

/-- A pending result: its destination, the lookahead in every lane, the lanes it will write and their values. -/
def Awaits (p : Pending) (dest : Dest) (n : BitVec 4) (lanes : Word32) (vals : Nat → Word64) : Prop :=
  p.dest = dest ∧ (∀ j : Fin 32, p.counts[j] = n.toNat) ∧ p.lanes = lanes ∧ (∀ j, lanes.getLsbD j = true → p.laneVal j = vals j) ∧
  p.missing = 0 ∧ p.suspended = false ∧ p.fault = none

/-- A ladle changed by a long instruction without an access: its issue counted, its next word reached, and besides only
lane registers, %fmode, its pending results and its shadow's load-value queue. -/
def OnlyWindow (l l' : Ladle) : Prop :=
  l' = { l.issued.advance with v := l'.v, fmode := l'.fmode, pend := l'.pend, nextPend := l'.nextPend, shadow := l'.shadow }

/-- A long lane instruction with no other result pending (R56, R57). With lookahead 0 the results are in their lanes, and
their exceptions in the flags, before the next instruction; with lookahead n they wait for n instructions. With no active
lane it only issues. -/
def LongWrites (i : Instr) (s : State) (d : BitVec 6) (n : BitVec 4) (lanes : Word32) (r : Nat → Word32) (e : Exc) : Prop :=
  (lanes = 0 → Issues i s (fun l => l = s.me.issued)) ∧
  (lanes ≠ 0 → n = 0 → Completes i s (fun t => t = { s with me := t.me } ∧ SameBytes s t ∧ OnlyWindow s.me t.me ∧ t.me.pend = [] ∧
    LanesWritten s.me t.me d lanes r ∧ t.me.fmode = flagged s.me.fmode e)) ∧
  (lanes ≠ 0 → n ≠ 0 → Completes i s (fun t => t = { s with me := t.me } ∧ SameBytes s t ∧ OnlyWindow s.me t.me ∧
    (∃ p, t.me.pend = [p] ∧ Awaits p (.lane d) n lanes (fun j => (r j).setWidth 64) ∧ p.exceptions = e) ∧
    t.me.v = s.me.v ∧ t.me.fmode = s.me.fmode))

/-- The value of a special register by R112, for the issuing ladle and split. -/
def specialValue (s : State) (n : Nat) : Option Word64 :=
  let l := s.me
  let lane := ((List.range 32).find? (fun j => l.sp.mask.getLsbD j)).getD 32
  match n with
  | 0 => some (l.wid + BitVec.ofNat 64 lane)
  | 1 => some (BitVec.ofNat 64 lane)
  | 2 => some (BitVec.ofNat 64 l.rank)
  | 3 => some (BitVec.ofNat 64 l.core)
  | 4 => some (BitVec.ofNat 64 l.cluster)
  | 5 => some (BitVec.ofNat 64 (l.cluster / 32))
  | 6 => some (BitVec.ofNat 64 ((s.reg 0xc10).toNat % 1024))
  | 7 => some (BitVec.ofNat 64 l.index)
  | 8 => some (BitVec.ofNat 64 l.mould)
  | 9 => some (BitVec.ofNat 64 l.nladle)
  | 10 => some (BitVec.ofNat 64 (l.piPass * 2 ^ 16))
  | 11 => some l.tpc
  | 12 => some l.tvec
  | 13 => some l.tcause
  | 14 => some (BitVec.ofNat 64 l.fmode.toNat)
  | 15 => some (s.service + FMap.get 0 s.cyc (5 * l.cluster + l.core))
  | _ => none

/-- A uniform instruction whose value comes from outside the registers: it also enters the load-value queue of a trailing
shadow, and nothing else changes (R335). -/
def OutsideWrites (i : Instr) (s : State) (d : BitVec 6) (x : Word64) : Prop :=
  Issues i s (fun l => UniformWritten s.me l d x ∧ l = { s.me.issued with s := l.s, shadow := l.shadow })

/-- The instruction takes a casting fault (R154, R166): a record of its cause and address is on its way to the ready pool,
its ladle issues nothing more, and it has no other effect. -/
def Faults (i : Instr) (s : State) (c : Cause) : Prop :=
  exec i s = .next { s with
    me := { s.me with stopped := true },
    faults := s.faults ++ [{ casting := s.me.casting, cause := c, pc := s.me.sp.pc, rank := s.me.rank, cluster := s.me.cluster,
                             core := s.me.core }] }

/-- No result is pending and the ladle is running: an instruction that closes windows acts at once (R59). -/
def Settled (s : State) : Prop := Running s ∧ s.me.pend = []

/-- A ladle that has entered its trap handler (R156, R158): %tpc holds the instruction's address, %tcause its class and code
with M = 1 and L = 0, a permit is held, the split runs at the address in %tvec, every pending result and the running loop
are suspended, the count of the handler's instructions starts, unless a pre-emption counts them already (R175), and a trailing shadow enters
the handler too (R335); nothing else has changed. That the back-off wait put back to 64 is the ladle's is log 84. -/
def HandlerEntered (l l' : Ladle) (cls code : Nat) : Prop :=
  l'.tpc = l.sp.pc ∧
  l'.tcause = BitVec.ofNat 64 (2 ^ 63 + cls % 32 * 2 ^ 56 + code % 8192) ∧
  l'.permit = true ∧ l'.handlerActive = true ∧ l'.handlerIssued = (if l.deferred then l.handlerIssued else 0) ∧ l'.backoff = 64 ∧
  l'.sp = { l.sp with pc := BitVec.ofNat 64 (l.tvec.toNat / 4 % 2 ^ 55 * 4), handler := true, looping := false, cleared := false } ∧
  l'.pend = l.pend.map (fun p => { p with suspended := true }) ∧
  l'.loop = l.loop.map (fun b => { b with suspended := b.suspended || l.sp.looping }) ∧
  l'.shadow = l.shadow.map (fun x => { x with handler := true }) ∧
  l' = { l with tpc := l'.tpc, tcause := l'.tcause, permit := l'.permit, backoff := l'.backoff, handlerActive := l'.handlerActive,
                handlerIssued := l'.handlerIssued, pend := l'.pend, loop := l'.loop, sp := l'.sp, shadow := l'.shadow }

/-- Traps are unmasked, a handler is set, and a permit is held or free (R155 to R157); an issuing split has a slot (R26). -/
def MayTrap (s : State) : Prop :=
  s.me.tcause.getLsbD 63 = false ∧ s.me.tvec.toNat / 4 % 2 ^ 55 ≠ 0 ∧ s.permitFree = true ∧ s.me.sp.slot.isSome = true

/-- The trap of a long result's enabled exceptions with lookahead 0, at the landing point (R61, R76, R158, R160): no lane is written and no
flag set, %tpc names the next instruction, and %tcause says L = 1, no window and an offset of -1 word; a refused permit leaves the result
pending and its split backing off (R157). -/
def LandingTraps (i : Instr) (s : State) (lanes : Word32) (e : Exc) : Prop :=
  let next := s.me.sp.pc + 4
  let kept := fun (t : State) => t.me.v = s.me.v ∧ t.me.k = s.me.k ∧ t.me.fmode = s.me.fmode
  s.me.sp.looping = false → s.me.sp.mask &&& lanes ≠ 0 →
    (MayTrap s → Completes i s (fun t => t = { s with me := t.me } ∧ t.me.pend = [] ∧ kept t ∧ t.me.tpc = next ∧
      t.me.tcause = BitVec.ofNat 64 (2 ^ 63 + 3 * 2 ^ 56 + 2 ^ 47 + (2 ^ 25 - 1) * 2 ^ 22 + (enabled s.me e).toNat) ∧
      t.me.permit = true ∧ t.me.handlerActive = true ∧ t.me.sp.handler = true ∧
      t.me.sp.pc = BitVec.ofNat 64 (s.me.tvec.toNat / 4 % 2 ^ 55 * 4))) ∧
    (s.me.tcause.getLsbD 63 = true ∨ s.me.tvec.toNat / 4 % 2 ^ 55 = 0 → Completes i s (fun t =>
      t.me.pend = [] ∧ kept t ∧ t.me.stopped = true ∧ t = { s with me := t.me, faults := t.faults } ∧
      t.faults = s.faults ++ [{ casting := s.me.casting, cause := .unhandledTrap, pc := next, rank := s.me.rank, cluster := s.me.cluster,
                                core := s.me.core }])) ∧
    (s.me.tcause.getLsbD 63 = false → s.me.tvec.toNat / 4 % 2 ^ 55 ≠ 0 → s.permitFree = false → Completes i s (fun t =>
      t = { s with me := t.me } ∧ t.me.pend.length = 1 ∧ kept t ∧ t.me.sp.blocked = .backoff s.me.backoff ∧
      t.me.backoff = min (2 * s.me.backoff) 4096 ∧ t.me.sp.pc = next))

/-- The instruction takes an in-ladle trap by R157, R158 and R160: it enters the handler; or, with M set or no handler, it is
an unhandled-trap casting fault; or, with no permit free, its split parks and backs off, twice as long the next time. -/
def Traps (i : Instr) (s : State) (cls code : Nat) : Prop :=
  (MayTrap s → ∃ l, exec i s = .next { s with me := l } ∧ HandlerEntered s.me l cls code) ∧
  (s.me.tcause.getLsbD 63 = true ∨ s.me.tvec.toNat / 4 % 2 ^ 55 = 0 → Faults i s .unhandledTrap) ∧
  (s.me.tcause.getLsbD 63 = false → s.me.tvec.toNat / 4 % 2 ^ 55 ≠ 0 → s.permitFree = false →
    exec i s = .next { s with me := { (s.me.block (.backoff s.me.backoff)).fillSlots with backoff := min (2 * s.me.backoff) 4096 } })

/-- A wait that no program value decides: the package stays as it is, and the instruction issues again later. -/
def Waits (i : Instr) (s : State) : Prop := exec i s = .next s

/-- The issuing split issues the instruction and blocks, and a parked split may take its slot (R29). -/
def blocked (s : State) (b : Blocked) : State := s.mapMe (fun l => (l.issued.block b).fillSlots)

/-- No request of the package waits, of a ladle or of an engine, the issuing ladle has no trailing shadow, its core does not realign, and no matrix unit keeps what a
drain overwrote (R275), so an access is performed in its instruction's own step where its place can take it, and touches nothing else. -/
def Quiet (s : State) : Prop :=
  s.hold = false ∧ s.requests = [] ∧ s.standing = [] ∧ s.rehomed = [] ∧ s.retry = [] ∧ s.returning = [] ∧ s.me.shadow = none ∧
  s.retrains s.me.cluster s.me.core = false ∧ ∀ e ∈ s.matrix, e.2.olds = []

/-- Nothing waits on a word of a scratchpad: no split of a live ladle in `waita`, and no chain in WAITW. -/
def NoPadWaits (s : State) : Prop :=
  (∀ l ∈ s.me :: s.rest, ∀ x ∈ l.sp :: l.splits, ∀ u o w d, x.blocked ≠ .waitaPad u o w d) ∧
  ∀ e ∈ s.chains, ∀ c ∈ e.2, c.watch = none

/-- The instruction of the issuing split enters the comparison buffer with its outcome, and the split waits for the shadow (R335). -/
def Held (i : Instr) (s : State) (outcome : List Word64) : Prop :=
  exec i s = .next (s.mapMe (fun l => { l with
    shadow := l.shadow.map (fun x => { x with
      buffer := x.buffer ++ [{ order := x.count, pc := l.sp.pc, requests := [], outcome := outcome }], count := x.count + 1 }),
    sp := { l.sp with blocked := .comparing } }))

/-- In shadow placement an outward operation that makes no request is held with its outcome until that has been compared, and waits while
the buffer is full (R335). -/
def Compared (i : Instr) (s : State) (outcome : List Word64) : Prop :=
  ∀ x, s.me.shadow = some x → s.me.sp.cleared = false →
    (x.buffer.length < 16 → Held i s outcome) ∧ (16 ≤ x.buffer.length → exec i s = .next s)

/-- Requests on their way, numbered: one instruction's have one place in their ladle's order (R141). -/
def numbered (s : State) (rs : List Req) : List Req := rs.zipIdx.map (fun e => { e.1 with id := s.nextReq + e.2, order := s.nextReq })

/-- The instruction completes with its result pending and its requests on their way to their places (R56, R61, R141): the split goes
on to its next word, and besides the count of requests, the requests, and its casting's notes nothing else changes. -/
def OnItsWay (i : Instr) (s : State) (p : Pending) (rs : List Req) : Prop :=
  rs ≠ [] → Completes i s (fun t =>
    t = { s with me := t.me, nextReq := s.nextReq + rs.length, requests := s.requests ++ numbered s rs, castings := t.castings } ∧
    SameBytes s t ∧ ∃ q : Pending, q.dest = p.dest ∧ q.counts = p.counts ∧ q.lanes = p.lanes ∧ q.pc = s.me.sp.pc ∧ q.missing = rs.length ∧ q.fault = none ∧
      t.me = { s.me.issued.advance with pend := [q], nextPend := s.me.nextPend + 1 })

/-- The issuing ladle is the only one of its number, and has a scratchpad allocation. -/
def OwnPad (s : State) : Prop := (∀ l ∈ s.rest, l.uid ≠ s.me.uid) ∧ s.me.live = true ∧ 0 < s.me.pad.size

/-- No earlier access of the issuing ladle's scratchpad is unordered with an access of its own (R151). -/
def PadFree (s : State) : Prop := ∀ k w, (FMap.get Tag.none s.me.pad.tags k).races s.me.who true w = false

/-- The scratchpad address that lane `j` forms: all 64 bits of base, offset and AddressAdd (R51, R122, R132). -/
def padByte (l : Ladle) (a : BitVec 6) (sb : BitVec 5) (sc : BitVec 1) (n j : Nat) : Nat :=
  (l.getS (sb.zeroExtend 6) + BitVec.ofNat 64 ((laneAt (l.getV a) j).toNat * (if sc = 1 then n else 1)) + l.addressAdd).toNat

/-- Every lane's bytes lie in the allocation and are aligned (R132, R138). -/
def PadReach (l : Ladle) (k : BitVec 3) (a : BitVec 6) (sb : BitVec 5) (sc : BitVec 1) (n : Nat) : Prop :=
  ∀ j < 32, (l.accessLanes k).getLsbD j = true → padByte l a sb sc n j + n ≤ l.pad.size ∧ padByte l a sb sc n j % n = 0

/-- A ladle changed by an access to its own scratchpad alone: the window, race tags, and for a store the bytes. -/
def OnlyPad (l l' : Ladle) : Prop :=
  l' = { l.issued.advance with v := l'.v, s := l'.s, fmode := l'.fmode, pend := l'.pend, nextPend := l'.nextPend, shadow := l'.shadow,
                               pad := { l.pad with bytes := l'.pad.bytes, tags := l'.pad.tags } }

/-- Everything outside the issuing ladle but the count of requests, and what the banks remember of their grants (R150), is as before. -/
def OnlyMeAndCount (s t : State) : Prop := t = { s with me := t.me, nextReq := t.nextReq, bankLast := t.bankLast }

/-- The checks of a long access answered its requests: it is pending, and they are sent (R61, R141). -/
def Sends (i : Instr) (s : State) (outward : Bool) (p : Pending) (f : Option Nat → List Req) : Prop :=
  exec i s = .next (s.issueRequests outward p f)

/-- A stop found by the checks of an access that returns nothing is taken at the instruction; it makes no request. -/
def Stops (i : Instr) (s : State) (e : Stop) : Prop := exec i s = .next (s.stopAt e)

/-- A pair of lane registers takes the halves of `f j`, the even register low, in each lane `j` of a mask; the rest keeps. -/
def PairWritten (l l' : Ladle) (d : BitVec 6) (lanes : Word32) (f : Nat → Word64) : Prop :=
  (∀ j < 32, laneAt (l'.getV d) j = if lanes.getLsbD j then (f j).setWidth 32 else laneAt (l.getV d) j) ∧
  (∀ j < 32, laneAt (l'.getV (d + 1)) j = if lanes.getLsbD j then ((f j) >>> 32).setWidth 32 else laneAt (l.getV (d + 1)) j) ∧
  ∀ r, r ≠ d → r ≠ d + 1 → l'.getV r = l.getV r

/-- A long result has landed in its destination, and nowhere else. -/
def Landed (l l' : Ladle) (dest : Dest) (lanes : Word32) (f : Nat → Word64) : Prop :=
  match dest with
  | .lane d => LanesWritten l l' d lanes (fun j => (f j).setWidth 32) ∧ l'.s = l.s
  | .lanePair d => PairWritten l l' d lanes f ∧ l'.s = l.s
  | .uniform d => UniformWritten l l' d (f 0) ∧ l'.v = l.v
  | _ => False

/-- A load from the ladle's own scratchpad with no other result pending: the bytes stay, and the values land before the next
instruction with lookahead 0, and wait for `n` instructions with lookahead `n` (R57, R140). -/
def PadLoads (i : Instr) (s : State) (n : BitVec 4) (dest : Dest) (lanes : Word32) (f : Nat → Word64) : Prop :=
  Completes i s (fun t => OnlyMeAndCount s t ∧ SameBytes s t ∧ OnlyPad s.me t.me ∧ t.me.fmode = s.me.fmode ∧
    (n = 0 → t.me.pend = [] ∧ Landed s.me.issued.advance t.me dest lanes f) ∧
    (n ≠ 0 → (∃ p, t.me.pend = [p] ∧ Awaits p dest n lanes f) ∧ t.me.v = s.me.v ∧ t.me.s = s.me.issued.advance.s))

/-- A load that an address check stops, with lookahead 0: the fault is taken at the instruction's own address, where its result
would have landed, and no register is written (R61, R139). -/
def LandsFault (i : Instr) (s : State) (c : Cause) : Prop :=
  exec i s = .next { s with
    me := { s.me.issued.advance with nextPend := s.me.nextPend + 1, stopped := true },
    faults := s.faults ++ [{ casting := s.me.casting, cause := c, pc := s.me.sp.pc, rank := s.me.rank, cluster := s.me.cluster,
                             core := s.me.core }] }

/-- A store of `n` bytes from each lane of a mask to the ladle's own scratchpad. A byte that several lanes store holds the
highest lane's; every other byte of the scratchpad, and all of memory, reads as before (R140, R142). -/
def PadStores (i : Instr) (s : State) (lanes : Word32) (n : Nat) (at_ : Nat → Nat) (data : Nat → Word64) : Prop :=
  Completes i s (fun t => OnlyMeAndCount s t ∧
    t.me = { s.me.issued.advance with pad := { s.me.pad with bytes := t.me.pad.bytes, tags := t.me.pad.tags } } ∧
    ∀ x, t.me.pad.bytes.read x =
      match (List.range 32).reverse.find? (fun j => lanes.getLsbD j && decide (at_ j ≤ x) && decide (x < at_ j + n)) with
      | some j => BitVec.ofNat 8 ((data j).toNat / 256 ^ (x - at_ j))
      | none => s.me.pad.bytes.read x)

/-- In half placement the lanes of each pair that accesses memory agree on some registers (R336). -/
def PairsAgree (l : Ladle) (k : BitVec 3) (regs : List (BitVec 6)) : Prop :=
  l.half = true → ∀ j < 16, (l.accessLanes k).getLsbD j = true → ∀ r ∈ regs, laneAt (l.getV r) j = laneAt (l.getV r) (j + 16)

/-- A load word by the outcome of its checks `r`: with no lane it only issues; requests are sent for the operands found, and
the result is pending; where requests wait for their slots, they are then all that is under way; a fault waits for the landing
point; a page walk blocks the split and the instruction is repeated. -/
def LoadWord {α : Type} (i : Instr) (s : State) (regs : List (BitVec 6)) (lanes : Word32) (p : Pending) (r : Except Stop α)
    (mk : α → Option Nat → List Req) : Prop :=
  Legal s.me regs →
    (lanes = 0 → Issues i s (fun l => l = s.me.issued)) ∧
    (lanes ≠ 0 → (∀ ops, r = .ok ops → Sends i s false p (mk ops)) ∧
      (s.hold = true → s.me.shadow = none → s.me.pend = [] → ∀ ops, r = .ok ops → OnItsWay i s p (s.spread (mk ops (some p.id)))) ∧
      (∀ c, r = .error (.fault c) → exec i s = .next (s.issueLong { p with fault := some c })) ∧
      (∀ va kind, r = .error (.walk va kind) → exec i s = .next (s.awaitWalk va kind)))

/-- The same for a word that returns nothing: a fault is taken at the instruction. -/
def StoreWord {α : Type} (i : Instr) (s : State) (k : BitVec 3) (regs data : List (BitVec 6)) (r : Except Stop α)
    (note : State → List Req → State) (mk : α → List Req) : Prop :=
  Legal s.me regs →
    (s.me.accessLanes k = 0 → Issues i s (fun l => l = s.me.issued)) ∧
    (s.me.accessLanes k ≠ 0 → ¬ PairsAgree s.me k data → Faults i s .checkMismatch) ∧
    (s.me.accessLanes k ≠ 0 → PairsAgree s.me k data →
      (∀ ops, r = .ok ops → exec i s = .next ((note s (mk ops)).issueStores (mk ops))) ∧
      (∀ c, r = .error (.fault c) → Faults i s c) ∧
      (∀ va kind, r = .error (.walk va kind) → exec i s = .next (s.awaitWalk va kind)))

/-- No slice holds a replica tile. -/
def NoReplicas (s : State) : Prop := ∀ n, (s.sliceOf n).replicas = []

/-- Every byte of memory outside a list reads as before. -/
def SameOutside (s t : State) (bytes : List Nat) : Prop := ∀ a, a ∉ bytes → t.mem.read a = s.mem.read a

/-- The little-endian number in some bytes. -/
def numberIn (read : Nat → Byte) (bytes : List Nat) : Nat := bytes.foldr (fun b acc => (read b).toNat + 256 * acc) 0

/-- An operand of raw bytes: `n` whole bytes, from bit 0. -/
def RawOp (o : LaneOp) (n : Nat) : Prop := o.scale = none ∧ o.bytes.length = n ∧ o.bytes.Nodup ∧ o.bit = 0 ∧ o.width = 8 * n

/-- A request on HBM at its slot, where every byte of its one operand, in its tile, is homed, not through a replica; the slice does not
hold the answer back. -/
def AtHome (s : State) (r : Req) (n : Nat) (o : LaneOp) : Prop :=
  r.place = .slice n ∧ r.replica = false ∧ r.late = [] ∧ r.undo = [] ∧ r.ops = [o] ∧
  (∀ b ∈ o.bytes, isHbm b = true ∧ s.homeOf b = n ∧ tileOf b = r.tile) ∧
  o.bytes ≠ [] ∧ NoReplicas s ∧ ∀ w, s.requestPoisoned r w = false

/-- The floating format of an element, and its code in that format: a C4 element stands for the codebook entry of its code (R246). -/
def elemFloat (s : State) (part : Nat) (d : Desc) (code : Nat) : FloatFmt × Nat :=
  match d.fmt with
  | 2 => (bf16, code)
  | 3 => (f16, code)
  | 4 => (f8e4, code)
  | 5 => (f8e5, code)
  | 6 => (f6e3, code)
  | 7 => (f4e2, code)
  | _ => (bf16, (s.bookEntry part d.codebook code).toNat)

/-- What a load of an element gives its lane, by the table of R142, for the element's code and its block's scale byte. That an F32 NaN gives
the canonical NaN is log 74. -/
def ElemLoaded (s : State) (part : Nat) (o : LaneOp) (scale : Option Nat) (code : Nat) (x : Word32) : Prop :=
  let d := s.desc part o.desc
  let f := elemFloat s part d code
  (d.fmt = 0 → x = BitVec.ofNat 32 code) ∧
  (d.fmt = 1 → x = if (f32.decode code).isNan then 0x7fc00000#32 else BitVec.ofNat 32 code) ∧
  (2 ≤ d.fmt → d.fmt ≤ 8 → scale = none → x = (cvtWiden f.1 f.2).1) ∧
  (2 ≤ d.fmt → d.fmt ≤ 8 → scale = some 255 → x = 0x7fc00000#32) ∧
  (2 ≤ d.fmt → d.fmt ≤ 8 → ∀ e, e < 255 → scale = some e →
    x = BitVec.ofNat 32 (f32.round .ne ((f.1.decode f.2).scale ((e : Int) - 127)) false).1) ∧
  (d.fmt = 9 ∨ d.fmt = 10 → x = BitVec.ofInt 32 (if code < 2 ^ (o.width - 1) then (code : Int) else (code : Int) - 2 ^ o.width))

/-- The code that a store of an element writes for a lane's value, by the table of R142; in C4 the code that R246 chooses. -/
def ElemStored (s : State) (part : Nat) (o : LaneOp) (scale : Option Nat) (x : Word32) (code : Nat) : Prop :=
  let d := s.desc part o.desc
  let f := (elemFloat s part d 0).1
  (d.fmt ≤ 1 → code = x.toNat) ∧
  (2 ≤ d.fmt → d.fmt ≤ 7 → scale = none → code = (cvtNarrow f .ne x).1.toNat) ∧
  (4 ≤ d.fmt → d.fmt ≤ 7 → scale = some 255 → code = if d.fmt = 4 then 0x7f else if d.fmt = 5 then 0x7e else 0) ∧
  (4 ≤ d.fmt → d.fmt ≤ 7 → ∀ e, e < 255 → scale = some e → code = (f.round .ne ((f32.decode x.toNat).scale (127 - (e : Int))) false).1) ∧
  (d.fmt = 8 → code = bookCode (s.bookEntry part d.codebook) (match scale with
    | none => f32.decode x.toNat
    | some e => if e = 255 then .nan false else (f32.decode x.toNat).scale (127 - (e : Int)))) ∧
  (d.fmt = 9 ∨ d.fmt = 10 → code = (satSigned o.width x.toInt).toNat)

/-- An operand of one element: as many bits as its format has, within its bytes. -/
def ElemOp (s : State) (part : Nat) (o : LaneOp) : Prop :=
  (s.desc part o.desc).fmt ≤ 10 ∧ o.width = fmtBits (s.desc part o.desc).fmt ∧ o.bytes.Nodup ∧ o.bit + o.width ≤ 8 * o.bytes.length

/-- A global long load: pending, with nothing landed. -/
def globalPending (s : State) (dest : Dest) (n : BitVec 4) (k : BitVec 3) (g : Bool) : Pending :=
  { s.me.newPending dest n (s.me.loadLanes k) (List.replicate 32 0) with globalLoad := g }

/-- The byte an instruction on distance names first, and the bytes of its `m` tiles, lowest first (R215). -/
def firstTile (s : State) (a b : BitVec 6) : Nat := (s.me.getS a).toNat % 2 ^ 57 + (s.me.getS b).toNat
def tilesNamed (s : State) (a b : BitVec 6) (m : Nat) : List Nat :=
  if m = 0 then [] else firstTile s a b :: (List.range (m - 1)).map (fun i => firstTile s a b / 256 * 256 + 256 * (i + 1))

/-- The range is legal: bits [62:57] of the base zero, at most 4,096 tiles, all below 2^57 (R215). -/
def RangeLegal (s : State) (a b : BitVec 6) (m : Nat) : Prop :=
  (s.me.getS a).toNat / 2 ^ 57 % 64 = 0 ∧ m ≤ 4096 ∧ (m = 0 ∨ firstTile s a b / 256 * 256 + 256 * m ≤ 2 ^ 57)

/-- A range word: an illegal range is an address fault; every tile is translated before any request; then one request for each
tile that has a place, in increasing address order (R215, R216). -/
def RangeWord (i : Instr) (s : State) (a b : BitVec 6) (m : Nat) (kind : AccessKind) (req : ReqKind) (note : State → State)
    (place : Nat × Leaf → Option (Place × Bool)) : Prop :=
  (¬ RangeLegal s a b m → Faults i s .address) ∧
  (RangeLegal s a b m → ∀ ps, checkAll (fun va => s.physical s.me.who va kind) (tilesNamed s a b m) = .ok ps →
    exec i s = .next (((note s).done (fun l => l)).submitAll
      (ps.filterMap (fun p => (place p).map (fun q => { tileReq s.me.who req q none p.1 with ranged := true })))))

/-- A word has joined its cluster's matrix queue at its end, in the open batch, with what it captures (R270, R288): the ladle is now
`me`, and besides the count of requests and what `f` does to the matrix state nothing else has changed. -/
def Joins (i : Instr) (s : State) (addr x y : Word64) (me : Ladle) (f : Matrix → Matrix) : Prop :=
  let c := s.me.cluster
  let m := s.mat c
  Completes i s (fun t =>
    t = { s with me := me, matrix := t.matrix, nextReq := s.nextReq + 1 } ∧ (∀ c', c' ≠ c → t.mat c' = s.mat c') ∧
    t.mat c = f { m with
      opened := m.opened + 1,
      queue := m.queue ++ [{ instr := i, addr := addr, src1 := x, src2 := y, pc := s.me.sp.pc, batch := m.closed + 1,
                             started := false, steps := 0, after := s.nextReq, add := s.me.addressAdd }] })

/-- A matrix or residue word at issue (R49, R270, R288): a fault off a control core, a wait while the queue holds 32, and else a
new entry of the queue; the ladle goes on to its next word. -/
def QueuesWord (i : Instr) (s : State) (addr x y : Word64) : Prop :=
  (s.me.control = false → Faults i s .illegal) ∧
  (s.me.control = true → 32 ≤ (s.mat s.me.cluster).queue.length → Waits i s) ∧
  (s.me.control = true → (s.mat s.me.cluster).queue.length < 32 → Joins i s addr x y s.me.issued.advance id)

/-- The word at the head of a cluster's matrix queue, for the control ladle its unit works for (R270, R302). -/
def MatrixHead (s : State) (c : Nat) (l : Ladle) (e : QEntry) (r : List QEntry) : Prop :=
  s.controlLadle c = some l ∧ l.cluster = c ∧ (s.mat c).queue = e :: r ∧ s.unitRuns l = true ∧ s.stuck l.casting e.after = false ∧
  s.wordPaused l e = false

/-- The entry that a chain stands at: it may go on, no column it crosses realigns, and it holds the words of an entry of that kind. -/
def EntryAt (s : State) (cluster n : Nat) (l : Ladle) (c : Chain) (w : List Word64) (kind : Nat) : Prop :=
  s.chainAt cluster n = some (l, c) ∧ s.chainPaused l c = false ∧ c.entry = w ∧ w ≠ [] ∧ entryKind w = kind

/-- No other request waits at a bank: an engine's request is granted at once (R150). -/
def BanksFree (s : State) : Prop := s.requests = [] ∧ s.standing = []

/-- Everything but the chains of the package, and what the banks remember of their grants (R150), is as before. -/
def OnlyChain (s t : State) : Prop := t = { s with chains := t.chains, bankLast := t.bankLast }

/-- Chain `n` of a cluster has become `c`, and the other chains of the package are as before. -/
def ChainIs (s t : State) (cluster n : Nat) (c : Chain) : Prop :=
  t.chainList cluster = (s.chainList cluster).set n c ∧ ∀ k, k ≠ cluster → t.chainList k = s.chainList k

/-- The issuing ladle is live, and the only one of its number. -/
def Alone (s : State) : Prop := s.me.live = true ∧ ∀ l ∈ s.rest, l.uid ≠ s.me.uid

/-- The issuing split, blocked in an instruction, goes on at the word after it. -/
def GoesOn (l l' : Ladle) : Prop := l'.sp.blocked = .ready ∧ l'.sp.pc = l.sp.pc + 4 ∧ l'.sp.mask = l.sp.mask ∧ l'.v = l.v ∧ l'.k = l.k

/-- It goes on with a value in its destination. -/
def WakesWith (i : Instr) (s : State) (d : BitVec 6) (x : Word64) : Prop :=
  Completes i s (fun t => GoesOn s.me t.me ∧ UniformWritten s.me t.me d x ∧ t.mem = s.mem ∧ t.slices = s.slices)

/-- The word of a `waita` meets its condition: nonzero, or in the .ne forms different from the value at issue (R397). -/
def Meets (old : Option Word32) (x : Word32) : Prop := match old with | none => x ≠ 0 | some y => x ≠ y

/-- A report of a fault of the issuing ladle is on its way, and the ladle issues nothing more. -/
def Reported (s t : State) (c : Cause) (pc : Word64) : Prop :=
  t.faults = s.faults ++ [{ casting := s.me.casting, cause := c, pc := pc, rank := s.me.rank, cluster := s.me.cluster, core := s.me.core }] ∧
  t.me.stopped = true

/-- The event changes nothing: its condition does not hold. -/
def Idles (i : Instr) (s : State) : Prop := exec i s = .next s

/-- The only casting of a number. -/
def TheCasting (s : State) (c : Casting) : Prop := s.casting? c.uid = some c ∧ ∀ d ∈ s.castings, d.uid = c.uid → d = c

/-- The casting has become `d`, and the other castings are as before. -/
def CastingIs (s t : State) (c d : Casting) : Prop :=
  d ∈ t.castings ∧ (∀ e ∈ t.castings, e.uid = c.uid → e = d) ∧ ∀ e ∈ s.castings, e.uid ≠ c.uid → e ∈ t.castings

/-- The casting has left the pool, and the other castings are as before. -/
def CastingGone (s t : State) (c : Casting) : Prop := ∀ e : Casting, e ∈ t.castings ↔ (e ∈ s.castings ∧ e.uid ≠ c.uid)

/-- Eight bytes at an address hold a value, little-endian (R5); every other byte of memory reads as before. -/
def Stores64 (s t : State) (pa : Nat) (x : Word64) : Prop :=
  (∀ i < 8, t.mem.read (pa + i) = BitVec.ofNat 8 (x.toNat / 256 ^ i)) ∧ ∀ a, (a < pa ∨ pa + 8 ≤ a) → t.mem.read a = s.mem.read a

/-- No function raises an interrupt. -/
def NoInterrupt (s t : State) : Prop := t.msix = s.msix ∧ t.msixPending = s.msixPending

/-- A function raises a vector on a link (R413, R414): the message is sent where the function's MSI-X is enabled and neither the function nor
the vector is masked; else the vector's pending bit is set. A vector is masked at reset (log 77). -/
def Raises (s t : State) (link f v : Nat) : Prop :=
  let enable := FMap.get (false, false) s.msixEnable (link * 32 + f)
  let key := (link * 32 + f) * 64 + v
  let masked := enable.2 || (FMap.get (0, 0x100000000) s.msixTable key).2.getLsbD 32
  (enable.1 = true ∧ masked = false → t.msix = s.msix ++ [(f, v, link)] ∧ t.msixPending = s.msixPending) ∧
  (enable.1 = false ∨ masked = true → t.msix = s.msix ∧ ∀ k, FMap.get false t.msixPending k = (decide (k = key) || FMap.get false s.msixPending k))

/-- A casting as it stands when its ladles have entered a cluster (R359). -/
def Placed (s : State) (c : Casting) (x : Nat) : Prop :=
  c.state = .resident ∧ c.cluster = x ∧ c.dispatchNo = s.lastCommit

/-- The entry state of a ladle of rank `r` (R23, R24): every register that R23 names, and all others zero. -/
def AtEntry (l : Ladle) (g : Graph) (m : Mould) (index : Nat) : Prop :=
  l.sp.pc = m.code ∧ l.splits = [] ∧ l.sp.blocked = .ready ∧ l.tpc = 0 ∧ l.tvec = 0 ∧ l.tcause = 0 ∧ l.fmode = 0 ∧ l.pend = [] ∧ l.loop = none ∧
  l.permit = false ∧ l.ext = false ∧ (∀ n : Fin 8, l.getS (BitVec.ofNat 6 n) = g.args.get n) ∧ l.getS 8 = BitVec.ofNat 64 index ∧
  l.getS 9 = BitVec.ofNat 64 (index * 2 ^ (5 + m.w1) + 32 * l.rank) ∧ (∀ r : BitVec 6, 10 ≤ r.toNat → l.getS r = 0) ∧
  l.k = Vector.replicate 8 0 ∧ l.piPass = 0 ∧ l.bv = Vector.replicate 4 0 ∧ l.pad.bytes = [] ∧
  (l.control = true → l.sp.mask = 1 ∧ l.pad.size = 0) ∧
  (l.control = false → l.sp.mask = 0xffffffff ∧ l.pad.size = 4096 * ((m.scratch + 4095) / 4096) ∧
    ∀ j < 32, let id : Word64 := BitVec.ofNat 64 (index * 2 ^ (5 + m.w1) + 32 * l.rank) + BitVec.ofNat 64 (if l.half then j % 16 else j)
      laneAt (l.getV 0) j = id.setWidth 32 ∧ laneAt (l.getV 1) j = id.extractLsb' 32 32 ∧
      ∀ r : BitVec 6, 2 ≤ r.toNat → laneAt (l.getV r) j = 0)

/-! ### Vocabulary of floating point, in exact rational numbers -/

/-- A datum is a number, and the number it is. -/
def IsNumber (x : Machine.Num) : Prop := x.isNan = false ∧ x.isInf = false
def valueOf (x : Machine.Num) : ℚ :=
  match x with
  | .fin neg m e => (if neg then -1 else 1) * (m : ℚ) * (2 : ℚ) ^ e
  | _ => 0

/-- Data other than NaNs by their real order, with -0 equal to +0 and the infinities outermost. -/
def extValue (x : Machine.Num) : WithBot (WithTop ℚ) :=
  match x with
  | .inf true => ⊥
  | .inf false => ((⊤ : WithTop ℚ) : WithBot (WithTop ℚ))
  | y => ((valueOf y : WithTop ℚ) : WithBot (WithTop ℚ))

/-- The numbers with a significand of a format's width and an exponent of at least `low`, without an upper bound. -/
def OnGrid (f : FloatFmt) (low : Int) (v : ℚ) : Prop := ∃ (k : Nat) (q : Int), k < 2 ^ (f.fb + 1) ∧ low ≤ q ∧ |v| = (k : ℚ) * (2 : ℚ) ^ q

/-- Such a number with an even significand. -/
def EvenOn (f : FloatFmt) (low : Int) (v : ℚ) : Prop :=
  ∃ (k : Nat) (q : Int), k < 2 ^ (f.fb + 1) ∧ low ≤ q ∧ (q = low ∨ 2 ^ f.fb ≤ k) ∧ k % 2 = 0 ∧ |v| = (k : ℚ) * (2 : ℚ) ^ q

/-- `r` is the number `x` rounded in a mode: to the nearest, a tie to the even significand or away from zero; or toward zero, up, down. -/
def Rounded (f : FloatFmt) (low : Int) (mode : Round) (x r : ℚ) : Prop :=
  OnGrid f low r ∧ ∀ v, OnGrid f low v →
    match mode with
    | .ne => |x - r| ≤ |x - v| ∧ (|x - r| = |x - v| → v = r ∨ EvenOn f low r)
    | .na => |x - r| ≤ |x - v| ∧ (|x - r| = |x - v| → |v| ≤ |r|)
    | .tz => 0 ≤ x * r ∧ |r| ≤ |x| ∧ (|v| ≤ |x| → |v| ≤ |r|)
    | .up => x ≤ r ∧ (x ≤ v → r ≤ v)
    | .dn => r ≤ x ∧ (v ≤ x → v ≤ r)

/-- The code and the exceptions of a number `x` of sign `neg`, rounded once to a format (R76, R78, R90, R97, R98): the rounded number, with NX
where it differs and UF where it does and is tiny after rounding with an exponent without bound; above the greatest number of the format, an
infinity where the format has one and the mode leads there, and else that greatest number, with OF and NX. -/
def RoundsTo (f : FloatFmt) (mode : Round) (neg : Bool) (x : ℚ) (c : Nat × Exc) : Prop :=
  let top := valueOf (f.decode f.maxCode)
  ∃ r, Rounded f f.qmin mode x r ∧
    (|r| ≤ top → c.1 < 2 ^ (1 + f.eb + f.fb) ∧ (∃ m e, f.decode c.1 = .fin neg m e) ∧ valueOf (f.decode c.1) = r ∧
      c.2 &&& (excNV ||| excDZ ||| excOF) = 0 ∧ (c.2 &&& excNX ≠ 0 ↔ r ≠ x) ∧ (x = 0 → c.2 = 0) ∧
      (x ≠ 0 → ∃ (low : Int) (t : ℚ), low ≤ f.qmin ∧ (2 : ℚ) ^ (low + f.fb) ≤ |x| ∧ Rounded f low mode x t ∧
        (c.2 &&& excUF ≠ 0 ↔ r ≠ x ∧ |t| < (2 : ℚ) ^ (f.qmin + f.fb)))) ∧
    (top < |r| →
      let out := mode = .ne ∨ mode = .na ∨ (mode = .up ∧ neg = false) ∨ (mode = .dn ∧ neg = true)
      (f.kind = .ieee → out → c = (f.signed neg f.infCode, excOF ||| excNX)) ∧
      (f.kind ≠ .ieee ∨ ¬ out → c = (f.signed neg f.maxCode, excOF ||| excNX)))

/-- `n` is the number `x` rounded to an integer in a mode. -/
def RoundedInt (mode : Round) (x : ℚ) (n : Int) : Prop :=
  match mode with
  | .ne => |x - n| ≤ 1 / 2 ∧ (|x - n| = 1 / 2 → n % 2 = 0)
  | .na => |x - n| ≤ 1 / 2 ∧ (|x - n| = 1 / 2 → |x| ≤ |(n : ℚ)|)
  | .tz => 0 ≤ x * n ∧ |(n : ℚ)| ≤ |x| ∧ |x| < |(n : ℚ)| + 1
  | .up => x ≤ n ∧ (n : ℚ) < x + 1
  | .dn => (n : ℚ) ≤ x ∧ x < n + 1

/-- The sum of two terms, each known as infinite or not, by its sign: what infinities make of it. -/
def InfinitySum (f : FloatFmt) (bad : Prop) (i j : Bool) (p q : Bool) (c : Nat × Exc) : Prop :=
  (bad ∨ (i = true ∧ j = true ∧ p ≠ q) → c = (f.nanCode, excNV)) ∧
  (¬ bad → ¬ (i = true ∧ j = true ∧ p ≠ q) → i = true ∨ j = true → c = (f.signed (if i then p else q) f.infCode, 0))

/-- The sign of a result that is a number: its own, and for zero that of two equal signs, else + but toward -∞ (R90). -/
def resultSign (mode : Round) (v : ℚ) (p q : Bool) : Bool := if v ≠ 0 then decide (v < 0) else if p = q then p else decide (mode = .dn)

/-- What an operation of R90 gives, by IEEE 754-2019: the exact value rounded once, infinities, and NaNs. `x`, `y`, `z` are the data of the
three operands; only a fused operation uses the third. -/
def OperationGives (f : FloatFmt) (op : FOp) (mode : Round) (x y z : Machine.Num) (c : Nat × Exc) : Prop :=
  let fused := op = .fma ∨ op = .fms
  let single := op = .add ∨ op = .sub
  let prod := x.isNeg != y.isNeg
  let exact : ℚ := match op with
    | .add => valueOf x + valueOf y
    | .sub => valueOf x - valueOf y
    | .mul => valueOf x * valueOf y
    | .fma => valueOf x * valueOf y + valueOf z
    | .fms => valueOf x * valueOf y - valueOf z
  let signs : Bool × Bool := match op with
    | .add => (x.isNeg, y.isNeg)
    | .sub => (x.isNeg, !y.isNeg)
    | .mul => (prod, prod)
    | .fma => (prod, z.isNeg)
    | .fms => (prod, !z.isNeg)
  let infs : Bool × Bool := match op with
    | .add => (x.isInf, y.isInf)
    | .sub => (x.isInf, y.isInf)
    | .mul => (x.isInf || y.isInf, false)
    | .fma => (x.isInf || y.isInf, z.isInf)
    | .fms => (x.isInf || y.isInf, z.isInf)
  let zeroTimesInf := ¬ single ∧ ((x.isInf = true ∧ y.isZero = true) ∨ (x.isZero = true ∧ y.isInf = true))
  let nan := x.isNan = true ∨ y.isNan = true ∨ (fused ∧ z.isNan = true)
  let signalling := x.isSignalling = true ∨ y.isSignalling = true ∨ (fused ∧ z.isSignalling = true)
  (nan → c.1 = f.nanCode ∧ (signalling ∨ zeroTimesInf → c.2 = excNV) ∧ (¬ signalling → ¬ zeroTimesInf → c.2 = 0)) ∧
  (¬ nan → InfinitySum f zeroTimesInf infs.1 infs.2 signs.1 signs.2 c) ∧
  (IsNumber x → IsNumber y → (fused → IsNumber z) → RoundsTo f mode (resultSign mode exact signs.1 signs.2) exact c)

end Sys2Proof.Spec

open Sys2Proof Sys2Proof.Machine Sys2Proof.Spec

/-! ### Lane instructions: integers, masks, immediates (R79 to R89) -/

/-- R79: each integer operation in each active lane, exact on integers and then reduced, clamped or cut. -/
def Obligations.LaneIntegerArithmetic : Prop :=
  ∀ (s : State) (k : BitVec 3) (h : BitVec 2) (d a b : BitVec 6), Legal s.me [d, a, b] →
    let op := fun i f => LaneWrites2 i s k d a b f
    op (.iaddI32 k h d a b) (fun x y => BitVec.ofNat 32 (x.toNat + y.toNat)) ∧
    op (.iaddSatI32 k h d a b) (fun x y => satSigned 32 (x.toInt + y.toInt)) ∧
    op (.iaddSatN32 k h d a b) (fun x y => satUnsigned 32 ((x.toNat : Int) + y.toNat)) ∧
    op (.isubI32 k h d a b) (fun x y => BitVec.ofInt 32 ((x.toNat : Int) - y.toNat)) ∧
    op (.isubSatI32 k h d a b) (fun x y => satSigned 32 (x.toInt - y.toInt)) ∧
    op (.isubSatN32 k h d a b) (fun x y => satUnsigned 32 ((x.toNat : Int) - y.toNat)) ∧
    op (.imulLo k h d a b) (fun x y => BitVec.ofNat 32 (x.toNat * y.toNat)) ∧
    op (.imulHiI32 k h d a b) (fun x y => highHalf 32 (x.toInt * y.toInt)) ∧
    op (.imulHiN32 k h d a b) (fun x y => highHalf 32 ((x.toNat : Int) * y.toNat)) ∧
    LaneWrites (.imad k h d a b) s k d (fun j => BitVec.ofNat 32
      ((laneAt (s.me.getV a) j).toNat * (laneAt (s.me.getV b) j).toNat + (laneAt (s.me.getV d) j).toNat)) ∧
    op (.iminI32 k h d a b) (fun x y => BitVec.ofInt 32 (min x.toInt y.toInt)) ∧
    op (.imaxI32 k h d a b) (fun x y => BitVec.ofInt 32 (max x.toInt y.toInt)) ∧
    op (.iminN32 k h d a b) (fun x y => BitVec.ofNat 32 (min x.toNat y.toNat)) ∧
    op (.imaxN32 k h d a b) (fun x y => BitVec.ofNat 32 (max x.toNat y.toNat)) ∧
    op (.and k h d a b) (fun x y => x &&& y) ∧
    op (.or k h d a b) (fun x y => x ||| y) ∧
    op (.xor k h d a b) (fun x y => x ^^^ y) ∧
    op (.andn k h d a b) (fun x y => x &&& ~~~y)

/-- R80 to R82, R87 to R89: shifts by any amount, counts, and bit fields; immediates and moves. -/
def Obligations.LaneShiftsFieldsAndMoves : Prop :=
  (∀ (s : State) (k : BitVec 3) (h : BitVec 2) (d a b : BitVec 6), Legal s.me [d, a, b] →
      let op := fun i f => LaneWrites2 i s k d a b f
      let op1 := fun i f => LaneWrites1 i s k d a f
      op (.shl k h d a b) (fun x y => shifted 0 x y.toNat) ∧
      op (.shr k h d a b) (fun x y => shifted 1 x y.toNat) ∧
      op (.sha k h d a b) (fun x y => shifted 2 x y.toNat) ∧
      op (.rot k h d a b) (fun x y => shifted 3 x y.toNat) ∧
      op1 (.clz k h d a) leading ∧
      op1 (.popc k h d a) setBits ∧
      op1 (.brev k h d a) BitVec.reverse ∧
      op1 (.ffs k h d a) lowestSet ∧
      op (.bfxI32 k h d a b) (fieldOf true) ∧
      op (.bfxN32 k h d a b) (fieldOf false) ∧
      op (.bfi k h d a b) fieldInto) ∧
  (∀ (s : State) (k q : BitVec 3) (h t : BitVec 2) (d a : BitVec 6) (i : BitVec 10) (w : BitVec 16) (n : BitVec 5),
      Legal s.me [d, a] →
      let op := fun i f => LaneWrites1 i s k d a f
      let imm : Word32 := i.signExtend 32
      op (.iaddi k d a i) (fun x => BitVec.ofInt 32 ((x.toNat : Int) + i.toInt)) ∧
      op (.imuli k d a i) (fun x => BitVec.ofInt 32 ((x.toNat : Int) * i.toInt)) ∧
      op (.andi k d a i) (fun x => x &&& imm) ∧
      op (.ori k d a i) (fun x => x ||| imm) ∧
      op (.xori k d a i) (fun x => x ^^^ imm) ∧
      op (.shifti k d a t n) (fun x => shifted t.toNat x n.toNat) ∧
      LaneWrites (.movi k d w) s k d (fun _ => BitVec.ofNat 32 w.toNat) ∧
      LaneWrites (.movhi k d w) s k d (fun j => BitVec.ofNat 32 (w.toNat * 65536 + (laneAt (s.me.getV d) j).toNat % 65536)) ∧
      op (.mov k h d a) (fun x => x) ∧
      LaneWrites (.movBroadcast k h d a) s k d (fun _ => (s.me.getS a).setWidth 32) ∧
      LaneWrites (.movFromMask k h d q) s k d (fun j => BitVec.ofNat 32 ((s.me.getK q).getLsbD j).toNat)) ∧
  decodeWord 0x12045187 = .ok (.bfxN32 0 0 5 6 7) ∧ decodeWord 0x26051203 = .ok (.shifti 0 5 4 2 3) ∧ decodeWord 0x2c063f80 = .ok (.movhi 0 6 0x3f80)

/-- R83 to R86: comparisons and mask operations write the destination mask in every lane of the split, whatever the
predicate; `sel` writes every lane of the split. -/
def Obligations.LaneMasksAndSelection : Prop :=
  ∀ (s : State) (k qa qb f3 : BitVec 3) (h f : BitVec 2) (d a b : BitVec 6) (i : BitVec 10), Legal s.me [d, a, b] →
    let x := fun j => laneAt (s.me.getV a) j
    let y := fun j => laneAt (s.me.getV b) j
    let ci := fun (c : Nat) (x y : Word32) =>
      match c with
      | 0 => decide (x = y)
      | 1 => decide (x ≠ y)
      | 2 => decide (x.toInt < y.toInt)
      | 3 => decide (x.toInt ≤ y.toInt)
      | 4 => decide (x.toInt > y.toInt)
      | 5 => decide (x.toInt ≥ y.toInt)
      | 6 => decide (x.toNat < y.toNat)
      | _ => decide (x.toNat ≥ y.toNat)
    MaskWrites (.icmp k h f a b) s k (fun j => ci f.toNat (x j) (y j)) ∧
    MaskWrites (.icmpn k h f a b) s k (fun j =>
      match f.toNat with
      | 0 => decide ((x j).toNat < (y j).toNat)
      | 1 => decide ((x j).toNat ≤ (y j).toNat)
      | 2 => decide ((x j).toNat > (y j).toNat)
      | _ => decide ((x j).toNat ≥ (y j).toNat)) ∧
    MaskWrites (.icmpi k f3 a i) s k (fun j => ci f3.toNat (x j) (i.signExtend 32)) ∧
    MaskWrites (.kand k h qa qb) s k (fun j => (s.me.getK qa).getLsbD j && (s.me.getK qb).getLsbD j) ∧
    MaskWrites (.kor k h qa qb) s k (fun j => (s.me.getK qa).getLsbD j || (s.me.getK qb).getLsbD j) ∧
    MaskWrites (.kxor k h qa qb) s k (fun j => (s.me.getK qa).getLsbD j != (s.me.getK qb).getLsbD j) ∧
    MaskWrites (.kandn k h qa qb) s k (fun j => (s.me.getK qa).getLsbD j && !(s.me.getK qb).getLsbD j) ∧
    Issues (.sel k h d a b) s (fun l =>
      LanesWritten s.me l d s.me.sp.mask (fun j => if (s.me.getK k).getLsbD j then x j else y j) ∧ OnlyLanes s.me l) ∧
    decodeWord 0x18c04146 = .ok (.sel 3 0 4 5 6)

/-! ### Lane instructions: floating point (R90 to R99) -/

/-- R76, R90, R91, R94 to R96: the floating operations, each lane by its own operands, in the rounding mode %fmode holds or the word names;
the union of the exceptions sets flags or traps. The values (the exact result rounded once, real order, NaNs) are stated in NumberFormats.
R92: `fcmp` writes the mask in every lane of the split, and an enabled NV is decided over all of them. R93: the sign operations and `fclass`
work on bits and raise nothing, even for signalling NaNs; a class mask has exactly one bit, which R93's table gives by sign, exponent and
fraction. -/
def Obligations.LaneFloatingPointWords : Prop :=
  (∀ (s : State) (k : BitVec 3) (h f : BitVec 2) (d a b c : BitVec 6), Legal s.me [d, a, b] →
      let x := fun j => laneAt (s.me.getV a) j
      let y := fun j => laneAt (s.me.getV b) j
      let mode := fmodeRound s.me.fmode
      let arith := fun i (op : FOp) => FloatWrites i s k d (fun j => fopLane f op mode (x j) (y j) (laneAt (s.me.getV d) j))
      let pick := fun i greater num => FloatWrites i s k d (fun j => minMaxF32 greater num (x j) (y j))
      arith (.fadd k h f d a b) .add ∧
      arith (.fsub k h f d a b) .sub ∧
      arith (.fmul k h f d a b) .mul ∧
      arith (.ffma k h f d a b) .fma ∧
      arith (.ffms k h f d a b) .fms ∧
      pick (.fmin k h d a b) false false ∧
      pick (.fmax k h d a b) true false ∧
      pick (.fminnum k h d a b) false true ∧
      pick (.fmaxnum k h d a b) true true ∧
      FloatWrites (.fcvt k h f d a c) s k d (fun j => cvtLane c (fnRound f s.me.fmode) (x j)) ∧
      FloatWrites (.frnd k h f d a) s k d (fun j => rndF32 (fnRound f s.me.fmode) (x j)) ∧
      FloatWrites (.fdot2 k h f d a b) s k d (fun j => dot2 (if f = 0 then bf16 else f16) mode (x j) (y j))) ∧
  ((∀ (s : State) (k : BitVec 3) (h f : BitVec 2) (a b : BitVec 6), Legal s.me [a, b] →
        let c := fun j => cmpF32 f (laneAt (s.me.getV a) j) (laneAt (s.me.getV b) j)
        let e := unionExc s.me.sp.mask (fun j => (0, (c j).2))
        (enabled s.me e = 0 → Issues (.fcmp k h f a b) s (fun l =>
          MaskWritten s.me l k (fun j => (c j).1) ∧ l.fmode = flagged s.me.fmode e ∧
          l = { s.me.issued with k := l.k, replay := l.replay, fmode := l.fmode })) ∧
        (enabled s.me e ≠ 0 → exec (.fcmp k h f a b) s = .next (s.takeTrap 3 (enabled s.me e).toNat .own))) ∧
    (∀ (s : State) (k : BitVec 3) (h : BitVec 2) (d a b : BitVec 6), Legal s.me [d, a, b] →
        let classOf := fun (x : Word32) =>
          let n := x.getLsbD 31
          let e := x.toNat / 2 ^ 23 % 256
          let m := x.toNat % 2 ^ 23
          if e = 255 ∧ m = 0 then (if n then 0 else 7)
          else if e = 255 then (if 2 ^ 22 ≤ m then 9 else 8)
          else if e = 0 ∧ m = 0 then (if n then 3 else 4)
          else if e = 0 then (if n then 2 else 5)
          else if n then 1 else 6
        LaneWrites1 (.fabs k h d a) s k d a (fun x => BitVec.ofNat 32 (x.toNat % 2 ^ 31)) ∧
        LaneWrites1 (.fneg k h d a) s k d a (fun x => if x.getLsbD 31 then x - 0x80000000#32 else x + 0x80000000#32) ∧
        LaneWrites2 (.fcopysign k h d a b) s k d a b (fun x y => BitVec.ofNat 32 (x.toNat % 2 ^ 31 + y.toNat / 2 ^ 31 * 2 ^ 31)) ∧
        LaneWrites1 (.fclass k h d a) s k d a (fun x => BitVec.ofNat 32 (2 ^ classOf x))))

/-- R56, R57, R99, R101, R102: the long lane instructions; the pairwise tree and the scan are over the lanes that take part,
and `fsfu`'s results are each lane's own (their open bits are log 8; the sign of +0 with the identity in mode RD is log 62); a scan's nodes at
inactive lanes raise nothing (R54, R76). R61, R76: an instruction that raises an enabled exception traps at its landing point. The model's
choice: the back-off wait that a refused permit doubles is the ladle's, not the split's (log 84). -/
def Obligations.LongLaneInstructions : Prop :=
  ∀ (s : State) (k : BitVec 3) (n : BitVec 4) (d a f : BitVec 6) (x : BitVec 1) (p : BitVec 5),
    Legal s.me [d, a] → Running s → s.me.pend = [] → s.valuesFull = false →
    let act := lanesOf s.me k
    let inputs := (List.range 32).map (fun j => if (s.me.exchangeLanes act).getLsbD j then laneAt (s.me.getV a) j else reduceIdentity p.toNat)
    let op := reduceOp p.toNat (fmodeRound s.me.fmode)
    let special := fun j => sfu f.toNat (laneAt (s.me.getV a) j)
    let tree := pairTree op 5 (inputs, 0)
    let scan := scanStages op (s.me.exchangeLanes act) 5 1 (inputs, 0)
    (n ≠ 0 ∨ enabled s.me (unionExc act special) = 0 →
      LongWrites (.fsfu k n d a f) s d n act (fun j => (special j).1) (unionExc act special)) ∧
    (n ≠ 0 ∨ enabled s.me tree.2 = 0 →
      LongWrites (.lred k n d a p) s d n (s.me.exchangeWrites act) (fun _ => tree.1.headD 0) tree.2) ∧
    (n ≠ 0 ∨ enabled s.me scan.2 = 0 →
      LongWrites (.lscan k n d a x p) s d n (s.me.exchangeWrites act)
        (fun j =>
          let q := s.me.programLane j
          if x = 0 then scan.1.getD q 0 else if q = 0 then reduceIdentity p.toNat else scan.1.getD (q - 1) 0)
        scan.2) ∧
    (n = 0 → enabled s.me (unionExc act special) ≠ 0 → LandingTraps (.fsfu k n d a f) s act (unionExc act special)) ∧
    (n = 0 → enabled s.me tree.2 ≠ 0 → LandingTraps (.lred k n d a p) s (s.me.exchangeWrites act) tree.2) ∧
    (n = 0 → enabled s.me scan.2 ≠ 0 → LandingTraps (.lscan k n d a x p) s (s.me.exchangeWrites act) scan.2)

/-- R100, R104, R105: `lshf` takes the source lane's value, or the lane's own where the source is outside 0 to 31 or does not
take part; `vote` writes one bit in every lane of the split (that this holds for the lanes that take no part is log 63). -/
def Obligations.LaneExchange : Prop :=
  ∀ (s : State) (k : BitVec 3) (h f : BitVec 2) (d a b : BitVec 6), Legal s.me [d, a, b] →
    let act := lanesOf s.me k
    let x := fun j => laneAt (s.me.getV a) j
    let source : Nat → Int := fun j =>
      let e := (laneAt (s.me.getV b) j).toNat % 32
      match f.toNat with
      | 0 => (e : Int)
      | 1 => (j : Int) - e
      | 2 => (j : Int) + e
      | _ => ((j ^^^ e : Nat) : Int)
    let voters := (List.range 32).filter (fun j => (s.me.exchangeLanes s.me.sp.mask).getLsbD j)
    Issues (.lshf k h f d a b) s (fun l =>
      LanesWritten s.me l d (s.me.exchangeWrites act) (fun i =>
        let j := s.me.programLane i
        if 0 ≤ source j ∧ source j ≤ 31 ∧ (s.me.exchangeLanes act).getLsbD (source j).toNat then x (source j).toNat else x j) ∧
      OnlyLanes s.me l) ∧
    MaskWrites (.vote k h f a) s k (fun _ =>
      match f.toNat with
      | 0 => decide (∀ j ∈ voters, x j ≠ 0)
      | 1 => decide (∃ j ∈ voters, x j ≠ 0)
      | _ => decide (∀ i ∈ voters, ∀ j ∈ voters, x i = x j)) ∧
    decodeWord 0x480c80c9 = .ok (.lshf 0 0 3 8 3 9) ∧ decodeWord 0x4e8400c0 = .ok (.vote 2 0 1 3)

/-- R24, R37, R49: every lane-set word on a control core, and every one that names v32-v63 without the extended block, takes the
illegal-instruction casting fault and changes no register. (`redg` first waits while its cluster's retry queue is full, R395.) -/
def Obligations.IllegalLaneWords : Prop :=
  ∀ (s : State) (k q r : BitVec 3) (h f : BitVec 2) (n : BitVec 4) (d a b u : BitVec 6) (i : BitVec 10) (w : BitVec 16) (p m : BitVec 5)
    (c : BitVec 1),
    let illegal := fun (regs : List (BitVec 6)) (is : List Instr) => ¬ Legal s.me regs → ∀ i ∈ is,
      Completes i s (fun t => t = s.castFault .illegal ∧ t.me.stopped = true ∧ SameBytes s t)
    illegal [d, a, b] [.iaddI32 k h d a b, .iaddSatI32 k h d a b, .iaddSatN32 k h d a b, .isubI32 k h d a b, .isubSatI32 k h d a b,
      .isubSatN32 k h d a b, .imulLo k h d a b, .imulHiI32 k h d a b, .imulHiN32 k h d a b, .imad k h d a b, .iminI32 k h d a b,
      .imaxI32 k h d a b, .iminN32 k h d a b, .imaxN32 k h d a b, .and k h d a b, .or k h d a b, .xor k h d a b, .andn k h d a b] ∧
    illegal [d, a, b] [.shl k h d a b, .shr k h d a b, .sha k h d a b, .rot k h d a b, .bfxI32 k h d a b, .bfxN32 k h d a b, .bfi k h d a b,
      .sel k h d a b, .fadd k h f d a b, .fsub k h f d a b, .fmul k h f d a b, .ffma k h f d a b, .ffms k h f d a b, .fmin k h d a b,
      .fmax k h d a b, .fminnum k h d a b, .fmaxnum k h d a b, .fcopysign k h d a b, .fdot2 k h f d a b, .lshf k h f d a b] ∧
    illegal [d, a] [.clz k h d a, .popc k h d a, .brev k h d a, .ffs k h d a, .iaddi k d a i, .imuli k d a i, .andi k d a i, .ori k d a i,
      .xori k d a i, .shifti k d a f p, .mov k h d a, .fabs k h d a, .fneg k h d a, .fclass k h d a, .fcvt k h f d a u, .frnd k h f d a,
      .fsfu k n d a u, .lred k n d a p, .lscan k n d a c p] ∧
    illegal [a, b] [.icmp k h f a b, .icmpn k h f a b, .fcmp k h f a b] ∧ illegal [a] [.icmpi k q a i, .vote k h f a, .touchg k a m c] ∧
    illegal [] [.kand k h q r, .kor k h q r, .kxor k h q r, .kandn k h q r] ∧
    illegal [d] [.movi k d w, .movhi k d w, .movBroadcast k h d a, .movFromMask k h d q] ∧
    illegal [a, d] [.lds k n d a m c, .ldsf k n d a m c, .sts k d a m c, .stsf k d a m c, .ldp k n d a m c, .stp k d a m c, .ldg k n d a m c,
      .stg k d a m c, .ldgs k n d a m c, .stgs k d a m c, .atomb k n q d a r] ∧
    illegal [a, d, d + 1] [.lds2 k n d a m c, .sts2 k d a m c, .ldg2 k n d a m c, .stg2 k d a m c] ∧
    illegal (if q = 7 then [a, d, d + 1] else [a, d]) [.atom k n q d a r, .atoms k n q d a r] ∧
    ((FMap.get [] s.retry s.me.cluster).length < 64 → illegal (if q = 3 then [a, d, d + 1] else [a, d]) [.redg k q d a r])

/-- R78, R98: every narrow format's value that is not a NaN goes to F32 and back unchanged and raises nothing, in every rounding mode.
R90, R97: rounding to nearest: unless the value overflows the format, the result is a number, and no number of the format lies nearer to the
exact value (all in units of the smallest power of two in sight).
R76, R90 to R92, R94 to R98: the values of the operations that LaneFloatingPointWords names, in exact rational numbers: each result is the exact
value rounded once, in each of the modes, with the exceptions of that rounding, the infinities and the NaNs; a packed form works half by half.
Comparisons go by real order, with -0 equal to +0 and a NaN unordered; a minimum or maximum of numbers is one of them, with -0 below +0, and a
NaN operand gives the canonical NaN, or in the number forms the other operand. -/
def Obligations.NumberFormats : Prop :=
  (∀ f ∈ [bf16, f16, f8e4, f8e5, f6e3, f4e2], ∀ (mode : Round) (c : Nat), c < 2 ^ (1 + f.eb + f.fb) →
      (f.decode c).isNan = false → (f.decode c).isInf = false →
      (cvtWiden f c).2 = 0 ∧ cvtNarrow f mode (cvtWiden f c).1 = (BitVec.ofNat 32 c, 0)) ∧
  (∀ f ∈ [f32, bf16, f16, f8e5], ∀ (neg : Bool) (m : Nat) (e : Int),
      (f.roundFin .ne neg m e).2 &&& excOF = 0 →
      let low := min e f.qmin
      let units := fun (neg : Bool) (m : Nat) (e : Int) => (if neg then -1 else 1) * (m * 2 ^ (e - low).toNat : Int)
      ∃ n' m' e', f.decode (f.roundFin .ne neg m e).1 = .fin n' m' e' ∧
        ∀ c, c < 2 ^ (1 + f.eb + f.fb) → ∀ n c' q, f.decode c = .fin n c' q →
          (units neg m e - units n' m' e').natAbs ≤ (units neg m e - units n c' q).natAbs) ∧
  (∀ f ∈ [f64, f32, bf16, f16], ∀ op mode a b c, OperationGives f op mode (f.decode a) (f.decode b) (f.decode c) (fop f op mode a b c)) ∧
  (∀ (op : FOp) (mode : Round) (a b c : Word32),
      (let r := fop f32 op mode a.toNat b.toNat c.toNat
       fopLane 0 op mode a b c = (BitVec.ofNat 32 r.1, r.2)) ∧
      ∀ fn f, (fn = 1#2 ∧ f = bf16) ∨ (fn = 2#2 ∧ f = f16) →
        let low := fop f op mode (a.toNat % 65536) (b.toNat % 65536) (c.toNat % 65536)
        let high := fop f op mode (a.toNat / 65536) (b.toNat / 65536) (c.toNat / 65536)
        let r := fopLane fn op mode a b c
        r.1.toNat % 65536 = low.1 ∧ r.1.toNat / 65536 = high.1 ∧ r.2 = low.2 ||| high.2) ∧
  (∀ f ∈ [bf16, f16], ∀ (mode : Round) (a b : Word32),
      let x0 := f.decode (a.toNat % 65536)
      let y0 := f.decode (b.toNat % 65536)
      let x1 := f.decode (a.toNat / 65536)
      let y1 := f.decode (b.toNat / 65536)
      let r := dot2 f mode a b
      let c := (r.1.toNat, r.2)
      let data := [x0, y0, x1, y1]
      let bad := fun (x y : Machine.Num) => (x.isInf = true ∧ y.isZero = true) ∨ (x.isZero = true ∧ y.isInf = true)
      let sum := valueOf x0 * valueOf y0 + valueOf x1 * valueOf y1
      let p := x0.isNeg != y0.isNeg
      let q := x1.isNeg != y1.isNeg
      ((∃ d ∈ data, d.isNan = true) → r.1 = 0x7fc00000#32 ∧ (c.2 = excNV ∨ c.2 = 0) ∧
        (c.2 = excNV ↔ (∃ d ∈ data, d.isSignalling = true) ∨ bad x0 y0 ∨ bad x1 y1)) ∧
      ((∀ d ∈ data, d.isNan = false) → InfinitySum f32 (bad x0 y0 ∨ bad x1 y1) (x0.isInf || y0.isInf) (x1.isInf || y1.isInf) p q c) ∧
      ((∀ d ∈ data, IsNumber d) → RoundsTo f32 mode (resultSign mode sum p q) sum c)) ∧
  (∀ a b : Word32,
      let x := f32.decode a.toNat
      let y := f32.decode b.toNat
      let nan := x.isNan = true ∨ y.isNan = true
      let signalling := x.isSignalling = true ∨ y.isSignalling = true
      let raises := fun (e : Exc) (p : Prop) => (p → e = excNV) ∧ (¬ p → e = 0)
      ((cmpF32 0 a b).1 = true ↔ ¬ nan ∧ extValue x = extValue y) ∧ ((cmpF32 1 a b).1 = true ↔ ¬ nan ∧ extValue x < extValue y) ∧
      ((cmpF32 2 a b).1 = true ↔ ¬ nan ∧ extValue x ≤ extValue y) ∧ ((cmpF32 3 a b).1 = true ↔ nan) ∧
      raises (cmpF32 0 a b).2 signalling ∧ raises (cmpF32 1 a b).2 nan ∧ raises (cmpF32 2 a b).2 nan ∧ raises (cmpF32 3 a b).2 signalling ∧
      ∀ greater num,
        let r := (minMaxF32 greater num a b).1
        let z := extValue (f32.decode r.toNat)
        raises (minMaxF32 greater num a b).2 signalling ∧
        (¬ nan → (r = a ∨ r = b) ∧ (greater = false → z ≤ extValue x ∧ z ≤ extValue y) ∧ (greater = true → extValue x ≤ z ∧ extValue y ≤ z) ∧
          (greater = false → a = 0x80000000#32 ∨ b = 0x80000000#32 → r ≠ 0) ∧ (greater = true → a = 0 ∨ b = 0 → r ≠ 0x80000000#32)) ∧
        (nan → num = false → r = 0x7fc00000#32) ∧ (x.isNan = true → y.isNan = true → r = 0x7fc00000#32) ∧
        (num = true → x.isNan = true → y.isNan = false → r = b) ∧ (num = true → x.isNan = false → y.isNan = true → r = a)) ∧
  (∀ (mode : Round) (a : Word32),
      let x := f32.decode a.toNat
      let nv := if x.isSignalling then excNV else 0
      (IsNumber x → ∃ n : Int, RoundedInt mode (valueOf x) n ∧ IsNumber (f32.decode (rndF32 mode a).1.toNat) ∧
        valueOf (f32.decode (rndF32 mode a).1.toNat) = n ∧ (rndF32 mode a).1.getLsbD 31 = a.getLsbD 31 ∧ (rndF32 mode a).2 = 0) ∧
      (x.isInf = true → rndF32 mode a = (a, 0)) ∧ (x.isNan = true → rndF32 mode a = (0x7fc00000#32, nv)) ∧
      (∀ lo hi : Int, (lo = -2 ^ 31 ∧ hi = 2 ^ 31 - 1) ∨ (lo = 0 ∧ hi = 2 ^ 32 - 1) →
        (IsNumber x → ∃ n : Int, RoundedInt mode (valueOf x) n ∧ cvtInt mode lo hi a =
          (BitVec.ofInt 32 (max lo (min hi n)), if n < lo ∨ hi < n then excNV else if (n : ℚ) = valueOf x then 0 else excNX)) ∧
        (x.isInf = true → cvtInt mode lo hi a = (BitVec.ofInt 32 (if x.isNeg then lo else hi), excNV)) ∧ (x.isNan = true → cvtInt mode lo hi a = (0, excNV))) ∧
      (∀ f ∈ [bf16, f16, f8e4, f8e5, f6e3, f4e2],
        (IsNumber x → RoundsTo f mode x.isNeg (valueOf x) ((cvtNarrow f mode a).1.toNat, (cvtNarrow f mode a).2)) ∧
        (x.isInf = true → cvtNarrow f mode a =
          if f.kind = .ieee then (BitVec.ofNat 32 (f.signed x.isNeg f.infCode), 0) else (BitVec.ofNat 32 (f.signed x.isNeg f.maxCode), excOF ||| excNX)) ∧
        (x.isNan = true → cvtNarrow f mode a = (BitVec.ofNat 32 f.nanCode, if f.kind = .plain then excNV else nv))) ∧
      (∀ v : Int, -2 ^ 31 ≤ v → v < 2 ^ 32 → RoundsTo f32 mode (decide (v < 0)) v ((cvtFromInt mode v).1.toNat, (cvtFromInt mode v).2)) ∧
      cvtLane 0 mode a = cvtFromInt mode a.toInt ∧ cvtLane 1 mode a = cvtFromInt mode a.toNat ∧
      cvtLane 2 mode a = cvtInt mode (-2 ^ 31) (2 ^ 31 - 1) a ∧ cvtLane 3 mode a = cvtInt mode 0 (2 ^ 32 - 1) a ∧
      (∀ e ∈ ([(4, f16), (7, bf16), (10, f8e4), (11, f8e5), (12, f6e3), (13, f4e2)] : List (BitVec 6 × FloatFmt)),
        cvtLane e.1 mode a = cvtNarrow e.2 mode a) ∧
      (∀ e ∈ ([(5, f16, 0, 16), (6, f16, 16, 16), (8, bf16, 0, 16), (9, bf16, 16, 16), (14, f8e4, 0, 8), (15, f8e5, 0, 8), (16, f6e3, 0, 6),
          (17, f4e2, 0, 4)] : List (BitVec 6 × FloatFmt × Nat × Nat)),
        cvtLane e.1 mode a = cvtWiden e.2.1 (a.toNat / 2 ^ e.2.2.1 % 2 ^ e.2.2.2))) ∧
  (∀ f ∈ [bf16, f16, f8e4, f8e5, f6e3, f4e2], ∀ c, c < 2 ^ (1 + f.eb + f.fb) →
      let x := f.decode c
      let r := cvtWiden f c
      (IsNumber x → IsNumber (f32.decode r.1.toNat) ∧ valueOf (f32.decode r.1.toNat) = valueOf x ∧ r.2 = 0) ∧
      (x.isInf = true → r = (BitVec.ofNat 32 (f32.signed x.isNeg f32.infCode), 0)) ∧
      (x.isNan = true → r = (0x7fc00000#32, if x.isSignalling then excNV else 0)))

/-! ### Uniform instructions (R108 to R117) -/

/-- R108: scalar arithmetic on 64-bit values; nothing is raised, and no flag changes. R109, R111: immediates and the forms of `smov`; a mask
takes the bits of the issuing split's lanes alone, and on a control core lane 0's alone.
R112 to R116: `smov` from a special register and `sysr` write its value; a number that has none is an illegal instruction. A device register is
read by a privileged ladle, or where R116 opens it to the ladle's partition. That %cyc is the service counter plus a difference of the core's
own is log 7, and that a write-only register reads as 0 is log 23. -/
def Obligations.UniformWords : Prop :=
  ((∀ (s : State) (f : BitVec 2) (d a b : BitVec 6),
        let x := s.me.getS a
        let y := s.me.getS b
        let truth := fun (p : Bool) => if p then 1#64 else 0#64
        UniWrites (.sadd d a b) s d (BitVec.ofNat 64 (x.toNat + y.toNat)) ∧
        UniWrites (.saddSatI64 d a b) s d (satSigned 64 (x.toInt + y.toInt)) ∧
        UniWrites (.saddSatN64 d a b) s d (satUnsigned 64 ((x.toNat : Int) + y.toNat)) ∧
        UniWrites (.ssub d a b) s d (BitVec.ofInt 64 ((x.toNat : Int) - y.toNat)) ∧
        UniWrites (.ssubSatI64 d a b) s d (satSigned 64 (x.toInt - y.toInt)) ∧
        UniWrites (.ssubSatN64 d a b) s d (satUnsigned 64 ((x.toNat : Int) - y.toNat)) ∧
        UniWrites (.smulLo d a b) s d (BitVec.ofNat 64 (x.toNat * y.toNat)) ∧
        UniWrites (.smulHiI64 d a b) s d (highHalf 64 (x.toInt * y.toInt)) ∧
        UniWrites (.smulHiN64 d a b) s d (highHalf 64 ((x.toNat : Int) * y.toNat)) ∧
        UniWrites (.sand d a b) s d (x &&& y) ∧
        UniWrites (.sor d a b) s d (x ||| y) ∧
        UniWrites (.sxor d a b) s d (x ^^^ y) ∧
        UniWrites (.sandn d a b) s d (x &&& ~~~y) ∧
        UniWrites (.sshl d a b) s d (shifted 0 x y.toNat) ∧
        UniWrites (.sshr d a b) s d (shifted 1 x y.toNat) ∧
        UniWrites (.ssha d a b) s d (shifted 2 x y.toNat) ∧
        UniWrites (.srot d a b) s d (shifted 3 x y.toNat) ∧
        UniWrites (.sminI64 d a b) s d (BitVec.ofInt 64 (min x.toInt y.toInt)) ∧
        UniWrites (.smaxI64 d a b) s d (BitVec.ofInt 64 (max x.toInt y.toInt)) ∧
        UniWrites (.sminN64 d a b) s d (BitVec.ofNat 64 (min x.toNat y.toNat)) ∧
        UniWrites (.smaxN64 d a b) s d (BitVec.ofNat 64 (max x.toNat y.toNat)) ∧
        UniWrites (.scmp f d a b) s d (truth (match f.toNat with
          | 0 => decide (x = y)
          | 1 => decide (x ≠ y)
          | 2 => decide (x.toInt < y.toInt)
          | _ => decide (x.toNat < y.toNat))) ∧
        UniWrites (.ssel d a b) s d (if s.me.getS d ≠ 0 then x else y) ∧
        UniWrites (.sclz d a) s d (leading x) ∧
        UniWrites (.spopc d a) s d (setBits x) ∧
        UniWrites (.sbrev d a) s d x.reverse ∧
        UniWrites (.sffs d a) s d (lowestSet x)) ∧
    (∀ (s : State) (k : BitVec 3) (t : BitVec 2) (d a : BitVec 6) (i : BitVec 13) (n : BitVec 6),
        let x := s.me.getS a
        UniWrites (.saddi d a i) s d (BitVec.ofInt 64 ((x.toNat : Int) + i.toInt)) ∧
        UniWrites (.sli d i) s d (BitVec.ofNat 64 i.toNat) ∧
        UniWrites (.shi d i) s d (BitVec.ofNat 64 ((s.me.getS d).toNat * 8192 + i.toNat)) ∧
        UniWrites (.sandi d a i) s d (x &&& i.signExtend 64) ∧
        UniWrites (.sshifti d a t n) s d (shifted t.toNat x n.toNat) ∧
        UniWrites (.smov d a) s d x ∧
        UniWrites (.smovFromMask d k) s d (BitVec.ofNat 64 (s.me.getK k).toNat) ∧
        Issues (.smovToMask k a) s (fun l =>
          (∀ j < 32, k ≠ 0 → (l.k.get k.toFin).getLsbD j =
            if s.me.sp.mask.getLsbD j && (!s.me.control || j == 0) then x.getLsbD j else (s.me.k.get k.toFin).getLsbD j) ∧
          (∀ q, q ≠ k ∨ q = 0 → l.k.get q.toFin = s.me.k.get q.toFin) ∧ l = { s.me.issued with k := l.k }))) ∧
  (∀ (s : State) (d n : BitVec 6) (m : BitVec 13), s.valuesFull = false →
      (∀ x, specialValue s n.toNat = some x → OutsideWrites (.smovSpecial d n) s d x) ∧
      (specialValue s n.toNat = none → Faults (.smovSpecial d n) s .illegal) ∧
      (m.toNat < 0x40 → ∀ x, specialValue s m.toNat = some x → OutsideWrites (.sysr d m) s d x) ∧
      (m.toNat < 0x40 → specialValue s m.toNat = none → Faults (.sysr d m) s .illegal) ∧
      (m.toNat = 0x40 → OutsideWrites (.sysr d m) s d (BitVec.ofNat 64 s.me.part)) ∧
      (m.toNat = 0x41 → ∃ x, (∀ c < 64, x.getLsbD c = decide (FMap.get 0 s.owners c = s.me.part + 1)) ∧ OutsideWrites (.sysr d m) s d x) ∧
      (m.toNat = 0x42 → OutsideWrites (.sysr d m) s d (s.reg (0x300 + 4 * s.me.part))) ∧
      (m.toNat = 0x43 → OutsideWrites (.sysr d m) s d (FMap.get 0 s.consumed s.me.part)) ∧
      (0x44 ≤ m.toNat → m.toNat < 0x100 → Faults (.sysr d m) s .illegal) ∧
      (0x100 ≤ m.toNat → (regAssigned m.toNat = false ∨ s.me.privileged = false ∧ regOpen s.me.part m.toNat = false) →
        Faults (.sysr d m) s .illegal) ∧
      (0x100 ≤ m.toNat → regAssigned m.toNat = true → (s.me.privileged = true ∨ regOpen s.me.part m.toNat = true) →
        OutsideWrites (.sysr d m) s d (s.readReg m.toNat))) ∧
  decodeWord 0x8228a2a0 = .ok (.sadd 20 20 21) ∧ decodeWord 0x96a00800 = .ok (.sli 20 0x800) ∧ decodeWord 0x98a00008 = .ok (.shi 20 8) ∧
  decodeWord 0x98a00000 = .ok (.shi 20 0) ∧ decodeWord 0x9f9a1000 = .ok (.smovSpecial 13 2)

/-- R114, R116, R117: `sysw` writes the writable ladle special registers with their reserved bits zero and answers 0; a
device register is written by a privileged ladle alone, once its earlier accesses have been performed, and a refused write
answers 1 and changes nothing else; everything else is an illegal instruction. -/
def Obligations.SystemRegisterWrites : Prop :=
  ∀ (s : State) (d a : BitVec 6) (n : BitVec 13), s.me.shadow = none →
    let x := s.me.getS a
    let m := n.toNat
    let cause := BitVec.ofNat 64 (x.toNat / 2 ^ 63 * 2 ^ 63 + x.toNat / 2 ^ 56 % 32 * 2 ^ 56 + x.toNat / 2 ^ 22 % 2 ^ 30 * 2 ^ 22 + x.toNat % 8192)
    let mode := BitVec.ofNat 32 (x.toNat / 2 ^ 16 % 32 * 2 ^ 16 + x.toNat / 2 ^ 8 % 32 * 2 ^ 8 + x.toNat % 4)
    let own := fun (f : Ladle → Ladle) => Issues (.sysw d a n) s (fun l => l = (f s.me.issued).setS d 0)
    (m = 11 → own (fun l => { l with tpc := BitVec.ofNat 64 (x.toNat / 4 % 2 ^ 55 * 4) })) ∧
    (m = 12 → own (fun l => { l with tvec := BitVec.ofNat 64 (x.toNat / 2 % 2 ^ 56 * 2) })) ∧
    (m = 13 → own (fun l => { l with tcause := cause })) ∧
    (m = 14 → own (fun l => { l with fmode := mode })) ∧
    (m < 0x40 → m ∉ [11, 12, 13, 14] → Faults (.sysw d a n) s .illegal) ∧
    (0x40 ≤ m → (s.me.privileged = false ∨ regAssigned m = false ∨ regReadOnly m = true) → Faults (.sysw d a n) s .illegal) ∧
    (0x40 ≤ m → s.me.privileged = true → regAssigned m = true → regReadOnly m = false → s.unperformed s.me.uid 4 s.nextReq = true →
      exec (.sysw d a n) s = .next s) ∧
    (0x40 ≤ m → s.me.privileged = true → regAssigned m = true → regReadOnly m = false → s.unperformed s.me.uid 4 s.nextReq = false →
      (s.writeReg m x = none → UniWrites (.sysw d a n) s d 1) ∧
      (∀ t, s.writeReg m x = some t → t.fmtLoads = [] → t.me.shadow = none → exec (.sysw d a n) s = .next (t.done (fun l => l.setS d 0))))

/-! ### Control flow (R118 to R125) -/

/-- R118 to R120: where each branch and jump goes, what it writes, and what it leaves; a register jump to an address off a word boundary is
an illegal instruction with no effect. In shadow placement every branch and jump is compared first, with its target, the lanes that take it and
the lanes of the split (R335).
R25, R119: `bk` by its mode, with T the split's lanes whose mask bit is set and A all its lanes. Only `bk.split` divides a split: the lanes
of T become a new split at the target, in the lowest free slot or parked, and the others go on in theirs. In half placement a pair of lanes
whose mask bits differ is a check mismatch (R336). -/
def Obligations.Branches : Prop :=
  (∀ (s : State) (r : BitVec 4) (n : BitVec 1) (k : BitVec 3) (m : BitVec 2) (a : BitVec 6) (d19 : BitVec 19) (d20 : BitVec 20) (d21 : BitVec 21),
      let all : Word64 := s.me.sp.mask.setWidth 64
      let goal := fun (d : Int) => s.me.sp.pc + BitVec.ofInt 64 (4 * d)
      let whole := fun (i : Instr) (pc : Word64) => Compared i s [pc, all, all]
      whole (.b d21) (goal d21.toInt) ∧
      Compared (.bs r n d20) s [goal d20.toInt, if n = 0 ↔ s.me.getS (r.zeroExtend 6) = 0 then all else 0, all] ∧
      Compared (.bk k m d19) s [goal d19.toInt, (lanesOf s.me k).setWidth 64, all] ∧
      (Settled s → whole (.call d21) (goal d21.toInt)) ∧
      (Settled s → (s.me.getS a).toNat % 4 = 0 → whole (.jmp a) (s.me.getS a) ∧ whole (.calli a) (s.me.getS a)) ∧
      (Settled s → (s.me.getS 63#6).toNat % 4 = 0 → whole .ret (s.me.getS 63#6))) ∧
  (∀ (s : State) (r : BitVec 4) (n : BitVec 1) (a : BitVec 6) (d21 : BitVec 21) (d20 : BitVec 20), s.me.shadow = none →
      let pc := s.me.sp.pc
      let same := fun l => l = s.me.issued
      let linked := fun l => l = s.me.issued.setS 63#6 (pc + 4)
      let goal := fun (d : Int) => pc + BitVec.ofInt 64 (4 * d)
      Jumps (.b d21) s (goal d21.toInt) same ∧
      ((n = 0 ↔ s.me.getS (r.zeroExtend 6) = 0) → Jumps (.bs r n d20) s (goal d20.toInt) same) ∧
      (¬(n = 0 ↔ s.me.getS (r.zeroExtend 6) = 0) → Issues (.bs r n d20) s same) ∧
      (Settled s → Jumps (.call d21) s (goal d21.toInt) linked) ∧
      (Settled s → (s.me.getS a).toNat % 4 = 0 → Jumps (.jmp a) s (s.me.getS a) same ∧ Jumps (.calli a) s (s.me.getS a) linked) ∧
      (Settled s → (s.me.getS a).toNat % 4 ≠ 0 → Faults (.jmp a) s .illegal ∧ Faults (.calli a) s .illegal) ∧
      (Settled s → (s.me.getS 63#6).toNat % 4 = 0 → Jumps .ret s (s.me.getS 63#6) same) ∧
      (Settled s → (s.me.getS 63#6).toNat % 4 ≠ 0 → Faults .ret s .illegal)) ∧
  (∀ (s : State) (k : BitVec 3) (m : BitVec 2) (d : BitVec 19), s.me.shadow = none →
      let t := lanesOf s.me k
      let agree := s.me.half = true → t.toNat % 65536 = t.toNat / 65536
      let all := s.me.sp.mask
      let goal := s.me.sp.pc + BitVec.ofInt 64 (4 * d.toInt)
      let branches := Jumps (.bk k m d) s goal (fun l => l = s.me.issued)
      let goesOn := Issues (.bk k m d) s (fun l => l = s.me.issued)
      (¬agree → Faults (.bk k m d) s .checkMismatch) ∧
      (agree →
      (m = 0 → t = all → branches) ∧
      (m = 0 → t ≠ all → t = 0 → goesOn) ∧
      (m = 0 → t ≠ all → t ≠ 0 → Issues (.bk k m d) s (fun l =>
        l.sp = { s.me.sp with mask := all &&& ~~~t } ∧
        (∃ x, l.splits = s.me.splits ++ [x] ∧ x.mask = t ∧ x.pc = goal ∧
          x.slot = [0, 1, 2, 3].find? (fun n => !(s.me.sp :: s.me.splits).any (fun y => y.slot == some n))) ∧
        l = { s.me.issued with sp := l.sp, splits := l.splits, parkCounter := l.parkCounter })) ∧
      (m = 1 → t = all → branches) ∧ (m = 1 → t ≠ all → goesOn) ∧
      (m = 2 → t ≠ 0 → branches) ∧ (m = 2 → t = 0 → goesOn) ∧
      (m = 3 → t = 0 → branches) ∧ (m = 3 → t ≠ 0 → goesOn))) ∧
  decodeWord 0xa4400006 = .ok (.bk 2 0 6) ∧ decodeWord 0xa9000000 = .ok .ret

/-- R122, R124, R125: `loop` with an empty buffer. A count of 2^48 or more is illegal; a count of 0 skips the body; else the
body is captured and the split goes to its first word, and a word of the body that holds an error is corrected where it stands (R337). A word
that cannot be read is a fault of the loop word (log 73). With the buffer busy the split blocks, and in a handler over a suspended loop the word
is illegal. -/
def Obligations.LoopStarts : Prop :=
  ∀ (s : State) (n : BitVec 5) (c i t : BitVec 6),
    let x := s.me.getS c
    (s.me.loop = none → 2 ^ 48 ≤ x.toNat → Faults (.loop n c i t) s .illegal) ∧
    (s.me.loop = none → x = 0 → Jumps (.loop n c i t) s (s.me.sp.pc + BitVec.ofNat 64 (4 + 4 * n.toNat)) (fun l => l = s.me.issued)) ∧
    (s.me.loop = none → x ≠ 0 → x.toNat < 2 ^ 48 → ∀ ws, s.captureWords (s.me.sp.pc.toNat + 4) n.toNat = .ok ws →
      let u := s.correctWords (s.me.sp.pc.toNat + 4) n.toNat
      (s.noErrors = true → u = s) ∧
      ∃ l : Ladle, exec (.loop n c i t) s = .next { u with me := l.setPc (s.me.sp.pc + 4) } ∧ SameBytes s { u with me := l.setPc (s.me.sp.pc + 4) } ∧
        (∃ b, l.loop = some b ∧ b.addr = s.me.sp.pc ∧ b.words = ws ∧ b.rem = x ∧ b.steps = s.me.getS i ∧ b.stride = s.me.getS t ∧
          b.pass = 0 ∧ b.index = 0 ∧ b.count = c ∧ b.suspended = false) ∧
        l.piPass = 0 ∧ l.sp = { s.me.sp with looping := true } ∧
        l = { s.me.issued with loop := l.loop, piPass := l.piPass, sp := l.sp }) ∧
    (s.me.loop = none → x ≠ 0 → x.toNat < 2 ^ 48 → ∀ f, s.captureWords (s.me.sp.pc.toNat + 4) n.toNat = .error (.fault f) →
      Faults (.loop n c i t) s f) ∧
    (∀ b, s.me.loop = some b → b.suspended && s.me.sp.handler → Faults (.loop n c i t) s .illegal) ∧
    (∀ b, s.me.loop = some b → (b.suspended && s.me.sp.handler) = false →
      exec (.loop n c i t) s = .next { s with me := (s.me.block .loopBusy).fillSlots })

/-- R121, R122: what follows an instruction that does not move the program counter. Outside a loop body, the next word. Inside
one, the body's next word; after its last word the count register takes the passes that remain, and the body starts again
with the next pass, or, with none left, the loop ends after the body. -/
def Obligations.NextWord : Prop :=
  ∀ (l : Ladle),
    (l.sp.looping = false → l.advance = l.setPc (l.sp.pc + 4)) ∧
    (∀ b, l.loop = some b → l.sp.looping = true → b.index + 1 < b.words.length →
      l.advance = { l with loop := some { b with index := b.index + 1 }, sp := { l.sp with pc := l.sp.pc + 4 } }) ∧
    (∀ b, l.loop = some b → l.sp.looping = true → b.words.length ≤ b.index + 1 → b.rem ≠ 1 →
      UniformWritten l l.advance b.count (b.rem - 1) ∧ l.advance.piPass = b.pass + 1 ∧
      l.advance.loop = some { b with rem := b.rem - 1, pass := b.pass + 1, index := 0 } ∧
      l.advance.sp = { l.sp with pc := b.addr + 4 } ∧
      l.advance = { l with s := l.advance.s, loop := l.advance.loop, piPass := l.advance.piPass, sp := l.advance.sp }) ∧
    (∀ b, l.loop = some b → l.sp.looping = true → b.words.length ≤ b.index + 1 → b.rem = 1 →
      UniformWritten l l.advance b.count 0 ∧ l.advance.piPass = 0 ∧ l.advance.loop = none ∧
      l.advance.sp.pc = b.addr + 4 + BitVec.ofNat 64 (4 * b.words.length) ∧ l.advance.sp.looping = false ∧
      l.advance.v = l.v ∧ l.advance.k = l.k ∧ l.advance.pad = l.pad ∧ l.advance.pend = l.pend)

/-! ### Traps, barriers, extended registers, exit (R126 to R130, R155 to R164) -/

/-- R162: `trap` stops with class 1 and its immediate when its condition holds, and otherwise only issues; `tsys.bkpt` stops with class 2;
`tsys.nop` has no effect; `tsys.tmask` swaps M with bit 0 of the register it read first. R76, R158: an arithmetic instruction that raises an
enabled exception enters the handler with class 3 and the enabled exceptions, and changes no register and no flag.
R163: `tsys.tret` in a handler resumes at %tpc: M is clear, the permit free, held splits released, and the suspended loop goes on in the
returning split (at the body word where it was suspended, log 57). A suspended result whose count has reached 0 lands, and one whose count
has not resumes (R61). Outside a handler, or with %tpc off a word boundary, it is an illegal instruction. The model's choice: the back-off wait
that a refused permit doubles, and that a handler entry puts back to 64, is the ladle's, not the split's (log 84). -/
def Obligations.TrapsAndReturns : Prop :=
  ((∀ (s : State) (c : BitVec 3) (d a : BitVec 6) (i : BitVec 13), Settled s →
        let x := s.me.getS a
        let y : Word64 := i.signExtend 64
        let holds := match c.toNat with
          | 0 => True
          | 1 => x = y
          | 2 => x ≠ y
          | 3 => x.toInt < y.toInt
          | 4 => y.toInt ≤ x.toInt
          | 5 => x.toNat < y.toNat
          | _ => y.toNat ≤ x.toNat
        (holds → Traps (.trap c a i) s 1 i.toNat) ∧
        (¬holds → Issues (.trap c a i) s (fun l => l = s.me.issued)) ∧
        Traps .tsysBkpt s 2 0 ∧
        Issues .tsysNop s (fun l => l = s.me.issued) ∧
        Issues (.tsysTmask d a) s (fun l =>
          UniformWritten s.me l d (if s.me.tcause.getLsbD 63 then 1 else 0) ∧
          l.tcause.getLsbD 63 = x.getLsbD 0 ∧ (∀ j < 63, l.tcause.getLsbD j = s.me.tcause.getLsbD j) ∧
          l = { s.me.issued with s := l.s, tcause := l.tcause })) ∧
    (∀ (s : State) (k : BitVec 3) (h f : BitVec 2) (d a b : BitVec 6), Legal s.me [d, a, b] →
        let e := unionExc (lanesOf s.me k) (fun j =>
          fopLane f .add (fmodeRound s.me.fmode) (laneAt (s.me.getV a) j) (laneAt (s.me.getV b) j) (laneAt (s.me.getV d) j))
        enabled s.me e ≠ 0 → Traps (.fadd k h f d a b) s 3 (enabled s.me e).toNat)) ∧
  (∀ (s : State), Settled s →
      (s.me.handlerActive = true → s.me.tpc.toNat % 4 = 0 → Completes .tsysTret s (fun t =>
        t = { s with me := t.me } ∧ SameBytes s t ∧
        t.me.sp.pc = s.me.tpc ∧ t.me.sp.handler = false ∧ t.me.handlerActive = false ∧ t.me.permit = false ∧
        t.me.tcause.getLsbD 63 = false ∧ (∀ j < 63, t.me.tcause.getLsbD j = s.me.tcause.getLsbD j) ∧
        t.me.splits = s.me.splits.map (fun x => { x with handler := false }) ∧
        t.me.loop = s.me.loop.map (fun b => { b with suspended := false }) ∧
        t.me.v = s.me.v ∧ t.me.s = s.me.s ∧ t.me.k = s.me.k ∧ t.me.fmode = s.me.fmode ∧ t.me.tvec = s.me.tvec)) ∧
      (s.me.handlerActive = false ∨ s.me.tpc.toNat % 4 ≠ 0 → Faults .tsysTret s .illegal)) ∧
  (∀ (s : State) (p : Pending), Running s → s.me.pend = [p] → p.suspended = true → p.missing = 0 → p.fault = none → p.lanes ≠ 0 →
      p.exceptions &&& p.enables = 0 → (∃ d, p.dest = .lane d ∨ p.dest = .lanePair d ∨ p.dest = .uniform d) →
      s.me.handlerActive = true → s.me.tpc.toNat % 4 = 0 → s.me.deferred = false → Completes .tsysTret s (fun t =>
        t = { s with me := t.me } ∧ t.me.sp.pc = s.me.tpc ∧ t.me.handlerActive = false ∧
        ((∀ j : Fin 32, p.counts[j] = 0) → t.me.pend = [] ∧ Landed s.me t.me p.dest p.lanes p.laneVal ∧
          t.me.fmode = flagged s.me.fmode p.exceptions) ∧
        ((∀ j : Fin 32, p.counts[j] ≠ 0) → t.me.pend = [{ p with suspended := false }] ∧ t.me.v = s.me.v ∧ t.me.s = s.me.s ∧
          t.me.fmode = s.me.fmode))) ∧
  decodeWord 0xda000007 = .ok (.trap 0 0 7) ∧ decodeWord 0xda302064 = .ok (.trap 6 1 100)

/-- R126, R127: `bar`. A wait (kind 2) for a phase that has completed goes on, else the split blocks. An arrival first waits
for the ladle's earlier accesses at the barrier's scope; with an earlier arrival outstanding the split blocks; otherwise the
split's lanes are counted, and kind 0 blocks until the phase is released while kind 1 goes on. A mould barrier is legal in
a gang mould alone. An arrival of a split whose ladle has other lanes to come completes with its own lanes marked and nothing
else changed, at every level and in each kind that arrives. Which arrival w waits for at the ladle level, and that a split may
arrive again before the others have, are the model's choices (log 61, log 60).
R31, R32, R126, R128: the arrival of a ladle's last live lanes is the ladle's arrival at the open phase, at every level and in every phase, and is
counted for the race checks. It completes the phase when every other live member has arrived, saved ones and those on other packages too, and
no casting of the group is without ladles: the phase count grows by one. With a live member still to come the phase stays open. -/
def Obligations.Barriers : Prop :=
  (∀ (s : State) (lv k : BitVec 2) (i : BitVec 4), Settled s →
      let r := s.me.bar (16 * lv.toNat + i.toNat)
      let b := s.barrier lv i.toNat (s.groupOf s.me lv)
      let legal := lv = 3 → s.me.gangMould = true
      let free := s.unperformed s.me.uid (levelScope lv) s.nextReq = false
      let phase := if lv = 0 ∧ r.lanes &&& s.me.sp.mask ≠ 0 then b.completed + 1 else r.arrived
      let mine := fun (l : Ladle) (l' : Ladle) =>
        (l'.bar (16 * lv.toNat + i.toNat)) = { r with lanes := r.lanes ||| s.me.sp.mask } ∧
        (∀ q, q ≠ 16 * lv.toNat + i.toNat → l'.bar q = s.me.bar q) ∧ l' = { l with bars := l'.bars }
      (¬legal → Faults (.bar lv k i) s .illegal) ∧
      (legal → k = 2 → phase ≤ b.completed → Issues (.bar lv k i) s (fun l => l = s.me.issued.waitedThrough lv i.toNat phase)) ∧
      (legal → k = 2 → b.completed < phase → exec (.bar lv k i) s = .next (blocked s (.barrier lv i.toNat phase false))) ∧
      (legal → k ≠ 2 → ¬free → Waits (.bar lv k i) s) ∧
      (legal → k ≠ 2 → free → b.completed < r.arrived →
        exec (.bar lv k i) s = .next (s.blockMe (.barrierAgain lv i.toNat r.arrived))) ∧
      (legal → k ≠ 2 → free → r.arrived ≤ b.completed → lv = 0 → r.lanes &&& s.me.sp.mask ≠ 0 →
        exec (.bar lv k i) s = .next (s.blockMe (.barrierAgain lv i.toNat (b.completed + 1)))) ∧
      (legal → k ≠ 2 → free → r.arrived ≤ b.completed → (lv = 0 → r.lanes &&& s.me.sp.mask = 0) →
        (k = 0 → exec (.bar lv k i) s = .next (blocked (s.splitArrives lv i.toNat) (.barrier lv i.toNat (b.completed + 1) true))) ∧
        (k ≠ 0 → exec (.bar lv k i) s = .next ((s.splitArrives lv i.toNat).done (fun l => l))) ∧
        (s.me.liveLanes &&& ~~~(r.lanes ||| s.me.sp.mask) ≠ 0 →
          (k ≠ 0 → Completes (.bar lv k i) s (fun t => t = { s with me := t.me } ∧ SameBytes s t ∧ mine s.me.issued.advance t.me)) ∧
          (k = 0 → Completes (.bar lv k i) s (fun t => t = { s with me := t.me } ∧ SameBytes s t ∧
            mine (s.me.issued.block (.barrier lv i.toNat (b.completed + 1) true)).fillSlots t.me))))) ∧
  (∀ (s : State) (lv : BitVec 2) (id : Nat),
      let key := 16 * lv.toNat + id
      let group := s.groupOf s.me lv
      let b := s.barrier lv id group
      let lanes := (s.me.bar key).lanes ||| s.me.sp.mask
      lanes ≠ 0 → s.me.liveLanes &&& ~~~lanes = 0 →
        let t := s.splitArrives lv id
        let after := t.barrier lv id group
        let other := fun (l : Ladle) => (l ∈ s.rest ∨ ∃ c ∈ s.castings, l ∈ c.saved) ∧ l.live = true ∧ s.groupOf l lv = group ∧ l.uid ≠ s.me.uid
        let come := s.groupAbsent lv group = false ∧ s.othersArrived b = true
        ((∀ l, other l → l.uid ∈ b.arrived) → come → after.completed = b.completed + 1 ∧ after.arrived = []) ∧
        ((∃ l, other l ∧ l.uid ∉ b.arrived) ∨ ¬ come → after.completed = b.completed ∧ after.arrived = b.arrived ++ [s.me.uid]) ∧
        (lv ≠ 3 → s.othersArrived b = true) ∧ (lv.toNat < 2 → s.groupAbsent lv group = false) ∧
        after.released = b.released ∧ t = { s with me := t.me, barriers := t.barriers } ∧
        (∀ m i g, (m, i, g) ≠ (lv, id, group) → t.barrier m i g = s.barrier m i g) ∧
        t.me.arrivals = s.me.arrivals + (if lv = 1 then 1 else 0) ∧ t.me.gangArrivals = s.me.gangArrivals + (if lv = 2 then 1 else 0) ∧
        (t.me.bar key).arrived = b.completed + 1 ∧ (t.me.bar key).lanes = 0)

/-- R37, R38, R130: `rget` and `rrel`. A ladle that may not extend takes the illegal fault; a held block answers 1; an empty
queue and enough free blocks grant it, all of v32-v63 reading zero; otherwise the split queues. `rrel` gives the block back.
The blocks that a grant takes are blocks that were free (R35); which of them is the model's choice (log 28). -/
def Obligations.ExtendedRegisters : Prop :=
  ∀ (s : State) (d : BitVec 6), Settled s → s.valuesFull = false →
    let q := FMap.get [] s.rgetQueue (5 * s.me.cluster + s.me.core)
    let may := s.me.control = false ∧ s.me.mayExtend = true
    let waiting := q.any (fun e => e.1 == s.me.uid) = true
    let room := q = [] ∧ s.me.blocks ≤ (s.freeBlocks s.me.cluster s.me.core).length
    (¬may → Faults (.rget d) s .illegal) ∧
    (may → s.me.ext = true → OutsideWrites (.rget d) s d 1) ∧
    (may → s.me.ext = false → room → ∃ l, exec (.rget d) s = .next { s with me := l.advance, free := s.free + s.me.blocks } ∧
      UniformWritten s.me l d 1 ∧ l.ext = true ∧ l.extBlocks.length = s.me.blocks ∧ (∀ x ∈ l.extBlocks, x ∈ s.freeBlocks s.me.cluster s.me.core) ∧
      (∀ r : BitVec 6, r.toNat < 32 → l.getV r = s.me.getV r) ∧ (∀ r : BitVec 6, 32 ≤ r.toNat → ∀ j < 32, laneAt (l.getV r) j = 0) ∧
      l = { s.me.issued with s := l.s, v := l.v, ext := l.ext, extBlocks := l.extBlocks, shadow := l.shadow }) ∧
    (may → s.me.ext = false → ¬room → ¬waiting → exec (.rget d) s = .next
      { blocked s (.rget d) with rgetQueue := FMap.set [] s.rgetQueue (5 * s.me.cluster + s.me.core) (q ++ [(s.me.uid, d)]) }) ∧
    (may → s.me.ext = false → waiting → exec (.rget d) s = .next (blocked s (.rget d))) ∧
    (s.me.control = true → Faults .rrel s .illegal) ∧
    (s.me.control = false → s.me.ext = false → Issues .rrel s (fun l => l = s.me.issued)) ∧
    (s.me.control = false → s.me.ext = true → Issues .rrel s (fun l => l.ext = false ∧ l.extBlocks = [] ∧
      (∀ r : BitVec 6, r.toNat < 32 → l.getV r = s.me.getV r) ∧ l = { s.me.issued with v := l.v, ext := l.ext, extBlocks := l.extBlocks }))

/-- R30, R164: `exit` retires once the ladle's earlier accesses have been performed, and waits for them until then. The
ladle's last split gives back its slot, its extended block and its scratchpad. What `exit.abort` does is the abort fault: its report is
on its way, and the ladle issues nothing more. -/
def Obligations.ExitWords : Prop :=
  ∀ (s : State), Settled s → s.me.shadow = none →
    (s.exitReady s.me = false → exec .exit s = .next (s.mapMe (fun l => { l.issued with sp := { l.sp with blocked := .exitWait } }))) ∧
    (s.exitReady s.me = true → s.me.splits = [] → s.me.loop = none → Completes .exit s (fun t =>
      t.me.live = false ∧ t.me.ext = false ∧ t.me.permit = false ∧ t.me.handlerActive = false ∧ t.me.pad.size = 0 ∧
      t.me.sp.mask = 0 ∧ t.me.v = s.me.v ∧ t.me.s = s.me.s ∧ (∀ a, t.mem.read a = s.mem.read a) ∧ t.slices = s.slices ∧ t.regs = s.regs)) ∧
    (s.exitReady s.me = true → s.me.live = true → s.me.handlerActive = false → ∀ x r, s.me.splits = x :: r → (∀ k < 64, (s.me.bar k).lanes = 0) →
      Completes .exit s (fun t => t = { s with me := t.me } ∧
        t.me = Ladle.fillSlots { s.me with sp := x, splits := r })) ∧
    Completes .exitAbort s (fun t => Reported s t .abort s.me.sp.pc ∧ t.me = { s.me with stopped := true } ∧ t = { s with me := t.me, faults := t.faults })

/-! ### Fences, waits, boards, spawn (R345 to R351, R396 to R403) -/

/-- R396: a fence of a release kind waits in its slot for the ladle's accesses at its scope; with none unperformed, or of the acquire kind,
it goes on. R403: `spawn` answers 0 and its casting holds the launch record that it read from the ladle's own scratchpad; a casting that
holds 16 already answers 1 and holds no more.
R397: `waita` on a word of the ladle's own scratchpad tests the word at its grant, which it has at once where no request waits: a word that
meets the condition (nonzero, or in the .ne forms different from s[sd]) is written to s[sd], and otherwise the split blocks. An address
outside the allocation is a scratchpad-bound fault. The global forms test the word at its home, and leave a watch there when it does not
meet the condition (R398). -/
def Obligations.FencesSpawnsAndWaits : Prop :=
  ((∀ (s : State) (sc : BitVec 3) (k : BitVec 2), Settled s →
        (k ≠ 1 → s.unperformed s.me.uid sc.toNat s.nextReq = true → exec (.fence sc k) s =
          .next (s.mapMe (fun l => { l.issued with sp := { l.sp with blocked := .fence sc k s.nextReq } }))) ∧
        (k = 1 ∨ s.unperformed s.me.uid sc.toNat s.nextReq = false → Issues (.fence sc k) s (fun l => l = s.me.issued))) ∧
    (∀ (s : State) (d a b : BitVec 6), Settled s → Quiet s → OwnPad s → s.me.control = false →
        let at_ := (s.me.getS a + s.me.getS b + s.me.addressAdd).toNat
        at_ + 64 ≤ s.me.pad.size → at_ % 64 = 0 →
          (16 ≤ (s.spawnsOf s.me.casting).length → UniWrites (.spawn d a b) s d 1) ∧
          ((s.spawnsOf s.me.casting).length < 16 → exec (.spawn d a b) s = .next
            { s with
              me := (s.me.issued.setS d 0).advance,
              castings := s.castings.map (fun c => if c.uid = s.me.casting then
                { c with spawns := c.spawns ++ [(List.range 8).map (fun i => s.me.pad.bytes.read64 (at_ + 8 * i))] } else c) }))) ∧
  ((∀ (s : State) (f : BitVec 2) (d a b : BitVec 6), Settled s → Quiet s → OwnPad s → s.me.control = false → f.toNat < 2 →
        let at_ := (s.me.getS a + s.me.getS b + s.me.addressAdd).toNat
        let word := s.me.pad.bytes.read32 at_
        let met := if f = 0 then word ≠ 0 else word ≠ (s.me.getS d).setWidth 32
        let old := if f = 0 then none else some ((s.me.getS d).setWidth 32)
        (s.me.pad.size < at_ + 4 → Faults (.waita f d a b) s .padBound) ∧
        (at_ + 4 ≤ s.me.pad.size → at_ % 4 ≠ 0 → Faults (.waita f d a b) s .alignment) ∧
        (at_ + 4 ≤ s.me.pad.size → at_ % 4 = 0 → met → Completes (.waita f d a b) s (fun t =>
          OnlyMeAndCount s t ∧ SameBytes s t ∧ t.me = (s.me.issued.setS d (word.setWidth 64)).advance)) ∧
        (at_ + 4 ≤ s.me.pad.size → at_ % 4 = 0 → ¬met → NoPadWaits s → Completes (.waita f d a b) s (fun t =>
          OnlyMeAndCount s t ∧ SameBytes s t ∧ t.me = (blocked s (.waitaPad s.me.uid at_ old d)).me))) ∧
    (∀ (s : State) (f : BitVec 2) (d a b : BitVec 6) (o : GlobalOp), Settled s → Quiet s → NoReplicas s → 2 ≤ f.toNat →
      s.uniformGlobal s.me .read false 4 (s.me.getS a) (s.me.getS b) 0 = .ok [o] →
      let pa := o.op.bytes.headD 0
      let word := s.mem.read32 pa
      let met := if f = 2 then word ≠ 0 else word ≠ (s.me.getS d).setWidth 32
      let old := if f = 2 then none else some ((s.me.getS d).setWidth 32)
      let n := s.homeOf pa
      let free := isRemote pa = false ∧ (isHbm pa = true → sectorOf pa ∉ (s.sliceOf n).poison) ∧ isScratch pa = false ∧ pa % 4 = 0 ∧
        s.grantable (s.waitReq s.me.who pa old) = true ∧ s.lateAt (s.waitReq s.me.who pa old) = []
      (isRemote pa = true → Faults (.waita f d a b) s .address) ∧
      (isHbm pa = true → sectorOf pa ∈ (s.sliceOf n).poison → s.grantable (s.waitReq s.me.who pa old) = true →
        s.lateAt (s.waitReq s.me.who pa old) = [] → Faults (.waita f d a b) s .uncorrectable) ∧
      (free → met → Completes (.waita f d a b) s (fun t => t.mem = s.mem ∧ t.me = (s.me.issued.setS d (word.setWidth 64)).advance)) ∧
      (free → ¬met → s.me.casting ≠ 0 → Completes (.waita f d a b) s (fun t => t.mem = s.mem ∧ t.me = (blocked s (.waitaGlobal pa old d)).me ∧
        (isHbm pa = true → (s.sliceOf n).watches.length < 128 → { ladle := s.me.uid, pa := pa, old := old } ∈ (t.sliceOf n).watches)))))

/-- R348, R349: a post on a board, by the distance of its level from the board's: the same level with a new bit, and the next
level once the board is full, are accepted (1, or 2 when the bit fills the board), and the value is stored with its level; a bit set already
answers 3, the next level too early 4, an older level 5, a later one 6, and these change nothing. R347, R349, R350, R351: `bpost` and `bread`
send one request to the board the handle names, `bpost` ending the casting's restartability; at the home a post answers the board's level, its
code and its mask after the operation, and a read the slot's value and level word; a handle that names no board of the ladle's partition, or no
slot of it, is an address fault there; `bvop` reads and combines view registers. -/
def Obligations.NoticeBoards : Prop :=
  (∀ (b : Board) (slot : Nat) (level : Word32) (x : Word64), slot < 256 →
      let d := (level - b.level).toNat
      (d = 0 → b.mask.getLsbD slot = true → b.post slot level x = (b, 3)) ∧
      (d = 0 → b.mask.getLsbD slot = false →
        (b.post slot level x).1.level = b.level ∧ (∀ j < 256, (b.post slot level x).1.mask.getLsbD j = (b.mask.getLsbD j || j == slot)) ∧
        FMap.get (0, 0) (b.post slot level x).1.values slot = (x, b.level) ∧
        (b.post slot level x).2 = if (b.post slot level x).1.full then 2 else 1) ∧
      (d = 1 → b.full = true → (b.post slot level x).1.level = level ∧
        (∀ j < 256, (b.post slot level x).1.mask.getLsbD j = decide (j = slot)) ∧
        FMap.get (0, 0) (b.post slot level x).1.values slot = (x, level) ∧
        (b.post slot level x).2 = if (b.post slot level x).1.full then 2 else 1) ∧
      (d = 1 → b.full = false → b.post slot level x = (b, 4)) ∧
      (2 ≤ d → d < 2 ^ 31 → b.post slot level x = (b, 6)) ∧ (2 ^ 31 ≤ d → b.post slot level x = (b, 5))) ∧
  (∀ (s : State) (v : BitVec 2) (d a b : BitVec 6) (n : BitVec 4), s.valuesFull = false → s.shadowFull = false → s.me.pend.length < 16 →
      let read := s.me.newPending (.uniformPair d) n 1#32 [0, 0]
      let post := s.me.newPending (.post d v) n 1#32 [0, 0]
      let req := fun (kind : ReqKind) (value : Word64) (pend : Option Nat) => [boardReq s.me.who kind (s.me.getS a) value pend]
      Sends (.bread d a n) s true read (req .boardRead 0) ∧
      exec (.bpost v d a b n) s = .next ((s.unversion s.me.casting).issueRequests true post (req .post (s.me.getS b))) ∧
      (s.hold = true → s.me.shadow = none → s.me.pend = [] →
        OnItsWay (.bread d a n) s read (req .boardRead 0 (some read.id)) ∧ OnItsWay (.bpost v d a b n) s post (req .post (s.me.getS b) (some post.id)))) ∧
  (∀ (s : State) (r : Req) (o : LaneOp) (q : Nat), r.ops = [o] → r.pend = some q → r.late = [] →
      let h := o.x.toNat
      let package := h / 2 ^ 54
      let key := h / 2 ^ 42
      let slot := h / 2 ^ 34 % 256
      let b := FMap.get Board.fresh s.boards key
      let bad := h / 2 ^ 32 % 4 ≠ 0 ∨ (package ≠ s.pkg ∧ s.routed package = false) ∨ b.assigned = false ∨ b.owner ≠ r.who.part ∨ b.members ≤ slot
      let t := s.performAt r
      let c := b.post slot (o.x.setWidth 32) o.y
      (bad → r.kind = .post ∨ r.kind = .boardRead → t = s.faultNow r .address) ∧
      (¬bad → r.kind = .post →
        (∀ k, FMap.get Board.fresh t.boards k = if k = key then c.1 else FMap.get Board.fresh s.boards k) ∧ t.mem = s.mem ∧ t.slices = s.slices ∧
        (r.who.ladle = s.me.uid → t.me = { s.me with pend := s.me.pend.map (fun p => if p.id = q then
          { p with vals := [BitVec.ofNat 64 (c.1.level.toNat * 2 ^ 32 + c.2)], view := c.1.mask, missing := p.missing - 1 } else p) })) ∧
      (¬bad → r.kind = .boardRead →
        (∀ e, b.values.find? (fun e => e.1 == slot) = some e → t = s.answer r [(0, e.2.1), (1, e.2.2.setWidth 64)]) ∧
        ((∀ e ∈ b.values, e.1 ≠ slot) → t = s.answer r [(0, 0), (1, 0x8000000000000000#64)]))) ∧
  (∀ (s : State) (v w x : BitVec 2) (d b : BitVec 6),
      UniWrites (.bvopTest d v b) s d (if (s.me.bv.get v.toFin).getLsbD ((s.me.getS b).toNat % 256) then 1 else 0) ∧
      UniWrites (.bvopCount d v) s d (BitVec.ofNat 64 ((List.range 256).countP (fun i => (s.me.bv.get v.toFin).getLsbD i))) ∧
      UniWrites (.bvopWord d v b) s d (((s.me.bv.get v.toFin) >>> (64 * ((s.me.getS b).toNat % 4))).setWidth 64) ∧
      Issues (.bvopAnd v w x) s (fun l => l.bv.get v.toFin = s.me.bv.get w.toFin &&& s.me.bv.get x.toFin ∧
        (∀ q, q ≠ v → l.bv.get q.toFin = s.me.bv.get q.toFin) ∧ l = { s.me.issued with bv := l.bv }))

/-! ### Scratchpad and global memory (R131 to R148) -/

/-- R132, R133, R140, R148, R336: loads from the ladle's own scratchpad. A lane reads the word at its own address; in half
placement the upper lane of a pair takes the lower lane's. A lane out of bounds, or off its alignment, is a fault. -/
def Obligations.ScratchpadLoads : Prop :=
  ∀ (s : State) (k : BitVec 3) (n : BitVec 4) (d a b : BitVec 6) (sb : BitVec 5) (c : BitVec 1) (f : BitVec 2),
    Settled s → Quiet s → OwnPad s → PadFree s →
    let access := s.me.accessLanes k
    let from_ := fun j => if s.me.half && decide (16 ≤ j) && access.getLsbD (j - 16) then j - 16 else j
    let word := fun j => (s.me.pad.bytes.read32 (padByte s.me a sb c 4 (from_ j))).setWidth 64
    let pair := fun j => s.me.pad.bytes.read64 (padByte s.me a sb c 8 (from_ j))
    let out := fun (m : Nat) => ∃ j < 32, access.getLsbD j = true ∧ s.me.pad.size < padByte s.me a sb c m j + m
    let odd := fun (m : Nat) => ∃ j < 32, access.getLsbD j = true ∧ padByte s.me a sb c m j % m ≠ 0
    let at_ := (s.me.getS a + s.me.getS b + s.me.addressAdd).toNat
    let w := if f = 0 then 4 else 8
    let value := if f = 0 then (s.me.pad.bytes.read32 at_).setWidth 64 else s.me.pad.bytes.read64 at_
    (Legal s.me [d, a] → access ≠ 0 →
      (PadReach s.me k a sb c 4 → PadLoads (.lds k n d a sb c) s n (.lane d) (s.me.loadLanes k) word) ∧
      (out 4 → ¬ odd 4 → n = 0 → LandsFault (.lds k n d a sb c) s .padBound) ∧
      (odd 4 → ¬ out 4 → n = 0 → LandsFault (.lds k n d a sb c) s .alignment)) ∧
    (Legal s.me [d, d + 1, a] → access ≠ 0 →
      (PadReach s.me k a sb c 8 → PadLoads (.lds2 k n d a sb c) s n (.lanePair d) (s.me.loadLanes k) pair) ∧
      (out 8 → ¬ odd 8 → n = 0 → LandsFault (.lds2 k n d a sb c) s .padBound) ∧
      (odd 8 → ¬ out 8 → n = 0 → LandsFault (.lds2 k n d a sb c) s .alignment)) ∧
    (access = 0 → (Legal s.me [d, a] → Issues (.lds k n d a sb c) s (fun l => l = s.me.issued)) ∧
      (Legal s.me [d, d + 1, a] → Issues (.lds2 k n d a sb c) s (fun l => l = s.me.issued))) ∧
    (s.me.control = false → f.toNat < 2 → at_ + w ≤ s.me.pad.size → at_ % w = 0 → PadLoads (.sld f d a b n) s n (.uniform d) 1#32 (fun _ => value))

/-- R132, R134, R140, R148: stores to the ladle's own scratchpad, lane by lane, with a frame for every other byte; and `spattr`,
which sets the attribute of one page. A lane out of bounds is a fault and nothing is stored. Nothing waits on a scratchpad word here:
WaitsEnd says what a store to such a word does. -/
def Obligations.ScratchpadStores : Prop :=
  ∀ (s : State) (k : BitVec 3) (d a b : BitVec 6) (sb : BitVec 5) (c : BitVec 1) (f : BitVec 2),
    Quiet s → OwnPad s → PadFree s → NoPadWaits s →
    let access := s.me.accessLanes k
    let low := fun j => (laneAt (s.me.getV d) j).setWidth 64
    let both := fun j => BitVec.ofNat 64 ((laneAt (s.me.getV d) j).toNat + 2 ^ 32 * (laneAt (s.me.getV (d + 1)) j).toNat)
    let out := fun (m : Nat) => ∃ j < 32, access.getLsbD j = true ∧ s.me.pad.size < padByte s.me a sb c m j + m
    let odd := fun (m : Nat) => ∃ j < 32, access.getLsbD j = true ∧ padByte s.me a sb c m j % m ≠ 0
    let at_ := (s.me.getS a + s.me.getS b + s.me.addressAdd).toNat
    let w := if f = 0 then 4 else 8
    (Legal s.me [d, a] → access ≠ 0 → PairsAgree s.me k [a, d] →
      (PadReach s.me k a sb c 4 → PadStores (.sts k d a sb c) s access 4 (padByte s.me a sb c 4) low) ∧
      (out 4 → ¬ odd 4 → Faults (.sts k d a sb c) s .padBound) ∧ (odd 4 → ¬ out 4 → Faults (.sts k d a sb c) s .alignment)) ∧
    (Legal s.me [d, d + 1, a] → access ≠ 0 → PairsAgree s.me k [a, d, d + 1] →
      (PadReach s.me k a sb c 8 → PadStores (.sts2 k d a sb c) s access 8 (padByte s.me a sb c 8) both) ∧
      (out 8 → ¬ odd 8 → Faults (.sts2 k d a sb c) s .padBound) ∧ (odd 8 → ¬ out 8 → Faults (.sts2 k d a sb c) s .alignment)) ∧
    (access = 0 → (Legal s.me [d, a] → Issues (.sts k d a sb c) s (fun l => l = s.me.issued)) ∧
      (Legal s.me [d, d + 1, a] → Issues (.sts2 k d a sb c) s (fun l => l = s.me.issued))) ∧
    (s.me.control = false → f.toNat < 2 → at_ + w ≤ s.me.pad.size → at_ % w = 0 →
      PadStores (.sst f d a b) s 1#32 w (fun _ => at_) (fun _ => s.me.getS d)) ∧
    (s.me.control = false → f.toNat < 2 → s.me.pad.size < at_ + w → Faults (.sst f d a b) s .padBound) ∧
    ((s.me.getS a).toNat < s.me.pad.size → Issues (.spattr a b) s (fun l =>
      (∀ p, FMap.get 0 l.pad.attrs p = if p = (s.me.getS a).toNat / 4096 then (s.me.getS b).setWidth 9 else FMap.get 0 s.me.pad.attrs p) ∧
      l = { s.me.issued with pad := { s.me.pad with attrs := l.pad.attrs } })) ∧
    (s.me.pad.size ≤ (s.me.getS a).toNat → Faults (.spattr a b) s .padBound)

/-- R61, R135, R137 to R143, R145, R148: the loads that send requests: scratchpad elements, peer words, global elements, words
and pairs, synchronising loads, and the uniform forms. Each is pending once its requests are sent. -/
def Obligations.LoadWords : Prop :=
  ∀ (s : State) (k : BitVec 3) (n : BitVec 4) (d a b : BitVec 6) (sb : BitVec 5) (c : BitVec 1) (f : BitVec 2),
    s.me.pend.length < 16 → s.valuesFull = false →
    let l := s.me
    let lanes := bitsSet (l.accessLanes k) 32
    let sr : BitVec 6 := sb.zeroExtend 6
    let bypass := (l.getS sr).getLsbD 63
    let none_ : Nat → Word64 := fun _ => 0
    let w := if f.getLsbD 0 then 8 else 4
    LoadWord (.ldsf k n d a sb c) s [a, d] (l.accessLanes k) (globalPending s (.lane d) n k false)
      (s.ownElems l a sr c none_ lanes) (fun ops pend => [padReq l.who (.load true) l.uid pend ops]) ∧
    LoadWord (.ldp k n d a sb c) s [a, d] (l.accessLanes k) (globalPending s (.lane d) n k false)
      (s.peerOps l a sr c none_ lanes) (fun ops pend => peerReqs l.who (.load false) pend ops) ∧
    LoadWord (.ldg k n d a sb c) s [a, d] (l.accessLanes k) (globalPending s (.lane d) n k true)
      (s.elemOps l .read false a sr c none_ lanes) (fun ops pend => s.globalReqs l.who (.load true) bypass pend ops) ∧
    LoadWord (.ldg2 k n d a sb c) s [a, d, d + 1] (l.accessLanes k) (globalPending s (.lanePair d) n k true)
      (s.rawOps l .read false a sr c 8 none_ none_ lanes) (fun ops pend => s.globalReqs l.who (.load false) bypass pend ops) ∧
    LoadWord (.ldgs k n d a sb c) s [a, d] (l.accessLanes k) (globalPending s (.lane d) n k true)
      (s.rawOps l .read false a sr c 4 none_ none_ lanes) (fun ops pend => s.globalReqs l.who .syncLoad bypass pend ops) ∧
    (f.getLsbD 1 = true → ∀ ops, s.uniformGlobal l .read false w (l.getS a) (l.getS b) 0 = .ok ops →
      Sends (.sld f d a b n) s false { l.newPending (.uniform d) n 1#32 [0, 0] with globalLoad := true }
        (fun pend => s.globalReqs l.who (.load false) ((l.getS a).getLsbD 63) pend ops)) ∧
    (f.getLsbD 1 = false → ∀ o, s.uniformPad l w (l.getS a + l.getS b + l.addressAdd) 0 = .ok o →
      Sends (.sld f d a b n) s false (l.newPending (.uniform d) n 1#32 [0, 0]) (fun pend => peerReqs l.who (.load false) pend [o]))

/-- R139, R142, R143, R145, R147, R148, R336, R375, R392, R393: the words that return nothing: element, peer, global and
synchronising stores, `touchg` and `redg`. Data and addresses of a pair are compared first; a check that fails stops the
instruction before any request; a synchronising store and a contribution end the casting's restartability. -/
def Obligations.StoreWords : Prop :=
  ∀ (s : State) (k p : BitVec 3) (d a b : BitVec 6) (sb : BitVec 5) (sg : BitVec 3) (c : BitVec 1) (f : BitVec 2), s.shadowFull = false →
    let l := s.me
    let lanes := bitsSet (l.accessLanes k) 32
    let sr : BitVec 6 := sb.zeroExtend 6
    let sq : BitVec 6 := sg.zeroExtend 6
    let low := fun j => (laneAt (l.getV d) j).setWidth 64
    let both := fun j => BitVec.ofNat 64 ((laneAt (l.getV d) j).toNat + 2 ^ 32 * (laneAt (l.getV (d + 1)) j).toNat)
    let none_ : Nat → Word64 := fun _ => 0
    let ends := fun (s : State) (_ : List Req) => s.unversion s.me.casting
    let regs := if p = 3 then [a, d, d + 1] else [a, d]
    let w := if f.getLsbD 0 then 8 else 4
    StoreWord (.stsf k d a sb c) s k [a, d] [a, d] (s.ownElems l a sr c low lanes) (fun s _ => s)
      (fun ops => [padReq l.who (.store true) l.uid none ops]) ∧
    StoreWord (.stp k d a sb c) s k [a, d] [a, d] (s.peerOps l a sr c low lanes) State.notePeers
      (fun ops => peerReqs l.who (.store false) none ops) ∧
    StoreWord (.stg k d a sb c) s k [a, d] [a, d] (s.elemOps l .write true a sr c low lanes) State.noteStores
      (fun ops => s.globalReqs l.who (.store true) false none ops) ∧
    StoreWord (.stg2 k d a sb c) s k [a, d, d + 1] [a, d, d + 1] (s.rawOps l .write true a sr c 8 both none_ lanes) State.noteStores
      (fun ops => s.globalReqs l.who (.store false) false none ops) ∧
    StoreWord (.stgs k d a sb c) s k [a, d] [a, d] (s.rawOps l .sync true a sr c 4 low none_ lanes) ends
      (fun ops => s.globalReqs l.who .syncStore ((l.getS sr).getLsbD 63) none ops) ∧
    ((FMap.get [] s.retry l.cluster).length < 64 →
      StoreWord (.redg k p d a sg) s k regs regs
        (s.rawOps l .sync true a sq 0 (if p = 3 then 8 else 4) (if p = 3 then both else low) none_ lanes) ends
        (fun ops => s.redgReqs l.who p ((l.getS (sq + 8)).setWidth 32) ops)) ∧
    (64 ≤ (FMap.get [] s.retry l.cluster).length → Waits (.redg k p d a sg) s) ∧
    (Legal l [a] → l.accessLanes k ≠ 0 → bitsOf (l.getS sr) 62 57 = 0 → (l.getS sr).getLsbD 63 = true →
      exec (.touchg k a sb c) s = .next (s.issueStores [])) ∧
    (Legal l [a] → l.accessLanes k ≠ 0 → bitsOf (l.getS sr) 62 57 ≠ 0 → Faults (.touchg k a sb c) s .address) ∧
    (Legal l [a] → l.accessLanes k ≠ 0 → bitsOf (l.getS sr) 62 57 = 0 → (l.getS sr).getLsbD 63 = false → l.addressAdd = 0 →
      let va := fun j => bitsOf (l.getS sr) 56 0 + (laneAt (l.getV a) j).toNat * (if c = 1 then 256 else 1)
      s.walkNeeded l.who (lanes.map va) = none →
      exec (.touchg k a sb c) s = .next (s.issueStores (s.globalReqs l.who .touch false none (lanes.flatMap (fun j => s.touchOp l.who j (va j)))))) ∧
    (f.getLsbD 1 = true → ∀ ops, s.uniformGlobal l .write true w (l.getS a) (l.getS b) (l.getS d) = .ok ops →
      let rs := s.globalReqs l.who (.store false) false none ops
      exec (.sst f d a b) s = .next (((s.noteStores rs).notePeers rs).issueStores rs)) ∧
    (f.getLsbD 1 = false → ∀ o, s.uniformPad l w (l.getS a + l.getS b + l.addressAdd) (l.getS d) = .ok o →
      let rs := peerReqs l.who (.store false) none [o]
      exec (.sst f d a b) s = .next (((s.noteStores rs).notePeers rs).issueStores rs))

/-- R388 to R391: the atomics are long, compare in half placement, and end restartability as they issue; `cas` reads a pair. -/
def Obligations.AtomicWords : Prop :=
  ∀ (s : State) (k p : BitVec 3) (n : BitVec 4) (d a : BitVec 6) (sg : BitVec 3),
    s.me.pend.length < 16 → s.valuesFull = false → s.shadowFull = false →
    let l := s.me
    let lanes := bitsSet (l.accessLanes k) 32
    let sq : BitVec 6 := sg.zeroExtend 6
    let x := fun j => (laneAt (l.getV d) j).setWidth 64
    let y := fun j => (laneAt (l.getV (d + 1)) j).setWidth 64
    let pend := l.newPending (.lane d) n (l.loadLanes k) (List.replicate 32 0)
    let words := s.rawOps l .sync true a sq 0 4 x y lanes
    let pads := checkAll (fun j => s.atomsOp l (l.getS sq + BitVec.ofNat 64 (laneAt (l.getV a) j).toNat + l.addressAdd) (x j) (y j) j) lanes
    let atomic := fun i regs (r : Except Stop (List GlobalOp)) (mk : List GlobalOp → Option Nat → List Req) =>
      Legal l regs → l.accessLanes k ≠ 0 →
        (¬ PairsAgree l k regs → Faults i s .checkMismatch) ∧
        (PairsAgree l k regs →
          (∀ ops, r = .ok ops → exec i s = .next ((s.unversion l.casting).issueRequests true pend (mk ops)) ∧
            (s.hold = true → l.shadow = none → l.pend = [] → OnItsWay i s pend (mk ops (some pend.id)))) ∧
          (∀ c, r = .error (.fault c) → exec i s = .next (s.issueLong { pend with fault := some c })) ∧
          (∀ va kind, r = .error (.walk va kind) → exec i s = .next (s.awaitWalk va kind)))
    atomic (.atom k n p d a sg) (if p = 7 then [a, d, d + 1] else [a, d]) words (fun ops q => s.globalReqs l.who (.atomic false p) false q ops) ∧
    atomic (.atomb k n p d a sg) [a, d] words (fun ops q => s.globalReqs l.who (.atomic true p) false q ops) ∧
    (Legal l (if p = 7 then [a, d, d + 1] else [a, d]) → l.accessLanes k ≠ 0 → PairsAgree l k (if p = 7 then [a, d, d + 1] else [a, d]) →
      ∀ ops, pads = .ok ops →
        exec (.atoms k n p d a sg) s = .next ((s.notePeers (peerReqs l.who (.atomic false p) none ops)).issueRequests true pend
          (fun q => peerReqs l.who (.atomic false p) q ops)) ∧
        (s.hold = true → l.shadow = none → l.pend = [] → OnItsWay (.atoms k n p d a sg) s pend (peerReqs l.who (.atomic false p) (some pend.id) ops))) ∧
    (l.accessLanes k = 0 → Legal l [a, d, d + 1] →
      Issues (.atom k n p d a sg) s (fun l => l = s.me.issued) ∧ Issues (.atomb k n p d a sg) s (fun l => l = s.me.issued) ∧
      Issues (.atoms k n p d a sg) s (fun l => l = s.me.issued))

/-- R137 to R139, R143: what the operands of a raw global access are, when its checks pass: for each lane in order, its
address is the base's 57 bits plus the scaled offset plus AddressAdd, below 2^57 and aligned; each byte stands where the
cached translation puts it; and a store's bytes lie in the casting's declared ranges. -/
def Obligations.GlobalOperands : Prop :=
  ∀ (s : State) (kind : AccessKind) (declared : Bool) (a sb : BitVec 6) (sc : BitVec 1) (n : Nat) (x y : Nat → Word64) (lanes : List Nat)
    (ops : List GlobalOp), 0 < n → s.rawOps s.me kind declared a sb sc n x y lanes = .ok ops →
    let base := s.me.getS sb
    let va := fun j => ((base.toNat % 2 ^ 57 : Nat) : Int) + ((laneAt (s.me.getV a) j).toNat * (if sc = 1 then n else 1) : Nat) + s.me.addressAdd.toInt
    ops.length = lanes.length ∧
    ∀ i (h : i < ops.length) (h' : i < lanes.length),
      let o := ops[i].op
      let j := lanes[i]
      base.toNat / 2 ^ 57 % 64 = 0 ∧ 0 ≤ va j ∧ va j < 2 ^ 57 ∧ va j % n = 0 ∧
      o.lane = j ∧ o.bit = 0 ∧ o.width = 8 * n ∧ o.x = x j ∧ o.y = y j ∧ o.bytes.length = n ∧
      ∀ b (hb : b < o.bytes.length),
        (∃ leaf, s.cached s.me.cluster s.me.part ((va j).toNat + b) kind = some leaf ∧ o.bytes[b] = s.memKey s.me.part (leaf.addr ((va j).toNat + b)) ∧
          s.paBad s.me.part (leaf.addr ((va j).toNat + b)) = false) ∧
        (declared = true → ∃ r ∈ s.writeRanges s.me.casting, r.1 ≤ (va j).toNat + b ∧ (va j).toNat + b < r.1 + r.2)

/-- R143, R151, R183, R208, R209, R338, R378: plain accesses at a home slice. A load that neither races nor meets poison answers
each lane with the bytes of the casting's own version where it holds them and committed bytes elsewhere, and changes no
byte. A store changes the casting's version of its own bytes alone: committed memory and every other version stay.
R142: a load of an element gives its lane what its format makes of its bits and its scale byte, and a store of one (to a page whose descriptor
names no amax slot) replaces its own bits alone. The model's choice: a load of an F32 NaN gives the canonical NaN (log 74). -/
def Obligations.PlainAccesses : Prop :=
  (∀ (s : State) (r : Req) (n w : Nat) (o : LaneOp), AtHome s r n o → RawOp o w →
    let view := fun a => (s.versionByte n r.who.casting a).getD (s.mem.read a)
    (r.kind = .load false → s.requestRaces r false = true → s.performAt r = s.slotFault r .memoryOrder) ∧
    (r.kind = .load false → s.requestRaces r false = false → ∀ q, r.pend = some q →
      ∃ u : State, s.performAt r = u.answer r [(o.lane, BitVec.ofNat 64 (numberIn view o.bytes))] ∧ (∀ a, u.mem.read a = s.mem.read a) ∧
        u.me = s.me ∧ u.rest = s.rest ∧ ∀ m c a, u.versionByte m c a = s.versionByte m c a) ∧
    (r.kind = .store false → s.requestRaces r true = true → s.performAt r = s.slotFault r .memoryOrder) ∧
    (r.kind = .store false → s.requestRaces r true = false → (∀ b ∈ o.bytes, ∃ f ∈ (s.sliceOf n).frames, f.casting = r.who.casting ∧ f.tile = tileOf b) →
      (∀ a, (s.performAt r).mem.read a = s.mem.read a) ∧ (s.performAt r).me = s.me ∧ (s.performAt r).rest = s.rest ∧
      (∀ i (h : i < o.bytes.length), (s.performAt r).versionByte n r.who.casting o.bytes[i] = some (BitVec.ofNat 8 (o.x.toNat / 256 ^ i))) ∧
      (∀ m c a, m ≠ n ∨ c ≠ r.who.casting ∨ a ∉ o.bytes → (s.performAt r).versionByte m c a = s.versionByte m c a))) ∧
  (∀ (s : State) (r : Req) (n : Nat) (o : LaneOp), AtHome s r n o → ElemOp s r.who.part o →
    let view := fun a => (s.versionByte n r.who.casting a).getD (s.mem.read a)
    let old := numberIn view o.bytes
    let scale := o.scale.map (fun a => (s.scaleView r o a).toNat)
    (r.kind = .load true → s.requestRaces r false = false → ∀ q, r.pend = some q →
      ∃ (u : State) (x : Word32), s.performAt r = u.answer r [(o.lane, x.setWidth 64)] ∧
        ElemLoaded s r.who.part o scale (old / 2 ^ o.bit % 2 ^ o.width) x ∧ (∀ a, u.mem.read a = s.mem.read a) ∧
        u.me = s.me ∧ u.rest = s.rest ∧ ∀ m c a, u.versionByte m c a = s.versionByte m c a) ∧
    (r.kind = .store true → s.requestRaces r true = false → (s.desc r.who.part o.desc).ae = false →
      (∀ b ∈ o.bytes, ∃ f ∈ (s.sliceOf n).frames, f.casting = r.who.casting ∧ f.tile = tileOf b) →
      let new := numberIn (fun a => ((s.performAt r).versionByte n r.who.casting a).getD 0) o.bytes
      (∃ code, ElemStored s r.who.part o scale (o.x.setWidth 32) code ∧ new / 2 ^ o.bit % 2 ^ o.width = code % 2 ^ o.width) ∧
      new % 2 ^ o.bit = old % 2 ^ o.bit ∧ new / 2 ^ (o.bit + o.width) = old / 2 ^ (o.bit + o.width) ∧
      (∀ a, (s.performAt r).mem.read a = s.mem.read a) ∧ (s.performAt r).me = s.me ∧ (s.performAt r).rest = s.rest ∧
      (∀ m c a, m ≠ n ∨ c ≠ r.who.casting ∨ a ∉ o.bytes → (s.performAt r).versionByte m c a = s.versionByte m c a)))

/-- R145, R389: synchronising accesses at their slot. A load answers committed bytes; a store writes them; an atomic answers the
old word and writes what its operation gives, in one step. Every other byte of memory stays. What an answer goes into is the state before, but
for the waits that an atomic's write ends (R398). -/
def Obligations.SynchronisingAccesses : Prop :=
  ∀ (s : State) (r : Req) (n q : Nat) (o : LaneOp) (p : BitVec 3), AtHome s r n o → RawOp o 4 →
    let old : Word32 := BitVec.ofNat 32 (numberIn s.mem.read o.bytes)
    let x : Word32 := o.x.setWidth 32
    let y : Word32 := o.y.setWidth 32
    let word : Word32 := match p.toNat with
      | 0 => BitVec.ofNat 32 (old.toNat + x.toNat)
      | 1 => (addF32 .ne old x).1
      | 2 => BitVec.ofInt 32 (min old.toInt x.toInt)
      | 3 => BitVec.ofInt 32 (max old.toInt x.toInt)
      | 4 => BitVec.ofNat 32 (min old.toNat x.toNat)
      | 5 => BitVec.ofNat 32 (max old.toNat x.toNat)
      | 6 => x
      | _ => if old = x then y else old
    let bits : Word32 := match p.toNat with
      | 0 => old &&& x
      | 1 => old ||| x
      | 2 => old ^^^ x
      | _ => if x.toNat ≤ old.toNat then 0 else old + 1
    let holds := fun (t : State) (v : Word32) => SameOutside s t o.bytes ∧ numberIn t.mem.read o.bytes = v.toNat
    let answers := ∃ u : State, s.performAt r = u.answer r [(o.lane, old.setWidth 64)] ∧
      u.ladles.map (fun l => (l.uid, l.v, l.s, l.pend)) = s.ladles.map (fun l => (l.uid, l.v, l.s, l.pend)) ∧
      ((s.sliceOf n).watches = [] → u.me = s.me ∧ u.rest = s.rest)
    (r.kind = .syncLoad → answers ∧ ∀ a, (s.performAt r).mem.read a = s.mem.read a) ∧
    (r.kind = .syncStore → holds (s.performAt r) x) ∧
    (r.kind = .atomic false p → r.pend = some q → answers ∧ holds (s.performAt r) word) ∧
    (r.kind = .atomic true p → p.toNat < 4 → r.pend = some q → answers ∧ holds (s.performAt r) bits)

/-- R392, R394, R395: a contribution at its target's home. One that carries the stream's next number is applied; one within 255
of it waits in the buffer, and memory stays; one whose number has passed is a memory-order fault; one too far ahead goes to
its cluster's retry queue. The first contribution of a stream opens its cursor, whatever becomes of it. A stream's last
contribution ends it. With others waiting in the buffer, a contribution that fills the gap is applied and after it, in their order, all that
follow without a gap, up to the stream's last, which ends it. A number that is buffered already, and one after the number that the buffer holds
as the last, are memory-order faults; a full buffer, and a target without a cursor while the table is full, send a contribution to its cluster's
retry queue. -/
def Obligations.ReductionsInOrder : Prop :=
  (∀ (s : State) (r : Req) (n w : Nat) (o : LaneOp) (p : BitVec 3) (index : Word32), AtHome s r n o → RawOp o w →
    r.kind = .redg p index → w = (if p = 3 then 8 else 4) → p.toNat < 4 → (s.sliceOf n).buffer = [] → (s.sliceOf n).cursors.length < 1024 →
    let target := o.bytes.headD 0
    o.bytes = (List.range w).map (target + ·) →
    let next := FMap.get 0 (s.sliceOf n).cursors target - 1
    let seq := index.toNat % 2 ^ 31
    let ahead := (seq + 2 ^ 31 - next) % 2 ^ 31
    let last := index.getLsbD 31
    let old := numberIn s.mem.read o.bytes
    let t := s.performAt r
    let s' := s.modSlice n (fun x => x.openCursor target)
    next < 2 ^ 31 →
    (ahead = 0 →
      SameOutside s t o.bytes ∧
      (p = 2 → numberIn t.mem.read o.bytes = (old + o.x.toNat % 2 ^ 32) % 2 ^ 32) ∧
      (p = 0 → numberIn t.mem.read o.bytes = (addF32 .ne (BitVec.ofNat 32 old) (o.x.setWidth 32)).1.toNat) ∧
      (p = 1 → numberIn t.mem.read o.bytes = (minMaxF32 true false (BitVec.ofNat 32 old) (o.x.setWidth 32)).1.toNat) ∧
      FMap.get 0 (t.sliceOf n).cursors target = (if last then 0 else (next + 1) % 2 ^ 31 + 1) ∧ (t.sliceOf n).buffer = []) ∧
    (1 ≤ ahead → ahead ≤ 255 → (∀ a, t.mem.read a = s.mem.read a) ∧ FMap.get 0 (t.sliceOf n).cursors target = next + 1 ∧
      (t.sliceOf n).buffer = [{ target := target, seq := seq, last := last, op := p, x := o.x }]) ∧
    (256 ≤ ahead → ahead < 2 ^ 30 → t = { s' with retry := FMap.modify [] s.retry r.who.cluster (· ++ [r]) }) ∧
    (2 ^ 30 ≤ ahead → t = s'.slotFault r .memoryOrder)) ∧
  (∀ (s : State) (r : Req) (n w : Nat) (o : LaneOp) (p : BitVec 3) (index : Word32), AtHome s r n o → RawOp o w →
    r.kind = .redg p index → w = (if p = 3 then 8 else 4) → p.toNat < 4 →
    let x := s.sliceOf n
    let target := o.bytes.headD 0
    o.bytes = (List.range w).map (target + ·) →
    let next := FMap.get 0 x.cursors target - 1
    let seq := index.toNat % 2 ^ 31
    let ahead := (seq + 2 ^ 31 - next) % 2 ^ 31
    let repeated := ∃ c ∈ x.buffer, c.target = target ∧ c.seq = seq
    let past := ∃ c ∈ x.buffer, c.target = target ∧ c.last = true ∧ c.seq < seq
    let full := 256 ≤ x.buffer.length ∨ (FMap.get 0 x.cursors target = 0 ∧ 1024 ≤ x.cursors.length)
    let t := s.performAt r
    let s' := s.modSlice n (fun x => x.openCursor target)
    let buffer := x.buffer ++ [{ target := target, seq := seq, last := index.getLsbD 31, op := p, x := o.x }]
    let entry := fun (i : Nat) => buffer.find? (fun c => decide (c.target = target) && decide (c.seq = (next + i) % 2 ^ 31))
    let ended := fun (k : Nat) => decide (0 < k) && (entry (k - 1)).any (·.last)
    next < 2 ^ 31 →
    (2 ^ 30 ≤ ahead ∨ repeated ∨ past → t = s'.slotFault r .memoryOrder) ∧
    (ahead < 2 ^ 30 → ¬ repeated → ¬ past → 256 ≤ ahead ∨ full →
      t = { s' with retry := FMap.modify [] s.retry r.who.cluster (· ++ [r]) } ∧ (∀ a, t.mem.read a = s.mem.read a) ∧ (t.sliceOf n).buffer = x.buffer) ∧
    (ahead < 256 → ¬ repeated → ¬ past → ¬ full → ∀ k,
      (∀ i < k, ∃ c, entry i = some c ∧ (c.last = true → i + 1 = k)) →
      (entry k = none ∨ ended k = true) →
      (∃ m : Nat → Nat → Byte, (∀ a, m 0 a = s.mem.read a) ∧ (∀ a, t.mem.read a = m k a) ∧
        ∀ i < k, ∀ c, entry i = some c → ∀ a,
          let width := if c.op = 3 then 8 else 4
          m (i + 1) a = if target ≤ a ∧ a < target + width then
            BitVec.ofNat 8 (redgResult c.op (numberIn (m i) ((List.range width).map (target + ·))) c.x / 256 ^ (a - target)) else m i a) ∧
      FMap.get 0 (t.sliceOf n).cursors target =
        (if ended k then 0 else (next + k) % 2 ^ 31 + 1) ∧
      (t.sliceOf n).buffer = (List.range k).foldl (fun l i => match entry i with | some c => l.erase c | none => l) buffer))

/-! ### Distance, pinning, replicas (R178 to R190, R203, R213 to R223) -/

/-- R213 to R223: the words on distance. The single forms name one tile, the others as many as their count register holds. -/
def Obligations.DistanceWords : Prop :=
  ∀ (s : State) (d a b r : BitVec 6) (n : BitVec 4), s.me.pend.length < 16 → s.valuesFull = false →
    let m := (s.me.getS r).toNat
    let die := s.me.cluster / 32
    let homed := fun (p : Nat × Leaf) => some (s.placeOf die p.1 false false)
    let unlessHost := fun (p : Nat × Leaf) => if isHost p.1 then none else some (s.placeOf die p.1 false false)
    let replica := fun (p : Nat × Leaf) => if (s.placeOf die p.1 p.2.rpl true).2 then some (s.placeOf die p.1 p.2.rpl true) else none
    let ends := fun (s : State) => s.unversion s.me.casting
    let noHost := fun k => ∀ va ∈ tilesNamed s a b k, ∀ p, s.physical s.me.who va .read = .ok p → isHost p.1 = false
    (noHost 1 → RangeWord (.pin a b) s a b 1 .read .pin id homed) ∧
    (noHost m → RangeWord (.pinR r a b) s a b m .read .pin id homed) ∧
    RangeWord (.unpin a b) s a b 1 .read .unpin id unlessHost ∧ RangeWord (.unpinR r a b) s a b m .read .unpin id unlessHost ∧
    RangeWord (.rwb a b) s a b 1 .sync .rwb ends replica ∧ RangeWord (.rwbR r a b) s a b m .sync .rwb ends replica ∧
    RangeWord (.rinv a b) s a b 1 .read .rinv id replica ∧ RangeWord (.rinvR r a b) s a b m .read .rinv id replica ∧
    (¬ RangeLegal s a b 1 → Faults (.touch a b) s .address) ∧ (¬ RangeLegal s a b m → Faults (.touchR r a b) s .address) ∧
    ((s.me.getS a).getLsbD 63 = true → (RangeLegal s a b 1 → Issues (.touch a b) s (fun l => l = s.me.issued)) ∧
      (RangeLegal s a b m → Issues (.touchR r a b) s (fun l => l = s.me.issued))) ∧
    (let sent := fun k => (s.done (fun l => l)).submitAll (((tilesNamed s a b k).flatMap (fun va => s.touchOp s.me.who 0 va)).map (fun g =>
        { tileReq s.me.who .touch (s.placeOf die (g.op.bytes.headD 0) g.rpl true) none (g.op.bytes.headD 0) with ranged := true }))
     (s.me.getS a).getLsbD 63 = false →
      (RangeLegal s a b 1 → s.walkNeeded s.me.who (tilesNamed s a b 1) = none → exec (.touch a b) s = .next (sent 1)) ∧
      (RangeLegal s a b m → s.walkNeeded s.me.who (tilesNamed s a b m) = none → exec (.touchR r a b) s = .next (sent m))) ∧
    (RangeLegal s a b 1 → ∀ p, s.physical s.me.who (firstTile s a b) .read = .ok p →
      Sends (.dist d a b n) s false (s.me.newPending (.uniform d) n 1#32 [0, 0])
        (fun pend => [tileReq s.me.who (.dist false) (s.placeOf die p.1 p.2.rpl true) pend p.1]) ∧
      Sends (.distH d a b n) s false (s.me.newPending (.uniform d) n 1#32 [0, 0])
        (fun pend => [tileReq s.me.who (.dist true) (s.placeOf die p.1 p.2.rpl false) pend p.1]))

/-- R179, R180, R217 to R222: the requests of these words at a slice: a distance word names the state, the place, the ring and
the distance; a touch brings a tile to distance 0 and moves each nearer tile one place away; a pin takes a tile from the
chain within its partition's quota; an unpin gives it back at distance 0; `rwb` merges a replica's dirty bytes and clears
its mask; `rinv` drops the replica and its dirty bytes. -/
def Obligations.DistanceRequests : Prop :=
  ∀ (s : State) (r : Req) (n pa : Nat), n < 64 → r.place = .slice n → r.bytes = [pa] → isHbm pa = true → r.tile = tileOf pa →
    r.ops.filterMap (·.scale) = [] → r.late = [] →
    let x := s.sliceOf n
    let t := s.performAt r
    let y := t.sliceOf n
    let ring := fun d => if d < 1024 then 0 else if d < 5120 then 1 else if d < 21504 then 2 else if d < 87040 then 3 else 4
    let at_ := fun (state : Nat) => state * 2 ^ 62 + n / 32 * 2 ^ 45 + n % 32 * 2 ^ 40
    let free := r.replica = false ∧ x.pinned r.tile = false ∧ s.promotes n r.who.part = true ∧ r.bypass = false
    let room := x.chain.length < s.chainPlaces n
    (∀ h, r.kind = .dist h → r.replica = false →
      (x.pinned r.tile = true → t = s.answer r [(0, BitVec.ofNat 64 (at_ 1))]) ∧
      (∀ d, x.pinned r.tile = false → x.distance r.tile = some d → t = s.answer r [(0, BitVec.ofNat 64 (at_ 0 + ring d * 2 ^ 32 + d))]) ∧
      (x.pinned r.tile = false → x.distance r.tile = none → t = s.answer r [(0, BitVec.ofNat 64 (at_ 2))])) ∧
    (r.kind = .touch → free → ∀ d, x.distance r.tile = some d →
      y.distance r.tile = some 0 ∧ (∀ q e, q ≠ r.tile → x.distance q = some e → y.distance q = some (if e < d then e + 1 else e)) ∧
      t.mem = s.mem ∧ t.me = s.me) ∧
    (r.kind = .touch → free → x.distance r.tile = none → room →
      y.distance r.tile = some 0 ∧ (∀ q e, x.distance q = some e → y.distance q = some (e + 1)) ∧ t.mem = s.mem) ∧
    (r.kind = .pin → x.pinned r.tile = false → s.pinQuota n r.who.part ≤ (x.pins.filter (fun e => e.2 == r.who.part)).length →
      t = s.rangeFault r .pinQuota) ∧
    (r.kind = .pin → x.pinned r.tile = false → (x.pins.filter (fun e => e.2 == r.who.part)).length < s.pinQuota n r.who.part →
      y.pinned r.tile = true ∧ y.chain = x.chain.erase r.tile ∧ t.mem = s.mem) ∧
    (r.kind = .pin → x.pinned r.tile = true → t = s) ∧
    (r.kind = .unpin → x.pins = [(r.tile, r.who.part)] → room → y.pinned r.tile = false ∧ y.distance r.tile = some 0 ∧ t.mem = s.mem) ∧
    (r.kind = .unpin → (r.tile, r.who.part) ∉ x.pins → t = s) ∧
    (∀ q, x.replica? r.tile = some q → s.quiet = true →
      (r.kind = .rwb → (∀ a, t.mem.read a =
          if tileOf a = q.tile ∧ q.dirty.getLsbD (a % 256) = true then q.bytes.getD (a % 256) 0 else s.mem.read a) ∧
        ∀ p ∈ y.replicas, p.tile = r.tile → p.dirty = 0) ∧
      (r.kind = .rinv → r.replica = true → y.replica? r.tile = none ∧ t.mem = s.mem))

/-! ### The matrix unit, residues, amax (R236 to R241, R260 to R275, R286 to R332) -/

/-- R49, R270, R288 to R303: matrix and residue words at issue; `mbatch` closes the open batch and answers its number; `mwait` goes
on, blocks, or is illegal for a batch not yet closed; `amax` sends one request, and an index above 127 is an address fault. -/
def Obligations.MatrixWords : Prop :=
  ∀ (s : State) (z : BitVec 3) (k sc : BitVec 2) (a b d : BitVec 6) (p : BitVec 5) (t g e : BitVec 1) (n : BitVec 4),
    let l := s.me
    let at_ := l.getS a + l.getS b + l.addressAdd
    let x := l.getS a
    let m := s.mat l.cluster
    let room := l.control = true ∧ m.queue.length < 32
    let i := x.toNat
    let y := l.getS b
    let ask := fun (clear : Bool) (pend : Option Nat) => ([
      { id := 0, who := l.who, kind := .amaxRead clear, place := .amax (l.part * 128 + i), tile := 0, bypass := false,
        replica := false, rpl := false, pend := pend, ops := [], held := false }] : List Req)
    let result := l.newPending (.uniform d) n 1#32 [0, 0]
    QueuesWord (.mmz z) s 0 0 0 ∧
    QueuesWord (.mm z k a b p t sc) s at_ x y ∧ QueuesWord (.mmr z k a b p t sc) s at_ x y ∧
    QueuesWord (.wload k a b p t g) s at_ x y ∧
    QueuesWord (.mstore z k a b t g) s at_ x y ∧ QueuesWord (.mstt z k a b t g) s at_ x y ∧
    QueuesWord (.msetmRow k a b) s 0 x y ∧ QueuesWord (.msetmCol k a b) s 0 x y ∧
    QueuesWord (.msetmDepth k a) s 0 x 0 ∧ QueuesWord (.msetmFull k) s 0 0 0 ∧
    QueuesWord (.rnsf z k a b g) s at_ x y ∧ QueuesWord (.rnsr z k a b t g e) s at_ x y ∧ QueuesWord (.rnsq z a g) s 0 0 0 ∧
    (room → m.closed + 1 < 2 ^ 48 → Joins (.mbatch a) s 0 0 0 (l.issued.setS a (BitVec.ofNat 64 (m.closed + 1))).advance
      (fun q => { q with closed := m.closed + 1, opened := 0 })) ∧
    (room → m.closed + 1 = 2 ^ 48 → Faults (.mbatch a) s .illegal) ∧
    (room → Settled s → m.closed < i → Faults (.mwait a) s .illegal) ∧
    (room → Settled s → i ≤ m.closed → i < 2 ^ 48 → i ≤ m.completed → Joins (.mwait a) s 0 x 0 l.issued.advance id) ∧
    (room → Settled s → i ≤ m.closed → i < 2 ^ 48 → m.completed < i →
      Joins (.mwait a) s 0 x 0 (l.issued.block (.mwait i)).fillSlots id) ∧
    (l.control = true → 32 ≤ m.queue.length → Waits (.mbatch a) s ∧ Waits (.mwait a) s) ∧
    (l.control = false → Faults (.mbatch a) s .illegal ∧ Faults (.mwait a) s .illegal) ∧
    (l.pend.length < 16 → s.valuesFull = false → s.shadowFull = false →
      (i ≤ 127 → Sends (.amax d a n) s false result (ask false) ∧ Sends (.amaxClr d a n) s true result (ask true)) ∧
      (i ≤ 127 → s.hold = true → l.shadow = none → l.pend = [] →
        OnItsWay (.amax d a n) s result (ask false (some result.id)) ∧ OnItsWay (.amaxClr d a n) s result (ask true (some result.id))) ∧
      (127 < i → exec (.amax d a n) s = .next (s.issueLong { result with fault := some .address }) ∧
        exec (.amaxClr d a n) s = .next (s.issueLong { result with fault := some .address })))

/-- R264, R265, R303: an amax slot takes the greatest magnitude folded into it and no smaller one, and a NaN for good; a read answers it,
and `amax.clr` clears it in the same step.
R260 to R263, R272, R294, R312, R320: a step changes the selected elements of its tile alone. An `mm` element takes its old value plus its
block sum, in the fixed order; an `mmr` element adds the sum of integer products in every live channel, and a retired channel's byte is 0. An
`mmr` word takes integers alone, puts its tile into residue mode, where a tile that was not starts from zero, and counts its depths in the
tile's depth counter, which above 2^25 sets U in the status word. -/
def Obligations.AmaxSlotsAndMatrixSteps : Prop :=
  (∀ (s : State) (part slot : Nat) (x : Word32) (r : Req) (clear : Bool) (n : Nat), slot < 128 →
      let old := FMap.get 0 s.amax (part * 128 + slot)
      let t := s.foldAmax part slot x
      let new := FMap.get 0 t.amax (part * 128 + slot)
      let mag := fun (v : Word32) => v.toNat % 2 ^ 31
      let nan := fun (v : Word32) => 0x7f800000 < mag v
      (¬ nan x → ¬ nan old → old.toNat < 2 ^ 31 → new.toNat = max old.toNat (mag x)) ∧
      (nan x ∨ nan old → nan new) ∧
      (∀ q, q ≠ part * 128 + slot → FMap.get 0 t.amax q = FMap.get 0 s.amax q) ∧
      (r.kind = .amaxRead clear → r.place = .amax n → r.pend = none →
        FMap.get 0 (s.performAt r).amax n = (if clear then 0 else FMap.get 0 s.amax n) ∧ (s.performAt r).mem = s.mem) ∧
      (r.kind = .amaxRead clear → r.place = .amax n → ∃ u : State, s.performAt r = u.answer r [(0, (FMap.get 0 s.amax n).setWidth 64)] ∧ u.me = s.me ∧ u.rest = s.rest)) ∧
  (∀ (s u : State) (l : Ladle) (e : QEntry) (z : BitVec 3) (k q : BitVec 2) (a b : BitVec 6) (p : BitVec 5) (t : BitVec 1),
      let m := s.mat l.cluster
      let m' := u.mat l.cluster
      let slot := m.slot (p.toNat + e.steps)
      (e.instr = .mm z k a b p t q → s.stepWord l e = .ok u →
        m.residue.get z.toFin = false ∧ slot.valid = true ∧
        (∀ y i n, i < 96 → n < 96 → y ≠ z.toNat ∨ (m.my.get k.toFin).getLsbD i = false ∨ (m.mx.get k.toFin).getLsbD n = false →
          m'.zAt y i n = m.zAt y i n) ∧
        ∃ v : State × StepA, s.readA l e k (t == 1) (2 ^ q.toNat) e.steps floatOperand = .ok v ∧
          ∀ i n, i < 96 → n < 96 → (m.my.get k.toFin).getLsbD i = true → (m.mx.get k.toFin).getLsbD n = true →
            m'.zAt z.toNat i n = (v.2.element slot (m.depths k) (t == 1) ((m.zAt z.toNat i n).setWidth 32) i n).setWidth 48) ∧
      (∀ retired x sum c, c < 6 → residueAt (stepResidues retired x sum) c =
        if retired.getLsbD c then 0 else (((residueAt x c : Int) + sum) % [239, 233, 229, 227, 251, 241].getD c 1).toNat) ∧
      (e.instr = .mmr z k a b p t q → s.stepWord l e = .ok u → l.cluster < 64 →
        let before := fun (i n : Nat) => if m.residue.get z.toFin then m.zAt z.toNat i n else 0
        let depths := (List.range 48).filter (fun d => (m.md.get k.toFin).getLsbD d)
        let depth := min ((if m.residue.get z.toFin then m.depth.get z.toFin else 0) + depths.length) (2 ^ 64 - 1)
        slot.valid = true ∧ (slot.format = 9 ∨ slot.format = 10) ∧ m'.residue.get z.toFin = true ∧
        (∀ y i n, i < 96 → n < 96 → y ≠ z.toNat → m'.zAt y i n = m.zAt y i n) ∧
        (∀ i n, i < 96 → n < 96 → (m.my.get k.toFin).getLsbD i = false ∨ (m.mx.get k.toFin).getLsbD n = false → m'.zAt z.toNat i n = before i n) ∧
        m'.depth.get z.toFin = depth ∧ (2 ^ 25 < depth → (m'.status.get z.toFin).getLsbD 63 = true) ∧
        (depth ≤ 2 ^ 25 → m'.status.get z.toFin = m.status.get z.toFin) ∧
        ∃ v : State × StepA, s.readA l e k (t == 1) (2 ^ q.toNat) e.steps intOperand = .ok v ∧
          ∀ i n, i < 96 → n < 96 → (m.my.get k.toFin).getLsbD i = true → (m.mx.get k.toFin).getLsbD n = true →
            let sum : Int := (depths.map (fun d => match v.2.at i d with
              | some x => signExtend x.1 (fmtBits v.2.desc.fmt) * slot.int d n
              | none => 0)).sum
            ∀ c, c < 6 → residueAt (m'.zAt z.toNat i n) c = if (s.retiredOf l.cluster).getLsbD c then 0
              else (((residueAt (before i n) c : Int) + sum) % [239, 233, 229, 227, 251, 241].getD c 1).toNat))

/-- R150, R238, R270, R273, R290 to R302, R338: the matrix unit takes the word at the head of its cluster's queue. A word that needs no memory
changes its masks or its tile; a step is counted; a fault of a word is raised at the word; a completed word leaves the queue,
makes its slot valid, or answers `rnsq`; a batch completes when no word of it is left and no write or fold of its drains is on its way, and the
splits that wait for it go on. A request that another keeps from its bank or slice stands there, and the word waits; a poisoned table entry is
an uncorrectable error of the word. -/
def Obligations.MatrixUnit : Prop :=
  ∀ (s : State) (c : Nat) (l : Ladle) (e : QEntry) (r : List QEntry), MatrixHead s c l e r →
    let m := s.mat c
    let begins := s.unitBegins l = true
    let ready := e.started = false ∧ begins ∧ ∀ q ∈ s.ownOutstanding l.uid, e.after ≤ q.order
    let begun := { e with started := true } :: r
    let raisedIn := fun (u : State) f => (u.failChain (l.whoAt e.pc) e.after).raiseFor l.casting l.rank l.cluster l.core f e.pc
    let raised := raisedIn s
    let wide : BitVec 96 := BitVec.ofNat 96 (e.src1.toNat + 2 ^ 64 * (e.src2.toNat % 2 ^ 32))
    let sets := fun (m' : Matrix) => Completes (.matrixWordStart c) s (fun t => t.mat c = { m' with queue := begun } ∧ t.me = s.me ∧ t.mem = s.mem)
    (ready → ∀ k a b, e.instr = .msetmRow k a b → sets { m with my := m.my.set k.toNat wide k.isLt }) ∧
    (ready → ∀ k a b, e.instr = .msetmCol k a b → sets { m with mx := m.mx.set k.toNat wide k.isLt }) ∧
    (ready → ∀ k a, e.instr = .msetmDepth k a → sets { m with md := m.md.set k.toNat (e.src1.setWidth 48) k.isLt }) ∧
    (ready → ∀ z, e.instr = .mmz z → Completes (.matrixWordStart c) s (fun t =>
      (∀ i n, i < 96 → n < 96 → (t.mat c).zAt z.toNat i n = 0) ∧ (t.mat c).residue.get z.toFin = false ∧ (t.mat c).depth.get z.toFin = 0 ∧
      (∀ y i n, y ≠ z.toNat → i < 96 → n < 96 → (t.mat c).zAt y i n = m.zAt y i n) ∧ (t.mat c).queue = begun ∧ t.mem = s.mem)) ∧
    (ready → ∀ u, s.startWord l e = .ok u →
      exec (.matrixWordStart c) s = .next (u.modMat c (fun m => m.mapHead (fun e => { e with started := true })))) ∧
    (ready → ∀ f, s.startWord l e = .error (.fault f) → exec (.matrixWordStart c) s = .next (raised f)) ∧
    (ready → ∀ u, s.startWord l e = .error (.stand u) → exec (.matrixWordStart c) s = .next u) ∧
    (ready → ∀ va kind reason, s.startWord l e = .error (.walk va kind) → s.translate l.cluster l.part va kind = .error reason →
      let u := s.correctTables l.cluster l.part va kind
      (reason = walkPoison → exec (.matrixWordStart c) s = .next (raisedIn u .uncorrectable)) ∧
      (reason ≠ walkPoison → s.dropping l.casting = false →
        exec (.matrixWordStart c) s = .next (u.suspendCasting (l.whoAt e.pc) (some e.after) va kind reason))) ∧
    (¬ begins → Idles (.matrixWordStart c) s ∧ Idles (.matrixStep c) s) ∧
    (e.started = true → begins → e.steps < e.total → ∀ u, s.stepWord l e = .ok u →
      exec (.matrixStep c) s = .next (u.modMat c (fun m => m.mapHead (fun e => { e with steps := e.steps + 1 })))) ∧
    (e.started = true → begins → e.steps < e.total → ∀ f, s.stepWord l e = .error (.fault f) →
      exec (.matrixStep c) s = .next (raised f)) ∧
    (e.started = true → begins → e.steps < e.total → s.stepWord l e = .error .wait → Idles (.matrixStep c) s) ∧
    (e.started = true → begins → e.steps < e.total → ∀ u, s.stepWord l e = .error (.stand u) → exec (.matrixStep c) s = .next u) ∧
    (e.started = true → e.steps = e.total → Completes (.matrixWordComplete c) s (fun t =>
      (t.mat c).queue = r ∧ t.mem = s.mem ∧ (t.mat c).z = m.z ∧
      (∀ k a b p q g, e.instr = .wload k a b p q g → ((t.mat c).slot p.toNat).valid = true ∧
        ∀ n, n ≠ p.toNat → (t.mat c).slot n = m.slot n) ∧
      (∀ z a q, e.instr = .rnsq z a q → t = ({ s with matrix := t.matrix } : State).modLadle l.uid (fun l => l.setS a (m.status.get z.toFin)) ∧
        (t.mat c).status.get z.toFin = if q = 1 then 0 else m.status.get z.toFin))) ∧
    (m.completed < m.closed → (∀ q ∈ m.queue, m.completed + 1 < q.batch) → (∀ q ∈ s.outstanding l.uid, q.engine ≠ none → q.kind ≠ .fold ∧ q.unit ≠ some 5) →
      Completes (.batchComplete c) s (fun t => t.mem = s.mem ∧
        t.mat c = { m with completed := m.completed + 1, olds := m.olds.filter (fun q => decide (m.completed + 1 < q.1)) } ∧
        (l.uid = s.me.uid → ∀ n, s.me.sp.blocked = .mwait n → n ≤ m.completed + 1 → t.me.sp.blocked = .ready ∧ t.me.sp.pc = s.me.sp.pc + 4)))

/-- R309, R313, R318, R319, R321, R328: residues carry every integer up to 2^30 in magnitude. With all channels right the drain
reconstructs it; with one wrong residue, in any one channel, the drain names that channel and gives the integer; with one
channel retired the five others reconstruct it. -/
def Obligations.ResiduesCorrectOneChannel : Prop :=
  ∀ (v : Int), v.natAbs ≤ 2 ^ 30 →
    let m : Nat → Nat := fun c => [239, 233, 229, 227, 251, 241].getD c 1
    let res := fun (c : Nat) => (v % (m c : Int)).toNat
    classify 0 res = .value v ∧
    (∀ c, c < 6 → ∀ w : Nat, w < m c → w ≠ res c → classify 0 (fun i => if i = c then w else res i) = .corrected c v) ∧
    (∀ c, c < 6 → ∀ w : Nat, classify (BitVec.ofNat 6 (2 ^ c)) (fun i => if i = c then w else res i) = .value v)

/-! ### The copy engine (R233, R234, R278 to R285, R304, R305) -/

/-- R234, R304, R305: `chain` takes one of the engine's eight slots, at an entry of 32 aligned bytes in the ladle's own allocation,
and waits while none is free; with a trailing shadow it is compared first (R335); `chainq` answers whether the chain at its address
runs, and how many slots are free. -/
def Obligations.ChainWords : Prop :=
  ∀ (s : State) (d a : BitVec 6) (n : BitVec 4), s.me.control = false →
    let l := s.me
    let cs := s.chainList l.cluster
    let x := (l.getS a).toNat
    let word : Word64 := BitVec.ofNat 64
      (match cs.find? (fun c => decide (c.who.ladle = l.uid) && decide (c.start = x)) with
       | some c => (if c.waiting then 2 ^ 63 else 2 ^ 62) + (8 - cs.length) * 2 ^ 32 + c.off
       | none => (8 - cs.length) * 2 ^ 32)
    (8 ≤ cs.length → Waits (.chain a) s) ∧
    (cs.length < 8 → x % 32 ≠ 0 → Faults (.chain a) s .alignment) ∧
    (cs.length < 8 → x % 32 = 0 → l.pad.size ≤ x → Faults (.chain a) s .padBound) ∧
    (cs.length < 8 → x % 32 = 0 → x < l.pad.size → Compared (.chain a) s [l.getS a]) ∧
    (cs.length < 8 → x % 32 = 0 → x < l.pad.size → l.shadow = none → Completes (.chain a) s (fun t =>
      t = { s with me := l.issued.advance, chains := t.chains, nextReq := s.nextReq + 1 } ∧ (∀ c, c ≠ l.cluster → t.chainList c = s.chainList c) ∧
      ∃ c, t.chainList l.cluster = cs ++ [c] ∧ c.source = l.uid ∧ c.start = x ∧ c.off = x ∧ c.pass = 0 ∧ c.loop = none ∧ c.entry = [] ∧
        c.progress = 0 ∧ c.waiting = false ∧ c.after = s.nextReq ∧ c.who = l.who)) ∧
    (Settled s → s.valuesFull = false → n ≠ 0 → Completes (.chainq d a n) s (fun t => t = { s with me := t.me } ∧ ∃ p, t.me.pend = [p] ∧
      Awaits p (.uniform d) n 1#32 (fun _ => word))) ∧
    (Settled s → s.valuesFull = false → n = 0 → Completes (.chainq d a n) s (fun t => t = { s with me := t.me } ∧ t.me.pend = [] ∧
      UniformWritten s.me.issued.advance t.me d word))

/-- R150, R234, R266, R278, R279, R280, R386: the entries that move no data. An entry is fetched once, by a read at its bank; END frees the chain's slot, and SIGNAL writes its word in a scratchpad,
once every write of the chain has been performed with its folds; LOOP goes back to its body or on; COND skips entries when its word fails;
WAITW goes on when its word meets the condition and waits until a write has met it: one that a SIGNAL's word meets has ended its wait (R44,
R280). A read or write that another request keeps from its bank stands there, and the chain waits (R150). -/
def Obligations.ChainControl : Prop :=
  ∀ (s : State) (cluster n : Nat) (l : Ladle) (c : Chain) (w : List Word64),
    let word := fun (i : Nat) => w.getD i 0
    let cond := fun (v : Word32) =>
      match (word 0).toNat / 256 % 8 with
      | 0 => decide (v = (word 2).setWidth 32)
      | 1 => decide (v ≠ (word 2).setWidth 32)
      | 2 => decide (v.toNat < (word 2).toNat % 2 ^ 32)
      | _ => decide ((word 2).toNat % 2 ^ 32 ≤ v.toNat)
    let body := (word 0).toNat / 256 % 256
    let skip := (word 0).toNat / 2 ^ 16 % 256
    let passes := (word 1).toNat % 2 ^ 32
    let written := s.engineOutstanding c.after = false
    (EntryAt s cluster n l c w 0 → written → Completes (.endEntry cluster n) s (fun t =>
      OnlyChain s t ∧ t.chainList cluster = (s.chainList cluster).eraseIdx n)) ∧
    (¬ written → (EntryAt s cluster n l c w 0 → Idles (.endEntry cluster n) s) ∧ (EntryAt s cluster n l c w 3 → Idles (.signalEntry cluster n) s)) ∧
    (c.entry = [] → c.waiting = false → s.chainAt cluster n = some (l, c) → s.chainPaused l c = false → BanksFree s → s.fetchEntry c = .ok w →
      ∃ b, let fetched := { s.setChain cluster n { c with entry := w } with bankLast := b }
        exec (.chainTransfer cluster n) s = exec (.chainTransfer cluster n) fetched ∧
        ∀ i ∈ ([[.endEntry cluster n], [.copyEntry cluster n], [.mcastEntry cluster n], [.signalEntry cluster n], [.loopEntry cluster n],
          [.condEntry cluster n], [.reduceEntry cluster n], [.waitwEntry cluster n]] : List (List Instr)).getD (entryKind w) [], exec i s = exec i fetched) ∧
    (∀ u, c.entry = [] → s.chainAt cluster n = some (l, c) → s.chainPaused l c = false → s.chainRead c c.source (entryOps c.off) = .error (.stand u) →
      (∀ g, s.ladle? c.source = some g → c.off + 32 ≤ g.pad.size) → (∀ e, u.chainAt cluster n = some e → e.2.entry = []) →
      exec (.chainTransfer cluster n) s = .next u) ∧
    (EntryAt s cluster n l c w 5 → ∀ u, s.chainWord32 l c (word 1) = .error (.stand u) → exec (.condEntry cluster n) s = .next u) ∧
    (EntryAt s cluster n l c w 3 → written → BanksFree s → ∀ g off, s.entryWord l (word 1) = .ok (g, off) → g.live = true →
      Completes (.signalEntry cluster n) s (fun t =>
      ((∀ e ∈ s.chains, ∀ b ∈ e.2, b.watch = none) → ChainIs s t cluster n (c.goTo (c.off + 32))) ∧ t.mem = s.mem ∧
      (∀ m b k v, m ≠ n → (s.chainList cluster)[m]? = some b → b.waiting = true → b.watch = some (g.uid, off, k, v) →
        chainCond k ((word 2).setWidth 32) v = true → ((t.chainList cluster)[m]?).map (·.met) = some true) ∧
      ∀ x, (t.ladle? g.uid).map (fun q => q.pad.bytes.read x) =
        (s.ladle? g.uid).map (fun q => if off ≤ x ∧ x < off + 4 then BitVec.ofNat 8 ((word 2).toNat / 256 ^ (x - off)) else q.pad.bytes.read x))) ∧
    (EntryAt s cluster n l c w 4 → s.nestedLoop c body = false → c.loop = none ∨ c.loop = some c.off → c.pass + 1 < passes → 32 * body ≤ c.off →
      Completes (.loopEntry cluster n) s (fun t => OnlyChain s t ∧ ∃ b, ChainIs s t cluster n b ∧ b.off = c.off - 32 * body ∧
        b.pass = c.pass + 1 ∧ b.loop = some c.off ∧ b.srcStride = word 2 ∧ b.dstStride = word 3 ∧ b.entry = [])) ∧
    (EntryAt s cluster n l c w 4 → s.nestedLoop c body = false → c.loop = none ∨ c.loop = some c.off → passes ≤ c.pass + 1 →
      Completes (.loopEntry cluster n) s (fun t => OnlyChain s t ∧ ∃ b, ChainIs s t cluster n b ∧ b.off = c.off + 32 ∧ b.pass = 0 ∧ b.loop = none)) ∧
    (EntryAt s cluster n l c w 5 → BanksFree s → ∀ g off, s.entryWord l (word 1) = .ok (g, off) → g.live = true →
      Completes (.condEntry cluster n) s (fun t => OnlyChain s t ∧
        ChainIs s t cluster n (c.goTo (if cond (g.pad.bytes.read32 off) then c.off + 32 else c.off + 32 + 32 * skip)))) ∧
    (EntryAt s cluster n l c w 7 → BanksFree s → ∀ g off, s.entryWord l (word 1) = .ok (g, off) → g.live = true →
      (let wakes := fun i => Completes i s (fun t => OnlyChain s t ∧
          ChainIs s t cluster n (if c.met = true ∨ cond (g.pad.bytes.read32 off) = true then c.goTo (c.off + 32)
            else { c with waiting := true, watch := some (g.uid, off, (word 0).toNat / 256 % 8, (word 2).setWidth 32) }))
       (c.waiting = false → wakes (.waitwEntry cluster n)) ∧ (c.waiting = true → wakes (.waitwWake cluster n))))

/-- R150, R278, R279, R282, R283, R338: the entries that move data. A transfer moves at most 256 bytes and stays inside one tile of each side;
between two scratchpads, with no other request at their banks, the destination takes the source's bytes and every other byte stays; an entry
whose last byte or element is written, with its folds (R266), goes on to the next. A request that another keeps from its bank or slice stands
there, and the transfer waits; a poisoned table entry is an uncorrectable error of the chain. -/
def Obligations.ChainTransfers : Prop :=
  ∀ (s : State) (cluster n : Nat) (l : Ladle) (c : Chain) (w : List Word64) (kind : Nat), EntryAt s cluster n l c w kind →
    let length := (w.getD 0 0).toNat / 256 % 2 ^ 24
    let moved := fun (u : State) (k : Nat) => u.setChain cluster n { c with progress := c.progress + k }
    let ends := s.setChain cluster n (c.goTo (c.off + 32))
    let raised := fun (u : State) (f : Cause) =>
      (u.failChain c.who c.after).raiseFor c.who.casting c.who.rank c.who.cluster c.who.core f c.who.pc
    (∀ src dst, 0 < transferLength src dst c.progress length ∨ length ≤ c.progress) ∧
    (∀ src dst, transferLength src dst c.progress length ≤ 256 ∧ (src + c.progress) % 256 + transferLength src dst c.progress length ≤ 256 ∧
      (dst + c.progress) % 256 + transferLength src dst c.progress length ≤ 256) ∧
    (kind = 1 ∨ kind = 2 → c.progress < length → ∀ u k, s.copyOnce l c w = .ok (u, k) → exec (.chainTransfer cluster n) s = .next (moved u k)) ∧
    (kind = 6 → c.progress < length → ∀ u k, s.reduceOnce l c w = .ok (u, k) → k = 1 ∧ exec (.chainTransfer cluster n) s = .next (moved u k)) ∧
    (∀ f, kind = 1 ∨ kind = 2 → c.progress < length → s.copyOnce l c w = .error (.fault f) →
      exec (.chainTransfer cluster n) s = .next (raised s f)) ∧
    (∀ u, kind = 1 ∨ kind = 2 → c.progress < length → s.copyOnce l c w = .error (.stand u) → exec (.chainTransfer cluster n) s = .next u) ∧
    (∀ va k reason, kind = 1 ∨ kind = 2 → c.progress < length → s.copyOnce l c w = .error (.walk va k) →
      s.translate c.who.cluster c.who.part va k = .error reason →
      let u := s.correctTables c.who.cluster c.who.part va k
      (reason = walkPoison → exec (.chainTransfer cluster n) s = .next (raised u .uncorrectable)) ∧
      (reason ≠ walkPoison → s.dropping c.who.casting = false →
        exec (.chainTransfer cluster n) s = .next (u.suspendCasting c.who (some c.after) va k reason))) ∧
    (length ≤ c.progress → s.engineOutstanding c.after = true → kind = 6 → Idles (.reduceEntry cluster n) s) ∧
    (length ≤ c.progress → s.engineOutstanding c.after = false →
      (kind = 1 → exec (.copyEntry cluster n) s = .next ends) ∧ (kind = 2 → exec (.mcastEntry cluster n) s = .next ends) ∧
      (kind = 6 → exec (.reduceEntry cluster n) s = .next ends)) ∧
    (∀ u v x y p q k src dst, kind = 1 → c.progress < length → BanksFree s → s.copySides l c w = .ok (⟨some u, x, p⟩, [⟨some v, y, q⟩]) → u ≠ v →
      s.ladle? u = some src → s.ladle? v = some dst → src.live = true → dst.live = true → src.pad.size ≠ 0 → dst.pad.size ≠ 0 →
      k = transferLength x y c.progress length → x + c.progress + k ≤ src.pad.size → y + c.progress + k ≤ dst.pad.size →
      Completes (.chainTransfer cluster n) s (fun t => t.mem = s.mem ∧ ∃ d, t.ladle? v = some d ∧
        ∀ b, d.pad.bytes.read b = if y + c.progress ≤ b ∧ b < y + c.progress + k then src.pad.bytes.read (x + (b - y)) else dst.pad.bytes.read b))

/-! ### Events of a ladle (R38, R47, R57, R126, R157, R161, R164, R175, R334, R335, R396 to R398) -/

/-- R38, R47, R57, R126, R157, R161, R164, R175: what reaches a ladle between its instructions: a permit retry, a demand-miss
notification, the end of a deferral, a landing, a barrier's release, a register grant or denial, and the retirement of
`exit`. An event whose condition does not hold changes nothing. -/
def Obligations.LadleEvents : Prop :=
  ∀ (s : State), Alone s →
    let l := s.me
    let u := l.uid
    let core := 5 * l.cluster + l.core
    let may := l.canRun = true ∧ l.tvec.getLsbD 1 = true ∧ l.tcause.getLsbD 63 = false ∧ l.tvec.toNat / 4 % 2 ^ 55 ≠ 0 ∧ s.permitFree = true
    let calm := ∀ p ∈ l.pend, l.landable false p = false
    let free := s.freeBlocks l.cluster l.core
    (∀ w, l.sp.blocked = .backoff w →
      exec (.trapPermitRetry u) s = .next (s.mapMe (fun l => Ladle.fillSlots { l with sp := { l.sp with blocked := .ready } }))) ∧
    (calm → ¬ may → exec (.demandMissNotification u) s = .next s) ∧
    (calm → may → l.splits = [] → s.demandMiss = none → exec (.demandMissNotification u) s = .next s) ∧
    (calm → may → l.splits = [] → ∀ p g, s.demandMiss = some (p, g) → Completes (.demandMissNotification u) s (fun t =>
      t = { s with me := t.me } ∧ t.me.permit = true ∧ t.me.handlerActive = true ∧ t.me.tpc = l.sp.pc ∧ t.me.sp.handler = true ∧
      t.me.sp.pc = BitVec.ofNat 64 (l.tvec.toNat / 4 % 2 ^ 55 * 4) ∧ (∀ q ∈ t.me.pend, q.suspended = true) ∧
      t.me.tcause = BitVec.ofNat 64 (2 ^ 63 + 4 * 2 ^ 56 +
        min (p.window (if p.dest.isLane && p.awaitedIn l.sp then p.dueLanes false &&& l.sp.mask else p.lanes)) 15 * 2 ^ 48 + 2 ^ 47 +
        ((p.pc - l.sp.pc).sshiftRight 2).toNat % 2 ^ 25 * 2 ^ 22 + g % 8192))) ∧
    (l.deferred = true ∧ 8192 ≤ l.handlerIssued →
      exec (.handlerDeferralExpiry u) s = .next (s.mapMe (fun l => { l with stopped := true, deferred := false }))) ∧
    (¬ (l.deferred = true ∧ 8192 ≤ l.handlerIssued) → exec (.handlerDeferralExpiry u) s = .next s) ∧
    (∀ p d, l.pend = [p] → p.dest = .lane d → p.fault = none → p.exceptions = 0 → p.missing = 0 → p.suspended = false → Running s →
      let due := fun j => p.lanes.getLsbD j && decide (p.counts.toList.getD j 0 = 0)
      ((∃ j < 32, due j = true) → Completes (.longResultLanding u 0) s (fun t => t = { s with me := t.me } ∧
        LanesWritten l t.me d (laneMask due) (fun j => (p.laneVal j).setWidth 32) ∧ t.me.s = l.s ∧ t.me.fmode = l.fmode ∧ t.me.sp = l.sp ∧
        ((∀ j < 32, p.lanes.getLsbD j = due j) → t.me.pend = []) ∧
        (¬ (∀ j < 32, p.lanes.getLsbD j = due j) → ∃ q, t.me.pend = [q] ∧ ∀ j < 32, q.lanes.getLsbD j = (p.lanes.getLsbD j && !due j)))) ∧
      ((∀ j < 32, due j = false) → exec (.longResultLanding u 0) s = .next s)) ∧
    (∀ n b, s.barriers[n]? = some b → b.completed ≤ b.released → exec (.barrierRelease n) s = .next s) ∧
    (∀ n b, s.barriers[n]? = some b → b.released < b.completed → Completes (.barrierRelease n) s (fun t => t.mem = s.mem ∧ t.me.s = l.s ∧
      ∀ p w, s.groupOf l b.level = b.group → l.sp.blocked = .barrier b.level b.id p w →
        (p ≤ b.completed → GoesOn l t.me) ∧ (b.completed < p → t.me.sp.blocked = l.sp.blocked ∧ t.me.sp.pc = l.sp.pc))) ∧
    (∀ d e q, FMap.get [] s.rgetQueue core = (u, e) :: q → l.splits = [] → l.sp.blocked = .rget d →
      (l.blocks ≤ free.length → Completes (.rgetGrant core) s (fun t => t.me.ext = true ∧ UniformWritten l t.me d 1 ∧
        t.me.extBlocks.length = l.blocks ∧ (∀ x ∈ t.me.extBlocks, x ∈ free) ∧
        t.me.sp.blocked = .ready ∧ t.me.sp.pc = l.sp.pc + 4 ∧ (∀ r : BitVec 6, r.toNat < 32 → t.me.getV r = l.getV r) ∧
        (∀ r : BitVec 6, 32 ≤ r.toNat → ∀ j < 32, laneAt (t.me.getV r) j = 0) ∧
        FMap.get [] t.rgetQueue core = q ∧ t.mem = s.mem)) ∧
      (free.length < l.blocks → exec (.rgetGrant core) s = .next s)) ∧
    (∀ d e q, FMap.get [] s.rgetQueue core = q ++ [(u, e)] → l.splits = [] → l.sp.blocked = .rget d →
      (s.registersStuck core = true → Completes (.registerExamination core) s (fun t => t.me.ext = l.ext ∧ UniformWritten l t.me d 0 ∧ GoesOn l t.me ∧
        FMap.get [] t.rgetQueue core = q ∧ t.mem = s.mem)) ∧
      (s.registersStuck core = false → exec (.registerExamination core) s = .next s)) ∧
    (l.sp.blocked = .exitWait → l.splits = [] → s.exitReady l = false → exec (.exitRetire u) s = .next s) ∧
    (l.sp.blocked = .exitWait → l.splits = [] → l.loop = none → s.exitReady l = true → Completes (.exitRetire u) s (fun t =>
      t.me.live = false ∧ t.me.ext = false ∧ t.me.permit = false ∧ t.me.pad.size = 0 ∧ t.mem = s.mem ∧ t.slices = s.slices))

/-- R334, R335, R396 to R398: a `waita` whose word has met its condition goes on with the word; a global one is tested at its
home, and leaves a watch there that tests the word again at each write, but not for a split whose own test is on its way; a word that cannot be
read is an uncorrectable error of the splits that wait for it (R338); a fence goes on once its accesses are performed;
a replay and a shadow's comparison go on, or raise a check mismatch at the instruction they check: a compared operation's
requests go on their way, or are never performed; one that makes none acts at its split's next turn. The shadow takes values and operations in
the order of their issue; that its registers are the ladle's once it has caught up, and that the event says whether it found a mismatch, is the
model's choice (log 75). -/
def Obligations.WaitsEnd : Prop :=
  ∀ (s : State), Alone s →
    let l := s.me
    let u := l.uid
    (∀ v d, l.sp.blocked = .waitaMet v d → WakesWith (.waitaWake u) s d (v.setWidth 64)) ∧
    (∀ x off old d w, l.sp.blocked = .waitaPad x off old d → s.padWord x off = some w →
      (Meets old w → s.padPaused x = false → (∀ q ∈ s.sent, q.who.ladle = u → ∀ o, q.kind ≠ .waitTest o) →
        WakesWith (.waitaWake u) s d (w.setWidth 64)) ∧
      (¬ Meets old w → l.splits = [] → exec (.waitaWake u) s = .next s)) ∧
    (∀ pa old d, l.sp.blocked = .waitaGlobal pa old d → isHbm pa = true → pa % 4 = 0 → NoReplicas s → s.hold = false → l.casting ≠ 0 →
      let n := s.homeOf pa
      let r := { s.waitReq l.who pa old with id := s.nextReq, order := s.nextReq }
      let w : Watch := { ladle := u, pa := pa, old := old }
      w ∉ (s.sliceOf n).watches → sectorOf pa ∉ (s.sliceOf n).poison → (∀ q ∈ s.outstanding u, ∀ x, q.kind ≠ .waitTest x) →
      s.grantable r = true → s.wins r = true → s.lateAt r = [] →
      Completes (.waitaRetry u) s (fun t => t.mem = s.mem ∧ t.me.s = l.s ∧ t.me.sp.pc = l.sp.pc ∧
        (Meets old (s.mem.read32 pa) → t.me.sp.blocked = .waitaMet (s.mem.read32 pa) d) ∧
        (¬ Meets old (s.mem.read32 pa) → t.me.sp.blocked = l.sp.blocked ∧
          ((s.sliceOf n).watches.length < 128 → (t.sliceOf n).watches = (s.sliceOf n).watches ++ [w])))) ∧
    (∀ sl n w, (s.sliceOf sl).watches[n]? = some w →
      let testing := ∃ q ∈ s.sent, q.who.ladle = u ∧ ∃ o, q.kind = .waitTest o
      (s.poisoned w.pa = true → Completes (.waitaWatchTest sl n) s (fun t => t.mem = s.mem ∧
        (t.sliceOf sl).watches = (s.sliceOf sl).watches.erase w ∧
        (∀ d, w.ladle = u → l.sp.blocked = .waitaGlobal w.pa w.old d → l.splits = [] → ¬ testing → Reported s t .uncorrectable l.sp.pc))) ∧
      (s.poisoned w.pa = false → w.pa / 8 ∉ (s.sliceOf sl).errors → ¬ Meets w.old (s.mem.read32 w.pa) → exec (.waitaWatchTest sl n) s = .next s) ∧
      (s.poisoned w.pa = false → Meets w.old (s.mem.read32 w.pa) → Completes (.waitaWatchTest sl n) s (fun t => t.mem = s.mem ∧
        (t.sliceOf sl).watches = (s.sliceOf sl).watches.erase w ∧
        (∀ d, w.ladle = u → l.sp.blocked = .waitaGlobal w.pa w.old d → ¬ testing → t.me.sp.blocked = .waitaMet (s.mem.read32 w.pa) d)))) ∧
    (∀ sc k upTo, l.sp.blocked = .fence sc k upTo →
      (s.unperformed u sc.toNat upTo = false → exec (.fenceComplete u) s = .next (s.mapMe (fun l =>
        Ladle.fillSlots { l with sp := { l.sp with blocked := .ready, pc := l.sp.pc + 4 } }))) ∧
      (s.unperformed u sc.toNat upTo = true → l.splits = [] → exec (.fenceComplete u) s = .next s)) ∧
    (l.replay = [] → ∀ m, exec (.opportunisticReplay u m) s = .next s) ∧
    (∀ e r, l.replay = e :: r →
      Completes (.opportunisticReplay u false) s (fun t => t = { s with me := { l with replay := r } }) ∧
      Completes (.opportunisticReplay u true) s (fun t => Reported s t .checkMismatch e.pc ∧ t.me.replay = r ∧ t.me.v = l.v ∧ t.mem = s.mem)) ∧
    (∀ x m, l.shadow = some x → x.valueFirst = true →
      (l.valueCome x = false → exec (.shadowComparison u m) s = .next s) ∧
      (l.valueCome x = true → Completes (.shadowComparison u m) s (fun t => t = { s with me := t.me } ∧
        ∃ y, t.me = { l with shadow := some y } ∧ y.buffer = x.buffer ∧ y.values = x.values.tail ∧
          (x.buffer = [] → x.values.tail = [] → y.v = l.v ∧ y.s = l.s ∧ y.k = l.k)))) ∧
    (∀ x e r, l.shadow = some x → x.valueFirst = false → x.buffer = e :: r →
      Completes (.shadowComparison u false) s (fun t => t.faults = s.faults ∧ t.mem = s.mem ∧ t.me.v = l.v ∧
        (∃ y, t.me.shadow = some y ∧ y.buffer = r) ∧
        (e.requests = [] → l.sp.blocked = .comparing → l.sp.pc = e.pc → t.me.sp.blocked = .ready ∧ t.me.sp.cleared = true) ∧
        t.requests = s.requests.map (fun q => if e.requests.contains q.id then { q with held := false } else q)) ∧
      Completes (.shadowComparison u true) s (fun t => Reported s t .checkMismatch e.pc ∧ t.mem = s.mem ∧
        t.requests = s.requests.filter (fun q => !e.requests.contains q.id))) ∧
    (∀ x m, l.shadow = some x → x.valueFirst = false → x.buffer = [] → Completes (.shadowComparison u m) s (fun t => t = { s with me := t.me } ∧
      ∃ y, t.me = { l with shadow := some y } ∧ y.buffer = [] ∧ y.values = [] ∧ y.v = l.v ∧ y.s = l.s ∧ y.k = l.k))

/-! ### Slots, grants, and what a slice does by itself (R145, R150, R181, R186 to R191, R207, R216, R222, R265, R303, R394, R395) -/

/-- R145, R150, R182, R191, R216, R222, R265, R303, R348, R350, R389, R394: a waiting request is performed at its own kind of slot,
once it can be granted and wins at its arbiter: it leaves the queue, the arbiter remembers its grant, and all its effects are made
in that one step; while an earlier request of its ladle must come first, or another wins, nothing changes. (When a request arrives
at its arbiter, and the bank that ranks a request of several banks, are log 65.) -/
def Obligations.RequestSlots : Prop :=
  ∀ (s : State) (n : Nat) (r : Req), s.requests[n]? = some r → r.held = false →
    let home := (∃ m, r.place = .slice m) ∨ ∃ p, r.place = .remote p
    let pad := ∃ u, r.place = .pad u
    let host := ∃ k, r.place = .host k
    let plain := (∃ e, r.kind = .load e) ∨ ∃ e, r.kind = .store e
    let granted := fun (i : Instr) (t : State) (q : Req) => ∃ u : State, u = { t with portOrder := u.portOrder, bankLast := u.bankLast } ∧
      exec i s = .next (u.perform q)
    let done := fun (i : Instr) => granted i { s with requests := s.requests.filter (fun q => q.id != r.id) } r
    (s.grantable r = true → s.wins r = true →
      (home → plain ∨ r.kind = .touch → done (.globalAccessSlot n)) ∧
      (pad → done (.bankGrant n)) ∧
      (host → plain → done (.hostMemoryCompletion n)) ∧
      (¬ pad → r.kind = .syncLoad ∨ r.kind = .syncStore → done (.syncAccessSlot n)) ∧
      (¬ pad → ∀ b p, r.kind = .atomic b p → done (.atomicGroupSlot n)) ∧
      ((∃ h, r.kind = .dist h) ∨ r.kind = .touch ∨ r.kind = .pin ∨ r.kind = .unpin ∨ r.kind = .rwb → done (.distanceRequestSlot n)) ∧
      (r.kind = .rinv → done (.replicaDrop n)) ∧ (r.kind = .post → done (.boardOperationSlot n)) ∧ (r.kind = .boardRead → done (.boardReadSlot n)) ∧
      (r.kind = .fold → done (.amaxFold n)) ∧ (∀ c, r.kind = .amaxRead c → done (.amaxReadSlot n)) ∧
      (∀ p x, r.kind = .redg p x → done (.redgContribution n)) ∧
      (∀ m, r.kind = .merge → r.place = .slice m → s.requests.find? (fun q => q.kind == .merge && q.place == .slice m && q.tile == r.tile) = some r →
        done (.replicaMerge m r.tile))) ∧
    (s.grantable r = false ∨ s.wins r = false →
      ∀ i ∈ [Instr.globalAccessSlot n, .bankGrant n, .hostMemoryCompletion n, .syncAccessSlot n, .atomicGroupSlot n, .distanceRequestSlot n,
        .replicaDrop n, .boardOperationSlot n, .boardReadSlot n, .amaxFold n, .amaxReadSlot n, .redgContribution n], exec i s = .next s) ∧
    (∀ q ∈ s.requests, q.order < r.order → q.who.ladle = r.who.ladle → r.who.ladle ≠ 0 → q.engine = none → r.engine = none → q.place = r.place →
      (∃ b ∈ q.bytes, b ∈ r.bytes) → plain → ((∃ e, q.kind = .load e) ∨ ∃ e, q.kind = .store e) → s.grantable r = false) ∧
    (∀ u, r.place = .pad u → s.padPaused u = true → s.grantable r = false) ∧
    (∀ q x xs, FMap.get [] s.retry q = x :: xs →
      let t := { s with retry := FMap.set [] s.retry q xs }
      let y := { x with place := (s.placeOf (x.who.cluster / 32) (x.bytes.headD 0) false false).1, arrived := none }
      (t.grantable y = true → t.wins y = true → granted (.redgRetry q) t y) ∧
      (t.grantable y = false ∨ t.wins y = false → Idles (.redgRetry q) s))

/-- R181, R186 to R189, R211, R229, R423: a slice's own work moves no data that a program can see. A miss register or a place in the
motion buffer becomes free; a boundary move leaves the cascade queue; neither happens while the slice's column realigns; a write-back takes a
tile's dirty marks away; a board's reset arrives, once the service port wins at its home. A tile that stops being resident keeps its stamps
in the side band where it holds a dirty sector: the latest, and each that is not settled; a clean tile leaves the side band as it is. No byte
of memory changes. -/
def Obligations.SliceWork : Prop :=
  ∀ (s : State) (n tile board : Nat),
    let x := s.sliceOf n
    let still := (s.column (n / 32) (n % 32)).retrain = true
    let own := fun (i : Instr) (f : Slice → Slice) => Completes i s (fun t => t.mem = s.mem ∧ t.me = s.me ∧ t.sideband = s.sideband ∧
      t.sliceOf n = f x ∧ ∀ m, m ≠ n → t.sliceOf m = s.sliceOf m)
    (tile ∈ x.miss → own (.missDataArrival n tile) (fun x => { x with miss := x.miss.erase tile })) ∧
    (∀ k, x.motion.find? (fun e => e.1 == tile) = some (tile, k) → ¬ still →
      own (.motionLanding n tile) (fun x => { x with motion := x.motion.erase (tile, k) })) ∧
    (¬ still → own (.boundaryMove n) (fun x => { x with cascade := x.cascade.drop 1 })) ∧
    (still → Idles (.motionLanding n tile) s ∧ Idles (.boundaryMove n) s) ∧
    (x.writeBack = [] → exec (.writeBack n) s = .next s) ∧
    (∀ r, x.writeBack = tile :: r → own (.writeBack n) (fun x => { x with
      writeBack := x.writeBack.filter (fun k => k != tile), dirty := x.dirty.filter (fun k => k / 4 != tile) })) ∧
    (let u := s.leaveStamps n tile
     let stamp := fun (i : Nat) => FMap.get 0 x.stamps (4 * tile + i)
     let side := FMap.get (0, 0) u.sideband tile
     u.mem = s.mem ∧ u.me = s.me ∧ (∀ k, k ≠ tile → FMap.get (0, 0) u.sideband k = FMap.get (0, 0) s.sideband k) ∧
     ((∀ d ∈ x.dirty, d / 4 ≠ tile) → u.sideband = s.sideband) ∧
     ((∃ d ∈ x.dirty, d / 4 = tile) → (∃ i < 4, side.1 = stamp i) ∧
       ∀ i < 4, side.2.getLsbD i = true ↔ (stamp i = side.1 ∨ (stamp i ≠ 0 ∧ settled (stamp i) s.horizon = false)))) ∧
    (∀ v, s.boardResets = [(board, v)] → s.portWins (s.homeOfBoard board) servicePort none = false → Idles (.boardResetSlot board) s) ∧
    (∀ v, s.boardResets = [(board, v)] → s.portWins (s.homeOfBoard board) servicePort none = true → Completes (.boardResetSlot board) s (fun t => t.boardResets = [] ∧
      t.board (s.pkg * 4096 + board) = boardOf v ∧ (∀ k, k ≠ s.pkg * 4096 + board → t.board k = s.board k) ∧ t.mem = s.mem))

/-! ### Launch, load and dispatch (R23, R357 to R363, R403, R408, R410 to R412, R418) -/

/-- R410, R411, R412, R357, R358, R403: one write of 64 bytes to a launch port that is enabled and has room is queued as it is; any other write
is dropped and counted. The pool takes the oldest record: a record that breaks R411, or an image that breaks R357, gives one report with cause
0x10 and no graph; any other gives a graph of which the moulds without a predecessor are ready. A spawned record enters the queue while it has
room. The model's choices: the counts wrap at 2^16 (log 37), and with EN = 0 a write is dropped before it is looked at for rejection (R418,
log 38). -/
def Obligations.LaunchEvents : Prop :=
  ∀ (s : State) (p link : Nat) (viaPF : Bool) (record : List (BitVec 64)), p < 24 →
    let q := s.queueOf p
    let counts := FMap.get LqCounts.zero s.lq p
    let enabled := (s.reg (0x900 + 16 * p + 13)).getLsbD 0
    let count := fun (i : Instr) (c : LqCounts) => Completes i s (fun t => t = { s with lq := t.lq } ∧ FMap.get LqCounts.zero t.lq p = c ∧
      ∀ k, k ≠ p → FMap.get LqCounts.zero t.lq k = FMap.get LqCounts.zero s.lq k)
    (s.presents p viaPF link = false → ∀ offset size, Idles (.launchPort p viaPF link offset size record) s) ∧
    (s.presents p viaPF link = true →
      (enabled = true → q.length < 64 → record.length = 8 → Completes (.launchPort p viaPF link 0 64 record) s (fun t => t = { s with launch := t.launch } ∧
        t.queueOf p = q ++ [{ words := record, function := if viaPF then 0 else p + 1, link := link, privileged := viaPF }] ∧
        ∀ k, k ≠ p → t.queueOf k = s.queueOf k)) ∧
      (enabled = true → 64 ≤ q.length → count (.launchPort p viaPF link 0 64 record) { counts with dropped := counts.dropped + 1 }) ∧
      (enabled = false → ∀ offset < 64, ∀ size, count (.launchPort p viaPF link offset size record) { counts with dropped := counts.dropped + 1 }) ∧
      (enabled = true → ∀ offset < 64, ∀ size, (offset, size) ≠ (0, 64) →
        count (.launchPort p viaPF link offset size record) { counts with rejected := counts.rejected + 1 }) ∧
      (record.headD 0 = 0 → count (.launchPort p viaPF link 0x40 8 record) LqCounts.zero) ∧
      (record.headD 0 ≠ 0 → Idles (.launchPort p viaPF link 0x40 8 record) s)) ∧
    (q = [] ∨ s.accepting = false ∨ 64 ≤ s.graphsOf p → Idles (.graphLoad p) s) ∧
    (∀ r rest, q = r :: rest → s.accepting = true → s.graphsOf p < 64 →
      let image := recordImage r.words
      let rejected := Completes (.graphLoad p) s (fun t => t.queueOf p = rest ∧ t.graphs = s.graphs ∧ t.castings = s.castings ∧
        FMap.get 0 t.reportSeq p = FMap.get 0 s.reportSeq p + 1)
      (recordBad r.words = true → rejected) ∧
      (recordBad r.words = false → s.recordArgs p r.words = none → rejected) ∧
      (∀ args, recordBad r.words = false → s.recordArgs p r.words = some args →
        (∀ e, s.readImage p image.toNat = .error e → rejected) ∧
        (∀ ms edges policy, s.readImage p image.toNat = .ok (ms, edges, policy) → ms ≠ [] → (∀ m ∈ ms, m.gang = false ∧ 0 < m.count) →
          (∀ g ∈ s.graphs, g.uid ≠ s.nextUid) →
          Completes (.graphLoad p) s (fun t => t.queueOf p = rest ∧ t.mem = s.mem ∧ t.castings = s.castings ∧ t.reportSeq = s.reportSeq ∧
            ∃ g, t.graphs = s.graphs ++ [g] ∧ g.part = p ∧ g.image = image ∧ g.moulds = ms ∧ g.edges = edges ∧ g.policy = policy ∧ g.args = args ∧
              g.priority = (r.words.getD 0 0).toNat / 2 ^ 60 ∧ g.completion = r.words.getD 2 0 ∧ g.value = r.words.getD 3 0 ∧
              g.ci = (r.words.getD 4 0).getLsbD 0 ∧ g.function = r.function ∧ g.link = r.link ∧ g.privileged = r.privileged ∧ g.dead = false ∧
              ∀ i < ms.length, ((∀ e ∈ edges, e.2 ≠ i) → (g.run i).ready = true ∧ (g.run i).next = 0 ∧ (g.run i).committed = 0) ∧
                ((∃ e ∈ edges, e.2 = i ∧ e.1 < ms.length) → (g.run i).ready = false))))) ∧
    (FMap.get [] s.spawned p = [] ∨ 64 ≤ q.length → Idles (.spawnRecordEnqueue p) s) ∧
    (∀ r rest, FMap.get [] s.spawned p = r :: rest → q.length < 64 → Completes (.spawnRecordEnqueue p) s (fun t => t.queueOf p = q ++ [r] ∧
      FMap.get [] t.spawned p = rest ∧ t.mem = s.mem ∧ t.graphs = s.graphs))

/-- R23, R208, R359 to R363, R371, R373: the pool gives the clusters that hold no casting their owners, and dispatches the head of highest
priority that can be placed, unless a head above it, or one held back, has waited so long that it stops it, with the latest commit number as its
dispatch number; its ladles enter with the entry state of R23 and
its version frames are reserved. With no head the slot dispatches nothing. A slice that has not taken its part of a reservation takes it
when it can and the service port wins there. A casting completes once its ladles, chains and faults are gone, and takes the next
commit number at that slot where it may. The model's choices: a control ladle enters with the mask 1 of its one lane (log 50), and every owner
is chosen before the first dispatch of a slot, partition by partition in a named order (log 85). -/
def Obligations.DispatchEvents : Prop :=
  ∀ (s : State) (p : Nat),
    ((∀ q, q = p ∨ q < 24 → ∀ k < 16, s.headOf q k = none) →
      Completes (.dispatch p) s (fun t => t = { s with heads := t.heads, owners := t.owners })) ∧
    (∀ k g m x plan l i c, k < 16 → s.dispatchHeld p = false → (∀ j < 16, k < j → s.headOf p j = none ∧ ∀ h ∈ s.headsOf p j, s.stops h = false) → s.headOf p k = some c →
      c.group = .fresh g.uid c.mould [i] → s.groupMould c = some (g, m) → g.part = p → g.uid = c.graph → m.gang = false → g.dead = false →
      s.chooseOwners.findCluster p m c.group = some (x, [plan]) → s.rangeFate g m i = .tiles l → s.canReserve (s.framesFor l) = true → s.quiet = true →
      NoReplicas s → (∀ h ∈ s.graphs, h.part = p) → (∀ d ∈ s.castings, d.part = p) →
      (∀ d ∈ s.castings, d.uid ≠ s.nextUid) → (∀ d ∈ s.ladles, d.casting ≠ s.nextUid) → (∀ d ∈ s.gangs, d.graph ≠ g.uid) →
      Completes (.dispatch p) s (fun t => t.mem = s.mem ∧ t.lastCommit = s.lastCommit ∧
        (∃ d ∈ t.castings, d.uid = s.nextUid ∧ d.graph = g.uid ∧ d.mould = c.mould ∧ d.index = i ∧ d.part = p ∧ Placed s d x ∧ d.fault = none ∧ d.spawns = []) ∧
        (∀ d ∈ s.castings, d ∈ t.castings) ∧ t.me = s.me ∧ (∀ d ∈ s.rest, d ∈ t.rest) ∧
        (t.rest.filter (fun d => decide (d.casting = s.nextUid))).length = plan.spots.length + bit m.control ∧
        (∀ d ∈ t.rest, d.casting = s.nextUid → d.live = true ∧ d.heldAtEntry = false ∧ d.cluster = x ∧ d.privileged = g.privileged ∧ AtEntry d g m i) ∧
        (∀ n, ((t.sliceOf n).frames.filter (fun f => decide (f.casting = s.nextUid))).length = framesIn (s.framesFor l) n +
          ((s.sliceOf n).frames.filter (fun f => decide (f.casting = s.nextUid))).length))) ∧
    (∀ c, TheCasting s c →
      (c.reservation = [] → Idles (.versionReservation c.uid) s) ∧
      (∀ n tile bytes rest, c.reservation = (n, tile, bytes) :: rest →
        let takes := (∀ e ∈ c.reservation, e.1 = n → s.takesFrames n e.2.1 = true) ∧
          (s.sliceOf n).frames.length + framesIn c.reservation n ≤ 8192 * s.frameWays n ∧ s.portWins n servicePort none = true
        (¬ takes → Idles (.versionReservation c.uid) s) ∧
        (takes → NoReplicas s → Completes (.versionReservation c.uid) s (fun t => t.mem = s.mem ∧
        CastingIs s t c { c with reservation := rest.filter (fun e => e.1 != n) } ∧
        (t.sliceOf n).frames = (s.sliceOf n).frames ++ (c.reservation.filter (fun e => e.1 == n)).map (fun e =>
          { casting := c.uid, tile := e.2.1, bytes := [], declared := e.2.2, tags := [] }) ∧
        (rest.all (fun e => e.1 == n) = true → (∀ e ∈ s.gangs, e.graph ≠ c.graph) → s.me.casting = c.uid → t.me.heldAtEntry = false) ∧
        (rest.any (fun e => e.1 != n) = true → t.me = s.me)))) ∧
      (s.isComplete c = false → Idles (.castingComplete c.uid) s) ∧
      (s.isComplete c = true →
        let d : Casting := { c with state := .completed, preempt := none, along := false, started := false, saveSlot := none, mxsBlock := none,
                                    readyAt := s.ticks }
        let may := (s.completeCasting c).mayCommit d = true
        let numbered := fun (t : State) => t.nextCommit = (s.nextCommit + 1) % 2 ^ 48 ∧ t.lastCommit = s.nextCommit
        (¬ may → Completes (.castingComplete c.uid) s (fun t => t.mem = s.mem ∧ t.me = s.me ∧ t.slices = s.slices ∧ d ∈ t.castings ∧
          (∀ e ∈ t.rest, e.casting ≠ c.uid) ∧ t.nextCommit = s.nextCommit ∧ t.lastCommit = s.lastCommit)) ∧
        (may → s.framesOf c.uid ≠ [] → Completes (.castingComplete c.uid) s (fun t => t.mem = s.mem ∧ t.me = s.me ∧ t.slices = s.slices ∧
          { d with state := .committing, commitNo := s.nextCommit, awaited := s.framesOf c.uid } ∈ t.castings ∧
          (∀ e ∈ t.rest, e.casting ≠ c.uid) ∧ numbered t)) ∧
        (may → s.framesOf c.uid = [] → Completes (.castingComplete c.uid) s (fun t => numbered t ∧ ∀ e ∈ t.castings, e.uid ≠ c.uid))))

/-- R16, R166, R210, R211, R339, R359, R363 to R367, R376, R377, R413: a completed casting takes the next commit number, is merged slice by slice, its
written bytes into committed memory and nothing else, and is committed at the last acknowledgement; a graph whose last casting
is committed stores its completion value. A casting that faults, or is discarded, leaves committed memory as it was; its report
is written, and it is relaunched or its graph can no longer commit. The model's choices: a graph with completion address 0 raises no interrupt
(log 40), the lost count wraps at 2^16 (log 37), and a masked vector keeps a pending bit (log 77). -/
def Obligations.CommitEvents : Prop :=
  ∀ (s : State) (c : Casting), TheCasting s c → c.uid ≠ s.nextUid →
    let ready := c.state = .completed ∧ s.mayCommit c = true
    let merging := fun (n : Nat) => c.state = .committing ∧ c.awaited.contains n = true ∧ s.commitsBefore n c = false
    let dropping := fun (n : Nat) => (c.state = .faulted ∨ c.state = .discarding) ∧ c.awaited.contains n = true
    let turn := fun (n : Nat) => s.portWins n servicePort none = true
    let gone := fun (t : State) => ∀ d ∈ t.castings, d.uid ≠ c.uid
    let freed := fun (t : State) => ∀ l ∈ t.ladles, l.casting = c.uid → l.live = false
    let p := c.part
    (¬ ready → Idles (.commitAssignment c.uid) s) ∧
    ((∃ d ∈ s.castings, d.live = true ∧ d.state ≠ .completed ∧ d.state ≠ .committing ∧
        2 ^ 31 ≤ (s.nextCommit + 2 ^ 48 - d.dispatchNo) % 2 ^ 48) → Idles (.commitAssignment c.uid) s) ∧
    (ready → Completes (.commitAssignment c.uid) s (fun t => t.nextCommit = (s.nextCommit + 1) % 2 ^ 48 ∧ t.lastCommit = s.nextCommit ∧
      (s.framesOf c.uid ≠ [] → t.mem = s.mem ∧ CastingIs s t c { c with state := .committing, commitNo := s.nextCommit, awaited := s.framesOf c.uid }) ∧
      (s.framesOf c.uid = [] → CastingGone s t c))) ∧
    (∀ n, (¬ merging n ∨ ¬ turn n → Idles (.commitMessage n c.uid) s) ∧ (¬ dropping n ∨ ¬ turn n → Idles (.discardMessage n c.uid) s) ∧
      (merging n → turn n → ∀ f, (s.sliceOf n).frames.filter (fun f => f.casting == c.uid) = [f] → f.bytes.Pairwise (fun a b => a.1 < b.1) →
        isHbm (256 * f.tile) = true → (∀ e ∈ f.bytes, e.1 < 256 ∧ s.homeOf (64 * (4 * f.tile + e.1 / 64)) = n) →
        Completes (.commitMessage n c.uid) s (fun t =>
          (∀ e ∈ f.bytes, t.mem.read (256 * f.tile + e.1) = e.2) ∧ SameOutside s t (f.bytes.map (fun e => 256 * f.tile + e.1)) ∧
          CastingIs s t c { c with awaited := c.awaited.filter (· != n) } ∧ (t.sliceOf n).chain = (s.sliceOf n).chain ∧
          (t.sliceOf n).frames = (s.sliceOf n).frames.filter (fun f => f.casting != c.uid) ∧
          ∀ e ∈ f.bytes, 4 * f.tile + e.1 / 64 ∈ (t.sliceOf n).dirty ∧
            ((s.sliceOf n).resident f.tile = true → FMap.get 0 (t.sliceOf n).stamps (4 * f.tile + e.1 / 64) = BitVec.ofNat 32 c.commitNo) ∧
            ((s.sliceOf n).resident f.tile = false → f.tile ∈ (t.sliceOf n).writeBack))) ∧
      (dropping n → turn n → Completes (.discardMessage n c.uid) s (fun t => t.mem = s.mem ∧ CastingIs s t c { c with awaited := c.awaited.filter (· != n) } ∧
        (t.sliceOf n).frames = (s.sliceOf n).frames.filter (fun f => f.casting != c.uid) ∧ (t.sliceOf n).dirty = (s.sliceOf n).dirty ∧
        (t.sliceOf n).chain = (s.sliceOf n).chain)) ∧
      (64 ≤ n ∨ ¬ turn n → Idles (.horizonMessage n) s) ∧
      (n < 64 → turn n → Completes (.horizonMessage n) s (fun t => t.mem = s.mem ∧ (t.sliceOf n).horizon = s.horizon ∧
        (∀ m, m ≠ n → t.sliceOf m = s.sliceOf m) ∧ (t.sliceOf n).frames = (s.sliceOf n).frames ∧
        ∀ e, e ∈ (t.sliceOf n).stamps ↔ e ∈ (s.sliceOf n).stamps ∧ settled e.2 s.horizon = false))) ∧
    (¬ (c.state = .committing ∧ c.awaited = []) → Idles (.committed c.uid) s) ∧
    (c.state = .committing → c.awaited = [] → Completes (.committed c.uid) s (fun t => CastingGone s t c ∧ t.nextCommit = s.nextCommit ∧
      ∀ g, s.graph? c.graph = some g →
        (FMap.get [] s.spawned p = [] → (s.queueOf p).length + c.spawns.length ≤ 64 → t.queueOf p = s.queueOf p ++ c.spawns.map (fun w =>
          { words := w, function := g.function, link := g.link, privileged := g.privileged })) ∧
        (∀ m, g.moulds = [m] → m.gang = false → (∀ e ∈ s.gangs, e.graph ≠ g.uid) → c.mould = 0 → g.dead = false → (g.run 0).ready = true →
          ((g.run 0).committed + 1 < m.ownCount → t.mem = s.mem ∧ ∃ h ∈ t.graphs, h.uid = g.uid ∧ (h.run 0).committed = (g.run 0).committed + 1) ∧
          (m.ownCount ≤ (g.run 0).committed + 1 → (∀ h ∈ t.graphs, h.uid ≠ g.uid) ∧
            (g.completion = 0 → t.mem = s.mem ∧ NoInterrupt s t) ∧
            (g.completion ≠ 0 → s.walkAddr g.part g.completion.toNat .write = none → t.mem = s.mem ∧ NoInterrupt s t ∧
              (FMap.get LqCounts.zero t.lq g.part).lost = (FMap.get LqCounts.zero s.lq g.part).lost + 1) ∧
            (∀ pa, g.completion ≠ 0 → s.walkAddr g.part g.completion.toNat .write = some pa → Stores64 s t pa g.value ∧
              (g.ci = true → Raises s t g.link g.function g.vector) ∧ (g.ci = false → NoInterrupt s t)))))) ∧
    (∀ n, (s.faults[n]? = none → Idles (.castingFault n) s) ∧
      (∀ f, s.faults[n]? = some f → f.casting = c.uid →
        (c.takesFault = false → exec (.castingFault n) s = .next { s with faults := s.faults.eraseIdx n }) ∧
        (c.takesFault = true → Completes (.castingFault n) s (fun t => t.mem = s.mem ∧ t.faults = s.faults.eraseIdx n ∧ t.slices = s.slices ∧
          CastingIs s t c
            { c with state := .faulted, fault := some f, preempt := none, along := false, started := false, suspension := none,
                     awaited := s.framesOf c.uid, reservation := [] } ∧
          (s.me.live = true → s.me.casting = c.uid → t.me.stopped = true) ∧
          (f.cause = .checkMismatch → f.cluster < 64 → (t.reg (0x850 + f.cluster)).toNat = min (2 ^ 32 - 1) ((s.reg (0x850 + f.cluster)).toNat + 1)))))) ∧
    let ended := c.awaited = [] ∧ s.padStoresLeft c.uid = false ∧ s.entriesLeft c = false
    (¬ ended ∨ (c.state ≠ .faulted ∧ c.state ≠ .discarding) → Idles (.discardAcknowledged c.uid) s) ∧
    (ended → c.state = .faulted → c.fault = none → Completes (.discardAcknowledged c.uid) s (fun t =>
      gone t ∧ freed t ∧ t.mem = s.mem ∧ t.reportSeq = s.reportSeq)) ∧
    (∀ g m, s.mouldOf c.uid = some (c, g, m) →
      (ended → c.state = .discarding → Completes (.discardAcknowledged c.uid) s (fun t => gone t ∧ freed t ∧ t.mem = s.mem ∧
        t.reportSeq = s.reportSeq ∧ ∃ d ∈ t.castings, d.uid = s.nextUid ∧ d.graph = g.uid ∧ d.mould = c.mould ∧ d.index = c.index ∧ d.saved = [] ∧
          (d.state = .ready ∨ d.state = .discarded))) ∧
      (∀ f, s.relaunches c g f = true ↔ m.restartable = true ∧ c.unversioned = false ∧ f ∉ [Cause.abort, .gangAbort, .descriptor] ∧
        if f = .uncorrectable ∨ f = .checkMismatch then c.relaunches < (s.reg 0x801).toNat / 2 ^ 24 % 16 else g.policy.getLsbD (causeCode f) = true) ∧
      (∀ f, ended → c.state = .faulted → c.fault = some f → Completes (.discardAcknowledged c.uid) s (fun t => gone t ∧ freed t ∧
        FMap.get 0 t.reportSeq p = FMap.get 0 s.reportSeq p + 1 ∧
        (let head := s.reg (0x200 + 8 * p + 2)
         let log := (s.reg (0x200 + 8 * p + 1)).toNat % 32
         ∀ pa, (head - s.reg (0x200 + 8 * p + 3)).toNat < 2 ^ log →
           s.virtualParts p .write ((s.reg (0x200 + 8 * p)).toNat + 32 * (head.toNat % 2 ^ log)) 32 = some [(pa, 32)] →
           t.mem.readBytes pa 32 = recordBytes [BitVec.ofNat 64 (c.mould % 65536 * 2 ^ 48 + causeCode f.cause * 2 ^ 40 + f.rank % 256 * 2 ^ 32 +
             f.cluster % 256 * 2 ^ 24 + f.core % 8 * 2 ^ 21 + (FMap.get 0 s.reportSeq p).toNat), g.image, BitVec.ofNat 64 (c.index * 2 ^ (5 + m.w1)), f.pc] ∧
           (∀ a, (a < pa ∨ pa + 32 ≤ a) → t.mem.read a = s.mem.read a) ∧ t.reg (0x200 + 8 * p + 2) = head + 1) ∧
        (s.relaunches c g f.cause = true → ∃ d ∈ t.castings, d.state = .ready ∧ d.uid = s.nextUid ∧ d.graph = g.uid ∧ d.mould = c.mould ∧
          d.index = c.index ∧ d.relaunches = c.relaunches + (if f.cause = .uncorrectable ∨ f.cause = .checkMismatch then 1 else 0)) ∧
        (s.relaunches c g f.cause = false → ∀ h ∈ t.graphs, h.uid = c.graph → h.dead = true))))

/-! ### Translation and pre-emption (R144, R169 to R176, R420 to R422) -/

/-- R169, R216, R420, R421, R422: a walk that finds its page, in its die's cache or in the tables, caches it for its cluster and its die and
lets the access go on; one that does not suspends the casting and queues one record, but a touch drops the tile and goes on. A record is
written where TQ_HEAD points while the queue has room. The host's answer has the casting dispatched again, once it has been saved, or makes
it fault with cause 0x0d. A walk that meets a poisoned entry is an uncorrectable error of its instruction (R338). The model's choices: an
interrupt's vector is masked at reset and a masked one keeps a pending bit (log 77), the record is numbered and queued at the walk (log 18), the casting's ladles stop at once, in
a handler too (log 19), and a walk goes through its die's cache (log 76). -/
def Obligations.TranslationEvents : Prop :=
  ∀ (s : State) (p : Nat), p < 24 →
    (∀ n, s.walks[n]? = none → Idles (.translationWalk n) s) ∧
    (∀ cluster q va k, (∀ leaf, s.cached (64 + cluster / 32) q va k = some leaf → s.translate cluster q va k = .ok leaf) ∧
      (s.cached (64 + cluster / 32) q va k = none → s.translate cluster q va k = s.walk q va k)) ∧
    (∀ n l x va k, s.walks[n]? = some (l, x, va, k) →
      (∀ leaf, s.translate l.cluster l.part va k = .ok leaf → Completes (.translationWalk n) s (fun t => t.mem = s.mem ∧ (s.noErrors = true → t.slices = s.slices) ∧
        t.cached l.cluster l.part va k = some leaf ∧ (l.cluster < 64 → t.cached (64 + l.cluster / 32) l.part va k = some leaf) ∧ t.castings = s.castings ∧
        (l = s.me → x = s.me.sp → s.me.splits = [] → t.me.sp.blocked = .ready ∧ t.me.sp.pc = s.me.sp.pc ∧ t.me.sp.mask = s.me.sp.mask ∧ t.me.s = s.me.s))) ∧
      (∀ reason, s.translate l.cluster l.part va k = .error reason → k = .touch → Completes (.translationWalk n) s (fun t => t.mem = s.mem ∧ t.castings = s.castings ∧
        (s.noErrors = true → t.slices = s.slices) ∧ t.tqWaiting = s.tqWaiting ∧
        (l = s.me → x = s.me.sp → s.me.splits = [] → t.me.sp.blocked = .ready ∧ t.me.sp.pc = s.me.sp.pc ∧ t.me.s = s.me.s))) ∧
      (s.translate l.cluster l.part va k = .error walkPoison → k ≠ .touch → Completes (.translationWalk n) s (fun t => t.mem = s.mem ∧
        t.castings = s.castings ∧ t.tqWaiting = s.tqWaiting ∧ t.faults = s.faults ++
          [{ casting := l.casting, cause := .uncorrectable, pc := x.pc, rank := l.rank, cluster := l.cluster, core := l.core }])) ∧
      (∀ reason c g m, s.translate l.cluster l.part va k = .error reason → reason ≠ walkPoison → k ≠ .touch → s.mouldOf l.casting = some (c, g, m) →
        TheCasting s c →
        (c.suspension.isSome = true → s.noErrors = true → Idles (.translationWalk n) s) ∧
        (c.suspension = none → Completes (.translationWalk n) s (fun t => t.mem = s.mem ∧ (s.noErrors = true → t.slices = s.slices) ∧
          FMap.get [] t.tqWaiting c.part = FMap.get [] s.tqWaiting c.part ++ [[
            BitVec.ofNat 64 (va % 2 ^ 57 + (match k with | .read => 0 | .write => 1 | .fetch => 2 | .sync => 3 | .touch => 0) * 2 ^ 57 + reason * 2 ^ 60),
            BitVec.ofNat 64 (c.index * 2 ^ (5 + m.w1)), g.image,
            BitVec.ofNat 64 ((FMap.get 0 s.tqSeq c.part).toNat + c.mould % 65536 * 2 ^ 32 + l.cluster % 256 * 2 ^ 48)]] ∧
          FMap.get 0 t.tqSeq c.part = FMap.get 0 s.tqSeq c.part + 1 ∧
          (∃ d ∈ t.castings, d.uid = c.uid ∧ d.state = c.state ∧ ∃ y, d.suspension = some y ∧ y.va = va ∧ y.kind = k ∧ y.reason = reason ∧
            y.seq = FMap.get 0 s.tqSeq c.part ∧ y.answered = false ∧ y.unit = none ∧ y.further = [] ∧ y.pc = x.pc ∧ y.rank = l.rank ∧ y.cluster = l.cluster ∧ y.core = l.core) ∧
          (s.me.live = true → s.me.casting = c.uid → t.me.stopped = true))))) ∧
    (let head := s.reg (0x900 + 16 * p + 3)
     let log := (s.reg (0x900 + 16 * p + 2)).toNat % 16
     let used := (head - s.reg (0x900 + 16 * p + 4)).toNat
     let ctl := s.reg (0x900 + 16 * p + 5)
     (FMap.get [] s.tqWaiting p = [] ∨ 2 ^ log ≤ used → Idles (.translationRecordWrite p) s) ∧
     (∀ w pa, FMap.get [] s.tqWaiting p = [w] → w.length = 4 → used < 2 ^ log →
       s.virtualParts p .write ((s.reg (0x900 + 16 * p + 1)).toNat + 32 * (head.toNat % 2 ^ log)) 32 = some [(pa, 32)] →
       Completes (.translationRecordWrite p) s (fun t => t.mem.readBytes pa 32 = recordBytes w ∧
         (∀ a, (a < pa ∨ pa + 32 ≤ a) → t.mem.read a = s.mem.read a) ∧ t.reg (0x900 + 16 * p + 3) = head + 1 ∧ FMap.get [] t.tqWaiting p = [] ∧
         (ctl.getLsbD 0 = true → Raises s t (s.vfLink p) (p + 1) (ctl.toNat / 256 % 64)) ∧ (ctl.getLsbD 0 = false → NoInterrupt s t)))) ∧
    (∀ v, exec (.tqTail p v) s = .next (s.setReg (0x900 + 16 * p + 4) v)) ∧
    (∀ q, (s.waitingFor p q = none → Idles (.tqAnswerResume p q) s ∧ Idles (.tqAnswerAbort p q) s) ∧
      (∀ c x, s.waitingFor p q = some (c, x) → TheCasting s c →
        (c.state = .suspended → Completes (.tqAnswerResume p q) s (fun t => t.mem = s.mem ∧
          CastingIs s t c { c with state := .saved, suspension := none, readyAt := s.ticks, readyClock := s.service })) ∧
        (c.state = .heldBack → Completes (.tqAnswerResume p q) s (fun t => t.mem = s.mem ∧
          { c with state := .ready, cluster := 0xff, suspension := none } ∈ t.castings)) ∧
        (c.state = .resident → Completes (.tqAnswerResume p q) s (fun t => t.mem = s.mem ∧ t.me = s.me ∧
          CastingIs s t c { c with suspension := some { x with answered := true } })) ∧
        (c.takesFault = true → Completes (.tqAnswerAbort p q) s (fun t => t.mem = s.mem ∧
          ∃ d ∈ t.castings, d.uid = c.uid ∧ d.state = .faulted ∧
            d.fault = some { casting := c.uid, cause := .translationAbort, pc := x.pc, rank := x.rank, cluster := x.cluster, core := x.core }))))

/-- R170 to R176: PREEMPT_CTL asks for the castings that it names, whole cluster gangs together, and is refused while a request is in
progress; a discard of a casting that is not restartable is a save. A save takes the lowest free slot and stops the ladles, but
one in a handler with M = 1; once they are at rest the casting leaves its cluster with all its state, its version stays; a
discard sends its version away. -/
def Obligations.PreemptionEvents : Prop :=
  ∀ (s : State) (c : Casting), TheCasting s c → c.part < 24 →
    let p := c.part
    let save := fun (all : Bool) (x : Nat) => Instr.preemptCtlSave p all x
    let drop := fun (all : Bool) (x : Nat) => Instr.preemptCtlDiscard p all x
    (s.preempting p = true → ∀ all x, Idles (save all x) s ∧ Idles (drop all x) s) ∧
    (s.preempting p = false → c.state = .resident → ∀ (all : Bool) (x : Nat), x < 64 → (all = true ∨ c.cluster = x) →
      Completes (save all x) s (fun t => t.mem = s.mem ∧ t.me = s.me ∧ { c with preempt := some true } ∈ t.castings) ∧
      (s.restartable c = false → Completes (drop all x) s (fun t => t.mem = s.mem ∧ t.me = s.me ∧ { c with preempt := some true } ∈ t.castings)) ∧
      ((∀ d ∈ s.castings, s.sameGang c.uid d.uid = true → s.restartable d = true) →
        Completes (drop all x) s (fun t => t.mem = s.mem ∧ t.me = s.me ∧ { c with preempt := some false } ∈ t.castings))) ∧
    (s.preempting p = false → ∀ x < 64, (∀ d ∈ s.castings, d.part = p → d.state = .resident → d.cluster ≠ x) →
      Idles (save false x) s ∧ Idles (drop false x) s) ∧
    (∀ n, s.freeSlot p = some n ↔ n < (s.reg (0x200 + 8 * p + 7)).toNat % 65536 ∧ (∀ d ∈ s.castings, d.part = p → d.saveSlot ≠ some n) ∧
      ∀ k < n, ∃ d ∈ s.castings, d.part = p ∧ d.saveSlot = some k) ∧
    (c.state ≠ .resident ∨ c.started = true ∨ (c.preempt = none ∧ c.suspension = none ∧ c.along = false) → Idles (.preemptionStart c.uid) s) ∧
    (c.state = .resident → c.started = false → (c.preempt.isSome = true ∨ c.suspension.isSome = true ∨ c.along = true) →
      let saves := c.preempt ≠ some false ∨ s.restartable c = false
      let mine := s.me.live = true ∧ s.me.casting = c.uid ∧ s.me.stopped = false
      let waits := s.me.handlerActive = true ∧ s.me.tcause.getLsbD 63 = true
      let stops := fun (t : State) => t.mem = s.mem ∧ t.slices = s.slices ∧ (mine → ¬ waits → t.me = { s.me with stopped := true }) ∧
        (mine → waits → t.me = { s.me with deferred := true, handlerIssued := 0 })
      (saves → s.freeSlot p = none → Idles (.preemptionStart c.uid) s) ∧
      (∀ n, saves → s.freeSlot p = some n → s.hasControl c = false →
        Completes (.preemptionStart c.uid) s (fun t => stops t ∧ CastingIs s t c { c with started := true, saveSlot := some n, mxsBlock := none })) ∧
      (saves → s.hasControl c = true → s.freeBlock p = none → Idles (.preemptionStart c.uid) s) ∧
      (∀ n b, saves → s.freeSlot p = some n → s.hasControl c = true → s.freeBlock p = some b →
        Completes (.preemptionStart c.uid) s (fun t => stops t ∧ CastingIs s t c { c with started := true, saveSlot := some n, mxsBlock := some b })) ∧
      (¬ saves → Completes (.preemptionStart c.uid) s (fun t => stops t ∧ CastingIs s t c { c with started := true }))) ∧
    (c.state ≠ .resident ∨ c.started = false ∨ s.canSave c = false → Idles (.preemptionSave c.uid) s) ∧
    (c.state = .resident → c.started = true → s.canSave c = true →
      (c.saveSlot = none → Completes (.preemptionSave c.uid) s (fun t => t.mem = s.mem ∧ t.slices = s.slices ∧
        CastingIs s t c
          { c with state := .discarding, preempt := none, along := false, started := false, suspension := none, awaited := s.framesOf c.uid,
                   reservation := [] })) ∧
      (∀ g m, c.saveSlot.isSome = true → s.mouldOf c.uid = some (c, g, m) → (∀ n, (s.sliceOf n).watches = []) →
        Completes (.preemptionSave c.uid) s (fun t => (∀ l ∈ t.ladles, l.casting = c.uid → l.live = false) ∧
          (∀ n, (t.sliceOf n).frames = (s.sliceOf n).frames) ∧
          let mine := s.ladles.filter (fun l => l.live && decide (l.casting = c.uid))
          ∃ d ∈ t.castings, d.uid = c.uid ∧ d.state = (if c.suspension.any (fun x => !x.answered) then .suspended else .saved) ∧
            d.dispatchNo = c.dispatchNo ∧ d.saveSlot = c.saveSlot ∧ d.preempt = none ∧ d.along = false ∧ d.saved.length = mine.length ∧
            (s.hasControl c = true → true ∈ (s.mat c.cluster).residue.toList → d.retired = some ((s.reg (0x600 + 4 * c.cluster)).extractLsb' 8 6)) ∧
            (s.hasControl c = false → d.retired = none) ∧
            ((∀ l ∈ mine, ∀ q ∈ l.pend, q.lands false = false ∧ q.scan = none) →
              d.saved = mine.map (fun l => { l with stopped := false, deferred := false, pend := l.pend.map Pending.kept })))))

/-! ### Register writes by the host or a privileged ladle (R167, R196, R197, R200 to R203, R212, R253, R254, R316, R325, R326, R406, R407, R416, R418, R422, R423) -/

/-- R196, R197, R201, R202, R212, R316, R325, R326, R407, R409, R423: each such event is the write of its register, and changes nothing where the
register refuses it as busy. The model's choice: a write of BRD_RESET with a count above 256 is refused as busy, as R423 says of BOARD_CFG
(log 22). -/
def Obligations.RegisterEvents : Prop :=
  ∀ (s : State) (v : BitVec 64),
    (∀ d < 2,
      (s.goRefused d = true → Idles (.hashCtlGo d) s) ∧
      ((∃ h ∈ s.homeChanges, h.die = d) ∨ (∃ n, n / 32 = d ∧ ((s.sliceOf n).pins ≠ [] ∨ (s.sliceOf n).frames ≠ [])) → Idles (.hashCtlGo d) s) ∧
      (s.goRefused d = false → exec (.hashCtlGo d) s = .next { s with homeChanges := s.homeChanges ++ [{ die := d, retire := none, switched := [] }] }) ∧
      (let x := (s.reg (0x418 + 0x20 * d)).toNat
       Completes (.btData d v) s (fun t => t.bucketStaged (d * 16384 + x) = v.setWidth 5 ∧ t.buckets = s.buckets ∧ t.mem = s.mem ∧
         (∀ k, k ≠ d * 16384 + x → t.bucketStaged k = s.bucketStaged k) ∧ t.reg (0x418 + 0x20 * d) = BitVec.ofNat 64 (x / 4096 * 4096 + (x + 1) % 4096))) ∧
      (∀ n < 32, ((∃ h ∈ s.homeChanges, h.die = d) ∨ s.lastLive d n = true → Idles (.sliceRetire d n) s) ∧
        ((∀ h ∈ s.homeChanges, h.die ≠ d) → s.lastLive d n = false → Completes (.sliceRetire d n) s (fun t =>
          t.homeChanges = s.homeChanges ++ [{ die := d, retire := some n, switched := [] }] ∧ t.slices = s.slices ∧ t.mem = s.mem))) ∧
      (∀ p < 24,
        let n := 0x440 + 2 * p + d
        let w : Word64 := v &&& 0x000f0002ffffffff
        (s.splitRefused p d w = true → Idles (.splitRegisterWrite p d v) s) ∧
        (w.extractLsb' 0 16 &&& w.extractLsb' 16 16 ≠ 0 ∨ (∃ e ∈ s.splitChanges, e.part = p ∧ e.die = d) → Idles (.splitRegisterWrite p d v) s) ∧
        (s.splitRefused p d w = false → s.splitReach d (s.reg n) w = [] → exec (.splitRegisterWrite p d v) s = .next (s.setReg n w)) ∧
        (s.splitRefused p d w = false → s.splitReach d (s.reg n) w ≠ [] → exec (.splitRegisterWrite p d v) s = .next
          { s with splitChanges := s.splitChanges ++ [{ part := p, die := d, value := w, left := s.splitReach d (s.reg n) w }] }))) ∧
    (let index := (s.reg 0xc00).toNat
     let members := v.toNat % 512
     (members = 0 ∨ 256 < members → Idles (.boardCfg v) s) ∧
     (0 < members → members ≤ 256 → s.quiet = true → Completes (.boardCfg v) s (fun t => t = { s with boards := t.boards, portOrder := t.portOrder } ∧
       (∀ k, k ≠ s.pkg * 4096 + index → t.board k = s.board k) ∧
       t.board (s.pkg * 4096 + index) = { members := members, level := 0, mask := 0, values := [], assigned := v.getLsbD 56, owner := if v.getLsbD 56 then v.toNat / 2 ^ 48 % 32 else 0 }))) ∧
    (∀ p < 24,
      let k := s.pkg * 4096 + v.toNat % 4096
      let n := v.toNat / 4096 % 512
      let mine := (s.board k).assigned = true ∧ (s.board k).owner = p
      s.boardResets = [] → (s.board k).members < 512 → (s.board k).owner < 32 →
      (¬ mine → Idles (.brdReset p v) s) ∧ (256 < n → Idles (.brdReset p v) s) ∧
      (mine → n ≤ 256 → s.quiet = true → Completes (.brdReset p v) s (fun t => t = { s with boards := t.boards, portOrder := t.portOrder } ∧
        (∀ j, j ≠ k → t.board j = s.board j) ∧
        t.board k = { members := if n = 0 then (s.board k).members else n, level := 0, mask := 0, values := [], assigned := true, owner := p }))) ∧
    (s.accepting = true → s.writeReg 0xc10 v = none) ∧
    (s.accepting = false → ∃ t, s.writeReg 0xc10 v = some t ∧ t.pkg = v.toNat % 1024 ∧
      (∀ n, n ≠ 0xc10 → t.reg n = s.reg n) ∧ (v.toNat % 1024 ≠ s.pkg → s.boards.Pairwise (fun a b => a.1 < b.1) →
        ∀ b < 4096, t.board (v.toNat % 1024 * 4096 + b) = s.board (s.pkg * 4096 + b))) ∧
    (23 < v.toNat / 2 ^ 56 % 32 ∨ 5 < v.toNat / 2 ^ 24 % 8 ∨ 95 < v.toNat / 256 % 128 ∨ 95 < v.toNat % 128 → Idles (.rnsInject v) s) ∧
    (v.toNat / 2 ^ 56 % 32 ≤ 23 → v.toNat / 2 ^ 24 % 8 ≤ 5 → v.toNat / 256 % 128 ≤ 95 → v.toNat % 128 ≤ 95 →
      exec (.rnsInject v) s = .next (s.setReg 0x700 (v &&& 0x9f00000007ff7f7f))) ∧
    (∀ x < 64,
      let n := 0x600 + 4 * x
      let retired := (s.reg n).extractLsb' 8 6
      (∀ mf, popc retired ≤ 1 → Completes (.rnsCtlMf x mf) s (fun t => t = { s with regs := t.regs } ∧ (t.reg n).getLsbD 0 = mf ∧
        (t.reg n).extractLsb' 8 6 = retired ∧ ∀ k, k ≠ n → t.reg k = s.reg k)) ∧
      (∀ r, 1 < popc r ∨ (r ≠ retired ∧ s.controlHeld x = true) → Idles (.rnsCtlRetired x r) s) ∧
      (∀ r, popc r ≤ 1 → (r = retired ∨ s.controlHeld x = false) → Completes (.rnsCtlRetired x r) s (fun t => t = { s with regs := t.regs } ∧
        (t.reg n).extractLsb' 8 6 = r ∧ (t.reg n).getLsbD 0 = (s.reg n).getLsbD 0 ∧ ∀ k, k ≠ n → t.reg k = s.reg k))) ∧
    (∀ (n : BitVec 13) (p : Nat),
      (s.vfPresented p = false ∨ vfWrites p n.toNat = false → Idles (.registerWrite n v true p) s) ∧
      (s.pfPresented = false ∨ n.toNat < 0x100 → Idles (.registerWrite n v false p) s) ∧
      (∀ i : Instr, (i = .registerWrite n v true p ∧ s.vfPresented p = true ∧ vfWrites p n.toNat = true) ∨
          (i = .registerWrite n v false p ∧ s.pfPresented = true ∧ 0x100 ≤ n.toNat) →
        (s.writeReg n.toNat v = none → Idles i s) ∧ (∀ t, s.writeReg n.toNat v = some t → exec i s = .next t) ∧
        (regAssigned n.toNat = false → Idles i s)))

/-- R253, R254, R418, R422: a load of the format tables is asked for unless a casting of the partition is resident or saved, and either both
tables are loaded or the copies stay and ERR is set; a shootdown drops the cached entries of its range and completes, with its
value in host memory, once the accesses sent before it are performed; a partition is enabled, disabled, or reset. The model's choices: a
partition reset empties the launch queue and its counts (log 24), and a completion address outside host space has nothing written (log 94). -/
def Obligations.PartitionEvents : Prop :=
  ∀ (s : State) (p : Nat), p < 24 →
    let sync := 0x502 + 4 * p
    (s.partBusy p = true → Idles (.fmtSync p) s) ∧
    (s.partBusy p = false → Completes (.fmtSync p) s (fun t => t = { s with fmtLoads := t.fmtLoads } ∧ p ∈ t.fmtLoads ∧ ∀ q, q ≠ p → (q ∈ t.fmtLoads ↔ q ∈ s.fmtLoads))) ∧
    (p ∉ s.fmtLoads → Idles (.fmtTableLoad p) s) ∧
    (p ∈ s.fmtLoads → Completes (.fmtTableLoad p) s (fun t => t.mem = s.mem ∧ p ∉ t.fmtLoads ∧
      (∀ words books, s.readWords p (s.reg (0x500 + 4 * p)).toNat 1024 = some words → s.readVirtual p (s.reg (0x501 + 4 * p)).toNat 8192 = some books →
        t.reg sync = 0 ∧
        (∀ i w, (p * 256 + i, w) ∈ t.fmt → i < 256 → w = (words.drop (4 * i)).take 4) ∧
        (∀ i < 256, ((words.drop (4 * i)).take 4).any (· != 0) = true → (p * 256 + i, (words.drop (4 * i)).take 4) ∈ t.fmt)) ∧
      (s.readWords p (s.reg (0x500 + 4 * p)).toNat 1024 = none ∨ s.readVirtual p (s.reg (0x501 + 4 * p)).toNat 8192 = none →
        t.reg sync = 2 ∧ t.fmt = s.fmt ∧ t.codebooks = s.codebooks))) ∧
    (let first := (s.reg (0x900 + 16 * p + 7)).toNat
     let n := (s.reg (0x900 + 16 * p + 8)).toNat
     let busy := ∃ e ∈ s.shootdowns, e.1 = p
     (busy ∨ n = 0 ∨ 2 ^ 57 < first + n * 65536 → Idles (.sdCtl p) s) ∧
     (¬ busy → 0 < n → first + n * 65536 ≤ 2 ^ 57 → Completes (.sdCtl p) s (fun t => t.mem = s.mem ∧ t.reg (0x900 + 16 * p + 11) = 2 ∧
       t.shootdowns = s.shootdowns ++ [(p, s.nextReq)] ∧
       ∀ e, e ∈ t.tlb ↔ e ∈ s.tlb ∧ ¬ (e.part = p ∧ e.base < first + n * 65536 ∧ first < e.base + 2 ^ e.log))) ∧
     (¬ busy → Idles (.shootdownComplete p) s) ∧
     (∀ k, s.shootdowns.find? (fun e => e.1 == p) = some (p, k) →
       let pa := (s.reg (0x900 + 16 * p + 9)).toNat
       (s.accessBefore p k = true → Idles (.shootdownComplete p) s) ∧
       (s.accessBefore p k = false → Completes (.shootdownComplete p) s (fun t => t.reg (0x900 + 16 * p + 11) = 0 ∧ (∀ e ∈ t.shootdowns, e.1 ≠ p) ∧
         (isHost pa = true → Stores64 s t pa (s.reg (0x900 + 16 * p + 10))) ∧ (isHost pa = false → t.mem = s.mem))))) ∧
    (∀ en, exec (.partCtlEn p en) s = .next (s.setReg (0x900 + 16 * p + 13) (if en then 1 else 0))) ∧
    (s.partBusy p = true ∨ (∃ g ∈ s.graphs, g.part = p) → Idles (.partCtlReset p) s) ∧
    (s.partBusy p = false → (∀ g ∈ s.graphs, g.part ≠ p) → Completes (.partCtlReset p) s (fun t =>
      (∀ i < 8, t.reg (0x200 + 8 * p + i) = regReset (0x200 + 8 * p + i)) ∧ (∀ i < 4, t.reg (0x300 + 4 * p + i) = regReset (0x300 + 4 * p + i)) ∧
      (∀ i < 3, t.reg (0x500 + 4 * p + i) = 0) ∧ (∀ i < 15, i ≠ 13 → t.reg (0x900 + 16 * p + i) = regReset (0x900 + 16 * p + i)) ∧
      (∀ i < 8, t.reg (0xb00 + 8 * p + i) = s.reg (0xb00 + 8 * p + i)) ∧ t.reg (0x900 + 16 * p + 13) = s.reg (0x900 + 16 * p + 13) ∧
      t.queueOf p = [] ∧ FMap.get 0 t.reportSeq p = 0 ∧ FMap.get 0 t.tqSeq p = 0 ∧ FMap.get 0 t.windows p = 0 ∧
      (∀ e ∈ t.amax, e.1 / 128 ≠ p) ∧ (∀ e ∈ t.fmt, e.1 / 256 ≠ p) ∧ (∀ e ∈ s.amax, e.1 / 128 ≠ p → e ∈ t.amax) ∧ t.boards = s.boards ∧
      t.castings = s.castings ∧ t.graphs = s.graphs))

/-! ### Home changes, splits, columns and the governor (R195 to R203, R205, R212, R224 to R230) -/

/-- R197, R198, R202, R212: a home change drains every slice of its die, then switches every slice, and with the last one the staged
configuration is the active one; requests for tiles that moved are sent again to the new home, in their order. A retirement
waits for frames and slice scratch, moves the slice's buckets to the other slices of the domain, and clears its bit. A split
change is taken slice by slice. No committed byte changes but slice scratch of ways that a split change, a home change or a retirement takes or
gives, which reads zero. The model's choices: where no bucket maps to a retiring slice its boards go to the next live one (log 69), a rehomed
request is sent again once the change has ended (log 26), a split change comes through the slice's service port (log 90), and the lost bytes
read zero as memory that nothing has written does (log 3). -/
def Obligations.HomeEvents : Prop :=
  ∀ (s : State) (d sl : Nat), d < 2 → NoReplicas s →
    let n := 32 * d + sl
    let same := fun (t : State) => t.mem = s.mem
    let turn := s.portWins n servicePort none = true
    let moved := fun (t : State) (m a : Nat) => ∃ w < 16, scratchBase (32 * d + m) w ≤ a ∧ a < scratchBase (32 * d + m) w + 2 ^ 22 ∧
      ∃ p < 24,
        (s.scratchWays (s.reg (0x440 + 2 * p + d)) (32 * d + m) ^^^ t.scratchWays (s.reg (0x440 + 2 * p + d)) (32 * d + m)).getLsbD w = true
    (s.homeChange? d = none → Idles (.drainMessage d sl) s ∧ Idles (.switchMessage d sl) s ∧ Idles (.retirementProceed d) s) ∧
    (∀ h, s.homeChange? d = some h →
      (¬ turn → Idles (.drainMessage d sl) s ∧ Idles (.switchMessage d sl) s) ∧
      (h.retire.isSome = true ∨ 32 ≤ sl ∨ (s.sliceOf n).drained = true → Idles (.drainMessage d sl) s) ∧
      (turn → h.retire = none → sl < 32 → (s.sliceOf n).drained = false → Completes (.drainMessage d sl) s (fun t => same t ∧ (t.sliceOf n).drained = true ∧
        (t.sliceOf n).chain = (s.sliceOf n).chain.filter (fun k => !s.leaving n k) ∧ (t.sliceOf n).frames = (s.sliceOf n).frames ∧
        ∀ m, m ≠ n → t.sliceOf m = s.sliceOf m)) ∧
      (h.retire.isSome = true ∨ 32 ≤ sl ∨ n ∈ h.switched ∨ (∃ m < 32, (s.sliceOf (32 * d + m)).drained = false) → Idles (.switchMessage d sl) s) ∧
      (turn → h.retire = none → sl < 32 → n ∉ h.switched → (∀ m < 32, (s.sliceOf (32 * d + m)).drained = true) →
        ((∃ m < 32, m ≠ sl ∧ 32 * d + m ∉ h.switched) → Completes (.switchMessage d sl) s (fun t => same t ∧ t.home = s.home ∧ t.buckets = s.buckets ∧
          (∀ r ∈ s.requests, r.place = .slice n → r.scratch = false → s.leaving n r.tile = true → r ∈ t.rehomed ∧ r ∉ t.requests) ∧
          { h with switched := n :: h.switched } ∈ t.homeChanges)) ∧
        ((∀ m < 32, m ≠ sl → 32 * d + m ∈ h.switched) → s.bucketsStaged.Pairwise (fun a b => a.1 < b.1) → Completes (.switchMessage d sl) s (fun t =>
          (∀ a, ((∃ m < 32, moved t m a) → t.mem.read a = 0) ∧ ((∀ m < 32, ¬ moved t m a) → t.mem.read a = s.mem.read a)) ∧
          (∀ i ∈ stagedRegs, t.homeReg d i = s.reg (0x400 + 0x20 * d + i)) ∧ (∀ k, k / 16384 = d → t.bucket k = s.bucketStaged k) ∧
          (∀ k, k / 16384 ≠ d → t.bucket k = s.bucket k) ∧ (∀ e ∈ t.homeChanges, e.die ≠ d)))) ∧
      (∀ r, h.retire = some r → r < 32 →
        let m := 32 * d + r
        let gate := s.portWins m servicePort none = true
        (¬ gate ∨ s.framesHeld m = true ∨ s.scratchHeld m = true → Idles (.retirementProceed d) s) ∧
        (gate → s.framesHeld m = false → s.scratchHeld m = false → Completes (.retirementProceed d) s (fun t =>
          (∀ a, t.mem.read a = if scratchBase m 0 ≤ a ∧ a < scratchBase m 0 + 2 ^ 26 then 0 else s.mem.read a) ∧
          (t.reg (0x41b + 0x20 * d)).getLsbD r = false ∧ (∀ j < 64, j ≠ r → (t.reg (0x41b + 0x20 * d)).getLsbD j = (s.reg (0x41b + 0x20 * d)).getLsbD j) ∧
          (t.sliceOf m).chain = [] ∧ (t.sliceOf m).pins = [] ∧ (∀ e ∈ t.homeChanges, e.die ≠ d) ∧
          (∀ b < 64, t.boardHome b = if s.boardHome b = m then s.boardReceiver d r else s.boardHome b) ∧
          (∀ j < 32, ((∃ k < 4, ∃ b < 4096, (s.bucket (d * 16384 + k * 4096 + b)).toNat = r ∧ s.receivers d k r ≠ [] ∧
              t.bucket (d * 16384 + k * 4096 + b) = BitVec.ofNat 5 j ∧
              ∀ k' < 4, ∀ b' < 4096, (s.bucket (d * 16384 + k' * 4096 + b')).toNat = r → s.receivers d k' r ≠ [] → k * 4096 + b ≤ k' * 4096 + b') →
            s.boardReceiver d r = 32 * d + j)) ∧
          ∀ k < 4, ∀ b < 4096,
            let key := d * 16384 + k * 4096 + b
            let goal := s.receivers d k r
            let j := ((List.range b).filter (fun c => decide ((s.bucket (d * 16384 + k * 4096 + c)).toNat = r))).length
            ((s.bucket key).toNat ≠ r → t.bucket key = s.bucket key) ∧
            ((s.bucket key).toNat = r → goal ≠ [] → t.bucket key = BitVec.ofNat 5 (goal.getD (j % goal.length) 0)))))) ∧
    (∀ i, (s.rehomed[i]? = none → Idles (.rehomeReplay i) s) ∧
      (∀ r m, s.rehomed[i]? = some r → r.place = .slice m →
        let first := ∀ q ∈ s.rehomed.take i, q.who.cluster = r.who.cluster → (q.who.ladle = 0 ↔ r.who.ladle = 0) → q.tile ≠ r.tile
        let q : Req := { r with place := .slice (if r.replica then s.replicaSlice (256 * r.tile) (m / 32) else s.homeOf (256 * r.tile)), arrived := none }
        let going := ∃ h, s.homeChange? (m / 32) = some h ∧ h.retire = none
        (¬ first ∨ going → Idles (.rehomeReplay i) s) ∧
        let u := { s with rehomed := s.rehomed.eraseIdx i }
        (first → ¬ going → s.hold = true ∨ u.grantable q = false ∨ u.wins q = false →
          exec (.rehomeReplay i) s = .next { u with requests := s.requests ++ [q] }) ∧
        (first → ¬ going → s.hold = false → u.grantable q = true → u.wins q = true →
          exec (.rehomeReplay i) s = .next ((u.noteGrant q).perform q)))) ∧
    (∀ p, (∀ e ∈ s.splitChanges, e.part = p → e.die ≠ d) → Idles (.splitChangeSlot p d sl) s) ∧
    (∀ p c, s.splitChanges.find? (fun e => decide (e.part = p) && decide (e.die = d)) = some c →
      (n ∉ c.left ∨ ¬ turn → Idles (.splitChangeSlot p d sl) s) ∧
      (n ∈ c.left → turn → p < 24 →
        let reg := 0x440 + 2 * p + d
        let lost := s.scratchWays (s.reg reg) n ^^^ s.scratchWays c.value n
        Completes (.splitChangeSlot p d sl) s (fun t =>
          (∀ a, (∃ w < 16, lost.getLsbD w = true ∧ scratchBase n w ≤ a ∧ a < scratchBase n w + 2 ^ 22) → t.mem.read a = 0) ∧
          (∀ a, (∀ w < 16, lost.getLsbD w = true → ¬ (scratchBase n w ≤ a ∧ a < scratchBase n w + 2 ^ 22)) → t.mem.read a = s.mem.read a) ∧
          (c.left.erase n = [] → t.reg reg = c.value ∧ ∀ e ∈ t.splitChanges, e.part = p → e.die ≠ d) ∧
          (c.left.erase n ≠ [] → t.reg reg = s.reg reg ∧ { c with left := c.left.erase n } ∈ t.splitChanges))))

/-- R224 to R230: a column falls due, realigns when no other of its group does and no transfer crosses it or it is forced, and
ends, and what waited for it alone goes on. Its temperature is the highest of its readings. The governor's examination gives each
column its cap level, and moves the clock by at most one step. (Readings are log 10.) -/
def Obligations.ColumnEvents : Prop :=
  ∀ (s : State) (d k : Nat), d < 2 → k < 160 →
    let c := s.column d k
    let becomes := fun (i : Instr) (c' : Column) => Completes i s (fun t => t = { s with columns := t.columns } ∧ t.column d k = c' ∧
      ∀ e j, e < 2 → j < 160 → (e, j) ≠ (d, k) → t.column e j = s.column e j)
    let free := c.due = true ∧ c.retrain = false ∧ ∀ j < 160, j / 4 = k / 4 → (s.column d j).retrain = false
    (c.retrain = false → becomes (.columnDue d k) { c with due := true }) ∧
    (c.retrain = true → Idles (.columnDue d k) s) ∧
    (free → becomes (.realignmentStart d k true) { c with retrain := true }) ∧
    (free → s.transferOn d k = false → becomes (.realignmentStart d k false) { c with retrain := true }) ∧
    (¬ free → ∀ forced, Idles (.realignmentStart d k forced) s) ∧
    (s.transferOn d k = true → Idles (.realignmentStart d k false) s) ∧
    (c.retrain = true → (32 ≤ k ∨ s.returning = []) → becomes (.realignmentEnd d k) { c with due := false, retrain := false }) ∧
    (c.retrain = true → k < 32 → Completes (.realignmentEnd d k) s (fun t => t.column d k = { c with due := false, retrain := false } ∧ t.mem = s.mem ∧
      (∀ e, e ∈ t.returning ↔ e.2.1.late ≠ [] ∧ ∃ f ∈ s.returning,
        e = (f.1, { f.2.1 with late := f.2.1.late.filter (fun m => decide (m ≠ 32 * d + k)) }, f.2.2)) ∧
      (∀ m r xs, s.returning = [(m, r, xs)] → r.late = [32 * d + k] →
        (∀ p, r.pend = some p → r.who.ladle = s.me.uid → t.me = s.me.fill p r.id xs) ∧
        (r.pend = none → r.kind = .syncLoad → r.unit = some 7 → t.replies = s.replies ++ [.data (xs.map (fun v => v.2.setWidth 8))])))) ∧
    (c.retrain = false → Idles (.realignmentEnd d k) s) ∧
    (∀ e temps power, 2 ≤ e → Idles (.governorExamination e temps power) s) ∧
    (∀ temps power,
      let lim := (s.reg (0x480 + 0x10 * d)).toNat
      let ts := [lim % 256, lim / 2 ^ 8 % 256, lim / 2 ^ 16 % 256]
      let temp := s.tempOf d temps k
      let met := (ts.filter (fun t => decide (t ≤ temp))).length
      let step := (s.reg 0x4a0).toNat % 8
      let limit := (s.reg 0x4a1).toNat % 4096
      Completes (.governorExamination d temps power) s (fun t => t.mem = s.mem ∧ t.power = power ∧
        (t.column d k).temp = temp ∧ ((∀ e ∈ temps, e.1 ≠ k) → temp = c.temp) ∧ (∀ e ∈ temps, e.1 = k → min e.2 255 ≤ temp) ∧
        ((∃ e ∈ temps, e.1 = k) → ∃ e ∈ temps, e.1 = k ∧ temp = min e.2 255) ∧ (t.column d k).due = c.due ∧ (t.column d k).retrain = c.retrain ∧
        (t.column d k).cap = (if c.cap < met then met else if 0 < c.cap ∧ temp + 5 < ts.getD (c.cap - 1) 0 then c.cap - 1 else c.cap) ∧
        (let top := fun (e : Nat) => (s.reg (0x480 + 0x10 * e)).toNat / 2 ^ 24 % 256
         let hot := ∃ e < 2, ∃ j < 160, top e ≤ (t.column e j).temp
         let cool := ∀ e < 2, ∀ j < 160, (t.column e j).temp + 5 < top e
         (hot ∨ limit < power → t.reg 0x4a0 = BitVec.ofNat 64 (min 4 (step + 1))) ∧
         (¬ hot → cool → power < limit → t.reg 0x4a0 = BitVec.ofNat 64 (step - 1)) ∧
         (¬ hot → power ≤ limit → (¬ cool ∨ power = limit) → t.reg 0x4a0 = s.reg 0x4a0))))

/-! ### Scrubbing, the retirement policy, the service controller, gang starts (R326, R338, R340 to R343, R368 to R372) -/

/-- R337, R338, R340 to R343: the scrubber counts a correctable error, of committed data or of a version frame, and writes the corrected sector
where no write has come between; an uncorrectable one is logged, drops a clean tile and poisons any other sector, of a version frame too; no byte changes. An error that an access
meets is logged by its unit, and a correctable one changes no data. The policy retires, in each die, the lowest slice that fails and can
retire, names a channel in an empty RETIRED, and closes a matrix unit whose RETIRED names another. The model's choices: a clean sector of a
dirty tile is poisoned too (log 35), a replica's mark stays with the replica until it is merged (log 34), the reader of a sector that becomes
poisoned takes the fault of a later reader (log 71), a scrubber's slots are the service port's (log 65), which word holds a new error is
a free value (log 10), and the error interrupt, for which R341 and R414 name no link, goes to link 0 of the physical function (log 77). -/
def Obligations.RepairEvents : Prop :=
  ∀ (s : State),
    let rises := fun (t : State) (n : Nat) => (t.reg n).toNat = min (2 ^ 32 - 1) ((s.reg n).toNat + 1)
    let logged := fun (t : State) (unit index : Nat) => rises t 0x802 ∧ (t.reg 0x803).getLsbD 63 = true ∧
      (t.reg 0x803).toNat / 2 ^ 60 % 8 = unit ∧ (t.reg 0x803).toNat / 2 ^ 54 % 64 = index
    (∀ sl k, let x := s.sliceOf sl
      let tile := k / 4
      let turn := s.portWins sl servicePort none = true
      let reads := sl < 64 ∧ s.inRings sl k = true ∧ turn
      let left := ∃ w ∈ x.errors, w / 8 = k
      let finds := fun (v : Nat) (t : State) => t.mem = s.mem ∧ rises t (0x810 + sl) ∧ (t.sliceOf sl).chain = x.chain ∧
        (t.sliceOf sl).scrub = some (v, k, false)
      let found := fun (t : State) => finds 0 t ∧ (∃ w ∈ (t.sliceOf sl).errors, w / 8 = k) ∧ (∀ w ∈ x.errors, w ∈ (t.sliceOf sl).errors) ∧
        (t.sliceOf sl).frames = x.frames
      let clean := x.resident tile = true ∧ x.unwritten tile = true
      let signals := fun (t : State) => ((s.reg 0x800).getLsbD 16 = true → Raises s t 0 0 ((s.reg 0x800).toNat / 256 % 64)) ∧
        ((s.reg 0x800).getLsbD 16 = false → NoInterrupt s t)
      (64 ≤ sl ∨ ¬ turn → ∀ v c u, Idles (.scrubRead sl (v, k) c u) s) ∧
      (s.inRings sl k = false → ∀ c u, Idles (.scrubRead sl (0, k) c u) s) ∧
      (reads → ¬ left → Completes (.scrubRead sl (0, k) false false) s (fun t => t.mem = s.mem ∧ t.slices = s.slices ∧ t.regs = s.regs)) ∧
      (reads → left → Completes (.scrubRead sl (0, k) false false) s found) ∧
      (reads → Completes (.scrubRead sl (0, k) true false) s found) ∧
      (reads → ∀ c, Completes (.scrubRead sl (0, k) c true) s (fun t => t.mem = s.mem ∧ logged t 2 sl ∧ t.policyAt (64 + sl) = 1 ∧ signals t ∧
        (clean → rises t (0x810 + sl) ∧ (t.sliceOf sl).poison = x.poison ∧
          (x.pinned tile = false → tile ∉ (t.sliceOf sl).chain) ∧ (x.pinned tile = true → (t.sliceOf sl).pins = x.pins)) ∧
        (¬ clean → (t.sliceOf sl).chain = x.chain ∧ (x.replica? tile = none → k ∈ (t.sliceOf sl).poison) ∧
          (x.replica? tile ≠ none → ∀ q ∈ (t.sliceOf sl).replicas, q.tile = tile → k ∈ q.poison)))) ∧
      (∀ v, v ≠ 0 → sl < 64 → turn →
        let its := fun (f : Frame) => f.casting = v ∧ f.tile = tile
        let there := fun (f : Frame) => ∃ w ∈ f.errors, w / 8 = k
        let inFrame := fun (t : State) => finds v t ∧ (t.sliceOf sl).errors = x.errors ∧ (∃ f ∈ (t.sliceOf sl).frames, its f) ∧
          ∀ f ∈ (t.sliceOf sl).frames, its f → there f
        ((∀ f ∈ x.frames, ¬ its f) → ∀ c u, Idles (.scrubRead sl (v, k) c u) s) ∧
        (∀ f, x.frame? v tile = some f → ¬ there f →
          Completes (.scrubRead sl (v, k) false false) s (fun t => t.mem = s.mem ∧ t.slices = s.slices ∧ t.regs = s.regs)) ∧
        (∀ f, x.frame? v tile = some f → there f → Completes (.scrubRead sl (v, k) false false) s inFrame) ∧
        ((∃ f ∈ x.frames, its f) →
          Completes (.scrubRead sl (v, k) true false) s inFrame ∧
          ∀ c, Completes (.scrubRead sl (v, k) c true) s (fun t => t.mem = s.mem ∧ logged t 3 sl ∧ t.policyAt (64 + sl) = 1 ∧ signals t ∧
            (t.sliceOf sl).chain = x.chain ∧ (∃ f ∈ (t.sliceOf sl).frames, its f) ∧ ∀ f ∈ (t.sliceOf sl).frames, its f → k ∈ f.lost))) ∧
      (¬ turn → Idles (.scrubWrite sl) s) ∧
      (turn → Completes (.scrubWrite sl) s (fun t => t.mem = s.mem ∧ (t.sliceOf sl).scrub = none ∧ (∀ m, m ≠ sl → t.sliceOf m = s.sliceOf m) ∧
        (x.scrub = some (0, k, false) → (t.sliceOf sl).frames = x.frames ∧ ∀ w, w ∈ (t.sliceOf sl).errors ↔ w ∈ x.errors ∧ w / 8 ≠ k) ∧
        (∀ v, v ≠ 0 → x.scrub = some (v, k, false) → (t.sliceOf sl).errors = x.errors ∧
          ∀ f ∈ (t.sliceOf sl).frames, f.casting = v → f.tile = tile → ∀ w ∈ f.errors, w / 8 ≠ k) ∧
        (∀ v, x.scrub = some (v, k, true) → (t.sliceOf sl).errors = x.errors ∧ (t.sliceOf sl).frames = x.frames)))) ∧
    (∀ p reader,
      (s.holds p = false → ∀ u, s.world (.bitError p reader u) = s) ∧
      (s.holds p = true → (s.world (.bitError p reader false)).mem = s.mem ∧ (s.world (.bitError p reader false)).castings = s.castings ∧
        (s.world (.bitError p reader false)).slices = s.slices) ∧
      (∀ n c tile, p = .frame n c tile → s.holds p = true → rises (s.world (.bitError p reader false)) (0x810 + n) ∧
        logged (s.world (.bitError p reader true)) 3 n) ∧
      (∀ n k, p = .ring n k → s.holds p = true → rises (s.world (.bitError p reader false)) (0x810 + n) ∧ logged (s.world (.bitError p reader true)) 2 n) ∧
      (p = .registers s.me.uid → s.me.live = true → s.me.cluster < 64 →
        let t := s.world (.bitError p (.ladle s.me.uid none) true)
        logged t 0 s.me.cluster ∧ t.faults = s.faults ++
          [{ casting := s.me.casting, cause := .uncorrectable, pc := s.me.sp.pc, rank := s.me.rank, cluster := s.me.cluster, core := s.me.core }]) ∧
      (∀ r i, p = .pad s.me.uid → s.holds p = true → s.sent.find? (fun q => q.id == i && q.who.ladle == s.me.uid) = some r → r.pend = none →
        (s.world (.bitError p (.ladle s.me.uid (some i)) true)).faults = s.faults ++
          [{ casting := r.who.casting, cause := .uncorrectable, pc := r.who.pc, rank := r.who.rank, cluster := r.who.cluster, core := r.who.core }])) ∧
    (let chAuto := (s.reg 0x800).getLsbD 1
     let risen := fun (x ch : Nat) => (s.reg 0x801).toNat / 2 ^ 16 % 256 ≤ s.channelCount x ch - s.policyAt (128 + 6 * x + ch)
     (∀ n, s.sliceFails n = true ↔ (s.reg (0x41b + 0x20 * (n / 32))).getLsbD (n % 32) = true ∧
       ((s.reg 0x801).toNat % 2 ^ 16 ≤ (s.reg (0x810 + n)).toNat - s.policyAt n ∨ s.policyAt (64 + n) ≠ 0)) ∧
     Completes .errorPolicyExamination s (fun t => t.mem = s.mem ∧ t.castings = s.castings ∧ t.slices = s.slices ∧
       (∀ d < 2,
         ((s.reg 0x800).getLsbD 0 = false ∨ (∀ n, n / 32 = d → s.sliceFails n = false) → ∀ h : HomeChange, h.die = d → (h ∈ t.homeChanges ↔ h ∈ s.homeChanges)) ∧
         (∀ n, n / 32 = d → (s.reg 0x800).getLsbD 0 = true → (∀ h ∈ s.homeChanges, h.die ≠ d) → s.sliceFails n = true → s.lastLive d (n % 32) = false →
           (∀ m < n, m / 32 = d → s.sliceFails m = true → s.lastLive d (m % 32) = true) →
           { die := d, retire := some (n % 32), switched := [] } ∈ t.homeChanges)) ∧
       (chAuto = false → t.reg 0x804 = s.reg 0x804 ∧ ∀ x < 64, t.reg (0x600 + 4 * x) = s.reg (0x600 + 4 * x)) ∧
       (∀ x < 64, ∀ ch < 6, chAuto = true → risen x ch → (∀ y < 64, ∀ c < 6, (y, c) ≠ (x, ch) → ¬ risen y c) →
         let retired : BitVec 6 := (s.reg (0x600 + 4 * x)).extractLsb' 8 6
         (retired = 0 → s.controlHeld x = false → (t.reg (0x600 + 4 * x)).extractLsb' 8 6 = BitVec.ofNat 6 (2 ^ ch)) ∧
         (retired ≠ 0 → retired ≠ BitVec.ofNat 6 (2 ^ ch) → (t.reg 0x804).getLsbD x = true ∧ t.reg (0x600 + 4 * x) = s.reg (0x600 + 4 * x)))))

/-- R368: a gang mould starts on every package when its start board is full at level 0, and on none once level 1 has opened: what
a ready post and an abort operation do at the board, and what an outcome does to the castings. (What other packages send enters as
outside events, log 54; that the post of a mould without castings is made is log 39.) -/
def Obligations.GangStarts : Prop :=
  ∀ (s : State) (graph mould : Nat),
    let mine := fun (e : GangStart) => e.graph = graph ∧ e.mould = mould
    let outcome := fun (t : State) (o : Option Bool) => ∀ e ∈ t.gangs, mine e → e.outcome = o
    let aborted := fun (t : State) (m : Mould) => (∀ e ∈ t.gangs, ¬ mine e) ∧ ((∀ c ∈ s.startCastings graph mould, c.fault = none) → t.mem = s.mem) ∧
      ∀ c, s.startCastings graph mould = [c] → TheCasting s c → c.fault = none → ∃ d ∈ t.castings, d.uid = c.uid ∧ d.state = .faulted ∧
        ∃ f, d.fault = some f ∧ f.cause = .gangAbort ∧ f.pc = m.code ∧ f.rank = 0 ∧ f.cluster = c.cluster
    (s.gangStart? graph mould = none → Idles (.gangReadyPost graph mould) s ∧ Idles (.gangAbortOperation graph mould) s ∧
      Idles (.gangStart graph mould) s ∧ Idles (.gangAbort graph mould) s) ∧
    (∀ e m, s.gangStart? graph mould = some e → s.startMould graph mould = some m → (∀ e' ∈ s.gangs, mine e' → e' = e) →
      let here := m.package = s.pkg
      let key := m.package * 4096 + m.board
      let b := s.board key
      let full := ∀ i < b.members, b.mask.getLsbD i = true
      let post := Instr.gangReadyPost graph mould
      let stop := Instr.gangAbortOperation graph mould
      let canStop := e.posted = true ∧ e.watchdog = false ∧ e.outcome = none
      let others := fun (t : State) => ∀ k, k ≠ key → t.board k = s.board k
      (e.posted = true → Idles post s) ∧
      (e.posted = false → ¬ here → Completes post s (fun t => t.boards = s.boards ∧ outcome t e.outcome ∧ ∀ e' ∈ t.gangs, mine e' → e'.posted = true ∧ e'.watchdog = true)) ∧
      (canStop → ¬ here → Idles stop s) ∧
      (e.posted = false → here → b.members ≠ m.members → Completes post s (fun t => aborted t m)) ∧
      (e.posted = false → here → b.members = m.members →
        (b.level = 0 → ¬ full → Completes post s (fun t => t.board key = { b with mask := b.mask ||| BitVec.ofNat 256 (2 ^ m.rank) } ∧ others t ∧
          (∀ e' ∈ t.gangs, mine e' → e'.posted = true ∧ e'.watchdog = true) ∧
          ((∀ i < b.members, (b.mask ||| BitVec.ofNat 256 (2 ^ m.rank)).getLsbD i = true) → e.outcome = none → outcome t (some true)) ∧
          ((∃ i < b.members, (b.mask ||| BitVec.ofNat 256 (2 ^ m.rank)).getLsbD i = false) → outcome t e.outcome))) ∧
        (b.level = 0 → full → Completes post s (fun t => t.boards = s.boards ∧ outcome t e.outcome)) ∧
        (b.level ≠ 0 → Completes post s (fun t => t.boards = s.boards ∧ outcome t (some false)))) ∧
      (¬ canStop → Idles stop s) ∧
      (canStop → here →
        (b.level = 0 → ¬ full → Completes stop s (fun t => t.board key = { b with level := 1, mask := BitVec.ofNat 256 (2 ^ m.rank) } ∧ others t ∧
          outcome t (some false))) ∧
        (b.level = 0 → full → Completes stop s (fun t => t.boards = s.boards ∧ outcome t (some true))) ∧
        (b.level ≠ 0 → Completes stop s (fun t => t.boards = s.boards ∧ outcome t (some false)))) ∧
      (Completes (.gangWatchdogExpiry graph mould) s (fun t => t = { s with gangs := t.gangs } ∧
        ∀ e' ∈ t.gangs, mine e' → e' = if e.outcome = none then { e with watchdog := false } else e)) ∧
      (e.outcome ≠ some true ∨ e.started = true → Idles (.gangStart graph mould) s) ∧
      (e.outcome = some true → e.started = false → Completes (.gangStart graph mould) s (fun t => t.mem = s.mem ∧ (∀ e' ∈ t.gangs, mine e' → e'.started = true) ∧ t.castings = s.castings ∧
        ((∃ c ∈ s.startCastings graph mould, TheCasting s c ∧ c.uid = s.me.casting ∧ c.reservation = []) → t.me = { s.me with heldAtEntry := false }))) ∧
      (e.outcome ≠ some false → Idles (.gangAbort graph mould) s) ∧
      (e.outcome = some false → Completes (.gangAbort graph mould) s (fun t => aborted t m))) ∧
    (∀ key slot ready start,
      let b := s.board key
      let full := ∀ i < b.members, b.mask.getLsbD i = true
      (key / 4096 ≠ s.pkg → s.world (.gangOperation key slot ready) = s) ∧
      (key / 4096 = s.pkg → b.level = 0 → ¬ full →
        (s.world (.gangOperation key slot true)).board key = { b with mask := b.mask ||| BitVec.ofNat 256 (2 ^ slot) } ∧
        (s.world (.gangOperation key slot false)).board key = { b with level := 1, mask := BitVec.ofNat 256 (2 ^ slot) }) ∧
      (key / 4096 = s.pkg → (b.level ≠ 0 ∨ full) → s.world (.gangOperation key slot ready) = s) ∧
      (key / 4096 = s.pkg → s.world (.gangOutcome key start) = s) ∧
      (key / 4096 ≠ s.pkg → s.world (.gangOutcome key start) = { s with gangs := s.gangs.map (fun e =>
        if s.waitsOn key e = true ∧ e.outcome = none then { e with outcome := some start } else e) }))

/-- R369 to R372: every windowed consumption is halved; each cluster that holds no casting goes to the partition of the largest score that
can use it, the clusters in increasing order, and dispatch to the named one's follows at the same slot (the order within a slot is the
model's choice, log 85); an examination asks for the latest casting of the partition farthest above its
share, when another partition's casting has waited long enough. -/
def Obligations.ServiceEvents : Prop :=
  ∀ (s : State),
    let W := fun (p : Nat) => (FMap.get 0 s.windows p).toNat
    let T := fun (p : Nat) => (s.reg (0x300 + 4 * p)).toNat
    let M := fun (p : Nat) => (s.reg (0x301 + 4 * p)).toNat
    let S := ((List.range 24).map W).sum
    let score := fun (p : Nat) => ((T p * S : Nat) : Int) - ((1024 * W p : Nat) : Int)
    let excess := fun (q : Nat) => ((1024 * W q : Nat) : Int) - (((T q + M q) * S : Nat) : Int)
    let above := fun (q : Nat) => q < 24 ∧ (s.reg (0x302 + 4 * q)).getLsbD 0 = true ∧ 0 < excess q
    let most := fun (f : Nat → Int) (P : Nat → Prop) (q : Nat) => P q ∧ ∀ p, P p → f p ≤ f q ∧ (f p = f q → q ≤ p)
    let mode := fun (q : Nat) => (s.reg (0x302 + 4 * q)).toNat / 2 % 4
    (s.windows.Pairwise (fun a b => a.1 < b.1) → Completes .windowHalving s (fun t => t = { s with windows := t.windows } ∧
      ∀ p, (FMap.get 0 t.windows p).toNat = W p / 2)) ∧
    (∀ x, (64 ≤ x ∨ s.clusterHeld x = true → Idles (.clusterOwnerChoice x) s) ∧
      (x < 64 → s.clusterHeld x = false → ∃ u : State,
        exec (.clusterOwnerChoice x) s = .next (match FMap.get 0 u.owners x with | 0 => u | p + 1 => u.dispatchFor p) ∧
        u = { s with owners := u.owners } ∧ (∀ y, 64 ≤ y → FMap.get 0 u.owners y = FMap.get 0 s.owners y) ∧
        ∀ y < 64, ∃ v : State, v = { s with owners := v.owners } ∧ (∀ z, FMap.get 0 v.owners z = FMap.get 0 (if z < y then u else s).owners z) ∧
          (s.clusterHeld y = true ∨ v.wanting y = [] → FMap.get 0 u.owners y = FMap.get 0 s.owners y) ∧
          (∀ p, s.clusterHeld y = false → most score (fun q => q ∈ v.wanting y) p → FMap.get 0 u.owners y = p + 1))) ∧
    ((∀ q, ¬ above q) → Idles .serviceExamination s) ∧
    (∀ q, most excess above q →
      let cause := ∃ p < 24, p ≠ q ∧ s.starved p = true
      (¬ cause ∨ s.preempting q = true ∨ s.latestOf q = none → Idles .serviceExamination s) ∧
      (∀ c, cause → s.preempting q = false → s.latestOf q = some c → TheCasting s c →
        (mode q = 1 → Completes .serviceExamination s (fun t => t = { s with castings := t.castings } ∧ { c with preempt := some true } ∈ t.castings)) ∧
        (mode q ≠ 1 → (∀ d ∈ s.castings, s.sameGang c.uid d.uid = true → s.restartable d = true) →
          Completes .serviceExamination s (fun t => t = { s with castings := t.castings } ∧ { c with preempt := some false } ∈ t.castings)) ∧
        (mode q ≠ 1 → s.restartable c = false →
          Completes .serviceExamination s (fun t => t = { s with castings := t.castings } ∧ { c with preempt := some true } ∈ t.castings))))

/-! ### Hosts, the fabric and the management channel (R232, R338, R405 to R408, R419, R424 to R427, R431) -/

/-- R182, R189, R230, R407, R408, R419, R431: a host or an Ethernet port reads and writes committed bytes: through the physical window at the address itself,
through a memory window or RDMA at the page that the partition's tables name. A write reaches the bytes of its own and no other; what has
no place reads all ones, and a write there is dropped. An access whose slice cannot take it changes nothing and comes again, and a read of data
in rings that realign is answered later. A host reaches both windows through the BARs that R407 gives them. The model's
choices: it promotes no tile, so that every distance stays (log 46), and a memory-window access that is unaligned or of an odd size is
denied (log 55). -/
def Obligations.HostAccesses : Prop :=
  ∀ (s : State) (bytes : List (BitVec 8)),
    let len := bytes.length
    let free := s.requests = [] ∧ s.standing = [] ∧ ∀ n, (s.sliceOf n).drained = false ∧ (s.sliceOf n).miss.length + len ≤ 1024
    let reads := fun (i : Instr) (data : List Byte) => Completes i s (fun t => t.mem = s.mem ∧ t.replies = s.replies ++ [.data data] ∧
      (∀ n, (t.sliceOf n).chain = (s.sliceOf n).chain) ∧ t.castings = s.castings)
    let writes := fun (i : Instr) (a : Nat) => Completes i s (fun t => (∀ k < len, t.mem.read (a + k) = bytes.getD k 0) ∧
      (∀ x, (x < a ∨ a + len ≤ x) → t.mem.read x = s.mem.read x) ∧ t.replies = s.replies ∧ t.castings = s.castings)
    let clean := fun (a : Nat) => (∀ k < len, s.poisoned (a + k) = false) ∧ ∀ e ∈ s.columns, e.2.retrain = false
    (∀ link w x, s.links.toList.getD link false = false ∨ 2 ^ 40 < x + len → Idles (.hostPhysicalWindowAccess link w x bytes) s) ∧
    (∀ link x, s.links.toList.getD link false = true → x + len ≤ 2 ^ 40 →
      let mapped := ∀ k < len, x + k < 0xc000000000 ∧ s.domainOf (dieOf (x + k)) (dieOffset (x + k)) ≠ none
      let n := s.homeOf x
      let waits := s.holdsTile n (tileOf x) = true ∨ s.portWins n (if n / 32 = link then 33 else 32) none = false ∨
        ((s.sliceOf n).resident (tileOf x) = false ∧ tileOf x ∉ (s.sliceOf n).miss ∧ 1024 ≤ (s.sliceOf n).miss.length)
      (mapped → free → writes (.hostPhysicalWindowAccess link true x bytes) x) ∧
      (mapped → free → clean x → reads (.hostPhysicalWindowAccess link false x bytes) (s.mem.readBytes x len)) ∧
      (mapped → free → (∀ k < len, s.poisoned (x + k) = false) → 0 < len → x % 256 + len ≤ 256 → s.homeOf (256 * (x / 256)) = n →
        (s.column (n / 32) (n % 32)).retrain = true → s.outerTile n (tileOf x) = true →
        Completes (.hostPhysicalWindowAccess link false x bytes) s (fun t => t.mem = s.mem ∧ t.replies = s.replies ∧
          ∃ e, t.returning = s.returning ++ [e] ∧ n ∈ e.2.1.late ∧ e.2.1.unit = some 7 ∧ e.2.2.map (fun v => v.2.setWidth 8) = s.mem.readBytes x len)) ∧
      (mapped → waits → 0 < len → s.homeOf (256 * (x / 256)) = n → ∀ w, Idles (.hostPhysicalWindowAccess link w x bytes) s) ∧
      (0xc000000000 ≤ x → reads (.hostPhysicalWindowAccess link false x bytes) (List.replicate len 0xff#8) ∧
        Completes (.hostPhysicalWindowAccess link true x bytes) s (fun t => t = s))) ∧
    (∀ p w x, s.vfPresented p = false ∨ len ∉ [1, 2, 4, 8, 16, 32, 64, 128, 256] ∨ x % len ≠ 0 ∨ 2 ^ 36 ≤ x → Idles (.hostMemoryWindowAccess p w x bytes) s) ∧
    (∀ p x, s.vfPresented p = true → len ∈ [1, 2, 4, 8, 16, 32, 64, 128, 256] → x % len = 0 → x < 2 ^ 36 →
      let va := (s.reg (0x900 + 16 * p + 14)).toNat + x
      va % 256 + len ≤ 256 → va < 2 ^ 57 →
      (∀ pa, s.walkAddr p va .write = some pa → free → writes (.hostMemoryWindowAccess p true x bytes) pa) ∧
      (s.walkAddr p va .write = none → Completes (.hostMemoryWindowAccess p true x bytes) s (fun t => t.mem = s.mem ∧ t.replies = s.replies ∧
        (s.noErrors = true → t = s))) ∧
      (∀ pa, s.walkAddr p va .read = some pa → free → clean pa → reads (.hostMemoryWindowAccess p false x bytes) (s.mem.readBytes pa len)) ∧
      (s.walkAddr p va .read = none → reads (.hostMemoryWindowAccess p false x bytes) (List.replicate len 0xff#8))) ∧
    (∀ port p (va : BitVec 64), (4 ≤ port ∨ 24 ≤ p → Idles (.rdmaWrite (port, p) va bytes) s ∧ Idles (.rdmaRead (port, p) va len) s) ∧
      (port < 4 → p < 24 → 0 < len → va.toNat % 256 + len ≤ 256 → va.toNat < 2 ^ 57 →
        (∀ pa, s.walkAddr p va.toNat .write = some pa → free → writes (.rdmaWrite (port, p) va bytes) pa) ∧
        (s.walkAddr p va.toNat .write = none → Completes (.rdmaWrite (port, p) va bytes) s (fun t => t.mem = s.mem ∧ t.replies = s.replies ∧
          (s.noErrors = true → t = s))) ∧
        (∀ pa, s.walkAddr p va.toNat .read = some pa → free → clean pa → reads (.rdmaRead (port, p) va len) (s.mem.readBytes pa len)) ∧
        (s.walkAddr p va.toNat .read = none → reads (.rdmaRead (port, p) va len) (List.replicate len 0xff#8)))) ∧
    (∀ link (n : Nat) (v : BitVec 64),
      (∀ x, s.presentsFunction link 0 = true → x + n ≤ 2 ^ 40 →
        exec (.hostPhysicalWindowAccess link false x (List.replicate n 0)) s = .next (s.world (.hostRead link 0 4 x n)) ∧
        exec (.hostPhysicalWindowAccess link true x (bytesLE n v.toNat)) s = .next (s.world (.hostWrite link 0 4 x n v))) ∧
      (∀ p x, s.presentsFunction link (p + 1) = true → 2 ^ 36 ≤ x → x + n ≤ 2 ^ 37 →
        exec (.hostMemoryWindowAccess p false (x - 2 ^ 36) (List.replicate n 0)) s = .next (s.world (.hostRead link (p + 1) 2 x n)) ∧
        exec (.hostMemoryWindowAccess p true (x - 2 ^ 36) (bytesLE n v.toNat)) s = .next (s.world (.hostWrite link (p + 1) 2 x n v))) ∧
      (∀ p x, 2 ^ 37 < x + n → s.world (.hostRead link (p + 1) 2 x n) = s ∧ s.world (.hostWrite link (p + 1) 2 x n v) = s))

/-- R232, R405, R406, R424 to R427: virtual functions are enabled; bring-up enables the links or ends in recovery mode, which only a reset leaves;
then a link trains, and the ready pool accepts launches; a reset brings every register back; the management channel answers, with an error
what it does not know, and reaches no partition memory; a failed port leaves every route mask, those written later too; a request to another
package that is lost raises cause 0x09 on its casting. The model's choices: memory, registers and boards without a reset value of the spec
have those of logs 2, 3, 4 and 49 after a reset, and an unknown SPDM index or slot is answered with an error (log 77). -/
def Obligations.ManagementEvents : Prop :=
  ∀ (s : State),
    let answers := fun (i : Instr) (r : Reply) => exec i s = .next { s with replies := s.replies ++ [r] }
    let version := (s.reg 0xc30).toNat / 256 % 256
    let hottest := fun (d h : Nat) => (∀ k < 160, (s.column d k).temp ≤ h) ∧ ∃ k < 160, (s.column d k).temp = h
    (s.enabled = false → ∀ n, Idles (.linkTrained n) s) ∧
    (∀ n, 2 ≤ n → Idles (.linkTrained n) s ∧ ∀ e, Idles (.vfEnable n e) s) ∧
    (∀ n : Fin 2, (s.enabled = true → exec (.linkTrained n) s = .next { s with links := s.links.set n true }) ∧
      ∀ e, exec (.vfEnable n e) s = .next { s with vfEnable := s.vfEnable.set n e }) ∧
    (s.enabled = true ∨ s.recovery = true → ∀ ok v f, Idles (.bringUp ok v f) s) ∧
    (s.enabled = false → s.recovery = false → ∀ v f,
      let recovers := fun (ok : Bool) => Completes (.bringUp ok v f) s (fun t => t = { s with regs := t.regs, recovery := true } ∧ t.reg 0xc30 = 2 ∧
        ∀ n, n ≠ 0xc30 → t.reg n = s.reg n)
      let minimum := Sys2Proof.Config.fusedMinimum.toNat
      recovers false ∧ (v.toNat < minimum → recovers true) ∧
      (minimum ≤ v.toNat → Completes (.bringUp true v []) s (fun t => t.enabled = true ∧ t.accepting = s.accepting ∧
        t.reg 0xc30 = BitVec.ofNat 64 (1 + v.toNat * 256) ∧ t.firmware = none ∧ t.image = s.firmware.getD s.image ∧
        t.service = 0 ∧ t.cyc = [] ∧ t.mem = s.mem ∧ t.slices = s.slices)) ∧
      (∀ d k, minimum ≤ v.toNat → d < 2 → 32 ≤ k → k < 160 → Completes (.bringUp true v [(d, k)]) s (fun t => t.enabled = true ∧
        t.outOfService = s.outOfService ++ [5 * (32 * d + (k - 32) / 4) + (k - 32) % 4] ∧ t.mem = s.mem)) ∧
      (∀ d k, minimum ≤ v.toNat → d < 2 → k < 32 → Completes (.bringUp true v [(d, k)]) s (fun t => t.enabled = true ∧
        (t.reg (0x41b + 0x20 * d)).getLsbD k = false ∧ ∀ j < 64, j ≠ k → (t.reg (0x41b + 0x20 * d)).getLsbD j = (s.reg (0x41b + 0x20 * d)).getLsbD j))) ∧
    (s.world .accept = if s.enabled then { s with accepting := true } else s) ∧
    Completes .resetPackage s (fun t => t.accepting = false ∧ t.enabled = false ∧ t.recovery = false ∧ t.failedPorts = 0 ∧ t.image = s.image ∧
      t.castings = [] ∧ t.graphs = [] ∧ t.slices = [] ∧ t.boards = [] ∧ t.nextCommit = 1 ∧
      t.reg 0xc30 = 0 ∧ (∀ n, n ≠ 0xc30 → t.reg n = regReset n) ∧ t.firmware = s.firmware ∧ t.links = Vector.replicate 2 false ∧
      ∀ a, t.mem.read a = if isHost a || isRemote a then s.mem.read a else 0) ∧
    (∀ image, exec (.stageFirmware image) s = .next { s with firmware := some image, replies := s.replies ++ [.staged] }) ∧
    answers .getVersion .version ∧ answers .getCapabilities .capabilities ∧ (∀ a b, answers (.negotiateAlgorithms a b) (.algorithms (a && b))) ∧
    answers .getDigests .digests ∧ answers (.getCertificate 0) (.certificate 0) ∧ (∀ n, n ≠ 0 → answers (.getCertificate n) .error) ∧
    (∀ n, answers (.challenge n) (.challenge n)) ∧
    answers (.getMeasurements 3) (.measurement 3 (BitVec.ofNat 64 version)) ∧
    (∀ n, n = 1 ∨ n = 2 ∨ n = 4 → ∃ x, answers (.getMeasurements n) (.measurement n x)) ∧
    (∀ n, n = 0 ∨ 4 < n → answers (.getMeasurements n) .error) ∧
    answers .identify (.identify Sys2Proof.Config.partNumber (BitVec.ofNat 64 version) (BitVec.ofNat 64 ((s.reg 0xc10).toNat % 1024))) ∧
    (∀ code, s.world (.tveduth code) = if 1 ≤ code ∧ code ≤ 5 then s else { s with replies := s.replies ++ [.error] }) ∧
    (∃ h0 h1, hottest 0 h0 ∧ hottest 1 h1 ∧ answers .sensors (.sensors h0 h1 (s.reg 0x4a0) s.power)) ∧
    answers .errorsQuery (.errors (s.reg 0x802) (s.reg 0x803) (s.reg 0x41b) (s.reg 0x43b)) ∧
    (∀ port, s.routes.Pairwise (fun a b => a.1 < b.1) →
      let gone := BitVec.ofNat 16 (2 ^ port)
      Completes (.nystraPortFailure port) s (fun t => t = { s with routes := t.routes, failedPorts := s.failedPorts ||| gone } ∧
        ∀ p, FMap.get 0 t.routes p = FMap.get 0 s.routes p &&& ~~~gone)) ∧
    (∀ v, ∃ t, s.writeReg 0xc12 v = some t ∧ FMap.get 0 t.routes (s.reg 0xc11).toNat = v.setWidth 16 &&& ~~~s.failedPorts) ∧
    (∀ id r pkg, s.requests.find? (fun q => q.id == id) = some r → r.place = .remote pkg →
      (s.world (.lost id)).mem = s.mem ∧ (s.world (.lost id)).requests = s.requests.filter (fun q => q.id != id) ∧
      (s.world (.lost id)).faults = s.faults ++ [{ casting := r.who.casting, cause := .uncorrectable, pc := r.who.pc, rank := r.who.rank, cluster := r.who.cluster, core := r.who.core }])

/-! ### Encodings, one step, reset, and what every step keeps -/

/-- R4, R50: the word of every well-formed instruction decodes to it, with every operand at every value; and a word that decodes is the
word of the instruction it decodes to, which is well formed (R66). -/
def Obligations.EncodingRoundTrip : Prop :=
  (∀ i : Instr, i.wf = true → ∃ w, encode i = some w ∧ decodeWord w = .ok i) ∧
  (∀ (w : Word32) (i : Instr), decodeWord w = .ok i → i.wf = true ∧ encode i = some w)

/-- R50: words that the spec works out, one of each family, decode to the instructions they stand for, and words that it calls illegal do
not decode. -/
def Obligations.WordsOfTheSpec : Prop :=
  decodeWord 0x3001450a = .ok (.fadd 0 0 0 20 20 10) ∧ decodeWord 0x1c050bff = .ok (.iaddi 0 5 2 0x3ff) ∧ decodeWord 0x14480004 = .ok (.icmp 1 0 2 0 4) ∧
  decodeWord 0x1ac000c4 = .ok (.kand 3 0 3 4) ∧ decodeWord 0x480c80c9 = .ok (.lshf 0 0 3 8 3 9) ∧ decodeWord 0x4a0060c1 = .ok (.lred 0 0 6 3 1) ∧
  decodeWord 0x500c3099 = .ok (.lds 0 3 3 2 12 1) ∧ decodeWord 0x64408003 = .ok (.stg 1 8 0 1 1) ∧ decodeWord 0x9471bfff = .ok (.saddi 14 13 0x1fff) ∧
  decodeWord 0xa45ffffe = .ok (.bk 2 3 0x7fffe) ∧ decodeWord 0xac151558 = .ok (.loop 1 20 21 22) ∧ decodeWord 0xae000801 = .ok (.bar 1 0 1) ∧
  decodeWord 0xb4aca980 = .ok (.waita 1 22 21 12) ∧ decodeWord 0xbc00000e = .ok (.fence 3 2) ∧ decodeWord 0xbeaa0980 = .ok (.distH 21 1 12 0) ∧
  decodeWord 0xcc2c6004 = .ok (.chainq 22 12 2) ∧ decodeWord 0xceae61c0 = .ok (.bpost 1 23 12 14 0) ∧ decodeWord 0xd62861a0 = .ok (.spawn 20 12 13) ∧
  decodeWord 0xda302064 = .ok (.trap 6 1 100) ∧ decodeWord 0xe2950a21 = .ok (.mm 2 1 20 10 4 0 1) ∧ decodeWord 0xf6470000 = .ok (.rnsq 1 28 0) ∧
  decodeWord 0xfcaa800c = .ok (.sysw 21 20 12) ∧
  decodeWord 0x14080004 = .error (.illFormed .maskDestinationK0) ∧ decodeWord 0x020c0000 = .error .unassignedFn ∧ decodeWord 0x76000000 = .error .reservedOp

/-- R121, R122: where the four bytes that the program counter addresses decode to an instruction, a step runs it, in the state that only time has
changed; inside a loop, the next word of the loop's body; bytes that do not decode are an illegal instruction. A word with a correctable error
is corrected as it is fetched, and one that is poisoned is an uncorrectable error (R337, R338). A move of the
agenda runs its event; where the event is one of the pool's own, castings that waited take their commit numbers and the pool dispatches, with
the number assigned last before that slot (R359, R373); with nothing to do only time passes. The agenda is the model's own scheduling (log 1),
and so is the order within a slot of the pool: owners first, then the partitions in their order (log 85). -/
def Obligations.StepRunsDecoded : Prop :=
  ∀ (s : State), let u := s.noteAllHeads.tick
    u = { s with ticks := s.ticks + 1, service := u.service, windows := u.windows, consumed := u.consumed, heads := u.heads } ∧
    (∀ i r, s.agenda = .event i :: r →
      (poolEvent i = false → step s = exec i { u with agenda := r }) ∧
      (poolEvent i = true → ∀ t, exec i { u with agenda := r } = .next t →
        let v := State.assignWaiting t.castings.length t
        step s = .next { ({ v with lastCommit := s.lastCommit } : State).poolSlot (List.range 24) with lastCommit := v.lastCommit })) ∧
    (∀ o r, s.agenda = .outside o :: r → step s = .next (({ u with agenda := r } : State).world o)) ∧
    (s.agenda = [] → (∀ l ∈ s.ladles, l.canRun = true → ∀ x ∈ l.allSplits, l.canIssue x = false) → step s = .next u) ∧
    (s.agenda = [] → s.me.canRun = true → s.me.canIssue s.me.sp = true → s.me.splits = [] → s.me.pend = [] → s.retrains s.me.cluster s.me.core = false →
      (∀ pa leaf, s.me.sp.looping = false → s.me.sp.pc.toNat < 2 ^ 57 → u.physical u.me.who s.me.sp.pc.toNat .fetch = .ok (pa, leaf) →
        let f := u.correctBytes ((List.range 4).map (fun k => pa + k))
        (s.noErrors = true → f = u) ∧
        (u.poisonedIn pa 4 = true → step s = .next (u.castFault .uncorrectable)) ∧
        (∀ i r, u.poisonedIn pa 4 = false → decode ((List.range 4).map (fun k => s.mem.read (pa + k))) = .ok (i, r) →
          (u.interlocked i = false → step s = exec i f) ∧ (u.interlocked i = true → step s = .next f)) ∧
        (∀ e, u.poisonedIn pa 4 = false → decode ((List.range 4).map (fun k => s.mem.read (pa + k))) = .error e → step s = .next (u.castFault .illegal))) ∧
      (∀ b, s.me.sp.looping = true → s.me.loop = some b →
        (∀ i, b.instr = some i → u.interlocked i = false → step s = exec i u) ∧ (b.instr = none → step s = .next (u.castFault .illegal)))) ∧
    (s.agenda = [] → s.me.canRun = true → s.me.canIssue s.me.sp = true → s.retrains s.me.cluster s.me.core = true → step s = .next u)

/-- R167, R196, R200, R228, R232, R341, R345, R363, R369, R416: what reset leaves where the spec gives the value: registers, slices, boards, the commit
counter, owners. Memory lists nothing (that it then reads zero is log 3). The model's choice: reset stands at the end of bring-up, so the pool
accepts launches (log 4, read from R232). -/
def Obligations.ResetState : Prop :=
  let s := State.reset
  s.mem.wf ∧ s.castings = [] ∧ s.graphs = [] ∧ s.nextCommit = 1 ∧ s.accepting = true ∧ (∀ n, (s.sliceOf n).chain = []) ∧ s.pkg = 0 ∧
  (∀ x, FMap.get 0 s.owners x = 0) ∧ (∀ k, (s.board k).members = 1 ∧ (s.board k).level = 0 ∧ (s.board k).mask = 0 ∧ (s.board k).assigned = false) ∧
  (∀ p < 24, s.reg (0x200 + 8 * p) = 0 ∧ s.reg (0x200 + 8 * p + 1) = 6 ∧ s.reg (0x200 + 8 * p + 6) = 20 ∧ s.reg (0x300 + 4 * p) = 0 ∧
    s.reg (0x300 + 4 * p + 1) = 64 ∧ s.reg (0x300 + 4 * p + 2) = 3 ∧ s.reg (0x440 + 2 * p) = 0x0003000200000000 ∧ s.reg (0x440 + 2 * p + 1) = 0x0003000200000000 ∧
    s.reg (0x900 + 16 * p + 2) = 6 ∧ s.reg (0x900 + 16 * p + 13) = 0) ∧
  (∀ d < 2, s.reg (0x480 + 0x10 * d) = 0x6e69645f ∧ s.reg (0x41b + 0x20 * d) = 0xffffffff ∧ s.homeReg d 0x11 = 0x3000000000 ∧ s.homeReg d 0x12 = 0x3000000000 ∧
    s.homeReg d 0x13 = 0x6000000000 ∧ s.homeReg d 0x10 = 0 ∧ s.homeReg d 0 = 0x1001001 ∧ s.homeReg d 11 = 0x800800) ∧
  s.reg 0x4a0 = 0 ∧ s.reg 0x4a1 = 3200 ∧ s.reg 0x800 = 3 ∧ s.reg 0x801 = 0x03100400 ∧ s.reg 0x804 = 0 ∧ s.reg 0xc10 = 0 ∧ s.reg 0xc20 = 0

/-- Every step, whatever moves, keeps committed memory in its one canonical form, so that equal memories are equal data. -/
def Obligations.StepKeepsMemoryCanonical : Prop :=
  ∀ s t : State, s.memOk → step s = .next t → t.memOk
end

