-- ==== Sys2Proof/Laws/State.lean ====
section
/-!
SUPPORT. What each field of the state reads as after each of the small updates: one lemma a field and an update, so that no
later proof unfolds a record update.
-/

namespace Sys2Proof.Machine

/-! ### Updates of the package -/

@[simp] theorem State.mapMe_me (s : State) (f : Ladle → Ladle) : (s.mapMe f).me = f s.me := rfl
@[simp] theorem State.mapMe_rest (s : State) (f : Ladle → Ladle) : (s.mapMe f).rest = s.rest := rfl
@[simp] theorem State.mapMe_nextUid (s : State) (f : Ladle → Ladle) : (s.mapMe f).nextUid = s.nextUid := rfl
@[simp] theorem State.mapMe_castings (s : State) (f : Ladle → Ladle) : (s.mapMe f).castings = s.castings := rfl
@[simp] theorem State.mapMe_graphs (s : State) (f : Ladle → Ladle) : (s.mapMe f).graphs = s.graphs := rfl
@[simp] theorem State.mapMe_barriers (s : State) (f : Ladle → Ladle) : (s.mapMe f).barriers = s.barriers := rfl
@[simp] theorem State.mapMe_nextCommit (s : State) (f : Ladle → Ladle) : (s.mapMe f).nextCommit = s.nextCommit := rfl
@[simp] theorem State.mapMe_lastCommit (s : State) (f : Ladle → Ladle) : (s.mapMe f).lastCommit = s.lastCommit := rfl
@[simp] theorem State.mapMe_launch (s : State) (f : Ladle → Ladle) : (s.mapMe f).launch = s.launch := rfl
@[simp] theorem State.mapMe_lq (s : State) (f : Ladle → Ladle) : (s.mapMe f).lq = s.lq := rfl
@[simp] theorem State.mapMe_spawned (s : State) (f : Ladle → Ladle) : (s.mapMe f).spawned = s.spawned := rfl
@[simp] theorem State.mapMe_reportSeq (s : State) (f : Ladle → Ladle) : (s.mapMe f).reportSeq = s.reportSeq := rfl
@[simp] theorem State.mapMe_tqSeq (s : State) (f : Ladle → Ladle) : (s.mapMe f).tqSeq = s.tqSeq := rfl
@[simp] theorem State.mapMe_tqWaiting (s : State) (f : Ladle → Ladle) : (s.mapMe f).tqWaiting = s.tqWaiting := rfl
@[simp] theorem State.mapMe_faults (s : State) (f : Ladle → Ladle) : (s.mapMe f).faults = s.faults := rfl
@[simp] theorem State.mapMe_owners (s : State) (f : Ladle → Ladle) : (s.mapMe f).owners = s.owners := rfl
@[simp] theorem State.mapMe_windows (s : State) (f : Ladle → Ladle) : (s.mapMe f).windows = s.windows := rfl
@[simp] theorem State.mapMe_consumed (s : State) (f : Ladle → Ladle) : (s.mapMe f).consumed = s.consumed := rfl
@[simp] theorem State.mapMe_heads (s : State) (f : Ladle → Ladle) : (s.mapMe f).heads = s.heads := rfl
@[simp] theorem State.mapMe_gangs (s : State) (f : Ladle → Ladle) : (s.mapMe f).gangs = s.gangs := rfl
@[simp] theorem State.mapMe_rgetQueue (s : State) (f : Ladle → Ladle) : (s.mapMe f).rgetQueue = s.rgetQueue := rfl
@[simp] theorem State.mapMe_matrix (s : State) (f : Ladle → Ladle) : (s.mapMe f).matrix = s.matrix := rfl
@[simp] theorem State.mapMe_chains (s : State) (f : Ladle → Ladle) : (s.mapMe f).chains = s.chains := rfl
@[simp] theorem State.mapMe_slices (s : State) (f : Ladle → Ladle) : (s.mapMe f).slices = s.slices := rfl
@[simp] theorem State.mapMe_sideband (s : State) (f : Ladle → Ladle) : (s.mapMe f).sideband = s.sideband := rfl
@[simp] theorem State.mapMe_requests (s : State) (f : Ladle → Ladle) : (s.mapMe f).requests = s.requests := rfl
@[simp] theorem State.mapMe_retry (s : State) (f : Ladle → Ladle) : (s.mapMe f).retry = s.retry := rfl
@[simp] theorem State.mapMe_rehomed (s : State) (f : Ladle → Ladle) : (s.mapMe f).rehomed = s.rehomed := rfl
@[simp] theorem State.mapMe_returning (s : State) (f : Ladle → Ladle) : (s.mapMe f).returning = s.returning := rfl
@[simp] theorem State.mapMe_standing (s : State) (f : Ladle → Ladle) : (s.mapMe f).standing = s.standing := rfl
@[simp] theorem State.mapMe_nextReq (s : State) (f : Ladle → Ladle) : (s.mapMe f).nextReq = s.nextReq := rfl
@[simp] theorem State.mapMe_portOrder (s : State) (f : Ladle → Ladle) : (s.mapMe f).portOrder = s.portOrder := rfl
@[simp] theorem State.mapMe_bankLast (s : State) (f : Ladle → Ladle) : (s.mapMe f).bankLast = s.bankLast := rfl
@[simp] theorem State.mapMe_mem (s : State) (f : Ladle → Ladle) : (s.mapMe f).mem = s.mem := rfl
@[simp] theorem State.mapMe_scratchTags (s : State) (f : Ladle → Ladle) : (s.mapMe f).scratchTags = s.scratchTags := rfl
@[simp] theorem State.mapMe_boards (s : State) (f : Ladle → Ladle) : (s.mapMe f).boards = s.boards := rfl
@[simp] theorem State.mapMe_boardResets (s : State) (f : Ladle → Ladle) : (s.mapMe f).boardResets = s.boardResets := rfl
@[simp] theorem State.mapMe_boardHomes (s : State) (f : Ladle → Ladle) : (s.mapMe f).boardHomes = s.boardHomes := rfl
@[simp] theorem State.mapMe_amax (s : State) (f : Ladle → Ladle) : (s.mapMe f).amax = s.amax := rfl
@[simp] theorem State.mapMe_fmt (s : State) (f : Ladle → Ladle) : (s.mapMe f).fmt = s.fmt := rfl
@[simp] theorem State.mapMe_codebooks (s : State) (f : Ladle → Ladle) : (s.mapMe f).codebooks = s.codebooks := rfl
@[simp] theorem State.mapMe_regs (s : State) (f : Ladle → Ladle) : (s.mapMe f).regs = s.regs := rfl
@[simp] theorem State.mapMe_home (s : State) (f : Ladle → Ladle) : (s.mapMe f).home = s.home := rfl
@[simp] theorem State.mapMe_buckets (s : State) (f : Ladle → Ladle) : (s.mapMe f).buckets = s.buckets := rfl
@[simp] theorem State.mapMe_bucketsStaged (s : State) (f : Ladle → Ladle) : (s.mapMe f).bucketsStaged = s.bucketsStaged := rfl
@[simp] theorem State.mapMe_homeChanges (s : State) (f : Ladle → Ladle) : (s.mapMe f).homeChanges = s.homeChanges := rfl
@[simp] theorem State.mapMe_splitChanges (s : State) (f : Ladle → Ladle) : (s.mapMe f).splitChanges = s.splitChanges := rfl
@[simp] theorem State.mapMe_fmtLoads (s : State) (f : Ladle → Ladle) : (s.mapMe f).fmtLoads = s.fmtLoads := rfl
@[simp] theorem State.mapMe_shootdowns (s : State) (f : Ladle → Ladle) : (s.mapMe f).shootdowns = s.shootdowns := rfl
@[simp] theorem State.mapMe_shootdownWaits (s : State) (f : Ladle → Ladle) : (s.mapMe f).shootdownWaits = s.shootdownWaits := rfl
@[simp] theorem State.mapMe_routes (s : State) (f : Ladle → Ladle) : (s.mapMe f).routes = s.routes := rfl
@[simp] theorem State.mapMe_failedPorts (s : State) (f : Ladle → Ladle) : (s.mapMe f).failedPorts = s.failedPorts := rfl
@[simp] theorem State.mapMe_tlb (s : State) (f : Ladle → Ladle) : (s.mapMe f).tlb = s.tlb := rfl
@[simp] theorem State.mapMe_columns (s : State) (f : Ladle → Ladle) : (s.mapMe f).columns = s.columns := rfl
@[simp] theorem State.mapMe_power (s : State) (f : Ladle → Ladle) : (s.mapMe f).power = s.power := rfl
@[simp] theorem State.mapMe_cyc (s : State) (f : Ladle → Ladle) : (s.mapMe f).cyc = s.cyc := rfl
@[simp] theorem State.mapMe_service (s : State) (f : Ladle → Ladle) : (s.mapMe f).service = s.service := rfl
@[simp] theorem State.mapMe_policyPrev (s : State) (f : Ladle → Ladle) : (s.mapMe f).policyPrev = s.policyPrev := rfl
@[simp] theorem State.mapMe_links (s : State) (f : Ladle → Ladle) : (s.mapMe f).links = s.links := rfl
@[simp] theorem State.mapMe_vfEnable (s : State) (f : Ladle → Ladle) : (s.mapMe f).vfEnable = s.vfEnable := rfl
@[simp] theorem State.mapMe_accepting (s : State) (f : Ladle → Ladle) : (s.mapMe f).accepting = s.accepting := rfl
@[simp] theorem State.mapMe_enabled (s : State) (f : Ladle → Ladle) : (s.mapMe f).enabled = s.enabled := rfl
@[simp] theorem State.mapMe_recovery (s : State) (f : Ladle → Ladle) : (s.mapMe f).recovery = s.recovery := rfl
@[simp] theorem State.mapMe_outOfService (s : State) (f : Ladle → Ladle) : (s.mapMe f).outOfService = s.outOfService := rfl
@[simp] theorem State.mapMe_msix (s : State) (f : Ladle → Ladle) : (s.mapMe f).msix = s.msix := rfl
@[simp] theorem State.mapMe_msixTable (s : State) (f : Ladle → Ladle) : (s.mapMe f).msixTable = s.msixTable := rfl
@[simp] theorem State.mapMe_msixPending (s : State) (f : Ladle → Ladle) : (s.mapMe f).msixPending = s.msixPending := rfl
@[simp] theorem State.mapMe_msixEnable (s : State) (f : Ladle → Ladle) : (s.mapMe f).msixEnable = s.msixEnable := rfl
@[simp] theorem State.mapMe_replies (s : State) (f : Ladle → Ladle) : (s.mapMe f).replies = s.replies := rfl
@[simp] theorem State.mapMe_firmware (s : State) (f : Ladle → Ladle) : (s.mapMe f).firmware = s.firmware := rfl
@[simp] theorem State.mapMe_image (s : State) (f : Ladle → Ladle) : (s.mapMe f).image = s.image := rfl
@[simp] theorem State.mapMe_agenda (s : State) (f : Ladle → Ladle) : (s.mapMe f).agenda = s.agenda := rfl
@[simp] theorem State.mapMe_hold (s : State) (f : Ladle → Ladle) : (s.mapMe f).hold = s.hold := rfl
@[simp] theorem State.mapMe_free (s : State) (f : Ladle → Ladle) : (s.mapMe f).free = s.free := rfl
@[simp] theorem State.mapMe_ticks (s : State) (f : Ladle → Ladle) : (s.mapMe f).ticks = s.ticks := rfl
@[simp] theorem State.mapMe_mapMe (s : State) (f g : Ladle → Ladle) : (s.mapMe f).mapMe g = s.mapMe (fun l => g (f l)) := rfl

@[simp] theorem State.setReg_regs (s : State) (n : Nat) (v : Word64) : (s.setReg n v).regs = FMap.set (regReset n) s.regs n v := rfl
@[simp] theorem State.setReg_me (s : State) (n : Nat) (v : Word64) : (s.setReg n v).me = s.me := rfl
@[simp] theorem State.setReg_rest (s : State) (n : Nat) (v : Word64) : (s.setReg n v).rest = s.rest := rfl
@[simp] theorem State.setReg_nextUid (s : State) (n : Nat) (v : Word64) : (s.setReg n v).nextUid = s.nextUid := rfl
@[simp] theorem State.setReg_castings (s : State) (n : Nat) (v : Word64) : (s.setReg n v).castings = s.castings := rfl
@[simp] theorem State.setReg_graphs (s : State) (n : Nat) (v : Word64) : (s.setReg n v).graphs = s.graphs := rfl
@[simp] theorem State.setReg_barriers (s : State) (n : Nat) (v : Word64) : (s.setReg n v).barriers = s.barriers := rfl
@[simp] theorem State.setReg_nextCommit (s : State) (n : Nat) (v : Word64) : (s.setReg n v).nextCommit = s.nextCommit := rfl
@[simp] theorem State.setReg_lastCommit (s : State) (n : Nat) (v : Word64) : (s.setReg n v).lastCommit = s.lastCommit := rfl
@[simp] theorem State.setReg_launch (s : State) (n : Nat) (v : Word64) : (s.setReg n v).launch = s.launch := rfl
@[simp] theorem State.setReg_lq (s : State) (n : Nat) (v : Word64) : (s.setReg n v).lq = s.lq := rfl
@[simp] theorem State.setReg_spawned (s : State) (n : Nat) (v : Word64) : (s.setReg n v).spawned = s.spawned := rfl
@[simp] theorem State.setReg_reportSeq (s : State) (n : Nat) (v : Word64) : (s.setReg n v).reportSeq = s.reportSeq := rfl
@[simp] theorem State.setReg_tqSeq (s : State) (n : Nat) (v : Word64) : (s.setReg n v).tqSeq = s.tqSeq := rfl
@[simp] theorem State.setReg_tqWaiting (s : State) (n : Nat) (v : Word64) : (s.setReg n v).tqWaiting = s.tqWaiting := rfl
@[simp] theorem State.setReg_faults (s : State) (n : Nat) (v : Word64) : (s.setReg n v).faults = s.faults := rfl
@[simp] theorem State.setReg_owners (s : State) (n : Nat) (v : Word64) : (s.setReg n v).owners = s.owners := rfl
@[simp] theorem State.setReg_windows (s : State) (n : Nat) (v : Word64) : (s.setReg n v).windows = s.windows := rfl
@[simp] theorem State.setReg_consumed (s : State) (n : Nat) (v : Word64) : (s.setReg n v).consumed = s.consumed := rfl
@[simp] theorem State.setReg_heads (s : State) (n : Nat) (v : Word64) : (s.setReg n v).heads = s.heads := rfl
@[simp] theorem State.setReg_gangs (s : State) (n : Nat) (v : Word64) : (s.setReg n v).gangs = s.gangs := rfl
@[simp] theorem State.setReg_rgetQueue (s : State) (n : Nat) (v : Word64) : (s.setReg n v).rgetQueue = s.rgetQueue := rfl
@[simp] theorem State.setReg_matrix (s : State) (n : Nat) (v : Word64) : (s.setReg n v).matrix = s.matrix := rfl
@[simp] theorem State.setReg_chains (s : State) (n : Nat) (v : Word64) : (s.setReg n v).chains = s.chains := rfl
@[simp] theorem State.setReg_slices (s : State) (n : Nat) (v : Word64) : (s.setReg n v).slices = s.slices := rfl
@[simp] theorem State.setReg_sideband (s : State) (n : Nat) (v : Word64) : (s.setReg n v).sideband = s.sideband := rfl
@[simp] theorem State.setReg_requests (s : State) (n : Nat) (v : Word64) : (s.setReg n v).requests = s.requests := rfl
@[simp] theorem State.setReg_retry (s : State) (n : Nat) (v : Word64) : (s.setReg n v).retry = s.retry := rfl
@[simp] theorem State.setReg_rehomed (s : State) (n : Nat) (v : Word64) : (s.setReg n v).rehomed = s.rehomed := rfl
@[simp] theorem State.setReg_returning (s : State) (n : Nat) (v : Word64) : (s.setReg n v).returning = s.returning := rfl
@[simp] theorem State.setReg_standing (s : State) (n : Nat) (v : Word64) : (s.setReg n v).standing = s.standing := rfl
@[simp] theorem State.setReg_nextReq (s : State) (n : Nat) (v : Word64) : (s.setReg n v).nextReq = s.nextReq := rfl
@[simp] theorem State.setReg_portOrder (s : State) (n : Nat) (v : Word64) : (s.setReg n v).portOrder = s.portOrder := rfl
@[simp] theorem State.setReg_bankLast (s : State) (n : Nat) (v : Word64) : (s.setReg n v).bankLast = s.bankLast := rfl
@[simp] theorem State.setReg_mem (s : State) (n : Nat) (v : Word64) : (s.setReg n v).mem = s.mem := rfl
@[simp] theorem State.setReg_scratchTags (s : State) (n : Nat) (v : Word64) : (s.setReg n v).scratchTags = s.scratchTags := rfl
@[simp] theorem State.setReg_boards (s : State) (n : Nat) (v : Word64) : (s.setReg n v).boards = s.boards := rfl
@[simp] theorem State.setReg_boardResets (s : State) (n : Nat) (v : Word64) : (s.setReg n v).boardResets = s.boardResets := rfl
@[simp] theorem State.setReg_boardHomes (s : State) (n : Nat) (v : Word64) : (s.setReg n v).boardHomes = s.boardHomes := rfl
@[simp] theorem State.setReg_amax (s : State) (n : Nat) (v : Word64) : (s.setReg n v).amax = s.amax := rfl
@[simp] theorem State.setReg_fmt (s : State) (n : Nat) (v : Word64) : (s.setReg n v).fmt = s.fmt := rfl
@[simp] theorem State.setReg_codebooks (s : State) (n : Nat) (v : Word64) : (s.setReg n v).codebooks = s.codebooks := rfl
@[simp] theorem State.setReg_home (s : State) (n : Nat) (v : Word64) : (s.setReg n v).home = s.home := rfl
@[simp] theorem State.setReg_buckets (s : State) (n : Nat) (v : Word64) : (s.setReg n v).buckets = s.buckets := rfl
@[simp] theorem State.setReg_bucketsStaged (s : State) (n : Nat) (v : Word64) : (s.setReg n v).bucketsStaged = s.bucketsStaged := rfl
@[simp] theorem State.setReg_homeChanges (s : State) (n : Nat) (v : Word64) : (s.setReg n v).homeChanges = s.homeChanges := rfl
@[simp] theorem State.setReg_splitChanges (s : State) (n : Nat) (v : Word64) : (s.setReg n v).splitChanges = s.splitChanges := rfl
@[simp] theorem State.setReg_fmtLoads (s : State) (n : Nat) (v : Word64) : (s.setReg n v).fmtLoads = s.fmtLoads := rfl
@[simp] theorem State.setReg_shootdowns (s : State) (n : Nat) (v : Word64) : (s.setReg n v).shootdowns = s.shootdowns := rfl
@[simp] theorem State.setReg_shootdownWaits (s : State) (n : Nat) (v : Word64) : (s.setReg n v).shootdownWaits = s.shootdownWaits := rfl
@[simp] theorem State.setReg_routes (s : State) (n : Nat) (v : Word64) : (s.setReg n v).routes = s.routes := rfl
@[simp] theorem State.setReg_failedPorts (s : State) (n : Nat) (v : Word64) : (s.setReg n v).failedPorts = s.failedPorts := rfl
@[simp] theorem State.setReg_tlb (s : State) (n : Nat) (v : Word64) : (s.setReg n v).tlb = s.tlb := rfl
@[simp] theorem State.setReg_columns (s : State) (n : Nat) (v : Word64) : (s.setReg n v).columns = s.columns := rfl
@[simp] theorem State.setReg_power (s : State) (n : Nat) (v : Word64) : (s.setReg n v).power = s.power := rfl
@[simp] theorem State.setReg_cyc (s : State) (n : Nat) (v : Word64) : (s.setReg n v).cyc = s.cyc := rfl
@[simp] theorem State.setReg_service (s : State) (n : Nat) (v : Word64) : (s.setReg n v).service = s.service := rfl
@[simp] theorem State.setReg_policyPrev (s : State) (n : Nat) (v : Word64) : (s.setReg n v).policyPrev = s.policyPrev := rfl
@[simp] theorem State.setReg_links (s : State) (n : Nat) (v : Word64) : (s.setReg n v).links = s.links := rfl
@[simp] theorem State.setReg_vfEnable (s : State) (n : Nat) (v : Word64) : (s.setReg n v).vfEnable = s.vfEnable := rfl
@[simp] theorem State.setReg_accepting (s : State) (n : Nat) (v : Word64) : (s.setReg n v).accepting = s.accepting := rfl
@[simp] theorem State.setReg_enabled (s : State) (n : Nat) (v : Word64) : (s.setReg n v).enabled = s.enabled := rfl
@[simp] theorem State.setReg_recovery (s : State) (n : Nat) (v : Word64) : (s.setReg n v).recovery = s.recovery := rfl
@[simp] theorem State.setReg_outOfService (s : State) (n : Nat) (v : Word64) : (s.setReg n v).outOfService = s.outOfService := rfl
@[simp] theorem State.setReg_msix (s : State) (n : Nat) (v : Word64) : (s.setReg n v).msix = s.msix := rfl
@[simp] theorem State.setReg_msixTable (s : State) (n : Nat) (v : Word64) : (s.setReg n v).msixTable = s.msixTable := rfl
@[simp] theorem State.setReg_msixPending (s : State) (n : Nat) (v : Word64) : (s.setReg n v).msixPending = s.msixPending := rfl
@[simp] theorem State.setReg_msixEnable (s : State) (n : Nat) (v : Word64) : (s.setReg n v).msixEnable = s.msixEnable := rfl
@[simp] theorem State.setReg_replies (s : State) (n : Nat) (v : Word64) : (s.setReg n v).replies = s.replies := rfl
@[simp] theorem State.setReg_firmware (s : State) (n : Nat) (v : Word64) : (s.setReg n v).firmware = s.firmware := rfl
@[simp] theorem State.setReg_image (s : State) (n : Nat) (v : Word64) : (s.setReg n v).image = s.image := rfl
@[simp] theorem State.setReg_agenda (s : State) (n : Nat) (v : Word64) : (s.setReg n v).agenda = s.agenda := rfl
@[simp] theorem State.setReg_hold (s : State) (n : Nat) (v : Word64) : (s.setReg n v).hold = s.hold := rfl
@[simp] theorem State.setReg_free (s : State) (n : Nat) (v : Word64) : (s.setReg n v).free = s.free := rfl
@[simp] theorem State.setReg_ticks (s : State) (n : Nat) (v : Word64) : (s.setReg n v).ticks = s.ticks := rfl

@[simp] theorem State.modSlice_slices (s : State) (n : Nat) (f : Slice → Slice) :
    (s.modSlice n f).slices = FMap.set Slice.empty s.slices n (f (s.sliceOf n)) := rfl
@[simp] theorem State.modSlice_me (s : State) (n : Nat) (f : Slice → Slice) : (s.modSlice n f).me = s.me := rfl
@[simp] theorem State.modSlice_rest (s : State) (n : Nat) (f : Slice → Slice) : (s.modSlice n f).rest = s.rest := rfl
@[simp] theorem State.modSlice_nextUid (s : State) (n : Nat) (f : Slice → Slice) : (s.modSlice n f).nextUid = s.nextUid := rfl
@[simp] theorem State.modSlice_castings (s : State) (n : Nat) (f : Slice → Slice) : (s.modSlice n f).castings = s.castings := rfl
@[simp] theorem State.modSlice_graphs (s : State) (n : Nat) (f : Slice → Slice) : (s.modSlice n f).graphs = s.graphs := rfl
@[simp] theorem State.modSlice_barriers (s : State) (n : Nat) (f : Slice → Slice) : (s.modSlice n f).barriers = s.barriers := rfl
@[simp] theorem State.modSlice_nextCommit (s : State) (n : Nat) (f : Slice → Slice) : (s.modSlice n f).nextCommit = s.nextCommit := rfl
@[simp] theorem State.modSlice_lastCommit (s : State) (n : Nat) (f : Slice → Slice) : (s.modSlice n f).lastCommit = s.lastCommit := rfl
@[simp] theorem State.modSlice_launch (s : State) (n : Nat) (f : Slice → Slice) : (s.modSlice n f).launch = s.launch := rfl
@[simp] theorem State.modSlice_lq (s : State) (n : Nat) (f : Slice → Slice) : (s.modSlice n f).lq = s.lq := rfl
@[simp] theorem State.modSlice_spawned (s : State) (n : Nat) (f : Slice → Slice) : (s.modSlice n f).spawned = s.spawned := rfl
@[simp] theorem State.modSlice_reportSeq (s : State) (n : Nat) (f : Slice → Slice) : (s.modSlice n f).reportSeq = s.reportSeq := rfl
@[simp] theorem State.modSlice_tqSeq (s : State) (n : Nat) (f : Slice → Slice) : (s.modSlice n f).tqSeq = s.tqSeq := rfl
@[simp] theorem State.modSlice_tqWaiting (s : State) (n : Nat) (f : Slice → Slice) : (s.modSlice n f).tqWaiting = s.tqWaiting := rfl
@[simp] theorem State.modSlice_faults (s : State) (n : Nat) (f : Slice → Slice) : (s.modSlice n f).faults = s.faults := rfl
@[simp] theorem State.modSlice_owners (s : State) (n : Nat) (f : Slice → Slice) : (s.modSlice n f).owners = s.owners := rfl
@[simp] theorem State.modSlice_windows (s : State) (n : Nat) (f : Slice → Slice) : (s.modSlice n f).windows = s.windows := rfl
@[simp] theorem State.modSlice_consumed (s : State) (n : Nat) (f : Slice → Slice) : (s.modSlice n f).consumed = s.consumed := rfl
@[simp] theorem State.modSlice_heads (s : State) (n : Nat) (f : Slice → Slice) : (s.modSlice n f).heads = s.heads := rfl
@[simp] theorem State.modSlice_gangs (s : State) (n : Nat) (f : Slice → Slice) : (s.modSlice n f).gangs = s.gangs := rfl
@[simp] theorem State.modSlice_rgetQueue (s : State) (n : Nat) (f : Slice → Slice) : (s.modSlice n f).rgetQueue = s.rgetQueue := rfl
@[simp] theorem State.modSlice_matrix (s : State) (n : Nat) (f : Slice → Slice) : (s.modSlice n f).matrix = s.matrix := rfl
@[simp] theorem State.modSlice_chains (s : State) (n : Nat) (f : Slice → Slice) : (s.modSlice n f).chains = s.chains := rfl
@[simp] theorem State.modSlice_sideband (s : State) (n : Nat) (f : Slice → Slice) : (s.modSlice n f).sideband = s.sideband := rfl
@[simp] theorem State.modSlice_requests (s : State) (n : Nat) (f : Slice → Slice) : (s.modSlice n f).requests = s.requests := rfl
@[simp] theorem State.modSlice_retry (s : State) (n : Nat) (f : Slice → Slice) : (s.modSlice n f).retry = s.retry := rfl
@[simp] theorem State.modSlice_rehomed (s : State) (n : Nat) (f : Slice → Slice) : (s.modSlice n f).rehomed = s.rehomed := rfl
@[simp] theorem State.modSlice_returning (s : State) (n : Nat) (f : Slice → Slice) : (s.modSlice n f).returning = s.returning := rfl
@[simp] theorem State.modSlice_standing (s : State) (n : Nat) (f : Slice → Slice) : (s.modSlice n f).standing = s.standing := rfl
@[simp] theorem State.modSlice_nextReq (s : State) (n : Nat) (f : Slice → Slice) : (s.modSlice n f).nextReq = s.nextReq := rfl
@[simp] theorem State.modSlice_portOrder (s : State) (n : Nat) (f : Slice → Slice) : (s.modSlice n f).portOrder = s.portOrder := rfl
@[simp] theorem State.modSlice_bankLast (s : State) (n : Nat) (f : Slice → Slice) : (s.modSlice n f).bankLast = s.bankLast := rfl
@[simp] theorem State.modSlice_mem (s : State) (n : Nat) (f : Slice → Slice) : (s.modSlice n f).mem = s.mem := rfl
@[simp] theorem State.modSlice_scratchTags (s : State) (n : Nat) (f : Slice → Slice) : (s.modSlice n f).scratchTags = s.scratchTags := rfl
@[simp] theorem State.modSlice_boards (s : State) (n : Nat) (f : Slice → Slice) : (s.modSlice n f).boards = s.boards := rfl
@[simp] theorem State.modSlice_boardResets (s : State) (n : Nat) (f : Slice → Slice) : (s.modSlice n f).boardResets = s.boardResets := rfl
@[simp] theorem State.modSlice_boardHomes (s : State) (n : Nat) (f : Slice → Slice) : (s.modSlice n f).boardHomes = s.boardHomes := rfl
@[simp] theorem State.modSlice_amax (s : State) (n : Nat) (f : Slice → Slice) : (s.modSlice n f).amax = s.amax := rfl
@[simp] theorem State.modSlice_fmt (s : State) (n : Nat) (f : Slice → Slice) : (s.modSlice n f).fmt = s.fmt := rfl
@[simp] theorem State.modSlice_codebooks (s : State) (n : Nat) (f : Slice → Slice) : (s.modSlice n f).codebooks = s.codebooks := rfl
@[simp] theorem State.modSlice_regs (s : State) (n : Nat) (f : Slice → Slice) : (s.modSlice n f).regs = s.regs := rfl
@[simp] theorem State.modSlice_home (s : State) (n : Nat) (f : Slice → Slice) : (s.modSlice n f).home = s.home := rfl
@[simp] theorem State.modSlice_buckets (s : State) (n : Nat) (f : Slice → Slice) : (s.modSlice n f).buckets = s.buckets := rfl
@[simp] theorem State.modSlice_bucketsStaged (s : State) (n : Nat) (f : Slice → Slice) : (s.modSlice n f).bucketsStaged = s.bucketsStaged := rfl
@[simp] theorem State.modSlice_homeChanges (s : State) (n : Nat) (f : Slice → Slice) : (s.modSlice n f).homeChanges = s.homeChanges := rfl
@[simp] theorem State.modSlice_splitChanges (s : State) (n : Nat) (f : Slice → Slice) : (s.modSlice n f).splitChanges = s.splitChanges := rfl
@[simp] theorem State.modSlice_fmtLoads (s : State) (n : Nat) (f : Slice → Slice) : (s.modSlice n f).fmtLoads = s.fmtLoads := rfl
@[simp] theorem State.modSlice_shootdowns (s : State) (n : Nat) (f : Slice → Slice) : (s.modSlice n f).shootdowns = s.shootdowns := rfl
@[simp] theorem State.modSlice_shootdownWaits (s : State) (n : Nat) (f : Slice → Slice) : (s.modSlice n f).shootdownWaits = s.shootdownWaits := rfl
@[simp] theorem State.modSlice_routes (s : State) (n : Nat) (f : Slice → Slice) : (s.modSlice n f).routes = s.routes := rfl
@[simp] theorem State.modSlice_failedPorts (s : State) (n : Nat) (f : Slice → Slice) : (s.modSlice n f).failedPorts = s.failedPorts := rfl
@[simp] theorem State.modSlice_tlb (s : State) (n : Nat) (f : Slice → Slice) : (s.modSlice n f).tlb = s.tlb := rfl
@[simp] theorem State.modSlice_columns (s : State) (n : Nat) (f : Slice → Slice) : (s.modSlice n f).columns = s.columns := rfl
@[simp] theorem State.modSlice_power (s : State) (n : Nat) (f : Slice → Slice) : (s.modSlice n f).power = s.power := rfl
@[simp] theorem State.modSlice_cyc (s : State) (n : Nat) (f : Slice → Slice) : (s.modSlice n f).cyc = s.cyc := rfl
@[simp] theorem State.modSlice_service (s : State) (n : Nat) (f : Slice → Slice) : (s.modSlice n f).service = s.service := rfl
@[simp] theorem State.modSlice_policyPrev (s : State) (n : Nat) (f : Slice → Slice) : (s.modSlice n f).policyPrev = s.policyPrev := rfl
@[simp] theorem State.modSlice_links (s : State) (n : Nat) (f : Slice → Slice) : (s.modSlice n f).links = s.links := rfl
@[simp] theorem State.modSlice_vfEnable (s : State) (n : Nat) (f : Slice → Slice) : (s.modSlice n f).vfEnable = s.vfEnable := rfl
@[simp] theorem State.modSlice_accepting (s : State) (n : Nat) (f : Slice → Slice) : (s.modSlice n f).accepting = s.accepting := rfl
@[simp] theorem State.modSlice_enabled (s : State) (n : Nat) (f : Slice → Slice) : (s.modSlice n f).enabled = s.enabled := rfl
@[simp] theorem State.modSlice_recovery (s : State) (n : Nat) (f : Slice → Slice) : (s.modSlice n f).recovery = s.recovery := rfl
@[simp] theorem State.modSlice_outOfService (s : State) (n : Nat) (f : Slice → Slice) : (s.modSlice n f).outOfService = s.outOfService := rfl
@[simp] theorem State.modSlice_msix (s : State) (n : Nat) (f : Slice → Slice) : (s.modSlice n f).msix = s.msix := rfl
@[simp] theorem State.modSlice_msixTable (s : State) (n : Nat) (f : Slice → Slice) : (s.modSlice n f).msixTable = s.msixTable := rfl
@[simp] theorem State.modSlice_msixPending (s : State) (n : Nat) (f : Slice → Slice) : (s.modSlice n f).msixPending = s.msixPending := rfl
@[simp] theorem State.modSlice_msixEnable (s : State) (n : Nat) (f : Slice → Slice) : (s.modSlice n f).msixEnable = s.msixEnable := rfl
@[simp] theorem State.modSlice_replies (s : State) (n : Nat) (f : Slice → Slice) : (s.modSlice n f).replies = s.replies := rfl
@[simp] theorem State.modSlice_firmware (s : State) (n : Nat) (f : Slice → Slice) : (s.modSlice n f).firmware = s.firmware := rfl
@[simp] theorem State.modSlice_image (s : State) (n : Nat) (f : Slice → Slice) : (s.modSlice n f).image = s.image := rfl
@[simp] theorem State.modSlice_agenda (s : State) (n : Nat) (f : Slice → Slice) : (s.modSlice n f).agenda = s.agenda := rfl
@[simp] theorem State.modSlice_hold (s : State) (n : Nat) (f : Slice → Slice) : (s.modSlice n f).hold = s.hold := rfl
@[simp] theorem State.modSlice_free (s : State) (n : Nat) (f : Slice → Slice) : (s.modSlice n f).free = s.free := rfl
@[simp] theorem State.modSlice_ticks (s : State) (n : Nat) (f : Slice → Slice) : (s.modSlice n f).ticks = s.ticks := rfl

@[simp] theorem State.castFaultAt_me (s : State) (c : Cause) (pc : Word64) : (s.castFaultAt c pc).me = { s.me with stopped := true } := rfl
@[simp] theorem State.castFaultAt_faults (s : State) (c : Cause) (pc : Word64) : (s.castFaultAt c pc).faults = s.faults ++
    [{ casting := s.me.casting, cause := c, pc := pc, rank := s.me.rank, cluster := s.me.cluster, core := s.me.core }] := rfl
@[simp] theorem State.castFaultAt_rest (s : State) (c : Cause) (pc : Word64) : (s.castFaultAt c pc).rest = s.rest := rfl
@[simp] theorem State.castFaultAt_nextUid (s : State) (c : Cause) (pc : Word64) : (s.castFaultAt c pc).nextUid = s.nextUid := rfl
@[simp] theorem State.castFaultAt_castings (s : State) (c : Cause) (pc : Word64) : (s.castFaultAt c pc).castings = s.castings := rfl
@[simp] theorem State.castFaultAt_graphs (s : State) (c : Cause) (pc : Word64) : (s.castFaultAt c pc).graphs = s.graphs := rfl
@[simp] theorem State.castFaultAt_barriers (s : State) (c : Cause) (pc : Word64) : (s.castFaultAt c pc).barriers = s.barriers := rfl
@[simp] theorem State.castFaultAt_nextCommit (s : State) (c : Cause) (pc : Word64) : (s.castFaultAt c pc).nextCommit = s.nextCommit := rfl
@[simp] theorem State.castFaultAt_lastCommit (s : State) (c : Cause) (pc : Word64) : (s.castFaultAt c pc).lastCommit = s.lastCommit := rfl
@[simp] theorem State.castFaultAt_launch (s : State) (c : Cause) (pc : Word64) : (s.castFaultAt c pc).launch = s.launch := rfl
@[simp] theorem State.castFaultAt_lq (s : State) (c : Cause) (pc : Word64) : (s.castFaultAt c pc).lq = s.lq := rfl
@[simp] theorem State.castFaultAt_spawned (s : State) (c : Cause) (pc : Word64) : (s.castFaultAt c pc).spawned = s.spawned := rfl
@[simp] theorem State.castFaultAt_reportSeq (s : State) (c : Cause) (pc : Word64) : (s.castFaultAt c pc).reportSeq = s.reportSeq := rfl
@[simp] theorem State.castFaultAt_tqSeq (s : State) (c : Cause) (pc : Word64) : (s.castFaultAt c pc).tqSeq = s.tqSeq := rfl
@[simp] theorem State.castFaultAt_tqWaiting (s : State) (c : Cause) (pc : Word64) : (s.castFaultAt c pc).tqWaiting = s.tqWaiting := rfl
@[simp] theorem State.castFaultAt_owners (s : State) (c : Cause) (pc : Word64) : (s.castFaultAt c pc).owners = s.owners := rfl
@[simp] theorem State.castFaultAt_windows (s : State) (c : Cause) (pc : Word64) : (s.castFaultAt c pc).windows = s.windows := rfl
@[simp] theorem State.castFaultAt_consumed (s : State) (c : Cause) (pc : Word64) : (s.castFaultAt c pc).consumed = s.consumed := rfl
@[simp] theorem State.castFaultAt_heads (s : State) (c : Cause) (pc : Word64) : (s.castFaultAt c pc).heads = s.heads := rfl
@[simp] theorem State.castFaultAt_gangs (s : State) (c : Cause) (pc : Word64) : (s.castFaultAt c pc).gangs = s.gangs := rfl
@[simp] theorem State.castFaultAt_rgetQueue (s : State) (c : Cause) (pc : Word64) : (s.castFaultAt c pc).rgetQueue = s.rgetQueue := rfl
@[simp] theorem State.castFaultAt_matrix (s : State) (c : Cause) (pc : Word64) : (s.castFaultAt c pc).matrix = s.matrix := rfl
@[simp] theorem State.castFaultAt_chains (s : State) (c : Cause) (pc : Word64) : (s.castFaultAt c pc).chains = s.chains := rfl
@[simp] theorem State.castFaultAt_slices (s : State) (c : Cause) (pc : Word64) : (s.castFaultAt c pc).slices = s.slices := rfl
@[simp] theorem State.castFaultAt_sideband (s : State) (c : Cause) (pc : Word64) : (s.castFaultAt c pc).sideband = s.sideband := rfl
@[simp] theorem State.castFaultAt_requests (s : State) (c : Cause) (pc : Word64) : (s.castFaultAt c pc).requests = s.requests := rfl
@[simp] theorem State.castFaultAt_retry (s : State) (c : Cause) (pc : Word64) : (s.castFaultAt c pc).retry = s.retry := rfl
@[simp] theorem State.castFaultAt_rehomed (s : State) (c : Cause) (pc : Word64) : (s.castFaultAt c pc).rehomed = s.rehomed := rfl
@[simp] theorem State.castFaultAt_returning (s : State) (c : Cause) (pc : Word64) : (s.castFaultAt c pc).returning = s.returning := rfl
@[simp] theorem State.castFaultAt_standing (s : State) (c : Cause) (pc : Word64) : (s.castFaultAt c pc).standing = s.standing := rfl
@[simp] theorem State.castFaultAt_nextReq (s : State) (c : Cause) (pc : Word64) : (s.castFaultAt c pc).nextReq = s.nextReq := rfl
@[simp] theorem State.castFaultAt_portOrder (s : State) (c : Cause) (pc : Word64) : (s.castFaultAt c pc).portOrder = s.portOrder := rfl
@[simp] theorem State.castFaultAt_bankLast (s : State) (c : Cause) (pc : Word64) : (s.castFaultAt c pc).bankLast = s.bankLast := rfl
@[simp] theorem State.castFaultAt_mem (s : State) (c : Cause) (pc : Word64) : (s.castFaultAt c pc).mem = s.mem := rfl
@[simp] theorem State.castFaultAt_scratchTags (s : State) (c : Cause) (pc : Word64) : (s.castFaultAt c pc).scratchTags = s.scratchTags := rfl
@[simp] theorem State.castFaultAt_boards (s : State) (c : Cause) (pc : Word64) : (s.castFaultAt c pc).boards = s.boards := rfl
@[simp] theorem State.castFaultAt_boardResets (s : State) (c : Cause) (pc : Word64) : (s.castFaultAt c pc).boardResets = s.boardResets := rfl
@[simp] theorem State.castFaultAt_boardHomes (s : State) (c : Cause) (pc : Word64) : (s.castFaultAt c pc).boardHomes = s.boardHomes := rfl
@[simp] theorem State.castFaultAt_amax (s : State) (c : Cause) (pc : Word64) : (s.castFaultAt c pc).amax = s.amax := rfl
@[simp] theorem State.castFaultAt_fmt (s : State) (c : Cause) (pc : Word64) : (s.castFaultAt c pc).fmt = s.fmt := rfl
@[simp] theorem State.castFaultAt_codebooks (s : State) (c : Cause) (pc : Word64) : (s.castFaultAt c pc).codebooks = s.codebooks := rfl
@[simp] theorem State.castFaultAt_regs (s : State) (c : Cause) (pc : Word64) : (s.castFaultAt c pc).regs = s.regs := rfl
@[simp] theorem State.castFaultAt_home (s : State) (c : Cause) (pc : Word64) : (s.castFaultAt c pc).home = s.home := rfl
@[simp] theorem State.castFaultAt_buckets (s : State) (c : Cause) (pc : Word64) : (s.castFaultAt c pc).buckets = s.buckets := rfl
@[simp] theorem State.castFaultAt_bucketsStaged (s : State) (c : Cause) (pc : Word64) : (s.castFaultAt c pc).bucketsStaged = s.bucketsStaged := rfl
@[simp] theorem State.castFaultAt_homeChanges (s : State) (c : Cause) (pc : Word64) : (s.castFaultAt c pc).homeChanges = s.homeChanges := rfl
@[simp] theorem State.castFaultAt_splitChanges (s : State) (c : Cause) (pc : Word64) : (s.castFaultAt c pc).splitChanges = s.splitChanges := rfl
@[simp] theorem State.castFaultAt_fmtLoads (s : State) (c : Cause) (pc : Word64) : (s.castFaultAt c pc).fmtLoads = s.fmtLoads := rfl
@[simp] theorem State.castFaultAt_shootdowns (s : State) (c : Cause) (pc : Word64) : (s.castFaultAt c pc).shootdowns = s.shootdowns := rfl
@[simp] theorem State.castFaultAt_shootdownWaits (s : State) (c : Cause) (pc : Word64) : (s.castFaultAt c pc).shootdownWaits = s.shootdownWaits := rfl
@[simp] theorem State.castFaultAt_routes (s : State) (c : Cause) (pc : Word64) : (s.castFaultAt c pc).routes = s.routes := rfl
@[simp] theorem State.castFaultAt_failedPorts (s : State) (c : Cause) (pc : Word64) : (s.castFaultAt c pc).failedPorts = s.failedPorts := rfl
@[simp] theorem State.castFaultAt_tlb (s : State) (c : Cause) (pc : Word64) : (s.castFaultAt c pc).tlb = s.tlb := rfl
@[simp] theorem State.castFaultAt_columns (s : State) (c : Cause) (pc : Word64) : (s.castFaultAt c pc).columns = s.columns := rfl
@[simp] theorem State.castFaultAt_power (s : State) (c : Cause) (pc : Word64) : (s.castFaultAt c pc).power = s.power := rfl
@[simp] theorem State.castFaultAt_cyc (s : State) (c : Cause) (pc : Word64) : (s.castFaultAt c pc).cyc = s.cyc := rfl
@[simp] theorem State.castFaultAt_service (s : State) (c : Cause) (pc : Word64) : (s.castFaultAt c pc).service = s.service := rfl
@[simp] theorem State.castFaultAt_policyPrev (s : State) (c : Cause) (pc : Word64) : (s.castFaultAt c pc).policyPrev = s.policyPrev := rfl
@[simp] theorem State.castFaultAt_links (s : State) (c : Cause) (pc : Word64) : (s.castFaultAt c pc).links = s.links := rfl
@[simp] theorem State.castFaultAt_vfEnable (s : State) (c : Cause) (pc : Word64) : (s.castFaultAt c pc).vfEnable = s.vfEnable := rfl
@[simp] theorem State.castFaultAt_accepting (s : State) (c : Cause) (pc : Word64) : (s.castFaultAt c pc).accepting = s.accepting := rfl
@[simp] theorem State.castFaultAt_enabled (s : State) (c : Cause) (pc : Word64) : (s.castFaultAt c pc).enabled = s.enabled := rfl
@[simp] theorem State.castFaultAt_recovery (s : State) (c : Cause) (pc : Word64) : (s.castFaultAt c pc).recovery = s.recovery := rfl
@[simp] theorem State.castFaultAt_outOfService (s : State) (c : Cause) (pc : Word64) : (s.castFaultAt c pc).outOfService = s.outOfService := rfl
@[simp] theorem State.castFaultAt_msix (s : State) (c : Cause) (pc : Word64) : (s.castFaultAt c pc).msix = s.msix := rfl
@[simp] theorem State.castFaultAt_msixTable (s : State) (c : Cause) (pc : Word64) : (s.castFaultAt c pc).msixTable = s.msixTable := rfl
@[simp] theorem State.castFaultAt_msixPending (s : State) (c : Cause) (pc : Word64) : (s.castFaultAt c pc).msixPending = s.msixPending := rfl
@[simp] theorem State.castFaultAt_msixEnable (s : State) (c : Cause) (pc : Word64) : (s.castFaultAt c pc).msixEnable = s.msixEnable := rfl
@[simp] theorem State.castFaultAt_replies (s : State) (c : Cause) (pc : Word64) : (s.castFaultAt c pc).replies = s.replies := rfl
@[simp] theorem State.castFaultAt_firmware (s : State) (c : Cause) (pc : Word64) : (s.castFaultAt c pc).firmware = s.firmware := rfl
@[simp] theorem State.castFaultAt_image (s : State) (c : Cause) (pc : Word64) : (s.castFaultAt c pc).image = s.image := rfl
@[simp] theorem State.castFaultAt_agenda (s : State) (c : Cause) (pc : Word64) : (s.castFaultAt c pc).agenda = s.agenda := rfl
@[simp] theorem State.castFaultAt_hold (s : State) (c : Cause) (pc : Word64) : (s.castFaultAt c pc).hold = s.hold := rfl
@[simp] theorem State.castFaultAt_free (s : State) (c : Cause) (pc : Word64) : (s.castFaultAt c pc).free = s.free := rfl
@[simp] theorem State.castFaultAt_ticks (s : State) (c : Cause) (pc : Word64) : (s.castFaultAt c pc).ticks = s.ticks := rfl

/-! ### Updates of a ladle -/

@[simp] theorem Ladle.setPc_uid (l : Ladle) (pc : Word64) : (l.setPc pc).uid = l.uid := rfl
@[simp] theorem Ladle.setPc_casting (l : Ladle) (pc : Word64) : (l.setPc pc).casting = l.casting := rfl
@[simp] theorem Ladle.setPc_part (l : Ladle) (pc : Word64) : (l.setPc pc).part = l.part := rfl
@[simp] theorem Ladle.setPc_rank (l : Ladle) (pc : Word64) : (l.setPc pc).rank = l.rank := rfl
@[simp] theorem Ladle.setPc_cluster (l : Ladle) (pc : Word64) : (l.setPc pc).cluster = l.cluster := rfl
@[simp] theorem Ladle.setPc_core (l : Ladle) (pc : Word64) : (l.setPc pc).core = l.core := rfl
@[simp] theorem Ladle.setPc_place (l : Ladle) (pc : Word64) : (l.setPc pc).place = l.place := rfl
@[simp] theorem Ladle.setPc_index (l : Ladle) (pc : Word64) : (l.setPc pc).index = l.index := rfl
@[simp] theorem Ladle.setPc_mould (l : Ladle) (pc : Word64) : (l.setPc pc).mould = l.mould := rfl
@[simp] theorem Ladle.setPc_nladle (l : Ladle) (pc : Word64) : (l.setPc pc).nladle = l.nladle := rfl
@[simp] theorem Ladle.setPc_wid (l : Ladle) (pc : Word64) : (l.setPc pc).wid = l.wid := rfl
@[simp] theorem Ladle.setPc_live (l : Ladle) (pc : Word64) : (l.setPc pc).live = l.live := rfl
@[simp] theorem Ladle.setPc_stopped (l : Ladle) (pc : Word64) : (l.setPc pc).stopped = l.stopped := rfl
@[simp] theorem Ladle.setPc_heldAtEntry (l : Ladle) (pc : Word64) : (l.setPc pc).heldAtEntry = l.heldAtEntry := rfl
@[simp] theorem Ladle.setPc_half (l : Ladle) (pc : Word64) : (l.setPc pc).half = l.half := rfl
@[simp] theorem Ladle.setPc_lowLanes (l : Ladle) (pc : Word64) : (l.setPc pc).lowLanes = l.lowLanes := rfl
@[simp] theorem Ladle.setPc_mayExtend (l : Ladle) (pc : Word64) : (l.setPc pc).mayExtend = l.mayExtend := rfl
@[simp] theorem Ladle.setPc_gangMould (l : Ladle) (pc : Word64) : (l.setPc pc).gangMould = l.gangMould := rfl
@[simp] theorem Ladle.setPc_privileged (l : Ladle) (pc : Word64) : (l.setPc pc).privileged = l.privileged := rfl
@[simp] theorem Ladle.setPc_v (l : Ladle) (pc : Word64) : (l.setPc pc).v = l.v := rfl
@[simp] theorem Ladle.setPc_ext (l : Ladle) (pc : Word64) : (l.setPc pc).ext = l.ext := rfl
@[simp] theorem Ladle.setPc_shadowBlock (l : Ladle) (pc : Word64) : (l.setPc pc).shadowBlock = l.shadowBlock := rfl
@[simp] theorem Ladle.setPc_extBlocks (l : Ladle) (pc : Word64) : (l.setPc pc).extBlocks = l.extBlocks := rfl
@[simp] theorem Ladle.setPc_s (l : Ladle) (pc : Word64) : (l.setPc pc).s = l.s := rfl
@[simp] theorem Ladle.setPc_k (l : Ladle) (pc : Word64) : (l.setPc pc).k = l.k := rfl
@[simp] theorem Ladle.setPc_bv (l : Ladle) (pc : Word64) : (l.setPc pc).bv = l.bv := rfl
@[simp] theorem Ladle.setPc_piPass (l : Ladle) (pc : Word64) : (l.setPc pc).piPass = l.piPass := rfl
@[simp] theorem Ladle.setPc_tpc (l : Ladle) (pc : Word64) : (l.setPc pc).tpc = l.tpc := rfl
@[simp] theorem Ladle.setPc_tvec (l : Ladle) (pc : Word64) : (l.setPc pc).tvec = l.tvec := rfl
@[simp] theorem Ladle.setPc_tcause (l : Ladle) (pc : Word64) : (l.setPc pc).tcause = l.tcause := rfl
@[simp] theorem Ladle.setPc_fmode (l : Ladle) (pc : Word64) : (l.setPc pc).fmode = l.fmode := rfl
@[simp] theorem Ladle.setPc_splits (l : Ladle) (pc : Word64) : (l.setPc pc).splits = l.splits := rfl
@[simp] theorem Ladle.setPc_parkCounter (l : Ladle) (pc : Word64) : (l.setPc pc).parkCounter = l.parkCounter := rfl
@[simp] theorem Ladle.setPc_loop (l : Ladle) (pc : Word64) : (l.setPc pc).loop = l.loop := rfl
@[simp] theorem Ladle.setPc_pend (l : Ladle) (pc : Word64) : (l.setPc pc).pend = l.pend := rfl
@[simp] theorem Ladle.setPc_nextPend (l : Ladle) (pc : Word64) : (l.setPc pc).nextPend = l.nextPend := rfl
@[simp] theorem Ladle.setPc_permit (l : Ladle) (pc : Word64) : (l.setPc pc).permit = l.permit := rfl
@[simp] theorem Ladle.setPc_backoff (l : Ladle) (pc : Word64) : (l.setPc pc).backoff = l.backoff := rfl
@[simp] theorem Ladle.setPc_handlerActive (l : Ladle) (pc : Word64) : (l.setPc pc).handlerActive = l.handlerActive := rfl
@[simp] theorem Ladle.setPc_handlerIssued (l : Ladle) (pc : Word64) : (l.setPc pc).handlerIssued = l.handlerIssued := rfl
@[simp] theorem Ladle.setPc_deferred (l : Ladle) (pc : Word64) : (l.setPc pc).deferred = l.deferred := rfl
@[simp] theorem Ladle.setPc_pad (l : Ladle) (pc : Word64) : (l.setPc pc).pad = l.pad := rfl
@[simp] theorem Ladle.setPc_arrivals (l : Ladle) (pc : Word64) : (l.setPc pc).arrivals = l.arrivals := rfl
@[simp] theorem Ladle.setPc_waited (l : Ladle) (pc : Word64) : (l.setPc pc).waited = l.waited := rfl
@[simp] theorem Ladle.setPc_gangArrivals (l : Ladle) (pc : Word64) : (l.setPc pc).gangArrivals = l.gangArrivals := rfl
@[simp] theorem Ladle.setPc_gangWaited (l : Ladle) (pc : Word64) : (l.setPc pc).gangWaited = l.gangWaited := rfl
@[simp] theorem Ladle.setPc_bars (l : Ladle) (pc : Word64) : (l.setPc pc).bars = l.bars := rfl
@[simp] theorem Ladle.setPc_replay (l : Ladle) (pc : Word64) : (l.setPc pc).replay = l.replay := rfl
@[simp] theorem Ladle.setPc_shadow (l : Ladle) (pc : Word64) : (l.setPc pc).shadow = l.shadow := rfl

@[simp] theorem Ladle.setS_uid (l : Ladle) (r : BitVec 6) (x : Word64) : (l.setS r x).uid = l.uid := rfl
@[simp] theorem Ladle.setS_casting (l : Ladle) (r : BitVec 6) (x : Word64) : (l.setS r x).casting = l.casting := rfl
@[simp] theorem Ladle.setS_part (l : Ladle) (r : BitVec 6) (x : Word64) : (l.setS r x).part = l.part := rfl
@[simp] theorem Ladle.setS_rank (l : Ladle) (r : BitVec 6) (x : Word64) : (l.setS r x).rank = l.rank := rfl
@[simp] theorem Ladle.setS_cluster (l : Ladle) (r : BitVec 6) (x : Word64) : (l.setS r x).cluster = l.cluster := rfl
@[simp] theorem Ladle.setS_core (l : Ladle) (r : BitVec 6) (x : Word64) : (l.setS r x).core = l.core := rfl
@[simp] theorem Ladle.setS_place (l : Ladle) (r : BitVec 6) (x : Word64) : (l.setS r x).place = l.place := rfl
@[simp] theorem Ladle.setS_index (l : Ladle) (r : BitVec 6) (x : Word64) : (l.setS r x).index = l.index := rfl
@[simp] theorem Ladle.setS_mould (l : Ladle) (r : BitVec 6) (x : Word64) : (l.setS r x).mould = l.mould := rfl
@[simp] theorem Ladle.setS_nladle (l : Ladle) (r : BitVec 6) (x : Word64) : (l.setS r x).nladle = l.nladle := rfl
@[simp] theorem Ladle.setS_wid (l : Ladle) (r : BitVec 6) (x : Word64) : (l.setS r x).wid = l.wid := rfl
@[simp] theorem Ladle.setS_live (l : Ladle) (r : BitVec 6) (x : Word64) : (l.setS r x).live = l.live := rfl
@[simp] theorem Ladle.setS_stopped (l : Ladle) (r : BitVec 6) (x : Word64) : (l.setS r x).stopped = l.stopped := rfl
@[simp] theorem Ladle.setS_heldAtEntry (l : Ladle) (r : BitVec 6) (x : Word64) : (l.setS r x).heldAtEntry = l.heldAtEntry := rfl
@[simp] theorem Ladle.setS_half (l : Ladle) (r : BitVec 6) (x : Word64) : (l.setS r x).half = l.half := rfl
@[simp] theorem Ladle.setS_lowLanes (l : Ladle) (r : BitVec 6) (x : Word64) : (l.setS r x).lowLanes = l.lowLanes := rfl
@[simp] theorem Ladle.setS_mayExtend (l : Ladle) (r : BitVec 6) (x : Word64) : (l.setS r x).mayExtend = l.mayExtend := rfl
@[simp] theorem Ladle.setS_gangMould (l : Ladle) (r : BitVec 6) (x : Word64) : (l.setS r x).gangMould = l.gangMould := rfl
@[simp] theorem Ladle.setS_privileged (l : Ladle) (r : BitVec 6) (x : Word64) : (l.setS r x).privileged = l.privileged := rfl
@[simp] theorem Ladle.setS_v (l : Ladle) (r : BitVec 6) (x : Word64) : (l.setS r x).v = l.v := rfl
@[simp] theorem Ladle.setS_ext (l : Ladle) (r : BitVec 6) (x : Word64) : (l.setS r x).ext = l.ext := rfl
@[simp] theorem Ladle.setS_shadowBlock (l : Ladle) (r : BitVec 6) (x : Word64) : (l.setS r x).shadowBlock = l.shadowBlock := rfl
@[simp] theorem Ladle.setS_extBlocks (l : Ladle) (r : BitVec 6) (x : Word64) : (l.setS r x).extBlocks = l.extBlocks := rfl
@[simp] theorem Ladle.setS_k (l : Ladle) (r : BitVec 6) (x : Word64) : (l.setS r x).k = l.k := rfl
@[simp] theorem Ladle.setS_bv (l : Ladle) (r : BitVec 6) (x : Word64) : (l.setS r x).bv = l.bv := rfl
@[simp] theorem Ladle.setS_piPass (l : Ladle) (r : BitVec 6) (x : Word64) : (l.setS r x).piPass = l.piPass := rfl
@[simp] theorem Ladle.setS_tpc (l : Ladle) (r : BitVec 6) (x : Word64) : (l.setS r x).tpc = l.tpc := rfl
@[simp] theorem Ladle.setS_tvec (l : Ladle) (r : BitVec 6) (x : Word64) : (l.setS r x).tvec = l.tvec := rfl
@[simp] theorem Ladle.setS_tcause (l : Ladle) (r : BitVec 6) (x : Word64) : (l.setS r x).tcause = l.tcause := rfl
@[simp] theorem Ladle.setS_fmode (l : Ladle) (r : BitVec 6) (x : Word64) : (l.setS r x).fmode = l.fmode := rfl
@[simp] theorem Ladle.setS_sp (l : Ladle) (r : BitVec 6) (x : Word64) : (l.setS r x).sp = l.sp := rfl
@[simp] theorem Ladle.setS_splits (l : Ladle) (r : BitVec 6) (x : Word64) : (l.setS r x).splits = l.splits := rfl
@[simp] theorem Ladle.setS_parkCounter (l : Ladle) (r : BitVec 6) (x : Word64) : (l.setS r x).parkCounter = l.parkCounter := rfl
@[simp] theorem Ladle.setS_loop (l : Ladle) (r : BitVec 6) (x : Word64) : (l.setS r x).loop = l.loop := rfl
@[simp] theorem Ladle.setS_pend (l : Ladle) (r : BitVec 6) (x : Word64) : (l.setS r x).pend = l.pend := rfl
@[simp] theorem Ladle.setS_nextPend (l : Ladle) (r : BitVec 6) (x : Word64) : (l.setS r x).nextPend = l.nextPend := rfl
@[simp] theorem Ladle.setS_permit (l : Ladle) (r : BitVec 6) (x : Word64) : (l.setS r x).permit = l.permit := rfl
@[simp] theorem Ladle.setS_backoff (l : Ladle) (r : BitVec 6) (x : Word64) : (l.setS r x).backoff = l.backoff := rfl
@[simp] theorem Ladle.setS_handlerActive (l : Ladle) (r : BitVec 6) (x : Word64) : (l.setS r x).handlerActive = l.handlerActive := rfl
@[simp] theorem Ladle.setS_handlerIssued (l : Ladle) (r : BitVec 6) (x : Word64) : (l.setS r x).handlerIssued = l.handlerIssued := rfl
@[simp] theorem Ladle.setS_deferred (l : Ladle) (r : BitVec 6) (x : Word64) : (l.setS r x).deferred = l.deferred := rfl
@[simp] theorem Ladle.setS_pad (l : Ladle) (r : BitVec 6) (x : Word64) : (l.setS r x).pad = l.pad := rfl
@[simp] theorem Ladle.setS_arrivals (l : Ladle) (r : BitVec 6) (x : Word64) : (l.setS r x).arrivals = l.arrivals := rfl
@[simp] theorem Ladle.setS_waited (l : Ladle) (r : BitVec 6) (x : Word64) : (l.setS r x).waited = l.waited := rfl
@[simp] theorem Ladle.setS_gangArrivals (l : Ladle) (r : BitVec 6) (x : Word64) : (l.setS r x).gangArrivals = l.gangArrivals := rfl
@[simp] theorem Ladle.setS_gangWaited (l : Ladle) (r : BitVec 6) (x : Word64) : (l.setS r x).gangWaited = l.gangWaited := rfl
@[simp] theorem Ladle.setS_bars (l : Ladle) (r : BitVec 6) (x : Word64) : (l.setS r x).bars = l.bars := rfl
@[simp] theorem Ladle.setS_replay (l : Ladle) (r : BitVec 6) (x : Word64) : (l.setS r x).replay = l.replay := rfl
@[simp] theorem Ladle.setS_shadow (l : Ladle) (r : BitVec 6) (x : Word64) : (l.setS r x).shadow = l.shadow := rfl

@[simp] theorem Ladle.setV_uid (l : Ladle) (r : BitVec 6) (m : Word32) (f : Nat → Word32) : (l.setV r m f).uid = l.uid := rfl
@[simp] theorem Ladle.setV_casting (l : Ladle) (r : BitVec 6) (m : Word32) (f : Nat → Word32) : (l.setV r m f).casting = l.casting := rfl
@[simp] theorem Ladle.setV_part (l : Ladle) (r : BitVec 6) (m : Word32) (f : Nat → Word32) : (l.setV r m f).part = l.part := rfl
@[simp] theorem Ladle.setV_rank (l : Ladle) (r : BitVec 6) (m : Word32) (f : Nat → Word32) : (l.setV r m f).rank = l.rank := rfl
@[simp] theorem Ladle.setV_cluster (l : Ladle) (r : BitVec 6) (m : Word32) (f : Nat → Word32) : (l.setV r m f).cluster = l.cluster := rfl
@[simp] theorem Ladle.setV_core (l : Ladle) (r : BitVec 6) (m : Word32) (f : Nat → Word32) : (l.setV r m f).core = l.core := rfl
@[simp] theorem Ladle.setV_place (l : Ladle) (r : BitVec 6) (m : Word32) (f : Nat → Word32) : (l.setV r m f).place = l.place := rfl
@[simp] theorem Ladle.setV_index (l : Ladle) (r : BitVec 6) (m : Word32) (f : Nat → Word32) : (l.setV r m f).index = l.index := rfl
@[simp] theorem Ladle.setV_mould (l : Ladle) (r : BitVec 6) (m : Word32) (f : Nat → Word32) : (l.setV r m f).mould = l.mould := rfl
@[simp] theorem Ladle.setV_nladle (l : Ladle) (r : BitVec 6) (m : Word32) (f : Nat → Word32) : (l.setV r m f).nladle = l.nladle := rfl
@[simp] theorem Ladle.setV_wid (l : Ladle) (r : BitVec 6) (m : Word32) (f : Nat → Word32) : (l.setV r m f).wid = l.wid := rfl
@[simp] theorem Ladle.setV_live (l : Ladle) (r : BitVec 6) (m : Word32) (f : Nat → Word32) : (l.setV r m f).live = l.live := rfl
@[simp] theorem Ladle.setV_stopped (l : Ladle) (r : BitVec 6) (m : Word32) (f : Nat → Word32) : (l.setV r m f).stopped = l.stopped := rfl
@[simp] theorem Ladle.setV_heldAtEntry (l : Ladle) (r : BitVec 6) (m : Word32) (f : Nat → Word32) : (l.setV r m f).heldAtEntry = l.heldAtEntry := rfl
@[simp] theorem Ladle.setV_half (l : Ladle) (r : BitVec 6) (m : Word32) (f : Nat → Word32) : (l.setV r m f).half = l.half := rfl
@[simp] theorem Ladle.setV_lowLanes (l : Ladle) (r : BitVec 6) (m : Word32) (f : Nat → Word32) : (l.setV r m f).lowLanes = l.lowLanes := rfl
@[simp] theorem Ladle.setV_mayExtend (l : Ladle) (r : BitVec 6) (m : Word32) (f : Nat → Word32) : (l.setV r m f).mayExtend = l.mayExtend := rfl
@[simp] theorem Ladle.setV_gangMould (l : Ladle) (r : BitVec 6) (m : Word32) (f : Nat → Word32) : (l.setV r m f).gangMould = l.gangMould := rfl
@[simp] theorem Ladle.setV_privileged (l : Ladle) (r : BitVec 6) (m : Word32) (f : Nat → Word32) : (l.setV r m f).privileged = l.privileged := rfl
@[simp] theorem Ladle.setV_ext (l : Ladle) (r : BitVec 6) (m : Word32) (f : Nat → Word32) : (l.setV r m f).ext = l.ext := rfl
@[simp] theorem Ladle.setV_shadowBlock (l : Ladle) (r : BitVec 6) (m : Word32) (f : Nat → Word32) : (l.setV r m f).shadowBlock = l.shadowBlock := rfl
@[simp] theorem Ladle.setV_extBlocks (l : Ladle) (r : BitVec 6) (m : Word32) (f : Nat → Word32) : (l.setV r m f).extBlocks = l.extBlocks := rfl
@[simp] theorem Ladle.setV_s (l : Ladle) (r : BitVec 6) (m : Word32) (f : Nat → Word32) : (l.setV r m f).s = l.s := rfl
@[simp] theorem Ladle.setV_k (l : Ladle) (r : BitVec 6) (m : Word32) (f : Nat → Word32) : (l.setV r m f).k = l.k := rfl
@[simp] theorem Ladle.setV_bv (l : Ladle) (r : BitVec 6) (m : Word32) (f : Nat → Word32) : (l.setV r m f).bv = l.bv := rfl
@[simp] theorem Ladle.setV_piPass (l : Ladle) (r : BitVec 6) (m : Word32) (f : Nat → Word32) : (l.setV r m f).piPass = l.piPass := rfl
@[simp] theorem Ladle.setV_tpc (l : Ladle) (r : BitVec 6) (m : Word32) (f : Nat → Word32) : (l.setV r m f).tpc = l.tpc := rfl
@[simp] theorem Ladle.setV_tvec (l : Ladle) (r : BitVec 6) (m : Word32) (f : Nat → Word32) : (l.setV r m f).tvec = l.tvec := rfl
@[simp] theorem Ladle.setV_tcause (l : Ladle) (r : BitVec 6) (m : Word32) (f : Nat → Word32) : (l.setV r m f).tcause = l.tcause := rfl
@[simp] theorem Ladle.setV_fmode (l : Ladle) (r : BitVec 6) (m : Word32) (f : Nat → Word32) : (l.setV r m f).fmode = l.fmode := rfl
@[simp] theorem Ladle.setV_sp (l : Ladle) (r : BitVec 6) (m : Word32) (f : Nat → Word32) : (l.setV r m f).sp = l.sp := rfl
@[simp] theorem Ladle.setV_splits (l : Ladle) (r : BitVec 6) (m : Word32) (f : Nat → Word32) : (l.setV r m f).splits = l.splits := rfl
@[simp] theorem Ladle.setV_parkCounter (l : Ladle) (r : BitVec 6) (m : Word32) (f : Nat → Word32) : (l.setV r m f).parkCounter = l.parkCounter := rfl
@[simp] theorem Ladle.setV_loop (l : Ladle) (r : BitVec 6) (m : Word32) (f : Nat → Word32) : (l.setV r m f).loop = l.loop := rfl
@[simp] theorem Ladle.setV_pend (l : Ladle) (r : BitVec 6) (m : Word32) (f : Nat → Word32) : (l.setV r m f).pend = l.pend := rfl
@[simp] theorem Ladle.setV_nextPend (l : Ladle) (r : BitVec 6) (m : Word32) (f : Nat → Word32) : (l.setV r m f).nextPend = l.nextPend := rfl
@[simp] theorem Ladle.setV_permit (l : Ladle) (r : BitVec 6) (m : Word32) (f : Nat → Word32) : (l.setV r m f).permit = l.permit := rfl
@[simp] theorem Ladle.setV_backoff (l : Ladle) (r : BitVec 6) (m : Word32) (f : Nat → Word32) : (l.setV r m f).backoff = l.backoff := rfl
@[simp] theorem Ladle.setV_handlerActive (l : Ladle) (r : BitVec 6) (m : Word32) (f : Nat → Word32) : (l.setV r m f).handlerActive = l.handlerActive := rfl
@[simp] theorem Ladle.setV_handlerIssued (l : Ladle) (r : BitVec 6) (m : Word32) (f : Nat → Word32) : (l.setV r m f).handlerIssued = l.handlerIssued := rfl
@[simp] theorem Ladle.setV_deferred (l : Ladle) (r : BitVec 6) (m : Word32) (f : Nat → Word32) : (l.setV r m f).deferred = l.deferred := rfl
@[simp] theorem Ladle.setV_pad (l : Ladle) (r : BitVec 6) (m : Word32) (f : Nat → Word32) : (l.setV r m f).pad = l.pad := rfl
@[simp] theorem Ladle.setV_arrivals (l : Ladle) (r : BitVec 6) (m : Word32) (f : Nat → Word32) : (l.setV r m f).arrivals = l.arrivals := rfl
@[simp] theorem Ladle.setV_waited (l : Ladle) (r : BitVec 6) (m : Word32) (f : Nat → Word32) : (l.setV r m f).waited = l.waited := rfl
@[simp] theorem Ladle.setV_gangArrivals (l : Ladle) (r : BitVec 6) (m : Word32) (f : Nat → Word32) : (l.setV r m f).gangArrivals = l.gangArrivals := rfl
@[simp] theorem Ladle.setV_gangWaited (l : Ladle) (r : BitVec 6) (m : Word32) (f : Nat → Word32) : (l.setV r m f).gangWaited = l.gangWaited := rfl
@[simp] theorem Ladle.setV_bars (l : Ladle) (r : BitVec 6) (m : Word32) (f : Nat → Word32) : (l.setV r m f).bars = l.bars := rfl
@[simp] theorem Ladle.setV_replay (l : Ladle) (r : BitVec 6) (m : Word32) (f : Nat → Word32) : (l.setV r m f).replay = l.replay := rfl
@[simp] theorem Ladle.setV_shadow (l : Ladle) (r : BitVec 6) (m : Word32) (f : Nat → Word32) : (l.setV r m f).shadow = l.shadow := rfl

@[simp] theorem Ladle.issued_uid (l : Ladle) : l.issued.uid = l.uid := rfl
@[simp] theorem Ladle.issued_casting (l : Ladle) : l.issued.casting = l.casting := rfl
@[simp] theorem Ladle.issued_part (l : Ladle) : l.issued.part = l.part := rfl
@[simp] theorem Ladle.issued_rank (l : Ladle) : l.issued.rank = l.rank := rfl
@[simp] theorem Ladle.issued_cluster (l : Ladle) : l.issued.cluster = l.cluster := rfl
@[simp] theorem Ladle.issued_core (l : Ladle) : l.issued.core = l.core := rfl
@[simp] theorem Ladle.issued_place (l : Ladle) : l.issued.place = l.place := rfl
@[simp] theorem Ladle.issued_index (l : Ladle) : l.issued.index = l.index := rfl
@[simp] theorem Ladle.issued_mould (l : Ladle) : l.issued.mould = l.mould := rfl
@[simp] theorem Ladle.issued_nladle (l : Ladle) : l.issued.nladle = l.nladle := rfl
@[simp] theorem Ladle.issued_wid (l : Ladle) : l.issued.wid = l.wid := rfl
@[simp] theorem Ladle.issued_live (l : Ladle) : l.issued.live = l.live := rfl
@[simp] theorem Ladle.issued_stopped (l : Ladle) : l.issued.stopped = l.stopped := rfl
@[simp] theorem Ladle.issued_heldAtEntry (l : Ladle) : l.issued.heldAtEntry = l.heldAtEntry := rfl
@[simp] theorem Ladle.issued_half (l : Ladle) : l.issued.half = l.half := rfl
@[simp] theorem Ladle.issued_lowLanes (l : Ladle) : l.issued.lowLanes = l.lowLanes := rfl
@[simp] theorem Ladle.issued_mayExtend (l : Ladle) : l.issued.mayExtend = l.mayExtend := rfl
@[simp] theorem Ladle.issued_gangMould (l : Ladle) : l.issued.gangMould = l.gangMould := rfl
@[simp] theorem Ladle.issued_privileged (l : Ladle) : l.issued.privileged = l.privileged := rfl
@[simp] theorem Ladle.issued_v (l : Ladle) : l.issued.v = l.v := rfl
@[simp] theorem Ladle.issued_ext (l : Ladle) : l.issued.ext = l.ext := rfl
@[simp] theorem Ladle.issued_shadowBlock (l : Ladle) : l.issued.shadowBlock = l.shadowBlock := rfl
@[simp] theorem Ladle.issued_extBlocks (l : Ladle) : l.issued.extBlocks = l.extBlocks := rfl
@[simp] theorem Ladle.issued_s (l : Ladle) : l.issued.s = l.s := rfl
@[simp] theorem Ladle.issued_k (l : Ladle) : l.issued.k = l.k := rfl
@[simp] theorem Ladle.issued_bv (l : Ladle) : l.issued.bv = l.bv := rfl
@[simp] theorem Ladle.issued_piPass (l : Ladle) : l.issued.piPass = l.piPass := rfl
@[simp] theorem Ladle.issued_tpc (l : Ladle) : l.issued.tpc = l.tpc := rfl
@[simp] theorem Ladle.issued_tvec (l : Ladle) : l.issued.tvec = l.tvec := rfl
@[simp] theorem Ladle.issued_tcause (l : Ladle) : l.issued.tcause = l.tcause := rfl
@[simp] theorem Ladle.issued_fmode (l : Ladle) : l.issued.fmode = l.fmode := rfl
@[simp] theorem Ladle.issued_sp (l : Ladle) : l.issued.sp = l.sp := rfl
@[simp] theorem Ladle.issued_splits (l : Ladle) : l.issued.splits = l.splits := rfl
@[simp] theorem Ladle.issued_parkCounter (l : Ladle) : l.issued.parkCounter = l.parkCounter := rfl
@[simp] theorem Ladle.issued_loop (l : Ladle) : l.issued.loop = l.loop := rfl
@[simp] theorem Ladle.issued_nextPend (l : Ladle) : l.issued.nextPend = l.nextPend := rfl
@[simp] theorem Ladle.issued_permit (l : Ladle) : l.issued.permit = l.permit := rfl
@[simp] theorem Ladle.issued_backoff (l : Ladle) : l.issued.backoff = l.backoff := rfl
@[simp] theorem Ladle.issued_handlerActive (l : Ladle) : l.issued.handlerActive = l.handlerActive := rfl
@[simp] theorem Ladle.issued_deferred (l : Ladle) : l.issued.deferred = l.deferred := rfl
@[simp] theorem Ladle.issued_pad (l : Ladle) : l.issued.pad = l.pad := rfl
@[simp] theorem Ladle.issued_arrivals (l : Ladle) : l.issued.arrivals = l.arrivals := rfl
@[simp] theorem Ladle.issued_waited (l : Ladle) : l.issued.waited = l.waited := rfl
@[simp] theorem Ladle.issued_gangArrivals (l : Ladle) : l.issued.gangArrivals = l.gangArrivals := rfl
@[simp] theorem Ladle.issued_gangWaited (l : Ladle) : l.issued.gangWaited = l.gangWaited := rfl
@[simp] theorem Ladle.issued_bars (l : Ladle) : l.issued.bars = l.bars := rfl
@[simp] theorem Ladle.issued_replay (l : Ladle) : l.issued.replay = l.replay := rfl
@[simp] theorem Ladle.issued_shadow (l : Ladle) : l.issued.shadow = l.shadow := rfl

@[simp] theorem Ladle.dropPending_uid (l : Ladle) (id : Nat) : (l.dropPending id).uid = l.uid := rfl
@[simp] theorem Ladle.dropPending_casting (l : Ladle) (id : Nat) : (l.dropPending id).casting = l.casting := rfl
@[simp] theorem Ladle.dropPending_part (l : Ladle) (id : Nat) : (l.dropPending id).part = l.part := rfl
@[simp] theorem Ladle.dropPending_rank (l : Ladle) (id : Nat) : (l.dropPending id).rank = l.rank := rfl
@[simp] theorem Ladle.dropPending_cluster (l : Ladle) (id : Nat) : (l.dropPending id).cluster = l.cluster := rfl
@[simp] theorem Ladle.dropPending_core (l : Ladle) (id : Nat) : (l.dropPending id).core = l.core := rfl
@[simp] theorem Ladle.dropPending_place (l : Ladle) (id : Nat) : (l.dropPending id).place = l.place := rfl
@[simp] theorem Ladle.dropPending_index (l : Ladle) (id : Nat) : (l.dropPending id).index = l.index := rfl
@[simp] theorem Ladle.dropPending_mould (l : Ladle) (id : Nat) : (l.dropPending id).mould = l.mould := rfl
@[simp] theorem Ladle.dropPending_nladle (l : Ladle) (id : Nat) : (l.dropPending id).nladle = l.nladle := rfl
@[simp] theorem Ladle.dropPending_wid (l : Ladle) (id : Nat) : (l.dropPending id).wid = l.wid := rfl
@[simp] theorem Ladle.dropPending_live (l : Ladle) (id : Nat) : (l.dropPending id).live = l.live := rfl
@[simp] theorem Ladle.dropPending_stopped (l : Ladle) (id : Nat) : (l.dropPending id).stopped = l.stopped := rfl
@[simp] theorem Ladle.dropPending_heldAtEntry (l : Ladle) (id : Nat) : (l.dropPending id).heldAtEntry = l.heldAtEntry := rfl
@[simp] theorem Ladle.dropPending_half (l : Ladle) (id : Nat) : (l.dropPending id).half = l.half := rfl
@[simp] theorem Ladle.dropPending_lowLanes (l : Ladle) (id : Nat) : (l.dropPending id).lowLanes = l.lowLanes := rfl
@[simp] theorem Ladle.dropPending_mayExtend (l : Ladle) (id : Nat) : (l.dropPending id).mayExtend = l.mayExtend := rfl
@[simp] theorem Ladle.dropPending_gangMould (l : Ladle) (id : Nat) : (l.dropPending id).gangMould = l.gangMould := rfl
@[simp] theorem Ladle.dropPending_privileged (l : Ladle) (id : Nat) : (l.dropPending id).privileged = l.privileged := rfl
@[simp] theorem Ladle.dropPending_v (l : Ladle) (id : Nat) : (l.dropPending id).v = l.v := rfl
@[simp] theorem Ladle.dropPending_ext (l : Ladle) (id : Nat) : (l.dropPending id).ext = l.ext := rfl
@[simp] theorem Ladle.dropPending_shadowBlock (l : Ladle) (id : Nat) : (l.dropPending id).shadowBlock = l.shadowBlock := rfl
@[simp] theorem Ladle.dropPending_extBlocks (l : Ladle) (id : Nat) : (l.dropPending id).extBlocks = l.extBlocks := rfl
@[simp] theorem Ladle.dropPending_s (l : Ladle) (id : Nat) : (l.dropPending id).s = l.s := rfl
@[simp] theorem Ladle.dropPending_k (l : Ladle) (id : Nat) : (l.dropPending id).k = l.k := rfl
@[simp] theorem Ladle.dropPending_bv (l : Ladle) (id : Nat) : (l.dropPending id).bv = l.bv := rfl
@[simp] theorem Ladle.dropPending_piPass (l : Ladle) (id : Nat) : (l.dropPending id).piPass = l.piPass := rfl
@[simp] theorem Ladle.dropPending_tpc (l : Ladle) (id : Nat) : (l.dropPending id).tpc = l.tpc := rfl
@[simp] theorem Ladle.dropPending_tvec (l : Ladle) (id : Nat) : (l.dropPending id).tvec = l.tvec := rfl
@[simp] theorem Ladle.dropPending_tcause (l : Ladle) (id : Nat) : (l.dropPending id).tcause = l.tcause := rfl
@[simp] theorem Ladle.dropPending_fmode (l : Ladle) (id : Nat) : (l.dropPending id).fmode = l.fmode := rfl
@[simp] theorem Ladle.dropPending_sp (l : Ladle) (id : Nat) : (l.dropPending id).sp = l.sp := rfl
@[simp] theorem Ladle.dropPending_splits (l : Ladle) (id : Nat) : (l.dropPending id).splits = l.splits := rfl
@[simp] theorem Ladle.dropPending_parkCounter (l : Ladle) (id : Nat) : (l.dropPending id).parkCounter = l.parkCounter := rfl
@[simp] theorem Ladle.dropPending_loop (l : Ladle) (id : Nat) : (l.dropPending id).loop = l.loop := rfl
@[simp] theorem Ladle.dropPending_nextPend (l : Ladle) (id : Nat) : (l.dropPending id).nextPend = l.nextPend := rfl
@[simp] theorem Ladle.dropPending_permit (l : Ladle) (id : Nat) : (l.dropPending id).permit = l.permit := rfl
@[simp] theorem Ladle.dropPending_backoff (l : Ladle) (id : Nat) : (l.dropPending id).backoff = l.backoff := rfl
@[simp] theorem Ladle.dropPending_handlerActive (l : Ladle) (id : Nat) : (l.dropPending id).handlerActive = l.handlerActive := rfl
@[simp] theorem Ladle.dropPending_handlerIssued (l : Ladle) (id : Nat) : (l.dropPending id).handlerIssued = l.handlerIssued := rfl
@[simp] theorem Ladle.dropPending_deferred (l : Ladle) (id : Nat) : (l.dropPending id).deferred = l.deferred := rfl
@[simp] theorem Ladle.dropPending_pad (l : Ladle) (id : Nat) : (l.dropPending id).pad = l.pad := rfl
@[simp] theorem Ladle.dropPending_arrivals (l : Ladle) (id : Nat) : (l.dropPending id).arrivals = l.arrivals := rfl
@[simp] theorem Ladle.dropPending_waited (l : Ladle) (id : Nat) : (l.dropPending id).waited = l.waited := rfl
@[simp] theorem Ladle.dropPending_gangArrivals (l : Ladle) (id : Nat) : (l.dropPending id).gangArrivals = l.gangArrivals := rfl
@[simp] theorem Ladle.dropPending_gangWaited (l : Ladle) (id : Nat) : (l.dropPending id).gangWaited = l.gangWaited := rfl
@[simp] theorem Ladle.dropPending_bars (l : Ladle) (id : Nat) : (l.dropPending id).bars = l.bars := rfl
@[simp] theorem Ladle.dropPending_replay (l : Ladle) (id : Nat) : (l.dropPending id).replay = l.replay := rfl

@[simp] theorem Ladle.setPc_sp_pc (l : Ladle) (pc : Word64) : (l.setPc pc).sp.pc = pc := rfl
@[simp] theorem Ladle.setPc_sp_mask (l : Ladle) (pc : Word64) : (l.setPc pc).sp.mask = l.sp.mask := rfl
@[simp] theorem Ladle.setPc_sp_slot (l : Ladle) (pc : Word64) : (l.setPc pc).sp.slot = l.sp.slot := rfl
@[simp] theorem Ladle.setPc_sp_parkedAt (l : Ladle) (pc : Word64) : (l.setPc pc).sp.parkedAt = l.sp.parkedAt := rfl
@[simp] theorem Ladle.setPc_sp_blocked (l : Ladle) (pc : Word64) : (l.setPc pc).sp.blocked = l.sp.blocked := rfl
@[simp] theorem Ladle.setPc_sp_looping (l : Ladle) (pc : Word64) : (l.setPc pc).sp.looping = l.sp.looping := rfl
@[simp] theorem Ladle.setPc_sp_handler (l : Ladle) (pc : Word64) : (l.setPc pc).sp.handler = l.sp.handler := rfl
@[simp] theorem Ladle.setPc_sp_cleared (l : Ladle) (pc : Word64) : (l.setPc pc).sp.cleared = l.sp.cleared := rfl
@[simp] theorem Ladle.setPc_sp_walkSince (l : Ladle) (pc : Word64) : (l.setPc pc).sp.walkSince = l.sp.walkSince := rfl

@[simp] theorem Ladle.setK_uid (l : Ladle) (k : BitVec 3) (m x : Word32) : (l.setK k m x).uid = l.uid := by
  unfold Ladle.setK; split <;> rfl
@[simp] theorem Ladle.setK_casting (l : Ladle) (k : BitVec 3) (m x : Word32) : (l.setK k m x).casting = l.casting := by
  unfold Ladle.setK; split <;> rfl
@[simp] theorem Ladle.setK_part (l : Ladle) (k : BitVec 3) (m x : Word32) : (l.setK k m x).part = l.part := by
  unfold Ladle.setK; split <;> rfl
@[simp] theorem Ladle.setK_rank (l : Ladle) (k : BitVec 3) (m x : Word32) : (l.setK k m x).rank = l.rank := by
  unfold Ladle.setK; split <;> rfl
@[simp] theorem Ladle.setK_cluster (l : Ladle) (k : BitVec 3) (m x : Word32) : (l.setK k m x).cluster = l.cluster := by
  unfold Ladle.setK; split <;> rfl
@[simp] theorem Ladle.setK_core (l : Ladle) (k : BitVec 3) (m x : Word32) : (l.setK k m x).core = l.core := by
  unfold Ladle.setK; split <;> rfl
@[simp] theorem Ladle.setK_place (l : Ladle) (k : BitVec 3) (m x : Word32) : (l.setK k m x).place = l.place := by
  unfold Ladle.setK; split <;> rfl
@[simp] theorem Ladle.setK_index (l : Ladle) (k : BitVec 3) (m x : Word32) : (l.setK k m x).index = l.index := by
  unfold Ladle.setK; split <;> rfl
@[simp] theorem Ladle.setK_mould (l : Ladle) (k : BitVec 3) (m x : Word32) : (l.setK k m x).mould = l.mould := by
  unfold Ladle.setK; split <;> rfl
@[simp] theorem Ladle.setK_nladle (l : Ladle) (k : BitVec 3) (m x : Word32) : (l.setK k m x).nladle = l.nladle := by
  unfold Ladle.setK; split <;> rfl
@[simp] theorem Ladle.setK_wid (l : Ladle) (k : BitVec 3) (m x : Word32) : (l.setK k m x).wid = l.wid := by
  unfold Ladle.setK; split <;> rfl
@[simp] theorem Ladle.setK_live (l : Ladle) (k : BitVec 3) (m x : Word32) : (l.setK k m x).live = l.live := by
  unfold Ladle.setK; split <;> rfl
@[simp] theorem Ladle.setK_stopped (l : Ladle) (k : BitVec 3) (m x : Word32) : (l.setK k m x).stopped = l.stopped := by
  unfold Ladle.setK; split <;> rfl
@[simp] theorem Ladle.setK_heldAtEntry (l : Ladle) (k : BitVec 3) (m x : Word32) : (l.setK k m x).heldAtEntry = l.heldAtEntry := by
  unfold Ladle.setK; split <;> rfl
@[simp] theorem Ladle.setK_half (l : Ladle) (k : BitVec 3) (m x : Word32) : (l.setK k m x).half = l.half := by
  unfold Ladle.setK; split <;> rfl
@[simp] theorem Ladle.setK_lowLanes (l : Ladle) (k : BitVec 3) (m x : Word32) : (l.setK k m x).lowLanes = l.lowLanes := by
  unfold Ladle.setK; split <;> rfl
@[simp] theorem Ladle.setK_mayExtend (l : Ladle) (k : BitVec 3) (m x : Word32) : (l.setK k m x).mayExtend = l.mayExtend := by
  unfold Ladle.setK; split <;> rfl
@[simp] theorem Ladle.setK_gangMould (l : Ladle) (k : BitVec 3) (m x : Word32) : (l.setK k m x).gangMould = l.gangMould := by
  unfold Ladle.setK; split <;> rfl
@[simp] theorem Ladle.setK_privileged (l : Ladle) (k : BitVec 3) (m x : Word32) : (l.setK k m x).privileged = l.privileged := by
  unfold Ladle.setK; split <;> rfl
@[simp] theorem Ladle.setK_v (l : Ladle) (k : BitVec 3) (m x : Word32) : (l.setK k m x).v = l.v := by
  unfold Ladle.setK; split <;> rfl
@[simp] theorem Ladle.setK_ext (l : Ladle) (k : BitVec 3) (m x : Word32) : (l.setK k m x).ext = l.ext := by
  unfold Ladle.setK; split <;> rfl
@[simp] theorem Ladle.setK_shadowBlock (l : Ladle) (k : BitVec 3) (m x : Word32) : (l.setK k m x).shadowBlock = l.shadowBlock := by
  unfold Ladle.setK; split <;> rfl
@[simp] theorem Ladle.setK_extBlocks (l : Ladle) (k : BitVec 3) (m x : Word32) : (l.setK k m x).extBlocks = l.extBlocks := by
  unfold Ladle.setK; split <;> rfl
@[simp] theorem Ladle.setK_s (l : Ladle) (k : BitVec 3) (m x : Word32) : (l.setK k m x).s = l.s := by
  unfold Ladle.setK; split <;> rfl
@[simp] theorem Ladle.setK_bv (l : Ladle) (k : BitVec 3) (m x : Word32) : (l.setK k m x).bv = l.bv := by
  unfold Ladle.setK; split <;> rfl
@[simp] theorem Ladle.setK_piPass (l : Ladle) (k : BitVec 3) (m x : Word32) : (l.setK k m x).piPass = l.piPass := by
  unfold Ladle.setK; split <;> rfl
@[simp] theorem Ladle.setK_tpc (l : Ladle) (k : BitVec 3) (m x : Word32) : (l.setK k m x).tpc = l.tpc := by
  unfold Ladle.setK; split <;> rfl
@[simp] theorem Ladle.setK_tvec (l : Ladle) (k : BitVec 3) (m x : Word32) : (l.setK k m x).tvec = l.tvec := by
  unfold Ladle.setK; split <;> rfl
@[simp] theorem Ladle.setK_tcause (l : Ladle) (k : BitVec 3) (m x : Word32) : (l.setK k m x).tcause = l.tcause := by
  unfold Ladle.setK; split <;> rfl
@[simp] theorem Ladle.setK_fmode (l : Ladle) (k : BitVec 3) (m x : Word32) : (l.setK k m x).fmode = l.fmode := by
  unfold Ladle.setK; split <;> rfl
@[simp] theorem Ladle.setK_sp (l : Ladle) (k : BitVec 3) (m x : Word32) : (l.setK k m x).sp = l.sp := by
  unfold Ladle.setK; split <;> rfl
@[simp] theorem Ladle.setK_splits (l : Ladle) (k : BitVec 3) (m x : Word32) : (l.setK k m x).splits = l.splits := by
  unfold Ladle.setK; split <;> rfl
@[simp] theorem Ladle.setK_parkCounter (l : Ladle) (k : BitVec 3) (m x : Word32) : (l.setK k m x).parkCounter = l.parkCounter := by
  unfold Ladle.setK; split <;> rfl
@[simp] theorem Ladle.setK_loop (l : Ladle) (k : BitVec 3) (m x : Word32) : (l.setK k m x).loop = l.loop := by
  unfold Ladle.setK; split <;> rfl
@[simp] theorem Ladle.setK_pend (l : Ladle) (k : BitVec 3) (m x : Word32) : (l.setK k m x).pend = l.pend := by
  unfold Ladle.setK; split <;> rfl
@[simp] theorem Ladle.setK_nextPend (l : Ladle) (k : BitVec 3) (m x : Word32) : (l.setK k m x).nextPend = l.nextPend := by
  unfold Ladle.setK; split <;> rfl
@[simp] theorem Ladle.setK_permit (l : Ladle) (k : BitVec 3) (m x : Word32) : (l.setK k m x).permit = l.permit := by
  unfold Ladle.setK; split <;> rfl
@[simp] theorem Ladle.setK_backoff (l : Ladle) (k : BitVec 3) (m x : Word32) : (l.setK k m x).backoff = l.backoff := by
  unfold Ladle.setK; split <;> rfl
@[simp] theorem Ladle.setK_handlerActive (l : Ladle) (k : BitVec 3) (m x : Word32) : (l.setK k m x).handlerActive = l.handlerActive := by
  unfold Ladle.setK; split <;> rfl
@[simp] theorem Ladle.setK_handlerIssued (l : Ladle) (k : BitVec 3) (m x : Word32) : (l.setK k m x).handlerIssued = l.handlerIssued := by
  unfold Ladle.setK; split <;> rfl
@[simp] theorem Ladle.setK_deferred (l : Ladle) (k : BitVec 3) (m x : Word32) : (l.setK k m x).deferred = l.deferred := by
  unfold Ladle.setK; split <;> rfl
@[simp] theorem Ladle.setK_pad (l : Ladle) (k : BitVec 3) (m x : Word32) : (l.setK k m x).pad = l.pad := by
  unfold Ladle.setK; split <;> rfl
@[simp] theorem Ladle.setK_arrivals (l : Ladle) (k : BitVec 3) (m x : Word32) : (l.setK k m x).arrivals = l.arrivals := by
  unfold Ladle.setK; split <;> rfl
@[simp] theorem Ladle.setK_waited (l : Ladle) (k : BitVec 3) (m x : Word32) : (l.setK k m x).waited = l.waited := by
  unfold Ladle.setK; split <;> rfl
@[simp] theorem Ladle.setK_gangArrivals (l : Ladle) (k : BitVec 3) (m x : Word32) : (l.setK k m x).gangArrivals = l.gangArrivals := by
  unfold Ladle.setK; split <;> rfl
@[simp] theorem Ladle.setK_gangWaited (l : Ladle) (k : BitVec 3) (m x : Word32) : (l.setK k m x).gangWaited = l.gangWaited := by
  unfold Ladle.setK; split <;> rfl
@[simp] theorem Ladle.setK_bars (l : Ladle) (k : BitVec 3) (m x : Word32) : (l.setK k m x).bars = l.bars := by
  unfold Ladle.setK; split <;> rfl
@[simp] theorem Ladle.setK_replay (l : Ladle) (k : BitVec 3) (m x : Word32) : (l.setK k m x).replay = l.replay := by
  unfold Ladle.setK; split <;> rfl
@[simp] theorem Ladle.setK_shadow (l : Ladle) (k : BitVec 3) (m x : Word32) : (l.setK k m x).shadow = l.shadow := by
  unfold Ladle.setK; split <;> rfl

/-- Filling slots moves splits between slots and changes nothing else of a ladle (R26). -/
theorem Ladle.fillSlot_eq (l : Ladle) : ∃ x xs, l.fillSlot = { l with sp := x, splits := xs } := by
  unfold Ladle.fillSlot
  split
  · exact ⟨_, _, rfl⟩
  · exact ⟨l.sp, l.splits, rfl⟩

theorem Ladle.fillSlots_eq (l : Ladle) : ∃ x xs, l.fillSlots = { l with sp := x, splits := xs } := by
  obtain ⟨x, xs, h⟩ := Ladle.fillSlot_eq l
  obtain ⟨y, ys, h1⟩ := Ladle.fillSlot_eq l.fillSlot
  obtain ⟨z, zs, h2⟩ := Ladle.fillSlot_eq l.fillSlot.fillSlot
  obtain ⟨w, ws, h3⟩ := Ladle.fillSlot_eq l.fillSlot.fillSlot.fillSlot
  exact ⟨w, ws, by rw [Ladle.fillSlots, h3, h2, h1, h]⟩

/-- Going to the next word changes the splits, the loop buffer, %pi and the loop's count register alone (R122). -/
theorem Ladle.advance_eq (l : Ladle) :
    ∃ r x xs b n, l.advance = { l with s := r, sp := x, splits := xs, loop := b, piPass := n } := by
  unfold Ladle.advance
  split
  · split
    · split
      · exact ⟨_, _, _, _, _, rfl⟩
      · unfold Ladle.endPass
        simp only
        split
        · unfold Ladle.freeLoop
          generalize hq : Ladle.mapSplits _ _ _ = q
          obtain ⟨x, xs, h⟩ := Ladle.fillSlots_eq q
          rw [h, ← hq]
          exact ⟨_, _, _, _, _, rfl⟩
        · exact ⟨_, _, _, _, _, rfl⟩
    · exact ⟨_, _, _, _, _, rfl⟩
  · exact ⟨_, _, _, _, _, rfl⟩

@[simp] theorem Ladle.advance_uid (l : Ladle) : l.advance.uid = l.uid := by
  obtain ⟨_, _, _, _, _, h⟩ := l.advance_eq; rw [h]
@[simp] theorem Ladle.advance_casting (l : Ladle) : l.advance.casting = l.casting := by
  obtain ⟨_, _, _, _, _, h⟩ := l.advance_eq; rw [h]
@[simp] theorem Ladle.advance_part (l : Ladle) : l.advance.part = l.part := by
  obtain ⟨_, _, _, _, _, h⟩ := l.advance_eq; rw [h]
@[simp] theorem Ladle.advance_rank (l : Ladle) : l.advance.rank = l.rank := by
  obtain ⟨_, _, _, _, _, h⟩ := l.advance_eq; rw [h]
@[simp] theorem Ladle.advance_cluster (l : Ladle) : l.advance.cluster = l.cluster := by
  obtain ⟨_, _, _, _, _, h⟩ := l.advance_eq; rw [h]
@[simp] theorem Ladle.advance_core (l : Ladle) : l.advance.core = l.core := by
  obtain ⟨_, _, _, _, _, h⟩ := l.advance_eq; rw [h]
@[simp] theorem Ladle.advance_place (l : Ladle) : l.advance.place = l.place := by
  obtain ⟨_, _, _, _, _, h⟩ := l.advance_eq; rw [h]
@[simp] theorem Ladle.advance_index (l : Ladle) : l.advance.index = l.index := by
  obtain ⟨_, _, _, _, _, h⟩ := l.advance_eq; rw [h]
@[simp] theorem Ladle.advance_mould (l : Ladle) : l.advance.mould = l.mould := by
  obtain ⟨_, _, _, _, _, h⟩ := l.advance_eq; rw [h]
@[simp] theorem Ladle.advance_nladle (l : Ladle) : l.advance.nladle = l.nladle := by
  obtain ⟨_, _, _, _, _, h⟩ := l.advance_eq; rw [h]
@[simp] theorem Ladle.advance_wid (l : Ladle) : l.advance.wid = l.wid := by
  obtain ⟨_, _, _, _, _, h⟩ := l.advance_eq; rw [h]
@[simp] theorem Ladle.advance_live (l : Ladle) : l.advance.live = l.live := by
  obtain ⟨_, _, _, _, _, h⟩ := l.advance_eq; rw [h]
@[simp] theorem Ladle.advance_stopped (l : Ladle) : l.advance.stopped = l.stopped := by
  obtain ⟨_, _, _, _, _, h⟩ := l.advance_eq; rw [h]
@[simp] theorem Ladle.advance_heldAtEntry (l : Ladle) : l.advance.heldAtEntry = l.heldAtEntry := by
  obtain ⟨_, _, _, _, _, h⟩ := l.advance_eq; rw [h]
@[simp] theorem Ladle.advance_half (l : Ladle) : l.advance.half = l.half := by
  obtain ⟨_, _, _, _, _, h⟩ := l.advance_eq; rw [h]
@[simp] theorem Ladle.advance_lowLanes (l : Ladle) : l.advance.lowLanes = l.lowLanes := by
  obtain ⟨_, _, _, _, _, h⟩ := l.advance_eq; rw [h]
@[simp] theorem Ladle.advance_mayExtend (l : Ladle) : l.advance.mayExtend = l.mayExtend := by
  obtain ⟨_, _, _, _, _, h⟩ := l.advance_eq; rw [h]
@[simp] theorem Ladle.advance_gangMould (l : Ladle) : l.advance.gangMould = l.gangMould := by
  obtain ⟨_, _, _, _, _, h⟩ := l.advance_eq; rw [h]
@[simp] theorem Ladle.advance_privileged (l : Ladle) : l.advance.privileged = l.privileged := by
  obtain ⟨_, _, _, _, _, h⟩ := l.advance_eq; rw [h]
@[simp] theorem Ladle.advance_v (l : Ladle) : l.advance.v = l.v := by
  obtain ⟨_, _, _, _, _, h⟩ := l.advance_eq; rw [h]
@[simp] theorem Ladle.advance_ext (l : Ladle) : l.advance.ext = l.ext := by
  obtain ⟨_, _, _, _, _, h⟩ := l.advance_eq; rw [h]
@[simp] theorem Ladle.advance_shadowBlock (l : Ladle) : l.advance.shadowBlock = l.shadowBlock := by
  obtain ⟨_, _, _, _, _, h⟩ := l.advance_eq; rw [h]
@[simp] theorem Ladle.advance_extBlocks (l : Ladle) : l.advance.extBlocks = l.extBlocks := by
  obtain ⟨_, _, _, _, _, h⟩ := l.advance_eq; rw [h]
@[simp] theorem Ladle.advance_k (l : Ladle) : l.advance.k = l.k := by
  obtain ⟨_, _, _, _, _, h⟩ := l.advance_eq; rw [h]
@[simp] theorem Ladle.advance_bv (l : Ladle) : l.advance.bv = l.bv := by
  obtain ⟨_, _, _, _, _, h⟩ := l.advance_eq; rw [h]
@[simp] theorem Ladle.advance_tpc (l : Ladle) : l.advance.tpc = l.tpc := by
  obtain ⟨_, _, _, _, _, h⟩ := l.advance_eq; rw [h]
@[simp] theorem Ladle.advance_tvec (l : Ladle) : l.advance.tvec = l.tvec := by
  obtain ⟨_, _, _, _, _, h⟩ := l.advance_eq; rw [h]
@[simp] theorem Ladle.advance_tcause (l : Ladle) : l.advance.tcause = l.tcause := by
  obtain ⟨_, _, _, _, _, h⟩ := l.advance_eq; rw [h]
@[simp] theorem Ladle.advance_fmode (l : Ladle) : l.advance.fmode = l.fmode := by
  obtain ⟨_, _, _, _, _, h⟩ := l.advance_eq; rw [h]
@[simp] theorem Ladle.advance_parkCounter (l : Ladle) : l.advance.parkCounter = l.parkCounter := by
  obtain ⟨_, _, _, _, _, h⟩ := l.advance_eq; rw [h]
@[simp] theorem Ladle.advance_pend (l : Ladle) : l.advance.pend = l.pend := by
  obtain ⟨_, _, _, _, _, h⟩ := l.advance_eq; rw [h]
@[simp] theorem Ladle.advance_nextPend (l : Ladle) : l.advance.nextPend = l.nextPend := by
  obtain ⟨_, _, _, _, _, h⟩ := l.advance_eq; rw [h]
@[simp] theorem Ladle.advance_permit (l : Ladle) : l.advance.permit = l.permit := by
  obtain ⟨_, _, _, _, _, h⟩ := l.advance_eq; rw [h]
@[simp] theorem Ladle.advance_backoff (l : Ladle) : l.advance.backoff = l.backoff := by
  obtain ⟨_, _, _, _, _, h⟩ := l.advance_eq; rw [h]
@[simp] theorem Ladle.advance_handlerActive (l : Ladle) : l.advance.handlerActive = l.handlerActive := by
  obtain ⟨_, _, _, _, _, h⟩ := l.advance_eq; rw [h]
@[simp] theorem Ladle.advance_handlerIssued (l : Ladle) : l.advance.handlerIssued = l.handlerIssued := by
  obtain ⟨_, _, _, _, _, h⟩ := l.advance_eq; rw [h]
@[simp] theorem Ladle.advance_deferred (l : Ladle) : l.advance.deferred = l.deferred := by
  obtain ⟨_, _, _, _, _, h⟩ := l.advance_eq; rw [h]
@[simp] theorem Ladle.advance_pad (l : Ladle) : l.advance.pad = l.pad := by
  obtain ⟨_, _, _, _, _, h⟩ := l.advance_eq; rw [h]
@[simp] theorem Ladle.advance_arrivals (l : Ladle) : l.advance.arrivals = l.arrivals := by
  obtain ⟨_, _, _, _, _, h⟩ := l.advance_eq; rw [h]
@[simp] theorem Ladle.advance_waited (l : Ladle) : l.advance.waited = l.waited := by
  obtain ⟨_, _, _, _, _, h⟩ := l.advance_eq; rw [h]
@[simp] theorem Ladle.advance_gangArrivals (l : Ladle) : l.advance.gangArrivals = l.gangArrivals := by
  obtain ⟨_, _, _, _, _, h⟩ := l.advance_eq; rw [h]
@[simp] theorem Ladle.advance_gangWaited (l : Ladle) : l.advance.gangWaited = l.gangWaited := by
  obtain ⟨_, _, _, _, _, h⟩ := l.advance_eq; rw [h]
@[simp] theorem Ladle.advance_bars (l : Ladle) : l.advance.bars = l.bars := by
  obtain ⟨_, _, _, _, _, h⟩ := l.advance_eq; rw [h]
@[simp] theorem Ladle.advance_replay (l : Ladle) : l.advance.replay = l.replay := by
  obtain ⟨_, _, _, _, _, h⟩ := l.advance_eq; rw [h]
@[simp] theorem Ladle.advance_shadow (l : Ladle) : l.advance.shadow = l.shadow := by
  obtain ⟨_, _, _, _, _, h⟩ := l.advance_eq; rw [h]
@[simp] theorem Ladle.fillSlots_uid (l : Ladle) : l.fillSlots.uid = l.uid := by
  obtain ⟨_, _, h⟩ := l.fillSlots_eq; rw [h]
@[simp] theorem Ladle.fillSlots_casting (l : Ladle) : l.fillSlots.casting = l.casting := by
  obtain ⟨_, _, h⟩ := l.fillSlots_eq; rw [h]
@[simp] theorem Ladle.fillSlots_part (l : Ladle) : l.fillSlots.part = l.part := by
  obtain ⟨_, _, h⟩ := l.fillSlots_eq; rw [h]
@[simp] theorem Ladle.fillSlots_rank (l : Ladle) : l.fillSlots.rank = l.rank := by
  obtain ⟨_, _, h⟩ := l.fillSlots_eq; rw [h]
@[simp] theorem Ladle.fillSlots_cluster (l : Ladle) : l.fillSlots.cluster = l.cluster := by
  obtain ⟨_, _, h⟩ := l.fillSlots_eq; rw [h]
@[simp] theorem Ladle.fillSlots_core (l : Ladle) : l.fillSlots.core = l.core := by
  obtain ⟨_, _, h⟩ := l.fillSlots_eq; rw [h]
@[simp] theorem Ladle.fillSlots_place (l : Ladle) : l.fillSlots.place = l.place := by
  obtain ⟨_, _, h⟩ := l.fillSlots_eq; rw [h]
@[simp] theorem Ladle.fillSlots_index (l : Ladle) : l.fillSlots.index = l.index := by
  obtain ⟨_, _, h⟩ := l.fillSlots_eq; rw [h]
@[simp] theorem Ladle.fillSlots_mould (l : Ladle) : l.fillSlots.mould = l.mould := by
  obtain ⟨_, _, h⟩ := l.fillSlots_eq; rw [h]
@[simp] theorem Ladle.fillSlots_nladle (l : Ladle) : l.fillSlots.nladle = l.nladle := by
  obtain ⟨_, _, h⟩ := l.fillSlots_eq; rw [h]
@[simp] theorem Ladle.fillSlots_wid (l : Ladle) : l.fillSlots.wid = l.wid := by
  obtain ⟨_, _, h⟩ := l.fillSlots_eq; rw [h]
@[simp] theorem Ladle.fillSlots_live (l : Ladle) : l.fillSlots.live = l.live := by
  obtain ⟨_, _, h⟩ := l.fillSlots_eq; rw [h]
@[simp] theorem Ladle.fillSlots_stopped (l : Ladle) : l.fillSlots.stopped = l.stopped := by
  obtain ⟨_, _, h⟩ := l.fillSlots_eq; rw [h]
@[simp] theorem Ladle.fillSlots_heldAtEntry (l : Ladle) : l.fillSlots.heldAtEntry = l.heldAtEntry := by
  obtain ⟨_, _, h⟩ := l.fillSlots_eq; rw [h]
@[simp] theorem Ladle.fillSlots_half (l : Ladle) : l.fillSlots.half = l.half := by
  obtain ⟨_, _, h⟩ := l.fillSlots_eq; rw [h]
@[simp] theorem Ladle.fillSlots_lowLanes (l : Ladle) : l.fillSlots.lowLanes = l.lowLanes := by
  obtain ⟨_, _, h⟩ := l.fillSlots_eq; rw [h]
@[simp] theorem Ladle.fillSlots_mayExtend (l : Ladle) : l.fillSlots.mayExtend = l.mayExtend := by
  obtain ⟨_, _, h⟩ := l.fillSlots_eq; rw [h]
@[simp] theorem Ladle.fillSlots_gangMould (l : Ladle) : l.fillSlots.gangMould = l.gangMould := by
  obtain ⟨_, _, h⟩ := l.fillSlots_eq; rw [h]
@[simp] theorem Ladle.fillSlots_privileged (l : Ladle) : l.fillSlots.privileged = l.privileged := by
  obtain ⟨_, _, h⟩ := l.fillSlots_eq; rw [h]
@[simp] theorem Ladle.fillSlots_v (l : Ladle) : l.fillSlots.v = l.v := by
  obtain ⟨_, _, h⟩ := l.fillSlots_eq; rw [h]
@[simp] theorem Ladle.fillSlots_ext (l : Ladle) : l.fillSlots.ext = l.ext := by
  obtain ⟨_, _, h⟩ := l.fillSlots_eq; rw [h]
@[simp] theorem Ladle.fillSlots_shadowBlock (l : Ladle) : l.fillSlots.shadowBlock = l.shadowBlock := by
  obtain ⟨_, _, h⟩ := l.fillSlots_eq; rw [h]
@[simp] theorem Ladle.fillSlots_extBlocks (l : Ladle) : l.fillSlots.extBlocks = l.extBlocks := by
  obtain ⟨_, _, h⟩ := l.fillSlots_eq; rw [h]
@[simp] theorem Ladle.fillSlots_s (l : Ladle) : l.fillSlots.s = l.s := by
  obtain ⟨_, _, h⟩ := l.fillSlots_eq; rw [h]
@[simp] theorem Ladle.fillSlots_k (l : Ladle) : l.fillSlots.k = l.k := by
  obtain ⟨_, _, h⟩ := l.fillSlots_eq; rw [h]
@[simp] theorem Ladle.fillSlots_bv (l : Ladle) : l.fillSlots.bv = l.bv := by
  obtain ⟨_, _, h⟩ := l.fillSlots_eq; rw [h]
@[simp] theorem Ladle.fillSlots_piPass (l : Ladle) : l.fillSlots.piPass = l.piPass := by
  obtain ⟨_, _, h⟩ := l.fillSlots_eq; rw [h]
@[simp] theorem Ladle.fillSlots_tpc (l : Ladle) : l.fillSlots.tpc = l.tpc := by
  obtain ⟨_, _, h⟩ := l.fillSlots_eq; rw [h]
@[simp] theorem Ladle.fillSlots_tvec (l : Ladle) : l.fillSlots.tvec = l.tvec := by
  obtain ⟨_, _, h⟩ := l.fillSlots_eq; rw [h]
@[simp] theorem Ladle.fillSlots_tcause (l : Ladle) : l.fillSlots.tcause = l.tcause := by
  obtain ⟨_, _, h⟩ := l.fillSlots_eq; rw [h]
@[simp] theorem Ladle.fillSlots_fmode (l : Ladle) : l.fillSlots.fmode = l.fmode := by
  obtain ⟨_, _, h⟩ := l.fillSlots_eq; rw [h]
@[simp] theorem Ladle.fillSlots_parkCounter (l : Ladle) : l.fillSlots.parkCounter = l.parkCounter := by
  obtain ⟨_, _, h⟩ := l.fillSlots_eq; rw [h]
@[simp] theorem Ladle.fillSlots_loop (l : Ladle) : l.fillSlots.loop = l.loop := by
  obtain ⟨_, _, h⟩ := l.fillSlots_eq; rw [h]
@[simp] theorem Ladle.fillSlots_pend (l : Ladle) : l.fillSlots.pend = l.pend := by
  obtain ⟨_, _, h⟩ := l.fillSlots_eq; rw [h]
@[simp] theorem Ladle.fillSlots_nextPend (l : Ladle) : l.fillSlots.nextPend = l.nextPend := by
  obtain ⟨_, _, h⟩ := l.fillSlots_eq; rw [h]
@[simp] theorem Ladle.fillSlots_permit (l : Ladle) : l.fillSlots.permit = l.permit := by
  obtain ⟨_, _, h⟩ := l.fillSlots_eq; rw [h]
@[simp] theorem Ladle.fillSlots_backoff (l : Ladle) : l.fillSlots.backoff = l.backoff := by
  obtain ⟨_, _, h⟩ := l.fillSlots_eq; rw [h]
@[simp] theorem Ladle.fillSlots_handlerActive (l : Ladle) : l.fillSlots.handlerActive = l.handlerActive := by
  obtain ⟨_, _, h⟩ := l.fillSlots_eq; rw [h]
@[simp] theorem Ladle.fillSlots_handlerIssued (l : Ladle) : l.fillSlots.handlerIssued = l.handlerIssued := by
  obtain ⟨_, _, h⟩ := l.fillSlots_eq; rw [h]
@[simp] theorem Ladle.fillSlots_deferred (l : Ladle) : l.fillSlots.deferred = l.deferred := by
  obtain ⟨_, _, h⟩ := l.fillSlots_eq; rw [h]
@[simp] theorem Ladle.fillSlots_pad (l : Ladle) : l.fillSlots.pad = l.pad := by
  obtain ⟨_, _, h⟩ := l.fillSlots_eq; rw [h]
@[simp] theorem Ladle.fillSlots_arrivals (l : Ladle) : l.fillSlots.arrivals = l.arrivals := by
  obtain ⟨_, _, h⟩ := l.fillSlots_eq; rw [h]
@[simp] theorem Ladle.fillSlots_waited (l : Ladle) : l.fillSlots.waited = l.waited := by
  obtain ⟨_, _, h⟩ := l.fillSlots_eq; rw [h]
@[simp] theorem Ladle.fillSlots_gangArrivals (l : Ladle) : l.fillSlots.gangArrivals = l.gangArrivals := by
  obtain ⟨_, _, h⟩ := l.fillSlots_eq; rw [h]
@[simp] theorem Ladle.fillSlots_gangWaited (l : Ladle) : l.fillSlots.gangWaited = l.gangWaited := by
  obtain ⟨_, _, h⟩ := l.fillSlots_eq; rw [h]
@[simp] theorem Ladle.fillSlots_bars (l : Ladle) : l.fillSlots.bars = l.bars := by
  obtain ⟨_, _, h⟩ := l.fillSlots_eq; rw [h]
@[simp] theorem Ladle.fillSlots_replay (l : Ladle) : l.fillSlots.replay = l.replay := by
  obtain ⟨_, _, h⟩ := l.fillSlots_eq; rw [h]
@[simp] theorem Ladle.fillSlots_shadow (l : Ladle) : l.fillSlots.shadow = l.shadow := by
  obtain ⟨_, _, h⟩ := l.fillSlots_eq; rw [h]

end Sys2Proof.Machine
end

