-- ==== Sys2Proof/Laws/Ops.lean ====
section
/-!
SUPPORT. What the named operations on registers, windows and faults do: one lemma for each, cited in place of its
definition.
-/

namespace Sys2Proof.Machine

/-! ### Registers -/

/-- An entry of a register file by its number. -/
theorem get_of_val {n : Nat} (v : Vector α n) (i : Fin n) : v.get i = v[i.val] := rfl

@[simp] theorem Ladle.getS_setS_self (l : Ladle) (r : BitVec 6) (x : Word64) : (l.setS r x).getS r = x := by
  simp only [Ladle.getS, Ladle.setS, get_of_val]
  exact Vector.getElem_set_self _

theorem Ladle.getS_setS_other (l : Ladle) {r q : BitVec 6} (x : Word64) (h : q ≠ r) : (l.setS r x).getS q = l.getS q := by
  have : r.toNat ≠ q.toNat := fun e => h (BitVec.eq_of_toNat_eq e).symm
  have e : q.toFin.val = q.toNat := rfl
  simp only [Ladle.getS, Ladle.setS, get_of_val]
  exact Vector.getElem_set_ne _ _ (by rw [e]; exact this)

/-- A lane of a row whose lanes have been replaced under a mask. -/
@[simp] theorem laneAt_putLanes (old : LaneVec) (m : Word32) (f : Nat → Word32) {j : Nat} (h : j < 32) :
    laneAt (putLanes old m f) j = if m.getLsbD j then f j else laneAt old j := by
  simp [laneAt, putLanes, h]

/-- A lane of the register that a masked write names. -/
@[simp] theorem Ladle.laneAt_setV_self (l : Ladle) (r : BitVec 6) (m : Word32) (f : Nat → Word32) {j : Nat} (h : j < 32) :
    laneAt ((l.setV r m f).getV r) j = if m.getLsbD j then f j else laneAt (l.getV r) j := by
  have : (l.setV r m f).getV r = putLanes (l.getV r) m f := by
    simp only [Ladle.getV, Ladle.setV, get_of_val]
    exact Vector.getElem_set_self _
  rw [this, laneAt_putLanes _ _ _ h]

/-- A masked write leaves every other lane register alone. -/
theorem Ladle.getV_setV_other (l : Ladle) {r q : BitVec 6} (m : Word32) (f : Nat → Word32) (h : q ≠ r) :
    (l.setV r m f).getV q = l.getV q := by
  have : r.toNat ≠ q.toNat := fun e => h (BitVec.eq_of_toNat_eq e).symm
  have e : q.toFin.val = q.toNat := rfl
  simp only [Ladle.getV, Ladle.setV, get_of_val]
  exact Vector.getElem_set_ne _ _ (by rw [e]; exact this)

/-- A bit of a mask of the lanes that a test picks. -/
theorem maskOf_getLsbD (l : List Nat) {j : Nat} (hj : j < 32) (acc : Word32) :
    (l.foldl (fun m i => m ||| BitVec.ofNat 32 (2 ^ i)) acc).getLsbD j = (acc.getLsbD j || l.contains j) := by
  induction l generalizing acc with
  | nil => simp
  | cons a r ih =>
    rw [List.foldl_cons, ih]
    have : (BitVec.ofNat 32 (2 ^ a)).getLsbD j = (j == a) := by
      simp only [BitVec.getLsbD_ofNat, hj, decide_true, Bool.true_and, Nat.testBit_two_pow]
      rw [Bool.eq_iff_iff, decide_eq_true_iff, beq_iff_eq]
      exact eq_comm
    rw [BitVec.getLsbD_or, this, List.contains_cons, Bool.or_assoc]

@[simp] theorem laneMask_getLsbD (f : Nat → Bool) {j : Nat} (hj : j < 32) : (laneMask f).getLsbD j = f j := by
  rw [laneMask, maskOf, maskOf_getLsbD _ hj]
  by_cases h : f j <;> simp [hj, h]

/-- The mask of an instruction's lanes: the split's lanes whose predicate bit is set (R54). -/
@[simp] theorem Ladle.active_getLsbD (l : Ladle) (k : BitVec 3) (j : Nat) :
    (l.active k).getLsbD j = (l.sp.mask.getLsbD j && (l.getK k).getLsbD j) := by
  simp [Ladle.active]

/-- k0 is fixed (R23). -/
@[simp] theorem Ladle.setK_zero (l : Ladle) (m x : Word32) : l.setK 0 m x = l := by simp [Ladle.setK]

/-- A mask write replaces the bits it selects, of a ladle of a vector core. -/
theorem Ladle.getK_setK_self (l : Ladle) {k : BitVec 3} (hk : k ≠ 0) (hc : l.control = false) (m x : Word32) :
    (l.setK k m x).getK k = (l.getK k &&& ~~~m) ||| (x &&& m) := by
  have h : (l.setK k m x).control = l.control := by simp [Ladle.control]
  simp only [Ladle.getK, h, hc, hk, if_false, Bool.false_eq_true]
  simp only [Ladle.setK, hk, if_false, get_of_val]
  exact Vector.getElem_set_self _

theorem Ladle.getK_setK_other (l : Ladle) {k q : BitVec 3} (m x : Word32) (h : q ≠ k) : (l.setK k m x).getK q = l.getK q := by
  have hc : (l.setK k m x).control = l.control := by simp [Ladle.control]
  have hn : k.toNat ≠ q.toNat := fun e => h (BitVec.eq_of_toNat_eq e).symm
  have hk : (l.setK k m x).k.get q.toFin = l.k.get q.toFin := by
    unfold Ladle.setK
    split
    · rfl
    · simp only [get_of_val]
      exact Vector.getElem_set_ne _ _ hn
  simp only [Ladle.getK, hc, hk]

/-! ### Going to the next word -/

theorem State.done_eq (s : State) (f : Ladle → Ladle) : s.done f = { s with me := (f s.me.issued).advance } := rfl

theorem State.jump_eq (s : State) (pc : Word64) (f : Ladle → Ladle) : s.jump pc f = { s with me := (f s.me.issued).setPc pc } := rfl

/-- Outside a loop body the next word is 4 bytes on, and nothing else changes (R121). -/
theorem Ladle.advance_plain (l : Ladle) (h : l.sp.looping = false) : l.advance = l.setPc (l.sp.pc + 4) := by
  unfold Ladle.advance
  cases l.loop <;> simp [h]

@[simp] theorem Ladle.issued_getS (l : Ladle) (r : BitVec 6) : l.issued.getS r = l.getS r := rfl
@[simp] theorem Ladle.issued_getV (l : Ladle) (r : BitVec 6) : l.issued.getV r = l.getV r := rfl
@[simp] theorem Ladle.issued_getK (l : Ladle) (k : BitVec 3) : l.issued.getK k = l.getK k := rfl
@[simp] theorem Ladle.issued_active (l : Ladle) (k : BitVec 3) : l.issued.active k = l.active k := rfl

/-! ### Legality -/

/-- A lane-set word is legal: not on a control core, and v32-v63 only with the extended block. -/
theorem State.laneWord_legal (s : State) (regs : List (BitVec 6)) (f : State → State) (h : s.me.control = false)
    (hr : s.me.ext = true ∨ regs.any extended = false) : s.laneWord regs f = f s := by
  unfold State.laneWord
  rcases hr with hr | hr <;> simp [h, hr]

theorem State.laneWord_control (s : State) (regs : List (BitVec 6)) (f : State → State) (h : s.me.control = true) :
    s.laneWord regs f = s.castFault .illegal := by simp [State.laneWord, h]

theorem State.laneWord_extended (s : State) (regs : List (BitVec 6)) (f : State → State) (h : s.me.ext = false)
    (hr : regs.any extended = true) : s.laneWord regs f = s.castFault .illegal := by simp [State.laneWord, h, hr]

/-! ### Windows -/

theorem State.landDue_nil (s : State) (all : Bool) (n : Nat) (h : s.me.pend = []) : State.landDue all n s = s := by
  cases n with
  | zero => rfl
  | succ n => simp [State.landDue, h]

/-- With nothing pending nothing lands. -/
@[simp] theorem State.settle_nil (s : State) (h : s.me.pend = []) : s.settle = s := State.landDue_nil s _ _ h

/-- With nothing pending an instruction that closes windows acts at once. -/
theorem State.closing_nil (s : State) (f : State → State) (h : s.me.pend = []) (hs : s.me.stopped = false)
    (hb : s.me.sp.blocked = .ready) : s.closing f = f s := by
  unfold State.closing
  have : s.me.dataOutstanding = false := by simp [Ladle.dataOutstanding, h]
  have hw : s.me.windowsOpen = false := by simp [Ladle.windowsOpen, h]
  simp [this, State.landDue_nil s _ _ h, hs, hb, hw]

/-- An instruction that closes windows waits while a result's data are outstanding (R59). -/
theorem State.closing_waits (s : State) (f : State → State) (h : s.me.dataOutstanding = true) : s.closing f = s := by
  simp [State.closing, h]

/-- Without a trailing shadow nothing is compared and no value is queued (R335). -/
theorem State.outward_off (s : State) (f : State → State) (h : s.shadowed = false) : s.outward f = f s := by
  simp [State.outward, State.shadowFull, h]

theorem State.compared_off (s : State) (w : List Word64) (f : State → State) (h : s.shadowed = false) : s.compared w f = f s := by
  simp [State.compared, h]

theorem State.compareLater_off (s : State) (q : List Nat) (w : List Word64) (h : s.shadowed = false) : s.compareLater q w = s := by
  simp [State.compareLater, h]

theorem State.long_free (s : State) (f : State → State) (h : s.me.pend.length < 16) : s.long f = f s := by
  simp [State.long]; omega

theorem State.longValue_free (s : State) (f : State → State) (h : s.me.pend.length < 16) (hh : s.shadowed = false) : s.longValue f = f s := by
  simp [State.longValue, State.valuesFull, hh]; omega

theorem Ladle.setOutside_off (l : Ladle) (d : BitVec 6) (x : Word64) (h : l.shadow = none) : l.setOutside d x = l.setS d x := by
  cases l
  simp_all [Ladle.setOutside, Ladle.queueValue, Ladle.setS]

/-! ### Arithmetic exceptions -/

/-- With none of the raised exceptions enabled, the instruction completes and their flags are set (R76). -/
theorem State.arith_clear (s : State) (e : BitVec 5) (f : Ladle → Ladle) (h : fmodeEnables s.me.fmode &&& e = 0) :
    s.arith e f = s.done (fun l => { f l with fmode := raiseFlags l.fmode e }) := by
  simp [State.arith, h]

/-- With one enabled, the trap is taken and the instruction has no effect (R76). -/
theorem State.arith_trap (s : State) (e : BitVec 5) (f : Ladle → Ladle) (h : fmodeEnables s.me.fmode &&& e ≠ 0) :
    s.arith e f = s.takeTrap 3 (fmodeEnables s.me.fmode &&& e).toNat .own := by
  simp only [State.arith]
  exact if_pos h

/-! ### A long result with no other pending (R56, R57) -/

/-- A ready split stays ready when it goes to its next word. -/
theorem Ladle.fillSlot_ready (l : Ladle) (h : l.sp.blocked = .ready) : l.fillSlot.sp.blocked = .ready := by
  unfold Ladle.fillSlot
  split
  · simp only [Ladle.mapSplits]; split <;> simpa using h
  · exact h

theorem Ladle.advance_ready (l : Ladle) (h : l.sp.blocked = .ready) : l.advance.sp.blocked = .ready := by
  unfold Ladle.advance
  split
  · split
    · split
      · exact h
      · unfold Ladle.endPass
        simp only
        split
        · unfold Ladle.freeLoop Ladle.fillSlots
          refine Ladle.fillSlot_ready _ (Ladle.fillSlot_ready _ (Ladle.fillSlot_ready _ (Ladle.fillSlot_ready _ ?_)))
          simp only [Ladle.mapSplits]; split <;> simp [h]
        · simpa using h
    · simpa using h
  · simpa using h

/-- Every lane of a result whose counts are 0 is due. -/
theorem Pending.dueLanes_zero (p : Pending) (h : ∀ j : Fin 32, p.counts[j] = 0) : p.dueLanes false = p.lanes := by
  have hc : ∀ j, j < 32 → p.counts.toList.getD j 0 = 0 := fun j hj => by
    have := h ⟨j, hj⟩
    simpa [List.getD, hj] using this
  unfold Pending.dueLanes
  split
  · apply BitVec.eq_of_getLsbD_eq
    intro j hj
    rw [BitVec.getLsbD_and, laneMask_getLsbD _ hj, hc j hj]
    simp
  · rw [hc 0 (by omega)]
    simp

/-- No lane of a result whose counts are not 0 is due. -/
theorem Pending.dueLanes_later (p : Pending) (h : ∀ j : Fin 32, p.counts[j] ≠ 0) : p.dueLanes false = 0 := by
  have hc : ∀ j, j < 32 → p.counts.toList.getD j 0 ≠ 0 := fun j hj => by
    have := h ⟨j, hj⟩
    simpa [List.getD, hj] using this
  unfold Pending.dueLanes
  split
  · apply BitVec.eq_of_getLsbD_eq
    intro j hj
    rw [BitVec.getLsbD_and, laneMask_getLsbD _ hj, Bool.false_or, decide_eq_false (hc j hj)]
    simp
  · rw [Bool.false_or, decide_eq_false (hc 0 (by omega))]
    simp

/-- The ladle that a long instruction leaves before any landing: its issue counted, the result pending, the next word
reached. -/
def Ladle.withPending (l : Ladle) (p : Pending) : Ladle := Ladle.advance { l.issued with pend := [p], nextPend := l.nextPend + 1 }

/-- The pending list plays no part in going to the next word. -/
theorem Ladle.advance_with_pend (l : Ladle) (q : List Pending) (n : Nat) :
    Ladle.advance { l with pend := q, nextPend := n } = { l.advance with pend := q, nextPend := n } := by
  unfold Ladle.advance
  simp only
  split
  · split
    · split
      · rfl
      · unfold Ladle.endPass
        simp only [Ladle.setS]
        split
        · unfold Ladle.freeLoop Ladle.fillSlots
          have slot : ∀ l : Ladle, Ladle.fillSlot { l with pend := q, nextPend := n } = { l.fillSlot with pend := q, nextPend := n } := by
            intro l
            unfold Ladle.fillSlot
            simp only [Ladle.freeSlot, Ladle.longestParked, Ladle.allSplits, Ladle.mapSplits]
            split <;> rfl
          have map : ∀ (l : Ladle) (f : Split → Bool) (g : Split → Split),
              Ladle.mapSplits { l with pend := q, nextPend := n } f g = { l.mapSplits f g with pend := q, nextPend := n } := fun _ _ _ => rfl
          rw [← slot, ← slot, ← slot, ← slot, ← map]
        · rfl
    · rfl
  · rfl

theorem Ladle.withPending_eq (l : Ladle) (p : Pending) :
    l.withPending p = { l.issued.advance with pend := [p], nextPend := l.nextPend + 1 } := Ladle.advance_with_pend _ _ _

/-- A result whose data are there and whose lookahead is 0 lands before the next instruction. -/
theorem State.issueLong_lands (s : State) (p : Pending) (hp : s.me.pend = []) (hs : s.me.stopped = false)
    (hm : p.missing = 0) (hu : p.suspended = false) (hf : p.fault = none)
    (he : p.exceptions &&& p.enables = 0) (hl : p.lanes ≠ 0) (hc : ∀ j : Fin 32, p.counts[j] = 0) :
    s.issueLong p = s.mapMe (fun l =>
      let d := (l.withPending p).deliver p p.lanes
      let d := d.fillValue p.id p.vals
      { d with fmode := raiseFlags d.fmode p.exceptions, pend := [] }) := by
  have hd := Pending.dueLanes_zero p hc
  have hlands : ∀ l : Ladle, l.landable false p = true := by
    intro l
    rw [Ladle.landable, Pending.lands, hm, hu, hd, Pending.traps, he]
    simpa using hl
  have hi : s.me.issued.pend = [] := by simp [Ladle.issued, hp]
  have h0 : (s.done (fun l => { l with pend := l.pend ++ [p], nextPend := l.nextPend + 1 })) = s.mapMe (fun l => l.withPending p) := by
    simp [State.done, State.mapMe, Ladle.withPending, hi]
  have hpend : (s.me.withPending p).pend = [p] := by simp [Ladle.withPending]
  have hst : (s.me.withPending p).stopped = false := by simp [Ladle.withPending, hs]
  have hleft : p.lanes &&& ~~~p.lanes = 0 := by simp
  unfold State.issueLong
  rw [h0]
  unfold State.settle
  rw [State.landDue]
  simp only [State.mapMe_me, hpend, List.any_cons, hlands, List.any_nil, Bool.or_false, hst, Bool.not_false,
    Bool.and_true, if_true]
  unfold State.landOne
  simp only [State.mapMe_me, hpend, List.find?_cons, hlands]
  unfold State.land
  simp only [hf, Pending.traps, he, ne_eq, not_true_eq_false, if_false]
  unfold Ladle.landed
  simp only [hd, hleft, if_true]
  cases hdest : p.dest <;>
    simp [hdest, State.mapMe, Ladle.deliver, hpend, Ladle.fillValue, State.landDue]

/-- A result with a lookahead stays pending. -/
theorem State.issueLong_waits (s : State) (p : Pending) (hp : s.me.pend = []) (hc : ∀ j : Fin 32, p.counts[j] ≠ 0) :
    s.issueLong p = s.mapMe (fun l => l.withPending p) := by
  have hd := Pending.dueLanes_later p hc
  have hlands : ∀ l : Ladle, l.landable false p = false := fun l => by simp [Ladle.landable, Pending.lands, hd]
  have hi : s.me.issued.pend = [] := by simp [Ladle.issued, hp]
  have h0 : (s.done (fun l => { l with pend := l.pend ++ [p], nextPend := l.nextPend + 1 })) = s.mapMe (fun l => l.withPending p) := by
    simp [State.done, State.mapMe, Ladle.withPending, hi]
  have hpend : (s.me.withPending p).pend = [p] := by simp [Ladle.withPending]
  unfold State.issueLong
  rw [h0]
  unfold State.settle
  rw [State.landDue]
  simp [hpend, hlands]

/-- So does one whose data have not come. -/
theorem State.issueLong_missing (s : State) (p : Pending) (hp : s.me.pend = []) (hm : p.missing ≠ 0) :
    s.issueLong p = s.mapMe (fun l => l.withPending p) := by
  have hlands : ∀ l : Ladle, l.landable false p = false := fun l => by simp [Ladle.landable, Pending.lands, hm]
  have hi : s.me.issued.pend = [] := by simp [Ladle.issued, hp]
  have h0 : (s.done (fun l => { l with pend := l.pend ++ [p], nextPend := l.nextPend + 1 })) = s.mapMe (fun l => l.withPending p) := by
    simp [State.done, State.mapMe, Ladle.withPending, hi]
  have hpend : (s.me.withPending p).pend = [p] := by simp [Ladle.withPending]
  unfold State.issueLong
  rw [h0]
  unfold State.settle
  rw [State.landDue]
  simp [hpend, hlands]

end Sys2Proof.Machine
end

