-- ==== Sys2Proof/Laws/Corrections.lean ====
section
/-!
SUPPORT. What the correction of an error that an access meets changes (R337): nothing where no stored word holds one, and else what the slices
keep of errors and their counts.
-/

namespace Sys2Proof.Machine

@[simp] theorem State.correctBytes_clean (s : State) (pas : List Nat) (h : s.noErrors = true) : s.correctBytes pas = s := by
  simp [State.correctBytes, h]
@[simp] theorem State.correctWalk_clean (s : State) (p va : Nat) (h : s.noErrors = true) : s.correctWalk p va = s := by
  simp [State.correctWalk, h]
@[simp] theorem State.correctTables_clean (s : State) (c p va : Nat) (k : AccessKind) (h : s.noErrors = true) : s.correctTables c p va k = s := by
  simp [State.correctTables, h]
@[simp] theorem State.correctRange_clean (s : State) (p : Nat) (k : AccessKind) (va n : Nat) (h : s.noErrors = true) : s.correctRange p k va n = s := by
  simp [State.correctRange, h]
@[simp] theorem State.correctWords_clean (s : State) (pc n : Nat) (h : s.noErrors = true) : s.correctWords pc n = s := by
  simp [State.correctWords, h]
@[simp] theorem State.fetched_clean (s : State) (h : s.noErrors = true) : s.fetched = s := by
  simp [State.fetched, h]

/-- A correction changes what the slices keep of errors and their counts, and nothing else. -/
theorem State.correct_changes (s : State) (n a : Nat) : s.correct n a = { s with slices := (s.correct n a).slices, regs := (s.correct n a).regs } := by
  unfold State.correct
  split <;> rfl
theorem State.correctBytes_changes (s : State) (pas : List Nat) :
    s.correctBytes pas = { s with slices := (s.correctBytes pas).slices, regs := (s.correctBytes pas).regs } := by
  have h : ∀ (pas : List Nat) (u : State), (∃ a b, u = { s with slices := a, regs := b }) →
      ∃ a b, pas.foldl (fun t a => t.correct (t.sliceOfTile (tileOf a)) a) u = { s with slices := a, regs := b } := by
    intro pas
    induction pas with
    | nil => exact fun u h => h
    | cons a r ih =>
      rintro u ⟨x, y, rfl⟩
      exact ih _ ⟨_, _, State.correct_changes _ _ _⟩
  unfold State.correctBytes
  split
  · rfl
  · obtain ⟨a, b, e⟩ := h pas s ⟨s.slices, s.regs, rfl⟩
    rw [e]
@[simp] theorem State.correctBytes_mem (s : State) (pas : List Nat) : (s.correctBytes pas).mem = s.mem := by rw [State.correctBytes_changes]
@[simp] theorem State.correctBytes_me (s : State) (pas : List Nat) : (s.correctBytes pas).me = s.me := by rw [State.correctBytes_changes]
@[simp] theorem State.correctBytes_castings (s : State) (pas : List Nat) : (s.correctBytes pas).castings = s.castings := by rw [State.correctBytes_changes]

end Sys2Proof.Machine
end

