-- ==== Sys2Proof/Laws/Encoding.lean ====
section
/-!
SUPPORT. How a field is read back out of a packed word.
-/

namespace Sys2Proof

/-- The lowest field of a packed word is read back. -/
@[simp] theorem extract_cat_field {n : Nat} (acc : Nat) (x : BitVec n) (h : n ≤ 32) :
    (BitVec.ofNat 32 (cat acc x)).extractLsb' 0 n = x := by
  apply BitVec.eq_of_toNat_eq
  simp only [BitVec.extractLsb'_toNat, BitVec.toNat_ofNat, Nat.shiftRight_zero, cat]
  rw [Nat.mod_mod_of_dvd _ (Nat.pow_dvd_pow 2 h), Nat.mul_comm, Nat.mul_add_mod]
  exact Nat.mod_eq_of_lt x.isLt

/-- A field above the lowest one is read from the bits before it. -/
theorem extract_cat_above {n : Nat} (acc : Nat) (x : BitVec n) (lo len : Nat) (h : n ≤ lo) (h' : lo + len ≤ 32) :
    (BitVec.ofNat 32 (cat acc x)).extractLsb' lo len = (BitVec.ofNat 32 acc).extractLsb' (lo - n) len := by
  apply BitVec.eq_of_getLsbD_eq
  intro i hi
  have h1 : lo + i < 32 := by omega
  have h2 : lo - n + i < 32 := by omega
  simp only [BitVec.getLsbD_extractLsb', hi, decide_true, Bool.true_and, BitVec.getLsbD_ofNat, h1, h2, cat]
  obtain ⟨j, hj⟩ : ∃ j, lo + i = n + j := ⟨lo + i - n, by omega⟩
  have hj' : lo - n + i = j := by omega
  rw [hj, hj', Nat.mul_comm, Nat.testBit_two_pow_mul_add _ x.isLt, if_neg (by omega)]
  simp

end Sys2Proof
end

