-- ==== Sys2Proof/Laws/FMap.lean ====
section
/-!
SUPPORT. Tables and memory: what a read gives after a write, and that every operation keeps the canonical form.
-/

namespace Sys2Proof.Machine

@[simp] theorem FMap.get_nil (d : α) (k : Nat) : FMap.get d [] k = d := rfl

@[simp] theorem FMap.get_insert_self (d v : α) (m : FMap α) (k : Nat) : FMap.get d (FMap.insert k v m) k = v := by
  induction m with
  | nil => simp [FMap.insert, FMap.get]
  | cons e r ih =>
    obtain ⟨k', v'⟩ := e
    simp only [FMap.insert]
    split
    · simp [FMap.get]
    · split
      · simp [FMap.get]
      · rename_i h; simp [FMap.get, h, ih]

theorem FMap.get_insert_other (d v : α) (m : FMap α) {k j : Nat} (h : k ≠ j) :
    FMap.get d (FMap.insert k v m) j = FMap.get d m j := by
  induction m with
  | nil => simp [FMap.insert, FMap.get, h]
  | cons e r ih =>
    obtain ⟨k', v'⟩ := e
    simp only [FMap.insert]
    split
    · simp [FMap.get, h]
    · split
      · rename_i hk; subst hk; simp [FMap.get, h]
      · simp [FMap.get, ih]

@[simp] theorem FMap.get_erase_self (d : α) (m : FMap α) (k : Nat) : FMap.get d (FMap.erase k m) k = d := by
  induction m with
  | nil => rfl
  | cons e r ih =>
    by_cases h : e.1 = k
    · simpa [FMap.erase, h] using ih
    · simpa [FMap.erase, h, FMap.get] using ih

theorem FMap.get_erase_other (d : α) (m : FMap α) {k j : Nat} (h : k ≠ j) :
    FMap.get d (FMap.erase k m) j = FMap.get d m j := by
  induction m with
  | nil => rfl
  | cons e r ih =>
    by_cases hk : e.1 = k
    · have : e.1 ≠ j := by omega
      simpa [FMap.erase, hk, FMap.get, h] using ih
    · by_cases hj : e.1 = j
      · have : j ≠ k := by omega
        simp [FMap.erase, hj, FMap.get, this]
      · simpa [FMap.erase, hk, FMap.get, hj] using ih

/-- An entry reads as it was written. -/
@[simp] theorem FMap.get_set_self [DecidableEq α] (d v : α) (m : FMap α) (k : Nat) : FMap.get d (FMap.set d m k v) k = v := by
  unfold FMap.set
  split
  · rename_i h; simp [h]
  · simp

/-- A write leaves every other entry alone. -/
theorem FMap.get_set_other [DecidableEq α] (d v : α) (m : FMap α) {k j : Nat} (h : k ≠ j) :
    FMap.get d (FMap.set d m k v) j = FMap.get d m j := by
  unfold FMap.set
  split
  · exact FMap.get_erase_other d m h
  · exact FMap.get_insert_other d v m h

/-- Both of the above. -/
theorem FMap.get_set [DecidableEq α] (d v : α) (m : FMap α) (k j : Nat) :
    FMap.get d (FMap.set d m k v) j = if k = j then v else FMap.get d m j := by
  by_cases h : k = j
  · subst h; simp
  · simp [h, FMap.get_set_other d v m h]

/-! ### The canonical form -/

theorem FMap.wf_nil (d : α) : FMap.wf d ([] : FMap α) := by simp [FMap.wf]

theorem FMap.mem_insert {k : Nat} {v : α} {m : FMap α} {e : Nat × α} (h : e ∈ FMap.insert k v m) : e = (k, v) ∨ e ∈ m := by
  induction m with
  | nil => simpa [FMap.insert] using h
  | cons f r ih =>
    obtain ⟨k', v'⟩ := f
    simp only [FMap.insert] at h
    split at h
    · rcases List.mem_cons.1 h with h | h
      · exact .inl h
      · exact .inr h
    · split at h
      · rcases List.mem_cons.1 h with h | h
        · exact .inl h
        · exact .inr (List.mem_cons_of_mem _ h)
      · rcases List.mem_cons.1 h with h | h
        · exact .inr (h ▸ List.mem_cons_self)
        · rcases ih h with h | h
          · exact .inl h
          · exact .inr (List.mem_cons_of_mem _ h)

theorem FMap.wf_insert {d v : α} {m : FMap α} (h : FMap.wf d m) (k : Nat) (hv : v ≠ d) : FMap.wf d (FMap.insert k v m) := by
  refine ⟨?_, fun e he => ?_⟩
  · have hp := h.1
    clear h
    induction m with
    | nil => simp [FMap.insert]
    | cons f r ih =>
      obtain ⟨k', v'⟩ := f
      simp only [FMap.insert]
      have ⟨h1, h2⟩ := List.pairwise_cons.1 hp
      split
      · rename_i hk
        refine List.pairwise_cons.2 ⟨fun e he => ?_, hp⟩
        rcases List.mem_cons.1 he with he | he
        · subst he; exact hk
        · exact Nat.lt_trans hk (h1 e he)
      · split
        · rename_i hk
          subst hk
          exact List.pairwise_cons.2 ⟨h1, h2⟩
        · refine List.pairwise_cons.2 ⟨fun e he => ?_, ih h2⟩
          rcases FMap.mem_insert he with he | he
          · subst he; simp only; omega
          · exact h1 e he
  · rcases FMap.mem_insert he with he | he
    · subst he; exact hv
    · exact h.2 e he

theorem FMap.wf_erase {d : α} {m : FMap α} (h : FMap.wf d m) (k : Nat) : FMap.wf d (FMap.erase k m) :=
  ⟨h.1.filter _, fun e he => h.2 e (List.mem_filter.1 he).1⟩

/-- A write keeps the canonical form. -/
theorem FMap.wf_set [DecidableEq α] {d v : α} {m : FMap α} (h : FMap.wf d m) (k : Nat) : FMap.wf d (FMap.set d m k v) := by
  unfold FMap.set
  split
  · exact FMap.wf_erase h k
  · exact FMap.wf_insert h k (by assumption)

theorem FMap.wf_modify [DecidableEq α] {d : α} {m : FMap α} (h : FMap.wf d m) (k : Nat) (f : α → α) :
    FMap.wf d (FMap.modify d m k f) := FMap.wf_set h k

/-! ### Memory -/

@[simp] theorem Memory.read_write_self (m : Memory) (a : Nat) (b : Byte) : (m.write a b).read a = b := FMap.get_set_self _ _ _ _

theorem Memory.read_write_other (m : Memory) {a c : Nat} (b : Byte) (h : a ≠ c) : (m.write a b).read c = m.read c :=
  FMap.get_set_other _ _ _ h

theorem Memory.read_write (m : Memory) (a c : Nat) (b : Byte) : (m.write a b).read c = if a = c then b else m.read c :=
  FMap.get_set _ _ _ _ _

theorem Memory.wf_write {m : Memory} (h : m.wf) (a : Nat) (b : Byte) : (m.write a b).wf := FMap.wf_set h a

theorem Memory.wf_writeN {m : Memory} (h : m.wf) (a n x : Nat) : (m.writeN a n x).wf := by
  induction n generalizing m a x with
  | zero => exact h
  | succ n ih => exact ih (Memory.wf_write h _ _) _ _

theorem Memory.wf_writeBytes {m : Memory} (h : m.wf) (a : Nat) (bs : List Byte) : (m.writeBytes a bs).wf := by
  induction bs generalizing m a with
  | nil => exact h
  | cons b r ih => exact ih (Memory.wf_write h _ _) _

/-- A store of `n` bytes leaves every byte outside them alone. -/
theorem Memory.read_writeN_other (m : Memory) (a n x c : Nat) (h : c < a ∨ a + n ≤ c) : (m.writeN a n x).read c = m.read c := by
  induction n generalizing m a x with
  | zero => rfl
  | succ n ih =>
    rw [Memory.writeN, ih _ _ _ (by omega), Memory.read_write_other _ _ (by omega)]

theorem Memory.read_writeBytes_other (m : Memory) (a : Nat) (bs : List Byte) (c : Nat) (h : c < a ∨ a + bs.length ≤ c) :
    (m.writeBytes a bs).read c = m.read c := by
  induction bs generalizing m a with
  | nil => rfl
  | cons b r ih =>
    simp only [List.length_cons] at h
    rw [Memory.writeBytes, ih _ _ (by omega), Memory.read_write_other _ _ (by omega)]

/-- Memory right after reset has the canonical form. -/
theorem reset_mem_wf : State.reset.mem.wf := FMap.wf_nil _

end Sys2Proof.Machine
end

