-- ==== Sys2Proof/Tests/Slice0.lean ====
section
/-!
SUPPORT. The model's own tests. First ill-formed instructions and words of the spec; then one instruction at a time on a small
state, with expected values worked out by hand from the rule that each test names; last, for each statement with hypotheses,
states and operands that meet them (`witness_<statement>`).
-/

namespace Sys2Proof.Tests

set_option Elab.async false

open Sys2Proof Sys2Proof.Machine Sys2Proof.Spec

/-! ### Ill-formed instructions (R66) -/

theorem test_wf_noWord : (Instr.windowHalving).defect = some .noWord := by decide
theorem test_wf_maskDestinationK0 : (Instr.icmp 0 0 2 1 2).defect = some .maskDestinationK0 := by decide
theorem test_wf_unassignedFn : (Instr.fadd 0 0 3 1 2 3).defect = some .unassignedFn := by decide
theorem test_wf_unassignedCode : (Instr.fcvt 0 0 0 1 2 0x12).defect = some .unassignedCode ∧ (Instr.fcvt 0 0 0 1 2 0x11).defect = none := by decide
theorem test_wf_oddPair : (Instr.lds2 0 0 5 1 2 0).defect = some .oddPair ∧ (Instr.lds2 0 0 4 1 2 0).defect = none := by decide
theorem test_wf_unassignedAop : (Instr.redg 0 4 1 2 3).defect = some .unassignedAop ∧ (Instr.redg 0 2 1 2 3).defect = none := by decide
theorem test_wf_loopLength : (Instr.loop 0 1 2 3).defect = some .loopLength ∧ (Instr.loop 16 1 2 3).defect = none := by decide
theorem test_wf_unassignedKind : (Instr.bar 1 3 0).defect = some .unassignedKind := by decide
theorem test_wf_barrierId : (Instr.bar 2 0 8).defect = some .barrierId ∧ (Instr.bar 2 0 7).defect = none := by decide
theorem test_wf_unassignedScope : (Instr.fence 7 0).defect = some .unassignedScope := by decide
theorem test_wf_unassignedCondition : (Instr.trap 7 0 1).defect = some .unassignedCondition := by decide
theorem test_wf_reservedSource : (Instr.trap 0 1 1).defect = some .reservedSource := by decide
theorem test_wf_weightSlotRange : (Instr.mm 0 0 1 2 29 0 2).defect = some .weightSlotRange ∧ (Instr.mm 0 0 1 2 28 0 2).defect = none := by decide

/-! ### Words that the spec works out (R50) -/

abbrev reads (w : Word32) (i : Instr) : Prop := (decodeWord w).toOption = some i

theorem test_decode_lane : reads 0x12045187 (.bfxN32 0 0 5 6 7) ∧ reads 0x26051203 (.shifti 0 5 4 2 3) ∧ reads 0x2c063f80 (.movhi 0 6 0x3f80) ∧
  reads 0x18c04146 (.sel 3 0 4 5 6) ∧ reads 0x28420004 (.icmpi 1 2 0 4) ∧ reads 0x2e044080 (.movBroadcast 0 0 4 2) ∧ reads 0x2a060000 (.movi 0 6 0) := by decide
theorem test_decode_float : reads 0x34008246 (.fmul 0 0 0 8 9 6) ∧ reads 0x46004146 (.fdot2 0 0 0 4 5 6) ∧ reads 0x4000920a (.fcvt 0 0 0 9 8 10) ∧
  reads 0x4410a2c1 (.fsfu 0 4 10 11 1) ∧ reads 0x40003000 (.fcvt 0 0 0 3 0 0) := by decide
theorem test_decode_memory : reads 0x68405001 (.ldgs 1 0 5 0 0 1) ∧ reads 0x6a406003 (.stgs 1 6 0 1 1) ∧ reads 0x60403001 (.ldg 1 0 3 0 0 1) ∧
  reads 0x56003019 (.sts 0 3 0 12 1) := by decide
theorem test_decode_uniform : reads 0x8228a2a0 (.sadd 20 20 21) ∧ reads 0x98a00008 (.shi 20 8) ∧ reads 0x9f9a1000 (.smovSpecial 13 2) ∧
  reads 0xb9820300 (.sst 3 1 0 24) ∧ reads 0xa4400006 (.bk 2 0 6) ∧ reads 0xa9000000 .ret ∧ reads 0xb03c0000 (.rget 30) ∧ reads 0xb2000000 .rrel := by decide
theorem test_decode_system : reads 0xdc000000 .tsysNop ∧ reads 0xdc800000 .tsysTret ∧ reads 0xdd28a800 (.tsysTmask 20 21) ∧ reads 0xdd800000 .tsysBkpt ∧
  reads 0xd8000000 .exit ∧ reads 0xda000007 (.trap 0 0 7) ∧ reads 0xfa280040 (.sysr 5 0x40) ∧ reads 0xbc000018 (.fence 6 0) := by decide
theorem test_decode_distance : reads 0xbe280180 (.dist 20 0 12 0) ∧ reads 0xc8000180 (.touch 0 12) ∧ reads 0xc89a0180 (.touchR 13 0 12) ∧
  reads 0xc0aca2a0 (.pinR 22 20 21) ∧ reads 0xd034c800 (.bread 26 25 0) ∧ reads 0xd32a0140 (.bvopWord 21 0 10) := by decide
theorem test_decode_matrix : reads 0xec050a00 (.msetmRow 0 20 10) ∧ reads 0xe6060a18 (.wload 0 24 10 3 0 0) ∧ reads 0xf0068000 (.mwait 26) ∧
  reads 0xe8540a03 (.mstore 1 1 16 10 1 1) ∧ reads 0xf82ec000 (.amax 23 24 0) ∧ reads 0xf2568a00 (.rnsf 1 1 26 10 0) ∧ reads 0xe4064a01 (.mmr 0 0 25 10 0 0 1) := by decide
/-- The bytes of a word are little-endian in memory (R4). -/
theorem test_decode_bytes : (decode [0x0a, 0x45, 0x01, 0x30]).toOption.map (·.1) = some (.fadd 0 0 0 20 20 10) := by decide

/-! ### Small states -/

/-- A ladle that runs on a vector core, with one page of scratchpad. -/
def lad : Ladle := { Ladle.idle with uid := 1, casting := 1, live := true, mayExtend := true, pad := { base := 0, size := 4096, bytes := [], attrs := [], tags := [] } }
def base : State := ({ State.reset with me := lad, nextUid := 2 } : State).setReg 0xb01 0x40000000
/-- The same on the control core: one lane, no scratchpad. -/
def ctl : State :=
  { base with me := { lad with core := 4, sp := { lad.sp with mask := 1 }, pad := { lad.pad with size := 0 } } }

def after {α : Type} (i : Instr) (s : State) (f : State → α) : Option α :=
  match exec i s with
  | .next t => some (f t)
  | _ => none

def withV (s : State) (r : BitVec 6) (f : Nat → Word32) : State :=
  s.mapMe (fun l => { l with v := l.v.set r.toNat (Vector.ofFn (fun j => f j.val)) r.isLt })
def withS (s : State) (r : BitVec 6) (x : Word64) : State := s.mapMe (fun l => l.setS r x)
def withK (s : State) (k : BitVec 3) (x : Word32) : State := s.mapMe (fun l => { l with k := l.k.set k.toNat x k.isLt })
def withMask (s : State) (m : Word32) : State := s.mapMe (fun l => { l with sp := { l.sp with mask := m } })
def lane (t : State) (r : BitVec 6) (j : Nat) : Word32 := laneAt (t.me.getV r) j

/-- v2 and v3 hold two values and v1 a third; the instruction's v1 in lane 0. -/
def lanes2 (x y z : Word32) : State := withV (withV (withV base 2 (fun _ => x)) 3 (fun _ => y)) 1 (fun _ => z)
def v1 (i : Instr) (x y : Word32) (z : Word32 := 7) : Option Word32 := after i (lanes2 x y z) (fun t => lane t 1 0)
/-- s2 and s3 hold two values and s1 a third; the instruction's s1. -/
def s1 (i : Instr) (x y : Word64) (z : Word64 := 7) : Option Word64 :=
  after i (withS (withS (withS base 2 x) 3 y) 1 z) (fun t => t.me.getS 1)

/-! ### Lane instructions (R79 to R105) -/

theorem test_iadd : v1 (.iaddI32 0 0 1 2 3) 0xffffffff 2 = some 1 ∧ v1 (.iaddSatI32 0 0 1 2 3) 0x7fffffff 1 = some 0x7fffffff ∧
  v1 (.iaddSatI32 0 0 1 2 3) 0x80000000 0xffffffff = some 0x80000000 ∧ v1 (.iaddSatN32 0 0 1 2 3) 0xffffffff 1 = some 0xffffffff := by decide
theorem test_isub : v1 (.isubI32 0 0 1 2 3) 0 1 = some 0xffffffff ∧ v1 (.isubSatI32 0 0 1 2 3) 0x80000000 1 = some 0x80000000 ∧
  v1 (.isubSatN32 0 0 1 2 3) 1 2 = some 0 := by decide
theorem test_imul : v1 (.imulLo 0 0 1 2 3) 0x10000 0x10001 = some 0x10000 ∧ v1 (.imulHiI32 0 0 1 2 3) 0xffffffff 2 = some 0xffffffff ∧
  v1 (.imulHiN32 0 0 1 2 3) 0xffffffff 2 = some 1 ∧ v1 (.imad 0 0 1 2 3) 3 5 = some 22 := by decide
theorem test_iminmax : v1 (.iminI32 0 0 1 2 3) 0xffffffff 1 = some 0xffffffff ∧ v1 (.imaxI32 0 0 1 2 3) 0xffffffff 1 = some 1 ∧
  v1 (.iminN32 0 0 1 2 3) 0xffffffff 1 = some 1 ∧ v1 (.imaxN32 0 0 1 2 3) 0xffffffff 1 = some 0xffffffff := by decide
theorem test_logic : v1 (.and 0 0 1 2 3) 12 10 = some 8 ∧ v1 (.or 0 0 1 2 3) 12 10 = some 14 ∧ v1 (.xor 0 0 1 2 3) 12 10 = some 6 ∧
  v1 (.andn 0 0 1 2 3) 12 10 = some 4 := by decide
theorem test_shift : v1 (.shl 0 0 1 2 3) 1 32 = some 0 ∧ v1 (.shr 0 0 1 2 3) 0x80000000 31 = some 1 ∧ v1 (.sha 0 0 1 2 3) 0x80000000 40 = some 0xffffffff ∧
  v1 (.rot 0 0 1 2 3) 0x80000001 33 = some 3 := by decide
theorem test_counts : v1 (.clz 0 0 1 2) 0 0 = some 32 ∧ v1 (.popc 0 0 1 2) 0xff 0 = some 8 ∧ v1 (.brev 0 0 1 2) 1 0 = some 0x80000000 ∧
  v1 (.ffs 0 0 1 2) 8 0 = some 3 ∧ v1 (.ffs 0 0 1 2) 0 0 = some 32 := by decide +kernel
/-- R82's own values. -/
theorem test_bitfields : v1 (.bfxN32 0 0 1 2 3) 0x12345f80 0x804 = some 0xf8 ∧ v1 (.bfxI32 0 0 1 2 3) 0x12345f80 0x804 = some 0xfffffff8 ∧
  v1 (.bfi 0 0 1 2 3) 0x12345f80 0x00ab0804 = some 0x12345ab0 := by decide
theorem test_immediates : v1 (.iaddi 0 1 2 0x3ff) 5 0 = some 4 ∧ v1 (.imuli 0 1 2 0x3fe) 5 0 = some 0xfffffff6 ∧ v1 (.andi 0 1 2 0x3fe) 5 0 = some 4 ∧
  v1 (.ori 0 1 2 0x200) 5 0 = some 0xfffffe05 ∧ v1 (.xori 0 1 2 1) 5 0 = some 4 ∧ v1 (.shifti 0 1 2 2 3) 0x80000000 0 = some 0xf0000000 ∧
  v1 (.movi 0 1 0x8000) 0 0 = some 0x8000 ∧ v1 (.movhi 0 1 0x3fc0) 0 0 0x1234 = some 0x3fc01234 := by decide
theorem test_moves : v1 (.mov 0 0 1 2) 5 0 = some 5 ∧ after (.movBroadcast 0 0 1 9) (withS base 9 0x100000005) (fun t => lane t 1 31) = some 5 ∧
  after (.movFromMask 0 0 1 3) (withK base 3 0x80000000) (fun t => (lane t 1 31, lane t 1 30)) = some (1, 0) := by decide
/-- An inactive lane keeps its value; other registers too (R54). -/
theorem test_predicate : after (.iaddi 3 1 2 1) (withK (lanes2 4 0 9) 3 2) (fun t => (lane t 1 0, lane t 1 1, lane t 2 1)) = some (9, 5, 4) := by decide
/-- A comparison writes the bits of its split alone (R83, R86). -/
theorem test_compare : after (.icmp 1 0 2 2 3) (withK (withMask (lanes2 0xffffffff 1 0) 3) 1 0xf0) (fun t => t.me.getK 1) = some 0xf3 ∧
  after (.icmpn 1 0 0 2 3) (withK (withMask (lanes2 0xffffffff 1 0) 3) 1 0xff) (fun t => t.me.getK 1) = some 0xfc ∧
  after (.icmpi 1 7 2 0x3ff) (lanes2 5 0 0) (fun t => t.me.getK 1) = some 0 ∧ after (.icmpi 1 4 2 0x3ff) (lanes2 5 0 0) (fun t => t.me.getK 1) = some 0xffffffff := by decide
theorem test_masks : let s := withK (withK (withMask base 0xff) 1 0x3c) 3 0xf0f
  after (.kxor 2 0 1 0) s (fun t => t.me.getK 2) = some 0xc3 ∧ after (.kand 2 0 1 3) s (fun t => t.me.getK 2) = some 0x0c ∧
  after (.kor 2 0 1 3) s (fun t => t.me.getK 2) = some 0x3f ∧ after (.kandn 2 0 1 3) s (fun t => t.me.getK 2) = some 0x30 := by decide
theorem test_sel : after (.sel 3 0 1 2 3) (withK (lanes2 5 6 0) 3 1) (fun t => (lane t 1 0, lane t 1 1)) = some (5, 6) := by decide
/-- 1 + 1, 1 - 1, 3 · 2, 2 · 3 ± 1 (R90). -/
theorem test_float_exact : v1 (.fadd 0 0 0 1 2 3) 0x3f800000 0x3f800000 = some 0x40000000 ∧ v1 (.fsub 0 0 0 1 2 3) 0x3f800000 0x3f800000 = some 0 ∧
  v1 (.fmul 0 0 0 1 2 3) 0x40400000 0x40000000 = some 0x40c00000 ∧ v1 (.ffma 0 0 0 1 2 3) 0x40000000 0x40400000 0x3f800000 = some 0x40e00000 ∧
  v1 (.ffms 0 0 0 1 2 3) 0x40000000 0x40400000 0x3f800000 = some 0x40a00000 := by decide
/-- 2^24 + 1 rounds to even and sets NX; with NX enabled it has no effect and traps with class 3 (R76, R158). -/
theorem test_float_inexact : let s := lanes2 0x4b800000 0x3f800000 7
  after (.fadd 0 0 0 1 2 3) s (fun t => (lane t 1 0, t.me.fmode)) = some (0x4b800000, 0x10000) ∧
  after (.fadd 0 0 0 1 2 3) (s.mapMe (fun l => { l with fmode := 0x100, tvec := 0x1000 })) (fun t => (lane t 1 0, t.me.sp.pc, t.me.tcause)) =
    some (7, 0x1000, 0x8300000000000001) := by decide
theorem test_float_select : v1 (.fmin 0 0 1 2 3) 0x80000000 0 = some 0x80000000 ∧ v1 (.fmax 0 0 1 2 3) 0x80000000 0 = some 0 ∧
  v1 (.fmin 0 0 1 2 3) 0x7fc00000 0x3f800000 = some 0x7fc00000 ∧ v1 (.fminnum 0 0 1 2 3) 0x7fc00000 0x3f800000 = some 0x3f800000 ∧
  v1 (.fmaxnum 0 0 1 2 3) 0x3f800000 0x40000000 = some 0x40000000 := by decide
theorem test_float_bits : v1 (.fabs 0 0 1 2) 0xff800001 0 = some 0x7f800001 ∧ v1 (.fneg 0 0 1 2) 0x7f800001 0 = some 0xff800001 ∧
  v1 (.fcopysign 0 0 1 2 3) 0x3f800000 0x80000000 = some 0xbf800000 ∧ v1 (.fclass 0 0 1 2) 0x7f800000 0 = some 0x80 ∧
  v1 (.fclass 0 0 1 2) 0x00000001 0 = some 0x20 := by decide
theorem test_fcmp : after (.fcmp 1 0 1 2 3) (lanes2 0x3f800000 0x40000000 0) (fun t => t.me.getK 1) = some 0xffffffff ∧
  after (.fcmp 1 0 1 2 3) (lanes2 0x7fc00000 0x40000000 0) (fun t => t.me.getK 1) = some 0 := by decide
/-- 5 to F32; 2.5 to the nearest even integer, in F32 (R95, R96). -/
theorem test_fconvert : v1 (.fcvt 0 0 0 1 2 0) 5 0 = some 0x40a00000 ∧ v1 (.frnd 0 0 0 1 2) 0x40200000 0 = some 0x40000000 := by decide
/-- 1 · 3 + 2 · 4 in BF16, (R94). -/
theorem test_fdot2 : v1 (.fdot2 0 0 0 1 2 3) 0x40003f80 0x40804040 0x3f800000 = some 0x41300000 := by decide
theorem test_fsfu : v1 (.fsfu 0 0 1 2 0) 0x80000000 0 = some 0xff800000 ∧ v1 (.fsfu 0 0 1 2 2) 0x40800000 0 = some 0x40000000 ∧
  v1 (.fsfu 0 0 1 2 4) 0x41000000 0 = some 0x40400000 := by decide +kernel
/-- The worked reduction of R101: the tree gives 16,777,218.0, where the sum from the left would lose it. -/
theorem test_lred : after (.lred 0 0 6 3 1) (withV base 3 (fun j => if j = 0 then 0x4b800000 else if j = 2 ∨ j = 3 then 0x3f800000 else 0))
  (fun t => (lane t 6 0, lane t 6 31, t.me.fmode)) = some (0x4b800001, 0x4b800001, 0) := by decide
/-- The worked scan of R102: lane j takes j(j+1)/2 up to 8, then 36. -/
theorem test_lscan : after (.lscan 0 0 7 2 1 0) (withV base 2 (fun j => if j < 8 then BitVec.ofNat 32 (j + 1) else 0))
  (fun t => (lane t 7 0, lane t 7 3, lane t 7 8, lane t 7 31)) = some (0, 6, 36, 36) := by decide
/-- The worked exchange of R100, into its own source. -/
theorem test_lshf : after (.lshf 0 0 3 3 3 9) (withV (withV base 3 (fun j => BitVec.ofNat 32 j)) 9 (fun _ => 1)) (fun t => (lane t 3 0, lane t 3 31)) =
  some (1, 30) := by decide
theorem test_vote : let s := withMask (withV base 3 (fun j => if j = 1 then 1 else 0)) 3
  after (.vote 2 0 1 3) s (fun t => t.me.getK 2) = some 3 ∧ after (.vote 2 0 0 3) s (fun t => t.me.getK 2) = some 0 ∧
  after (.vote 2 0 2 3) s (fun t => t.me.getK 2) = some 0 := by decide
/-- A lane word on the control core is an illegal instruction (R49). -/
theorem test_lane_on_control : after (.iaddI32 0 0 1 2 3) ctl (fun t => (t.faults.map (·.cause), t.me.stopped)) = some ([.illegal], true) := by decide

/-! ### Uniform instructions, branches, traps, waits (R108 to R130, R155 to R164, R345 to R351, R396 to R403) -/

theorem test_sadd : s1 (.sadd 1 2 3) (-1) 2 = some 1 ∧ s1 (.saddSatI64 1 2 3) 0x7fffffffffffffff 1 = some 0x7fffffffffffffff ∧
  s1 (.saddSatN64 1 2 3) (-1) 1 = some (-1) ∧ s1 (.ssub 1 2 3) 0 1 = some (-1) ∧ s1 (.ssubSatI64 1 2 3) 0x8000000000000000 1 = some 0x8000000000000000 ∧
  s1 (.ssubSatN64 1 2 3) 1 2 = some 0 := by decide
theorem test_smul : s1 (.smulLo 1 2 3) 0x100000000 0x100000001 = some 0x100000000 ∧ s1 (.smulHiI64 1 2 3) (-1) 2 = some (-1) ∧ s1 (.smulHiN64 1 2 3) (-1) 2 = some 1 := by decide
theorem test_slogic : s1 (.sand 1 2 3) 12 10 = some 8 ∧ s1 (.sor 1 2 3) 12 10 = some 14 ∧ s1 (.sxor 1 2 3) 12 10 = some 6 ∧ s1 (.sandn 1 2 3) 12 10 = some 4 := by decide
theorem test_sshift : s1 (.sshl 1 2 3) 1 64 = some 0 ∧ s1 (.sshr 1 2 3) 0x8000000000000000 63 = some 1 ∧ s1 (.ssha 1 2 3) 0x8000000000000000 99 = some (-1) ∧
  s1 (.srot 1 2 3) 0x8000000000000001 65 = some 3 := by decide
theorem test_sminmax : s1 (.sminI64 1 2 3) (-1) 1 = some (-1) ∧ s1 (.smaxI64 1 2 3) (-1) 1 = some 1 ∧ s1 (.sminN64 1 2 3) (-1) 1 = some 1 ∧
  s1 (.smaxN64 1 2 3) (-1) 1 = some (-1) := by decide
theorem test_scmp : s1 (.scmp 2 1 2 3) (-1) 1 = some 1 ∧ s1 (.scmp 3 1 2 3) (-1) 1 = some 0 ∧ s1 (.ssel 1 2 3) 5 6 0 = some 6 ∧ s1 (.ssel 1 2 3) 5 6 9 = some 5 := by decide
theorem test_scount : s1 (.sclz 1 2) 1 0 = some 63 ∧ s1 (.spopc 1 2) 0xff 0 = some 8 ∧ s1 (.sbrev 1 2) 1 0 = some 0x8000000000000000 ∧
  s1 (.sffs 1 2) 0 0 = some 64 := by decide +kernel
/-- R109's constant, from its three words. -/
theorem test_simm : s1 (.saddi 1 2 0x1fff) 5 0 = some 4 ∧ s1 (.sli 1 0x800) 0 0 = some 0x800 ∧ s1 (.shi 1 8) 0 0 0x800 = some 0x1000008 ∧
  s1 (.sandi 1 2 0x1ffe) 5 0 = some 4 ∧ s1 (.sshifti 1 2 1 4) 0x50 0 = some 5 := by decide
theorem test_smov : s1 (.smov 1 2) 5 0 = some 5 ∧ after (.smovFromMask 1 3) (withMask (withK base 3 0xf0f) 0xf) (fun t => t.me.getS 1) = some 0xf0f ∧
  after (.smovToMask 3 2) (withS (withMask (withK base 3 0xff00) 0xff) 2 0x5a5a) (fun t => t.me.getK 3) = some 0xff5a := by decide
theorem test_special : let s := base.mapMe (fun l => { l with rank := 6, cluster := 40, core := 2, wid := 64 })
  after (.smovSpecial 1 2) s (fun t => t.me.getS 1) = some 6 ∧ after (.smovSpecial 1 5) s (fun t => t.me.getS 1) = some 1 ∧
  after (.smovSpecial 1 0) (withMask s 0xf0) (fun t => t.me.getS 1) = some 68 ∧ after (.smovSpecial 1 16) s (fun t => t.me.stopped) = some true := by decide
theorem test_sysr : after (.sysr 1 0x40) (base.mapMe (fun l => { l with part := 5 })) (fun t => t.me.getS 1) = some 5 ∧
  after (.sysr 1 0x480) base (fun t => t.me.getS 1) = some 0x6e69645f ∧ after (.sysr 1 0x800) base (fun t => t.me.stopped) = some true := by decide
theorem test_sysw : after (.sysw 1 2 0x0c) (withS base 2 0x1003) (fun t => (t.me.tvec, t.me.getS 1)) = some (0x1002, 0) := by decide
theorem test_branches : let s := base.mapMe (fun l => { l with sp := { l.sp with pc := 0x100 } })
  after (.b 0x1fffff) s (fun t => t.me.sp.pc) = some 0xfc ∧ after (.bs 2 0 4) s (fun t => t.me.sp.pc) = some 0x110 ∧
  after (.bs 2 1 4) s (fun t => t.me.sp.pc) = some 0x104 ∧ after (.call 2) s (fun t => (t.me.sp.pc, t.me.getS 63)) = some (0x108, 0x104) ∧
  after (.calli 63) (withS s 63 0x40) (fun t => (t.me.sp.pc, t.me.getS 63)) = some (0x40, 0x104) ∧ after .ret (withS s 63 0x40) (fun t => t.me.sp.pc) = some 0x40 ∧
  after (.jmp 5) (withS s 5 0x42) (fun t => (t.me.sp.pc, t.me.stopped)) = some (0x100, true) := by decide
/-- R119's table: the split holds lanes 0 to 7. -/
theorem test_bk : let s := withK (withMask base 0xff) 2 0xf
  after (.bk 2 0 6) s (fun t => (t.me.sp.mask, t.me.sp.pc, t.me.splits.map (fun x => (x.mask, x.pc)))) = some (0xf0, 4, [(0xf, 0x18)]) ∧
  after (.bk 2 1 6) s (fun t => (t.me.sp.mask, t.me.sp.pc)) = some (0xff, 4) ∧ after (.bk 2 2 6) s (fun t => (t.me.sp.mask, t.me.sp.pc)) = some (0xff, 0x18) ∧
  after (.bk 2 3 6) (withK s 2 0xff00) (fun t => (t.me.sp.mask, t.me.sp.pc)) = some (0xff, 0x18) := by decide
/-- A loop of no passes goes past its body; 2^48 passes are illegal (R122). -/
theorem test_loop : after (.loop 3 1 2 3) base (fun t => t.me.sp.pc) = some 0x10 ∧
  after (.loop 3 1 2 3) (withS base 1 0x1000000000000) (fun t => t.me.stopped) = some true := by decide
theorem test_trap : let s := (withS base 1 100).mapMe (fun l => { l with tvec := 0x2000, sp := { l.sp with pc := 0x40 } })
  after (.trap 6 1 100) s (fun t => (t.me.sp.pc, t.me.tpc, t.me.tcause)) = some (0x2000, 0x40, 0x8100000000000064) ∧
  after (.trap 5 1 100) s (fun t => t.me.sp.pc) = some 0x44 ∧ after .tsysBkpt s (fun t => (t.me.sp.pc, t.me.tcause)) = some (0x2000, 0x8200000000000000) ∧
  after (.trap 0 0 7) base (fun t => (t.faults.map (·.cause), t.me.stopped)) = some ([.unhandledTrap], true) := by decide
theorem test_tsys : let s := base.mapMe (fun l => { l with tcause := 0x8100000000000007, tpc := 0x80, handlerActive := true, permit := true, sp := { l.sp with pc := 0x2000, handler := true } })
  after .tsysTret s (fun t => (t.me.sp.pc, t.me.tcause, t.me.permit, t.me.handlerActive)) = some (0x80, 0x0100000000000007, false, false) ∧
  after .tsysTret base (fun t => t.me.stopped) = some true ∧ after .tsysNop s (fun t => t.me.sp.pc) = some 0x2004 ∧
  after (.tsysTmask 1 2) s (fun t => (t.me.getS 1, t.me.tcause)) = some (1, 0x0100000000000007) := by decide
/-- An arrival of the only ladle of a casting ends the phase; a second kind-1 arrival goes on as well (R126). -/
theorem test_bar : after (.bar 1 1 5) base (fun t => (t.me.sp.pc, (t.barrier 1 5 1).completed, t.me.arrivals)) = some (4, 1, 1) ∧
  after (.bar 3 0 0) base (fun t => t.me.stopped) = some true := by decide
theorem test_rget : after (.rget 30) base (fun t => (t.me.getS 30, t.me.ext)) = some (1, true) ∧
  after .rrel (base.mapMe (fun l => { l with ext := true })) (fun t => t.me.ext) = some false ∧ after (.rget 30) ctl (fun t => t.me.stopped) = some true := by decide +kernel
theorem test_exit : after .exit base (fun t => t.me.live) = some false ∧ after .exitAbort base (fun t => t.faults.map (·.cause)) = some [.abort] := by decide
theorem test_fence : after (.fence 3 2) base (fun t => (t.me.sp.pc, t.me.sp.blocked)) = some (4, .ready) := by decide
/-- A word of the ladle's own scratchpad that is not zero ends a `waita` at once; a zero one blocks it (R397). -/
theorem test_waita : let s := withS base 2 8
  after (.waita 0 1 2 0) (s.mapMe (fun l => { l with pad := { l.pad with bytes := [(8, 5)] } })) (fun t => (t.me.getS 1, t.me.sp.blocked)) = some (5, .ready) ∧
  after (.waita 0 1 2 0) s (fun t => t.me.sp.blocked) = some (.waitaPad 1 8 none 1) ∧ after (.waita 0 1 2 0) (withS base 2 4096) (fun t => t.faults.map (·.cause)) = some [.padBound] := by decide
theorem test_spawn : after (.spawn 1 2 3) (withS base 1 9) (fun t => t.me.getS 1) = some 0 ∧ after (.spawn 1 2 3) (withS base 2 8) (fun t => t.faults.map (·.cause)) = some [.alignment] := by decide
theorem test_bvop : let s := base.mapMe (fun l => { l with bv := (l.bv.set 1 (BitVec.ofNat 256 (2 ^ 200 + 5))).set 2 4 })
  after (.bvopTest 3 1 4) (withS s 4 200) (fun t => t.me.getS 3) = some 1 ∧ after (.bvopCount 3 1) s (fun t => t.me.getS 3) = some 3 ∧
  after (.bvopWord 3 1 4) (withS s 4 3) (fun t => t.me.getS 3) = some 0x100 ∧ after (.bvopAnd 0 1 2) s (fun t => t.me.bv[0]) = some 4 := by decide +kernel
/-- A board of one slot: the first post fills it, the second finds it already there, one two levels on is late (R348). -/
theorem test_board_post : let b : Board := { members := 1, level := 0, mask := 0, values := [], assigned := true, owner := 0 }
  (b.post 0 0 9).2 = 2 ∧ ((b.post 0 0 9).1.post 0 0 9).2 = 3 ∧ ((b.post 0 0 9).1.post 0 1 9).2 = 2 ∧ (b.post 0 1 9).2 = 4 ∧ (b.post 0 2 9).2 = 6 ∧
  (b.post 0 0xffffffff 9).2 = 5 := by decide

/-! ### Memory (R131 to R148, R179 to R191, R375 to R398) -/

/-- A casting of a graph of one mould, which declares the 4,096 bytes from 0x10000. -/
def mould1 : Mould :=
  { code := 0x1000, count := 1, args := 0, scratch := 4096, restartable := true, gang := false, check := 0, extended := false, pack := false, control := false, ladles := 1, w1 := 0, w2 := 0, reads := [], writes := [{ mult := 0, lenArg := 0, la := false, baseArg := 0, ba := false, base := 0x10000, stride := 0, len := 4096 }], board := 0, package := 0, watchdog := 0, rank := 0, members := 0 }
def graph1 : Graph :=
  { uid := 1, part := 0, image := 0x800, moulds := [mould1], edges := [], policy := 0, args := Vector.replicate 8 0, priority := 0, completion := 0, value := 7, ci := false, vector := 0, function := 1, link := 0, privileged := false, runs := [(0, { ready := true, since := 0, clock := 0, next := 1, committed := 0 })], dead := false, lost := [] }
def cast1 : Casting :=
  { uid := 1, part := 0, graph := 1, mould := 0, index := 0, dispatchNo := 0, placedAt := 0, state := .resident, cluster := 0, placement := 0, unversioned := false, scratchSlices := [], spawns := [], relaunches := 0, avoid := none, readyAt := 0, readyClock := 0, reservation := [], commitNo := 0, awaited := [], fault := none, suspension := none, preempt := none, along := false, started := false, saveSlot := none, mxsBlock := none, saved := [], savedMatrix := none, savedChains := [], resend := [], retired := none }
/-- The first 2^30 bytes of virtual memory are HBM of die 0, at the same addresses. -/
def page0 : TlbEntry := { cluster := 0, part := 0, base := 0, log := 30, pa := 0, fmt := 0, rpl := false, x := true, w := true, r := true }
def glob : State := { base with tlb := [page0], graphs := [graph1], castings := [cast1] }
/-- Its bytes at 0x10000 hold 1, 2, 3, 4 and its version frame of that tile is reserved. -/
def glob2 : State :=
  { glob with mem := glob.mem.writeBytes 0x10000 [1, 2, 3, 4], slices := [(glob.homeOf 0x10000, { (glob.sliceOf 0) with frames := [{ casting := 1, tile := 0x100, bytes := [], declared := BitVec.allOnes 256, tags := [] }] })] }

def lane0 (f : State → State) : State := f (withS (withMask glob2 1) 5 0x10000)
def read0 (t : State) : Word32 := t.mem.read32 0x10000

/-- Lane j stores j at byte 4j; the load of the same addresses reads it back; outside the allocation it faults (R132, R140). -/
theorem test_scratchpad : let s := withV base 2 (fun j => BitVec.ofNat 32 j)
  after (.sts 0 2 2 5 1) s (fun t => (t.me.pad.bytes.read32 124, t.me.pad.bytes.read32 0)) = some (31, 0) ∧
  after (.lds 0 0 1 2 5 1) (s.mapMe (fun l => { l with pad := { l.pad with bytes := [(124, 9)] } })) (fun t => (lane t 1 31, lane t 1 30)) = some (9, 0) ∧
  after (.sts 0 2 2 5 1) (withS s 5 3980) (fun t => (t.faults.map (·.cause), t.me.pad.bytes)) = some ([.padBound], []) := by decide +kernel
theorem test_scratchpad_pairs : let s := withV (withV (withMask base 1) 2 (fun _ => 0x11111111)) 3 (fun _ => 0x22222222)
  after (.sts2 0 2 4 5 0) s (fun t => t.me.pad.bytes.read64 0) = some 0x2222222211111111 ∧
  after (.lds2 0 0 6 4 5 0) (s.mapMe (fun l => { l with pad := { l.pad with bytes := [(0, 1), (4, 2)] } })) (fun t => (lane t 6 0, lane t 7 0)) = some (1, 2) := by decide +kernel
theorem test_scratchpad_uniform : let s := (withS base 2 8).mapMe (fun l => { l with pad := { l.pad with bytes := [(8, 5), (12, 6)] } })
  after (.sld 0 1 2 0 0) s (fun t => t.me.getS 1) = some 5 ∧ after (.sld 1 1 2 0 0) s (fun t => t.me.getS 1) = some 0x600000005 ∧
  after (.sst 0 3 2 0) (withS s 3 0x1234567890) (fun t => t.me.pad.bytes.read64 8) = some 0x634567890 ∧
  after (.spattr 2 3) (withS s 3 0x105) (fun t => FMap.get 0 t.me.pad.attrs 0) = some 0x105 := by decide +kernel
/-- Element words on raw pages act on 32-bit elements: the offset counts elements (R140). -/
theorem test_scratchpad_elements : let s := withV (withV (withMask base 1) 2 (fun _ => 3)) 1 (fun _ => 0x77)
  after (.stsf 0 1 2 5 1) s (fun t => t.me.pad.bytes.read32 12) = some 0x77 ∧
  after (.ldsf 0 0 1 2 5 1) (s.mapMe (fun l => { l with pad := { l.pad with bytes := [(12, 9)] } })) (fun t => lane t 1 0) = some 9 := by decide +kernel
/-- A control ladle reaches the scratchpad of rank 0 of its casting through a selector (R135). -/
theorem test_peer : let s := withS (withMask ({ base with rest := [{ lad with uid := 2, pad := { lad.pad with bytes := [(8, 9)] } }] }.mapMe (fun l => { l with rank := 1 })) 1) 5 0x8000000000000008
  after (.ldp 0 0 1 2 5 0) s (fun t => (lane t 1 0, t.faults.map (·.cause))) = some (0, [.address]) ∧
  after (.ldp 0 0 1 2 5 0) (withS s 5 8) (fun t => (lane t 1 0, t.faults.map (·.cause))) = some (9, []) ∧
  after (.stp 0 2 2 5 0) (withS s 5 8) (fun t => t.rest.map (fun l => l.pad.bytes.read32 8)) = some [0] := by decide +kernel
theorem test_global_load : after (.ldg 0 0 1 2 5 0) (lane0 id) (fun t => lane t 1 0) = some 0x04030201 ∧
  after (.ldg2 0 0 2 4 5 0) (lane0 id) (fun t => (lane t 2 0, lane t 3 0)) = some (0x04030201, 0) ∧
  after (.ldgs 0 0 1 2 5 0) (lane0 id) (fun t => lane t 1 0) = some 0x04030201 ∧
  after (.ldgs 0 0 1 2 5 0) (withS (lane0 id) 5 0x10002) (fun t => t.faults.map (·.cause)) = some [.alignment] ∧
  after (.sld 2 1 5 6 0) (lane0 id) (fun t => t.me.getS 1) = some 0x04030201 := by decide +kernel
/-- A plain store goes to the casting's version and leaves committed memory; outside the declared ranges it is a fault (R143, R208). -/
theorem test_global_store : let s := withV (withV (lane0 id) 2 (fun _ => 0x55667788)) 3 (fun _ => 0x99)
  after (.stg 0 2 4 5 0) s (fun t => (read0 t, t.versionByte 0 1 0x10003)) = some (0x04030201, some 0x55) ∧
  after (.stg2 0 2 4 5 0) s (fun t => (read0 t, t.versionByte 0 1 0x10004)) = some (0x04030201, some 0x99) ∧
  after (.sst 2 1 5 6) (withS s 1 0xaa) (fun t => (read0 t, t.versionByte 0 1 0x10000)) = some (0x04030201, some 0xaa) ∧
  after (.stg 0 2 4 5 0) (withS s 5 0x20000) (fun t => (read0 t, t.faults.map (·.cause))) = some (0x04030201, [.undeclaredWrite]) := by decide +kernel
/-- Synchronising accesses act on committed memory at once (R145, R389). -/
theorem test_global_sync : let s := withV (withV (lane0 id) 2 (fun _ => 0x10)) 3 (fun _ => 0x99)
  after (.stgs 0 2 4 5 0) s read0 = some 0x10 ∧ after (.atom 0 0 0 2 4 5) s (fun t => (lane t 2 0, read0 t)) = some (0x04030201, 0x04030211) ∧
  after (.atom 0 0 7 2 4 5) (withV s 2 (fun _ => 0x04030201)) (fun t => (lane t 2 0, read0 t)) = some (0x04030201, 0x99) ∧
  after (.atomb 0 0 3 2 4 5) s (fun t => (lane t 2 0, read0 t)) = some (0x04030201, 0) ∧
  after (.atoms 0 0 0 2 4 5) (withS (s.mapMe (fun l => { l with pad := { l.pad with bytes := [(0, 5)] } })) 5 0) (fun t => (lane t 2 0, t.me.pad.bytes.read32 0)) = some (5, 0x15) := by decide +kernel
/-- Contribution 0 is applied, contribution 2 waits for 1, and one that has passed is a memory-order fault (R394). -/
theorem test_redg : let s := withV (lane0 id) 2 (fun _ => 1)
  after (.redg 0 2 2 4 5) s (fun t => (read0 t, FMap.get 0 (t.sliceOf 0).cursors 0x10000)) = some (0x04030202, 2) ∧
  after (.redg 0 2 2 4 5) (withS s 13 2) (fun t => (read0 t, (t.sliceOf 0).buffer.map (·.seq))) = some (0x04030201, [2]) ∧
  after (.redg 0 2 2 4 5) (withS s 13 0x80000000) (fun t => (read0 t, FMap.get 0 (t.sliceOf 0).cursors 0x10000)) = some (0x04030202, 0) := by decide +kernel
theorem test_distance : let s := lane0 id
  after (.dist 1 5 6 0) s (fun t => t.me.getS 1) = some 0x8000000000000000 ∧ after (.touch 5 6) s (fun t => (t.sliceOf 0).chain) = some [0x100] ∧
  after (.touchR 7 5 6) (withS s 7 3) (fun t => ((List.range 64).map (fun n => (t.sliceOf n).chain.length)).sum) = some 3 ∧
  after (.distH 1 5 6 0) (s.modSlice 0 (fun x => { x with chain := [9, 0x100] })) (fun t => t.me.getS 1) = some 1 ∧
  after (.pin 5 6) s (fun t => t.faults.map (·.cause)) = some [.pinQuota] ∧
  after (.unpin 5 6) (s.modSlice 0 (fun x => { x with pins := [(0x100, 0)] })) (fun t => ((t.sliceOf 0).pins, (t.sliceOf 0).chain)) = some ([], [0x100]) ∧
  after (.touchg 0 4 5 0) s (fun t => (t.sliceOf 0).chain) = some [0x100] := by decide +kernel
/-- A range past the end of the address space is an address fault (R215). -/
theorem test_range : after (.pinR 7 5 6) (withS (withS (lane0 id) 5 0x1ffffffffffff00) 7 2) (fun t => t.faults.map (·.cause)) = some [.address] := by decide +kernel

/-! ### Matrix words, copy chains (R234, R270, R278 to R305) -/

def entryOf (i : Instr) (x y : Word64) (started : Bool) (steps : Nat) : QEntry :=
  { instr := i, addr := 0, src1 := x, src2 := y, pc := 0x40, batch := 1, started := started, steps := steps, after := 0 }
/-- A control ladle of casting 1 whose cluster's queue holds one word. -/
def queued (e : QEntry) : State := { glob with me := { ctl.me with uid := 1 } }.modMat 0 (fun m => { m with queue := [e] })

theorem test_matrix_issue : after (.mmz 3) ctl (fun t => (t.me.sp.pc, (t.mat 0).queue.map (·.instr))) = some (4, [.mmz 3]) ∧
  after (.mmz 3) base (fun t => t.faults.map (·.cause)) = some [.illegal] ∧
  after (.msetmRow 1 2 3) (withS ctl 2 5) (fun t => (t.mat 0).queue.map (·.src1)) = some [5] ∧
  after (.wload 0 2 3 4 0 0) (withS ctl 3 0x40) (fun t => (t.mat 0).queue.map (·.addr)) = some [0x40] := by decide +kernel
theorem test_mbatch : after (.mbatch 26) ctl (fun t => (t.me.getS 26, (t.mat 0).closed)) = some (1, 1) ∧
  after (.mwait 26) (withS ctl 26 1) (fun t => t.faults.map (·.cause)) = some [.illegal] ∧ after (.mwait 26) ctl (fun t => t.me.sp.pc) = some 4 ∧
  after (.mwait 26) (withS (ctl.modMat 0 (fun m => { m with closed := 1 })) 26 1) (fun t => t.me.sp.blocked) = some (.mwait 1) := by decide +kernel
theorem test_amax : let s := { withS base 2 5 with amax := [(5, 0x40000000)] }
  after (.amax 1 2 0) s (fun t => (t.me.getS 1, FMap.get 0 t.amax 5)) = some (0x40000000, 0x40000000) ∧
  after (.amaxClr 1 2 0) s (fun t => (t.me.getS 1, FMap.get 0 t.amax 5)) = some (0x40000000, 0) ∧
  after (.amax 1 2 0) (withS s 2 128) (fun t => t.faults.map (·.cause)) = some [.address] := by decide +kernel
theorem test_matrix_masks : after (.matrixWordStart 0) (queued (entryOf (.msetmRow 1 2 3) 0xf0 1 false 0)) (fun t => (t.mat 0).my[1]) = some 0x100000000000000f0 ∧
  after (.matrixWordStart 0) (queued (entryOf (.msetmDepth 2 3) 7 0 false 0)) (fun t => (t.mat 0).md[2]) = some 7 := by decide +kernel
theorem test_matrix_complete : after (.matrixWordComplete 0) (queued (entryOf (.msetmRow 1 2 3) 0xf0 1 true 0)) (fun t => (t.mat 0).queue.length) = some 0 ∧
  after (.batchComplete 0) ((queued (entryOf (.mmz 0) 0 0 true 1)).modMat 0 (fun m => { m with queue := [], closed := 1 })) (fun t => (t.mat 0).completed) = some 1 := by decide +kernel
/-- 1,219,200 and its residues (R321's worked element); with channel 3 wrong it is corrected (R318). -/
theorem test_residues : classify 0 (fun c => [61, 144, 4, 210, 93, 222].getD c 0) = .value 1219200 ∧
  classify 0 (fun c => [61, 144, 4, 0, 93, 222].getD c 0) = .corrected 3 1219200 ∧
  classify 0b001000 (fun c => [61, 144, 4, 0, 93, 222].getD c 0) = .value 1219200 := by decide +kernel
theorem test_chain : after (.chain 2) (withS base 2 0x40) (fun t => (t.chainList 0).map (fun c => (c.start, c.source))) = some [(0x40, 1)] ∧
  after (.chain 2) (withS base 2 0x48) (fun t => t.faults.map (·.cause)) = some [.alignment] ∧
  after (.chain 2) (withS base 2 0x1000) (fun t => t.faults.map (·.cause)) = some [.padBound] ∧
  after (.chainq 1 2 0) (withS base 2 0x40) (fun t => t.me.getS 1) = some 0x800000000 := by decide +kernel
/-- A chain whose entry, of the given words, stands at byte 0 of the ladle's own scratchpad. -/
def chained (w0 w1 w2 w3 : Word64) : State :=
  let bytes := [w0, w1, w2, w3].flatMap (fun w => (List.range 8).map (fun i => BitVec.ofNat 8 (w.toNat / 256 ^ i)))
  let s := { glob with me := { glob.me with pad := { glob.me.pad with bytes := Memory.writeBytes [] 0 bytes } } }
  { s with chains := [(0, [{ source := 1, start := 0, off := 0, pass := 0, loop := none, srcStride := 0, dstStride := 0, entry := [], after := 0, progress := 0, waiting := false, who := s.me.who }])] }
theorem test_chain_control : after (.endEntry 0 0) (chained 0 0 0 0) (fun t => t.chains) = some [] ∧
  after (.signalEntry 0 0) (chained 3 0x100 7 0) (fun t => (t.me.pad.bytes.read32 0x100, (t.chainList 0).map (·.off))) = some (7, [32]) ∧
  after (.condEntry 0 0) (chained 0x20005 0x100 7 0) (fun t => (t.chainList 0).map (·.off)) = some [96] ∧
  after (.condEntry 0 0) (chained 0x20105 0x100 7 0) (fun t => (t.chainList 0).map (·.off)) = some [32] ∧
  after (.waitwEntry 0 0) (chained 7 0x100 7 0) (fun t => (t.chainList 0).map (fun c => (c.off, c.waiting))) = some [(0, true)] ∧
  after (.loopEntry 0 0) ((chained 0 0 0 0).setChain 0 0 { (Chain.begin_ glob.me 1 0 0 0) with off := 32, entry := [0x104, 2, 4, 8] })
    (fun t => (t.chainList 0).map (fun c => (c.off, c.pass, c.srcStride))) = some [(0, 1, 4)] := by decide +kernel
/-- A COPY of 4 bytes inside the allocation moves them in one transfer; its entry then ends (R278). -/
theorem test_chain_copy : after (.chainTransfer 0 0) (chained 0x401 0 0x200 3) (fun t => (t.me.pad.bytes.read32 0x200, (t.chainList 0).map (·.progress))) = some (0x401, [4]) ∧
  after (.copyEntry 0 0) ((chained 0x401 0 0x200 3).setChain 0 0 { (Chain.begin_ glob.me 1 0 0 0) with entry := [0x401, 0, 0x200, 3], progress := 4 })
    (fun t => (t.chainList 0).map (·.off)) = some [32] := by decide +kernel

/-! ### Events (R38, R157 to R176, R181 to R232, R338 to R372, R405 to R431) -/

def blocked (s : State) (b : Blocked) : State := s.mapMe (fun l => { l with sp := { l.sp with blocked := b } })
def mods (s : State) (f : Slice → Slice) : State := s.modSlice 0 f
def caused (t : State) : List Cause := t.faults.map (·.cause)
def stateOf (t : State) (u : Nat) : List CastState := (t.castings.filter (fun c => c.uid == u)).map (·.state)
def casts (s : State) (f : Casting → Casting) : State := { s with castings := s.castings.map f }

theorem test_ladle_events : after (.trapPermitRetry 1) (blocked base (.backoff 64)) (fun t => t.me.sp.blocked) = some .ready ∧
  after (.handlerDeferralExpiry 1) (base.mapMe (fun l => { l with deferred := true, handlerIssued := 8192 })) (fun t => t.me.stopped) = some true ∧
  after (.rgetGrant 0) { blocked base (.rget 30) with rgetQueue := [(0, [(1, 30)])] } (fun t => (t.me.ext, t.me.getS 30, t.me.sp.pc)) = some (true, 1, 4) ∧
  after (.registerExamination 0) { blocked base (.rget 30) with rgetQueue := [(0, [(1, 30)])] } (fun t => t.me.sp.blocked) = some (.rget 30) ∧
  after (.exitRetire 1) (blocked base .exitWait) (fun t => t.me.live) = some false ∧
  after (.fenceComplete 1) (blocked base (.fence 3 2 0)) (fun t => (t.me.sp.blocked, t.me.sp.pc)) = some (.ready, 4) := by decide +kernel
theorem test_landing : let p : Pending := { base.me.newPending (.lane 1) 0 3 (List.replicate 32 7) with lanes := 3 }
  after (.longResultLanding 1 0) (base.mapMe (fun l => { l with pend := [p] })) (fun t => (lane t 1 0, lane t 1 1, lane t 1 2, t.me.pend.length)) = some (7, 7, 0, 0) := by decide +kernel
theorem test_barrierRelease : after (.barrierRelease 0) { blocked base (.barrier 1 5 1 true) with barriers := [{ level := 1, id := 5, group := 1, completed := 1, released := 0, arrived := [], remote := 0 }] }
  (fun t => (t.me.sp.blocked, t.me.sp.pc)) = some (.ready, 4) := by decide +kernel
theorem test_waita_events : after (.waitaWake 1) (blocked base (.waitaMet 5 3)) (fun t => (t.me.getS 3, t.me.sp.pc)) = some (5, 4) ∧
  after (.waitaWatchTest 0 0) (mods (blocked glob2 (.waitaGlobal 0x10000 none 3)) (fun x => { x with watches := [{ ladle := 1, pa := 0x10000, old := none }] }))
    (fun t => t.me.sp.blocked) = some (.waitaMet 0x04030201 3) ∧
  after (.waitaRetry 1) (blocked glob2 (.waitaGlobal 0x10000 (some 0x04030201) 3)) (fun t => (t.sliceOf 0).watches.length) = some 1 := by decide +kernel
theorem test_checks : let e : Replay := { pc := 0x40, instr := .tsysNop, operands := [], masks := [], scalars := [], active := 0, fmode := 0, result := Vector.replicate 32 0, maskResult := 0, exceptions := 0 }
  after (.opportunisticReplay 1 true) (base.mapMe (fun l => { l with replay := [e] })) (fun t => t.faults.map (fun f => (f.cause, f.pc))) = some [(.checkMismatch, 0x40)] ∧
  after (.opportunisticReplay 1 false) (base.mapMe (fun l => { l with replay := [e] })) (fun t => t.me.replay.length) = some 0 ∧
  after (.shadowComparison 1 true) (base.mapMe (fun l => { l with shadow := some { v := l.v, s := l.s, k := l.k, values := [], buffer := [{ order := 0, pc := 0x44, requests := [], outcome := [] }], count := 1 } })) caused = some [.checkMismatch] := by decide +kernel
/-- A queued plain load is performed at its slot, and only there (R383). -/
theorem test_slots : let o : LaneOp := { lane := 0, bytes := [0x10000, 0x10001, 0x10002, 0x10003], bit := 0, width := 32, desc := 0, scale := none, x := 0, y := 0 }
  let r : Req := { id := 0, who := base.me.who, kind := .load false, place := .slice 0, tile := 0x100, bypass := false, replica := false, rpl := false, pend := some 0, ops := [o], held := false }
  let s := { glob2 with requests := [r], me := { glob2.me with pend := [{ base.me.newPending (.lane 1) 2 1 (List.replicate 32 0) with missing := 1 }], nextPend := 1 } }
  after (.globalAccessSlot 0) s (fun t => (t.requests.length, t.me.pend.map (fun p => p.laneVal 0))) = some (0, [0x04030201]) ∧
  after (.atomicGroupSlot 0) s (fun t => t.requests.length) = some 1 := by decide +kernel
theorem test_slice_work : after (.missDataArrival 0 7) (mods base (fun x => { x with miss := [7] })) (fun t => (t.sliceOf 0).miss) = some [] ∧
  after (.motionLanding 0 7) (mods base (fun x => { x with motion := [(7, 1)] })) (fun t => (t.sliceOf 0).motion) = some [] ∧
  after (.boundaryMove 0) (mods base (fun x => { x with cascade := [(7, 1)] })) (fun t => (t.sliceOf 0).cascade) = some [] ∧
  after (.writeBack 0) (mods base (fun x => { x with writeBack := [7], dirty := [28] })) (fun t => ((t.sliceOf 0).writeBack, (t.sliceOf 0).dirty)) = some ([], []) := by decide +kernel
theorem test_launch : after (.launchPort 0 true 0 0 64 [1, 2, 3, 4, 5, 6, 7, 8]) (base.setReg 0x90d 1) (fun t => (t.queueOf 0).map (·.words)) = some [[1, 2, 3, 4, 5, 6, 7, 8]] ∧
  after (.launchPort 0 true 0 0 64 [1, 2, 3, 4, 5, 6, 7, 8]) base (fun t => (FMap.get LqCounts.zero t.lq 0).dropped) = some 1 := by decide +kernel
/-- The only casting of a complete mould commits with number 1; its version reaches memory; the graph has ended (R363 to R365). -/
theorem test_commit : let s := mods (casts glob2 (fun c => { c with state := .completed })) (fun x => { x with frames := [{ casting := 1, tile := 0x100, bytes := [(2, 0x55)], declared := 0, tags := [] }] })
  after (.commitAssignment 1) s (fun t => (stateOf t 1, t.nextCommit)) = some ([.committing], 2) ∧
  after (.commitMessage 0 1) (casts s (fun c => { c with state := .committing, commitNo := 1, awaited := [0] })) (fun t => (read0 t, (t.sliceOf 0).frames)) = some (0x04550201, []) ∧
  after (.discardMessage 0 1) (casts s (fun c => { c with state := .faulted, awaited := [0] })) (fun t => (read0 t, (t.sliceOf 0).frames)) = some (0x04030201, []) ∧
  after (.committed 1) (casts s (fun c => { c with state := .committing })) (fun t => (t.castings.length, t.graphs.length)) = some (0, 0) := by decide +kernel
theorem test_fault_events : let f : FaultRec := { casting := 1, cause := .address, pc := 0x40, rank := 0, cluster := 0, core := 0 }
  after (.castingFault 0) { glob2 with faults := [f] } (fun t => (stateOf t 1, t.me.stopped, t.faults.length)) = some ([.faulted], true, 0) ∧
  after (.discardAcknowledged 1) (casts glob2 (fun c => { c with state := .faulted, fault := some f })) (fun t => (t.me.live, FMap.get 0 t.reportSeq 0)) = some (false, 1) := by decide +kernel
theorem test_casting_complete : after (.castingComplete 1) { glob2 with me := { glob2.me with live := false } } (fun t => (stateOf t 1, t.nextCommit)) = some ([.committing], 2) ∧
  after (.castingComplete 1) glob2 (fun t => stateOf t 1) = some [.resident] := by decide +kernel
theorem test_preemption : after (.preemptCtlSave 0 true 0) glob2 (fun t => t.castings.map (·.preempt)) = some [some true] ∧
  after (.preemptionStart 1) ((casts glob2 (fun c => { c with preempt := some true })).setReg 0x207 1) (fun t => (t.me.stopped, t.castings.map (·.saveSlot))) = some (true, [some 0]) ∧
  after (.preemptionStart 1) (casts glob2 (fun c => { c with preempt := some true })) (fun t => t.me.stopped) = some false ∧
  after (.preemptionSave 1) ((casts glob2 (fun c => { c with preempt := some true, started := true, saveSlot := some 0 })).mapMe (fun l => { l with stopped := true }))
    (fun t => (stateOf t 1, t.me.live, t.castings.map (fun c => c.saved.length))) = some ([.saved], false, [1]) := by decide +kernel
theorem test_columns : after (.columnDue 0 5) base (fun t => (t.column 0 5).due) = some true ∧
  after (.realignmentStart 0 5 false) { base with columns := [(5, { base.column 0 5 with due := true })] } (fun t => (t.column 0 5).retrain) = some true ∧
  after (.realignmentEnd 0 5) { base with columns := [(5, { base.column 0 5 with retrain := true })] } (fun t => (t.column 0 5).retrain) = some false ∧
  after (.governorExamination 0 [(5, 101)] 4000) base (fun t => ((t.column 0 5).cap, (t.column 0 6).cap, t.reg 0x4a0)) = some (2, 0, 1) := by decide +kernel
theorem test_home : after (.hashCtlGo 0) base (fun t => t.homeChanges.map (·.die)) = some [0] ∧ after (.drainMessage 0 3) { base with homeChanges := [{ die := 0, retire := none, switched := [] }] } (fun t => (t.sliceOf 3).drained) = some true ∧
  after (.btData 0 5) base (fun t => (t.bucketStaged 0, t.reg 0x418)) = some (5, 1) ∧ after (.sliceRetire 0 3) base (fun t => t.homeChanges.map (·.retire)) = some [some 3] ∧
  after (.retirementProceed 0) { base with homeChanges := [{ die := 0, retire := some 3, switched := [] }] } (fun t => (t.reg 0x41b, t.homeChanges.length)) = some (0xfffffff7, 0) := by decide +kernel
theorem test_registers : after (.boardCfg 0x0103000000000004) base (fun t => ((t.board 0).members, (t.board 0).owner)) = some (4, 3) ∧ after (.boardCfg 0) base (fun t => t.boards) = some [] ∧
  after (.rnsInject 0x8000000000000000) base (fun t => t.reg 0x700) = some 0x8000000000000000 ∧ after (.rnsCtlMf 5 true) base (fun t => t.reg 0x614) = some 1 ∧
  after (.rnsCtlRetired 5 3) base (fun t => t.reg 0x614) = some 0 ∧ after (.rnsCtlRetired 5 4) base (fun t => t.reg 0x614) = some 0x400 ∧
  after (.partCtlEn 2 true) base (fun t => t.reg 0x92d) = some 1 ∧ after (.tqTail 2 9) base (fun t => t.reg 0x924) = some 9 := by decide +kernel
theorem test_partition : after (.fmtSync 3) base (fun t => t.fmtLoads) = some [3] ∧ after (.sdCtl 0) ((glob.setReg 0x907 0).setReg 0x908 1) (fun t => (t.tlb, t.reg 0x90b)) = some ([], 2) ∧
  after (.shootdownComplete 0) { base with shootdowns := [(0, 0)] } (fun t => t.shootdowns) = some [] ∧ after (.partCtlReset 0) (base.setReg 0x301 9) (fun t => t.reg 0x301) = some 64 := by decide +kernel
/-- The scrubber reads pinned tiles and rings 1 to 4 (R338). -/
theorem test_scrub : let s := mods base (fun x => { x with pins := [(7, 0)] })
  after (.scrubRead 0 (0, 28) true false) s (fun t => (t.reg 0x810, (t.sliceOf 0).scrub)) = some (1, some (0, 28, false)) ∧
  after (.scrubRead 0 (0, 32) true false) s (fun t => (t.reg 0x810, (t.sliceOf 0).scrub)) = some (0, none) ∧
  after (.scrubWrite 0) (mods s (fun x => { x with scrub := some (0, 28, false) })) (fun t => (t.sliceOf 0).scrub) = some none := by decide +kernel
/-- Every windowed consumption is halved (R370). -/
theorem test_service : let s := { base with windows := [(0, 100), (1, 900)] }
  after .windowHalving s (fun t => (FMap.get 0 t.windows 0, FMap.get 0 t.windows 1)) = some (50, 450) := by decide +kernel
theorem test_host : after (.hostPhysicalWindowAccess 0 false 0x10000 [0, 0]) glob2 (fun t => t.replies) = some [.data [1, 2]] ∧
  after (.hostPhysicalWindowAccess 0 true 0x10000 [9]) glob2 read0 = some 0x04030209 ∧
  after (.hostPhysicalWindowAccess 0 false 0xc000000000 [0]) glob2 (fun t => t.replies) = some [.data [0xff]] := by decide +kernel
theorem test_management : after .resetPackage glob2 (fun t => (t.accepting, t.castings.length, read0 t)) = some (false, 0, 0) ∧
  after (.bringUp false 5 []) { base with enabled := false } (fun t => (t.enabled, t.recovery, t.reg 0xc30)) = some (false, true, 2) ∧
  (base.failColumn (0, 3)).reg 0x41b = 0xfffffff7 ∧
  after (.linkTrained 1) { base with links := Vector.replicate 2 false } (fun t => t.links.toList) = some [false, true] ∧
  after .identify base (fun t => t.replies.length) = some 1 ∧ after (.nystraPortFailure 2) { base with routes := [(5, 6)] } (fun t => FMap.get 0 t.routes 5) = some 2 := by decide +kernel

/-! ### States and operands that meet the hypotheses of each statement -/

/-- The same vector ladle with its extended block, in half placement, and without a casting's reach. -/
def ext : State := base.mapMe (fun l => { l with ext := true })
def half : State := base.mapMe (fun l => { l with half := true })
def isErr {α : Type} (x : Except Stop α) (e : Stop) : Bool := match x with | .error f => decide (f = e) | .ok _ => false

theorem noReplicas_glob : NoReplicas glob := fun _ => rfl

/-- Every lane statement: without the extended block up to v31, with it up to v63. -/
theorem witness_legal : Legal base.me [31, 0, 31] ∧ Legal ext.me [63, 32, 0] ∧ Legal half.me [31, 0] := by unfold Legal; decide
theorem witness_IllegalLaneWords : ¬ Legal base.me [32, 0] ∧ ¬ Legal base.me [0, 32] ∧ ¬ Legal ctl.me [0, 0] := by unfold Legal; decide
/-- No exception, one that is not enabled, one that is. -/
theorem witness_LaneFloatingPointWords : let s := lanes2 0x4b800000 0x3f800000 0
  let e := fun (s : State) => unionExc (lanesOf s.me 0) (fun j => addF32 .ne (laneAt (s.me.getV 2) j) (laneAt (s.me.getV 3) j))
  (e base = 0 ∧ enabled base.me (e base) = 0) ∧ (e s ≠ 0 ∧ enabled s.me (e s) = 0) ∧
  enabled (s.mapMe (fun l => { l with fmode := 0x100 })).me (e s) ≠ 0 := by unfold enabled lanesOf; decide +kernel
theorem witness_LongLaneInstructions : Running base ∧ base.me.pend = [] ∧ base.valuesFull = false ∧ lanesOf base.me 0 ≠ 0 ∧ lanesOf base.me 1 = 0 ∧
  enabled base.me (pairTree (reduceOp 1 .ne) 5 (List.replicate 32 0, 0)).2 = 0 := by unfold Running lanesOf enabled; decide +kernel
theorem witness_NumberFormats : (bf16.decode 0x7f7f).isNan = false ∧ (bf16.decode 0x7f7f).isInf = false ∧ (f4e2.decode 15).isNan = false ∧
  (f32.roundFin .ne false 0xffffff 104).2 &&& excOF = 0 ∧ (f16.roundFin .ne true 1 (-30)).2 &&& excOF = 0 := by decide +kernel
/-- The special registers are 0 to 15. -/
theorem witness_UniformWords : base.valuesFull = false ∧ (specialValue base 15).isSome = true ∧ specialValue base 16 = none ∧ regAssigned 0x100 = false ∧
  (regAssigned 0x480 = true ∧ regOpen 0 0x480 = true) ∧ (regAssigned 0x800 = true ∧ regOpen 0 0x800 = false) := by decide +kernel
theorem witness_SystemRegisterWrites : let s := base.mapMe (fun l => { l with privileged := true })
  s.hold = false ∧ regAssigned 0x200 = true ∧ regReadOnly 0x200 = false ∧ regReadOnly 0x202 = true ∧ s.unperformed 1 4 s.nextReq = false ∧
  { s with hold := false, requests := [{ boardReq s.me.who .boardRead 0 0 none with id := 0 }], nextReq := 1 }.unperformed 1 4 1 = true ∧
  (s.writeReg 0x200 0x1000).isSome = true ∧ (s.writeReg 0x200 0x1000).all (fun t => t.fmtLoads.isEmpty && !t.hold) = true ∧
  ({ s with castings := [cast1] }.writeReg 0x502 1).isNone = true := by decide +kernel
/-- The same ladle with a trailing shadow, whose comparison buffer holds `n` operations. -/
def trailed (n : Nat) : State :=
  base.mapMe (fun l => { l with shadow := some { v := l.v, s := l.s, k := l.k, values := [], buffer := List.replicate n { order := 0, pc := 0x44, requests := [], outcome := [] }, count := n } })
theorem witness_Compared : (trailed 0).me.sp.cleared = false ∧ (trailed 15).me.shadow.all (fun x => decide (x.buffer.length < 16)) = true ∧
  (trailed 16).me.shadow.all (fun x => decide (16 ≤ x.buffer.length)) = true := by decide
theorem witness_Branches : let t := fun (s : State) => lanesOf s.me 2
  Settled base ∧ (withS base 5 4).me.getS 5 = 4 ∧ (withS base 5 5).me.getS 5 = 5 ∧
  t (withK (withMask base 0xff) 2 0xff) = 0xff ∧ t (withK (withMask base 0xff) 2 0xf) = 0xf ∧ t (withK (withMask base 0xff) 2 0xff00) = 0 ∧
  (half.me.half = true ∧ (t (withK half 2 0x10001)).toNat % 65536 = (t (withK half 2 0x10001)).toNat / 65536) ∧
  (t (withK half 2 1)).toNat % 65536 ≠ (t (withK half 2 1)).toNat / 65536 := by unfold Settled Running lanesOf; decide +kernel
/-- An empty buffer with counts 0, 1, 2^48 - 1 and 2^48; a running loop; one that a handler has suspended. -/
def loop1 : LoopBuf := { addr := 0, words := [0xdc000000, 0xdc000000], rem := 2, steps := 0, stride := 0, pass := 0, index := 0, count := 5, suspended := false }
def inLoop (b : LoopBuf) : State := base.mapMe (fun l => { l with loop := some b, sp := { l.sp with looping := true } })
theorem witness_LoopStarts : base.me.loop = none ∧ (withS base 5 0xffffffffffff).me.getS 5 = 0xffffffffffff ∧ (glob.captureWords 4 1).isOk = true ∧
  (loop1.suspended && base.me.sp.handler) = false ∧ ({ loop1 with suspended := true }.suspended && { base.me.sp with handler := true }.handler) = true := by decide +kernel
theorem witness_NextWord : base.me.sp.looping = false ∧ (inLoop loop1).me.sp.looping = true ∧ loop1.index + 1 < loop1.words.length ∧
  { loop1 with index := 1 }.words.length ≤ { loop1 with index := 1 }.index + 1 ∧ loop1.rem ≠ 1 ∧ { loop1 with rem := 1 }.rem = 1 := by decide
theorem witness_TrapsAndReturns : let s := base.mapMe (fun l => { l with tvec := 4 })
  Settled s ∧ MayTrap s ∧ (s.me.tcause.getLsbD 63 = false ∧ base.me.tvec.toNat / 4 % 2 ^ 55 = 0) ∧
  { s with rest := (List.range 4).map (fun i => { lad with uid := i + 2, permit := true }) }.permitFree = false ∧
  (s.mapMe (fun l => { l with handlerActive := true })).me.tpc.toNat % 4 = 0 := by unfold MayTrap Settled Running; decide +kernel
theorem witness_Barriers : Settled base ∧ base.unperformed 1 (levelScope 1) base.nextReq = false ∧ (base.me.bar 21).arrived ≤ (base.barrier 1 5 1).completed ∧
  { base with requests := [{ boardReq base.me.who .boardRead 0 0 none with place := .slice 0 }], nextReq := 1 }.unperformed 1 (levelScope 1) 1 = true ∧
  (base.barrier 1 5 1).completed < ((base.mapMe (fun l => { l with bars := [(21, { lanes := 0, arrived := 1, waited := 0 })] })).me.bar 21).arrived ∧
  (base.me.bar 16 = { lanes := 0, arrived := 0, waited := 0 } ∧ base.me.liveLanes = base.me.sp.mask ∧ base.me.sp.mask ≠ 0 ∧ base.barriers = []) ∧
  (base.mapMe (fun l => { l with gangMould := true })).me.gangMould = true ∧
  (let s := (withMask base 0xf).mapMe (fun l => { l with splits := [{ l.sp with mask := 0xf0 }] })
   s.me.liveLanes &&& ~~~((s.me.bar 21).lanes ||| s.me.sp.mask) ≠ 0) := by unfold Settled Running; decide +kernel
/-- Another ladle of the core holds every register block but the issuing ladle's (R35). -/
def crowded : State := { base with rest := [{ lad with uid := 2, place := 1, ext := true, extBlocks := (List.range 126).map (· + 2) }] }
theorem witness_ExtendedRegisters : Settled base ∧ base.me.blocks ≤ (base.freeBlocks 0 0).length ∧ (crowded.freeBlocks 0 0).length < crowded.me.blocks ∧
  base.valuesFull = false ∧
  [((1 : Nat), (30 : BitVec 6))].any (fun e => e.1 == base.me.uid) = true ∧ ext.me.ext = true ∧ ctl.me.control = true := by unfold Settled Running; decide +kernel
theorem witness_ExitWords : let x : Split := { base.me.sp with mask := 1, slot := some 1 }
  Settled base ∧ base.hold = false ∧ base.exitReady base.me = true ∧ base.me.splits = [] ∧ base.me.loop = none ∧
  (base.mapMe (fun l => { l with splits := [x] })).exitReady (base.mapMe (fun l => { l with splits := [x] })).me = true ∧ (∀ k < 64, (base.me.bar k).lanes = 0) ∧
  { base with requests := [{ boardReq base.me.who .boardRead 0 0 none with place := .slice 0 }], nextReq := 1 }.exitReady base.me = false := by unfold Settled Running; decide +kernel

/-- One request of the ladle that waits, at a home slice. -/
def waiting (s : State) : State := { s with requests := [{ boardReq s.me.who .boardRead 0 0 none with place := .slice 0 }], nextReq := 1 }
theorem witness_FencesSpawnsAndWaits : let op := glob.uniformGlobal glob.me .read false 4 (0x10000 : Word64) 0 0
  Settled base ∧ Quiet base ∧ OwnPad base ∧ base.me.control = false ∧ (waiting base).unperformed 1 3 1 = true ∧ base.unperformed 1 3 base.nextReq = false ∧
  (4032 + 64 ≤ base.me.pad.size ∧ 4032 % 64 = 0) ∧ (glob.spawnsOf 1).length < 16 ∧
  16 ≤ ((casts glob (fun c => { c with spawns := List.replicate 16 [] })).spawnsOf 1).length ∧
  (base.me.pad.size < 4093 + 4 ∧ 4092 + 4 ≤ base.me.pad.size ∧ 4092 % 4 = 0 ∧ 4090 % 4 ≠ 0) ∧
  (op.toOption.map (fun ops => ops.map (fun o => o.op.bytes))) = some [[0x10000, 0x10001, 0x10002, 0x10003]] ∧
  isRemote 0x10000 = false ∧ isHbm 0x10000 = true ∧ sectorOf 0x10000 ∉ (glob.sliceOf (glob.homeOf 0x10000)).poison ∧ isScratch 0x10000 = false ∧ glob.grantable (glob.waitReq glob.me.who 0x10000 none) = true := by
  unfold Settled Quiet OwnPad Running; decide +kernel
/-- Level distances 0, 1, 2, 2^31 - 1 and 2^31, on a full and an open board; the last slot. -/
theorem witness_NoticeBoards : let b : Board := { members := 2, level := 5, mask := 3, values := [], assigned := true, owner := 0 }
  ((5 - b.level).toNat = 0 ∧ b.mask.getLsbD 1 = true ∧ b.mask.getLsbD 255 = false) ∧ ((6 - b.level).toNat = 1 ∧ b.full = true ∧ { b with mask := 1 }.full = false) ∧
  (7 - b.level).toNat = 2 ∧ ((0x80000004 : Word32) - b.level).toNat = 2 ^ 31 - 1 ∧ ((0x80000005 : Word32) - b.level).toNat = 2 ^ 31 ∧ base.hold = false ∧ base.me.pend.length < 16 := by decide
theorem witness_ScratchpadLoads : Legal base.me [31, 30] ∧ Legal base.me [30, 31, 0] ∧ Settled base ∧ Quiet base ∧ OwnPad base ∧ base.me.accessLanes 0 ≠ 0 ∧ base.me.accessLanes 1 = 0 ∧
  (∀ j < 32, padByte (withV base 2 (fun j => BitVec.ofNat 32 j)).me 2 0 1 4 j + 4 ≤ base.me.pad.size ∧ padByte (withV base 2 (fun j => BitVec.ofNat 32 j)).me 2 0 1 4 j % 4 = 0) ∧
  padByte (withS base 3 4092).me 2 3 0 4 0 + 4 ≤ base.me.pad.size ∧ base.me.pad.size < padByte (withS base 3 4096).me 2 3 0 4 0 + 4 ∧
  (padByte (withS base 3 4090).me 2 3 0 4 0 % 4 ≠ 0 ∧ padByte (withS base 3 4090).me 2 3 0 4 0 + 4 ≤ base.me.pad.size) := by
  unfold Legal Settled Quiet OwnPad Running; decide +kernel
theorem witness_ScratchpadStores : PadFree base ∧ base.me.accessLanes 0 ≠ 0 ∧
  (∀ j < 16, ∀ r ∈ ([2, 3] : List (BitVec 6)), laneAt (half.me.getV r) j = laneAt (half.me.getV r) (j + 16)) ∧ (withS base 3 4095).me.getS 3 = 4095 ∧ base.me.pad.size = 4096 := by
  refine ⟨fun k w => ?_, ?_⟩
  · cases w <;> rfl
  · decide +kernel
/-- A mapped load, one that needs a walk, one off its alignment; a declared store and one that is not. -/
theorem witness_LoadWords : let l := (withS glob 5 0x10000).me
  base.me.pend.length < 16 ∧ base.valuesFull = false ∧ (glob.elemOps l .read false 2 5 0 (fun _ => 0) [0, 31]).isOk = true ∧
  (glob.rawOps l .read false 2 5 0 8 (fun _ => 0) (fun _ => 0) [0]).isOk = true ∧ isErr (base.rawOps l .read false 2 5 0 4 (fun _ => 0) (fun _ => 0) [0]) (.walk 0x10000 .read) = true ∧
  isErr (glob.rawOps (withS glob 5 0x10002).me .read false 2 5 0 4 (fun _ => 0) (fun _ => 0) [0]) (.fault .alignment) = true ∧
  (glob.ownElems base.me 2 5 0 (fun _ => 0) [0]).isOk = true ∧ (glob.peerOps base.me 2 5 0 (fun _ => 0) [0]).isOk = true ∧
  (glob.uniformGlobal l .read false 8 0x10000 0 0).isOk = true ∧ (glob.uniformPad base.me 8 0 0).isOk = true := by decide +kernel
theorem witness_StoreWords : let l := (withS glob 5 0x10000).me
  glob.shadowFull = false ∧ (glob.elemOps l .write true 2 5 0 (fun _ => 0) [0]).isOk = true ∧ (glob.rawOps l .sync true 2 5 0 4 (fun _ => 0) (fun _ => 0) [0]).isOk = true ∧
  isErr (glob.elemOps (withS glob 5 0x20000).me .write true 2 5 0 (fun _ => 0) [0]) (.fault .undeclaredWrite) = true ∧ (FMap.get [] glob.retry 0).length < 64 ∧
  bitsOf (l.getS 5) 62 57 = 0 ∧ l.addressAdd = 0 ∧ glob.walkNeeded l.who [0x10000] = none ∧ bitsOf ((withS glob 5 0x200000000000000).me.getS 5) 62 57 ≠ 0 ∧
  (glob.uniformGlobal l .write true 4 0x10000 0 0).isOk = true := by decide +kernel
theorem witness_AtomicWords : let l := (withS glob 5 0x10000).me
  (glob.rawOps l .sync true 2 5 0 4 (fun _ => 0) (fun _ => 0) [0, 1]).isOk = true ∧ glob.shadowFull = false ∧ glob.valuesFull = false ∧
  isErr (glob.rawOps (withS glob 5 0x20000).me .sync true 2 5 0 4 (fun _ => 0) (fun _ => 0) [0]) (.fault .undeclaredWrite) = true ∧
  (checkAll (fun j => glob.atomsOp base.me 0 0 0 j) [0]).isOk = true := by decide +kernel
/-- Requests that wait for their slots, with no trailing shadow: the results of a load, an atomic, a post and a read of a board are on
their way. -/
theorem witness_OnItsWay : let s := { glob with hold := true }
  let l := (withS glob 5 0x10000).me
  s.hold = true ∧ l.shadow = none ∧ l.pend = [] ∧ [boardReq l.who .boardRead 0 0 none] ≠ [] ∧
  (match glob.rawOps l .read false 2 5 0 4 (fun _ => 0) (fun _ => 0) [0] with
   | .ok ops => !(s.spread (s.globalReqs l.who .syncLoad false (some 0) ops)).isEmpty
   | .error _ => false) = true := by decide +kernel
theorem witness_GlobalOperands : (glob.rawOps (withS glob 5 0x10ff8).me .write true 2 5 0 8 (fun _ => 0) (fun _ => 0) [0, 31]).isOk = true := by decide +kernel

def op4 : LaneOp := { lane := 0, bytes := [0x10000, 0x10001, 0x10002, 0x10003], bit := 0, width := 32, desc := 0, scale := none, x := 5, y := 0 }
def req4 (k : ReqKind) : Req :=
  { id := 0, who := base.me.who, kind := k, place := .slice 0, tile := 0x100, bypass := false, replica := false, rpl := false, pend := some 0, ops := [op4], held := false }
def standing (s : State) : State := { s with requests := [{ req4 (.load false) with arrived := some 0 }], hold := true }
theorem noReplicas_glob2 : NoReplicas glob2 := by
  intro n
  cases n with
  | zero => rfl
  | succ n => rfl
/-- Nothing is poisoned where no slice holds a mark, a replica or a lost version sector. -/
theorem noPoison (s : State) (h : ∀ n, (s.sliceOf n).poison = [] ∧ (∀ f ∈ (s.sliceOf n).frames, f.lost = []) ∧ (s.sliceOf n).replicas = []) (r : Req) (w : Bool) :
    s.requestPoisoned r w = false := by
  have hl : ∀ n c k, s.versionLost n c k = false := fun n c k => by
    unfold State.versionLost
    split
    · rename_i f hf
      rw [(h n).2.1 f (List.mem_of_find?_eq_some hf)]
      rfl
    · rfl
  have hr : ∀ n k, (s.sliceOf n).replica? k = none := fun n k => by
    unfold Slice.replica?
    rw [(h n).2.2]
    rfl
  unfold State.requestPoisoned
  rw [List.any_eq_false]
  intro e _
  have h1 : s.poisonedAt e = false := by
    unfold State.poisonedAt
    split
    · split
      · simp [hr, (h _).1]
      · simp [(h _).1]
    · rfl
  have h2 : s.lostAt r.who.casting e = false := by
    unfold State.lostAt
    split
    · exact hl _ _ _
    · rfl
  simp [h1, h2]
/-- Nothing is poisoned where the slices are those of `glob2`. -/
theorem noPoison_slices (s : State) (h : s.slices = glob2.slices) (r : Req) (w : Bool) : s.requestPoisoned r w = false := by
  have hs : ∀ n, s.sliceOf n = glob2.sliceOf n := fun n => by unfold State.sliceOf; rw [h]
  refine noPoison s (fun n => ?_) r w
  rw [hs]
  cases n with
  | zero => exact ⟨rfl, by decide, rfl⟩
  | succ n => exact ⟨rfl, List.forall_mem_nil _, rfl⟩
theorem witness_PlainAccesses : (∀ k, AtHome glob2 (req4 k) 0 op4) ∧ RawOp op4 4 ∧ glob2.requestRaces (req4 (.load false)) false = false ∧
  glob2.requestRaces (req4 (.store false)) true = false ∧ (∀ b ∈ op4.bytes, ∃ f ∈ (glob2.sliceOf 0).frames, f.casting = 1 ∧ f.tile = tileOf b) ∧
  (glob2.modSlice 0 (fun x => { x with frames := x.frames.map (fun f => { f with tags := [(0, { writer := some { ladle := 7, casting := 1, arrivals := 0, gangArrivals := 0 }, readers := [] })] }) })).requestRaces (req4 (.load false)) false = true := by
  have h : ∀ b ∈ op4.bytes, isHbm b = true ∧ glob2.homeOf b = 0 ∧ tileOf b = 0x100 := by decide +kernel
  refine ⟨fun k => ⟨rfl, rfl, rfl, rfl, rfl, h, by decide, noReplicas_glob2, fun w => noPoison_slices glob2 rfl _ w⟩, by unfold RawOp; decide, ?_⟩
  decide +kernel
theorem witness_SynchronisingAccesses : AtHome glob2 (req4 .syncLoad) 0 op4 ∧ AtHome glob2 (req4 (.atomic true 3)) 0 op4 ∧ RawOp op4 4 :=
  ⟨witness_PlainAccesses.1 _, witness_PlainAccesses.1 _, witness_PlainAccesses.2.1⟩
/-- Contribution numbers 0, 1, 255, 256, 2^30 - 1 and 2^30 ahead of the stream. -/
theorem witness_ReductionsInOrder : AtHome glob2 (req4 (.redg 2 0)) 0 op4 ∧ RawOp op4 4 ∧ (glob2.sliceOf 0).buffer = [] ∧ (glob2.sliceOf 0).cursors.length < 1024 ∧
  op4.bytes = (List.range 4).map (0x10000 + ·) ∧ FMap.get 0 (glob2.sliceOf 0).cursors 0x10000 - 1 = 0 ∧
  ([0, 1, 255, 256, 2 ^ 30 - 1, 2 ^ 30].map (fun n : Nat => (n % 2 ^ 31 + 2 ^ 31 - 0) % 2 ^ 31)) = [0, 1, 255, 256, 2 ^ 30 - 1, 2 ^ 30] :=
  ⟨witness_PlainAccesses.1 _, witness_PlainAccesses.2.1, by decide +kernel⟩

/-- Ranges of no tile, one and 4,096; one tile too many; the last tile of the address space, and one past it. -/
theorem witness_DistanceWords : let s := withS glob 5 0x10000
  let top := withS glob 5 0x1ffffffffffff00
  base.me.pend.length < 16 ∧ base.valuesFull = false ∧ RangeLegal s 5 6 0 ∧ RangeLegal s 5 6 4096 ∧ ¬ RangeLegal s 5 6 4097 ∧ RangeLegal top 5 6 1 ∧ ¬ RangeLegal top 5 6 2 ∧
  (checkAll (fun va => s.physical s.me.who va .read) (tilesNamed s 5 6 2)).isOk = true ∧ s.walkNeeded s.me.who (tilesNamed s 5 6 2) = none ∧
  (s.physical s.me.who 0x10000 .read).isOk = true ∧ (s.physical s.me.who 0x10000 .read).toOption.all (fun p => !isHost p.1) = true ∧
  ((withS glob 5 0x8000000000010000).me.getS 5).getLsbD 63 = true := by unfold RangeLegal tilesNamed firstTile; decide +kernel
def tileR (k : ReqKind) : Req := tileReq base.me.who k (.slice 0, false) none 0x10000
/-- A tile that is resident, pinned, or neither; a full quota and room; a replica. -/
theorem witness_DistanceRequests : let x := glob.modSlice 0 (fun x => { x with chain := [9, 0x100] })
  let q : Replica := { tile := 0x100, bytes := List.replicate 256 0, dirty := 1 }
  (tileR .pin).place = .slice 0 ∧ (tileR .pin).bytes = [0x10000] ∧ isHbm 0x10000 = true ∧ (tileR .pin).tile = tileOf 0x10000 ∧ (tileR .pin).ops.filterMap (·.scale) = [] ∧
  (x.sliceOf 0).distance 0x100 = some 1 ∧ (x.sliceOf 0).pinned 0x100 = false ∧ (glob.sliceOf 0).distance 0x100 = none ∧ (glob.sliceOf 0).chain.length < glob.chainPlaces 0 ∧
  ((tileR .touch).replica = false ∧ x.promotes 0 0 = true ∧ (tileR .touch).bypass = false) ∧ 0 = glob.pinQuota 0 0 ∧
  (glob.setReg 0x440 0x0003000200010000).pinQuota 0 0 ≠ 0 ∧
  ((glob.modSlice 0 (fun x => { x with replicas := [q] })).sliceOf 0).replica? 0x100 = some q ∧ glob.hold = false := by decide +kernel
theorem witness_MatrixWords : (ctl.me.control = true ∧ (ctl.mat 0).queue.length < 32) ∧ base.me.control = false ∧
  32 ≤ ((ctl.modMat 0 (fun m => { m with queue := List.replicate 32 (entryOf (.mmz 0) 0 0 false 0) })).mat 0).queue.length ∧ Settled ctl ∧
  (ctl.mat 0).closed + 1 < 2 ^ 48 ∧ ((ctl.modMat 0 (fun m => { m with closed := 2 ^ 48 - 1 })).mat 0).closed + 1 = 2 ^ 48 ∧ ((withS ctl 5 0).me.getS 5).toNat ≤ (ctl.mat 0).closed ∧ (ctl.mat 0).closed < ((withS ctl 5 1).me.getS 5).toNat ∧ ((ctl.modMat 0 (fun m => { m with closed := 1 })).mat 0).completed < 1 ∧
  ctl.me.pend.length < 16 ∧ ctl.valuesFull = false ∧ ctl.shadowFull = false ∧ ((withS base 5 127).me.getS 5).toNat = 127 := by unfold Settled Running; decide +kernel
/-- Magnitudes, a NaN, and an mm step over one element with a valid slot. -/
theorem witness_AmaxSlotsAndMatrixSteps : (let mag := fun (v : Word32) => v.toNat % 2 ^ 31
    (¬ 0x7f800000 < mag 0xff800000) ∧ 0x7f800000 < mag 0x7f800001) ∧
  (let e := entryOf (.mm 0 0 2 3 4 0 0) 0 0 true 0
   let w : WeightSlot := { valid := true, format := 0, along := true, scales := [], book := 0, codebook := [], elems := [] }
   let s := (queued e).modMat 0 (fun m => { m with slots := [(4, w)] })
   (s.stepWord s.me e).isOk = true ∧ (s.mat 0).residue.get 0 = false ∧ ((s.mat 0).slot 4).valid = true) := by decide +kernel
theorem witness_MatrixUnit : let e := entryOf (.msetmRow 1 2 3) 0xf0 1 false 0
  let m := entryOf (.mm 0 0 2 3 4 0 0) 0 0 true 0
  MatrixHead (queued e) 0 (queued e).me e [] ∧ (e.started = false ∧ (queued e).unitBegins (queued e).me = true ∧ ∀ q ∈ (queued e).ownOutstanding 1, e.after ≤ q.order) ∧
  (queued e).unitBegins { (queued e).me with stopped := true } = false ∧ ((queued e).startWord (queued e).me e).isOk = true ∧
  MatrixHead (queued m) 0 (queued m).me m [] ∧ m.steps < m.total ∧ isErr ((queued m).stepWord (queued m).me m) (.fault .format) = true ∧
  (entryOf (.rnsq 0 5 1) 0 0 true 0).steps = (entryOf (.rnsq 0 5 1) 0 0 true 0).total := by unfold MatrixHead; decide +kernel
theorem witness_ResiduesCorrectOneChannel : (1073741824 : Int).natAbs ≤ 2 ^ 30 ∧ (-1073741824 : Int).natAbs ≤ 2 ^ 30 := by decide
theorem witness_ChainWords : base.hold = false ∧ base.me.control = false ∧ (base.chainList 0).length < 8 ∧
  8 ≤ ({ base with chains := [(0, List.replicate 8 (Chain.begin_ base.me 1 0 0 0))] }.chainList 0).length ∧ Settled base ∧ ((4064 : Nat) % 32 = 0 ∧ 4064 < base.me.pad.size) ∧
  ((4096 : Nat) % 32 = 0 ∧ base.me.pad.size ≤ 4096) := by unfold Settled Running; decide +kernel
/-- Each kind of entry that moves no data; a LOOP with passes left and without; a COND and a WAITW over a readable word. -/
theorem witness_ChainControl : let l := fun (s : State) => s.me
  let c := Chain.begin_ glob.me 1 0 0 0
  ([chained 0 0 0 0, chained 3 0x100 7 0, chained 0x20005 0x100 7 0, chained 7 0x100 7 0].all (fun s => (s.chainAt 0 0 == some (l s, c)) && !s.chainPaused (l s) c && (s.fetchEntry c).isOk)) = true ∧
  ((chained 3 0x100 7 0).entryWord (chained 3 0x100 7 0).me 0x100).isOk = true ∧
  (chained 0x104 2 4 8).nestedLoop { c with off := 32 } 0 = false ∧ c.pass + 1 < 2 ∧ 1 ≤ c.pass + 1 := by decide +kernel
/-- A write of a chain is still to be performed, and all are. -/
theorem witness_ChainControl_written : ({ base with requests := [{ req4 .fold with engine := some 3 }] } : State).engineOutstanding 3 = true ∧
  base.engineOutstanding 3 = false := by decide
theorem witness_ChainTransfers : let s := chained 0x401 0 0x200 3
  let c := Chain.begin_ glob.me 1 0 0 0
  let w : List Word64 := [0x401, 0, 0x200, 3]
  (s.chainAt 0 0 = some (s.me, c) ∧ s.chainPaused s.me c = false ∧ (s.fetchEntry c).toOption = some w ∧ entryKind w = 1) ∧ (s.copyOnce s.me c w).isOk = true ∧
  isErr (s.copyOnce s.me c [0x401, 0x2000, 0x200, 3]) (.fault .padBound) = true ∧ (s.reduceOnce s.me c [0x306, 0, 0x200, 3]).isOk = true ∧
  ({ c with entry := w, progress := 4 }.entry = w ∧ 4 ≤ { c with entry := w, progress := 4 }.progress) := by decide +kernel

theorem alone_base : base.me.live = true ∧ ∀ l ∈ base.rest, l.uid ≠ base.me.uid := by decide
/-- A pending lane result with lanes due and lanes not, one with none due. -/
def pend1 : Pending := { base.me.newPending (.lane 1) 0 3 (List.replicate 32 7) with counts := (Vector.replicate 32 0).set 1 2 }
theorem witness_LadleEvents : let q := fun (n : Nat) => { glob with rgetQueue := [(0, List.replicate n (9, (3 : BitVec 6)) ++ [(1, 30)])] }
  let dm := base.mapMe (fun l => { l with tvec := 0x1002 })
  let o : LaneOp := { op4 with bytes := [0x10000] }
  let miss := ({ glob2 with me := { dm.me with pend := [{ pend1 with counts := Vector.replicate 32 0, globalLoad := true, missing := 1, first := 5 }] },
                            requests := [{ req4 (.load true) with id := 5, ops := [o] }], hold := true } : State)
  (dm.me.canRun = true ∧ dm.me.tvec.getLsbD 1 = true ∧ MayTrap dm) ∧ dm.demandMiss = none ∧ (∀ p ∈ miss.me.pend, miss.me.landable false p = false) ∧
  (miss.demandMiss).map (·.2) = some 0 ∧ (∀ p ∈ base.me.pend, base.me.landable false p = false) ∧
  (pend1.dest = .lane 1 ∧ pend1.fault = none ∧ pend1.exceptions = 0 ∧ pend1.missing = 0 ∧ pend1.suspended = false) ∧
  (pend1.lanes.getLsbD 0 && decide (pend1.counts.toList.getD 0 0 = 0)) = true ∧ (pend1.lanes.getLsbD 1 && decide (pend1.counts.toList.getD 1 0 = 0)) = false ∧
  (let b : Barrier := { level := 1, id := 5, group := 1, completed := 1, released := 0, arrived := [], remote := 0 }
   b.released < b.completed ∧ base.groupOf base.me b.level = b.group ∧ { b with released := 1 }.completed ≤ { b with released := 1 }.released) ∧
  (FMap.get [] (q 0).rgetQueue 0 = (1, 30) :: [] ∧ base.me.blocks ≤ (base.freeBlocks 0 0).length ∧ (crowded.freeBlocks 0 0).length < crowded.me.blocks) ∧
  (FMap.get [] (q 1).rgetQueue 0 = [(9, 3)] ++ [(1, 30)] ∧ base.registersStuck 0 = false) ∧ base.exitReady base.me = true ∧ (waiting base).exitReady base.me = false := by
  unfold MayTrap; decide +kernel
/-- 128 ladles of one core hold every block, and all wait for an extended one. -/
theorem witness_LadleEvents_stuck : let w := { lad with sp := { lad.sp with blocked := .rget 3 } }
  let s := { base with me := w, rest := (List.range 127).map (fun i => { w with uid := i + 2, place := i + 1 }), rgetQueue := [(0, (List.range 128).map (fun i => (128 - i, (3 : BitVec 6))))] }
  s.freeBlocks 0 0 = [] ∧ s.registersStuck 0 = true ∧ (FMap.get [] s.rgetQueue 0).getLast? = some (1, 3) := by decide +kernel
theorem witness_WaitsEnd : Meets none 5 ∧ ¬ Meets none 0 ∧ Meets (some 4) 5 ∧ ¬ Meets (some 5) 5 ∧ base.padWord 1 4092 = some 0 ∧ isHbm 0x10000 = true ∧
  sectorOf 0x10000 ∉ (glob2.sliceOf 0).poison ∧ glob2.holdsTile 0 (tileOf 0x10000) = false ∧ glob2.frontReady 0 (tileOf 0x10000) 0 false = true ∧ (glob2.sliceOf 0).watches.length < 128 ∧
  glob2.grantable { glob2.waitReq glob2.me.who 0x10000 none with id := glob2.nextReq, order := glob2.nextReq } = true ∧ glob2.outstanding 1 = [] ∧
  base.unperformed 1 3 0 = false ∧ (waiting base).unperformed 1 3 1 = true := by unfold Meets; decide +kernel
/-- A request that may be granted at each kind of place, and one behind an earlier access of its ladle to the same byte. -/
theorem witness_RequestSlots : let s := { glob2 with requests := [req4 (.store false), { req4 (.load false) with id := 1, order := 1 }] }
  s.requests[0]? = some (req4 (.store false)) ∧ (req4 (.store false)).held = false ∧ s.grantable (req4 (.store false)) = true ∧
  s.wins (req4 (.store false)) = true ∧ s.grantable { req4 (.load false) with id := 1, order := 1 } = false ∧ glob2.grantable (req4 (.atomic false 0)) = true ∧ glob2.grantable { req4 .post with place := .board 0 } = true ∧
  glob2.grantable { req4 (.load false) with place := .pad 1 } = true ∧ glob2.padPaused 1 = false ∧ glob2.grantable { req4 (.load false) with place := .host 0 } = true ∧
  glob2.grantable { req4 .fold with place := .amax 3 } = true ∧
  (let t := { glob2 with retry := [] }
   let y := { req4 (.redg 2 0) with place := (glob2.placeOf 0 0x10000 false false).1 }
   t.grantable y = true ∧ t.wins y = true) ∧ (standing glob2).wins { req4 (.store false) with id := 7 } = false := by decide +kernel
theorem witness_SliceWork : 7 ∈ ((mods base (fun x => { x with miss := [7] })).sliceOf 0).miss ∧ [((7 : Nat), (1 : Nat))].find? (fun e => e.1 == 7) = some (7, 1) ∧
  base.portWins (base.homeOfBoard 5) servicePort none = true ∧ (standing base).homeOfBoard 32 = 0 := by decide +kernel

/-- Launch records: one that R411 allows for a loadable image, and one with a reserved bit. -/
theorem witness_LaunchEvents : let on := base.setReg 0x90d 1
  base.presents 0 true 0 = true ∧ base.presents 0 false 0 = false ∧ (on.reg 0x90d).getLsbD 0 = true ∧ (base.reg 0x90d).getLsbD 0 = false ∧ (on.queueOf 0).length < 64 ∧
  recordBad [0, 0, 0, 0, 0, 0, 0, 0] = false ∧ recordBad [1, 0, 0, 0, 0, 0, 0, 0] = true ∧ base.accepting = true ∧ base.graphsOf 0 < 64 ∧
  (base.recordArgs 0 [0, 0, 0, 0, 0, 0, 0, 0]).isSome = true ∧ (match base.readImage 0 0 with | .error _ => true | .ok _ => false) = true := by decide +kernel
def mould0 : Mould := { mould1 with writes := [] }
def fresh : State := { State.reset with graphs := [{ graph1 with moulds := [mould0], runs := [(0, { ready := true, since := 0, clock := 0, next := 0, committed := 0 })] }], nextUid := 2, owners := (List.range 64).map (fun i => (i, 1)) }
/-- A graph whose only casting is ready and can be placed; a casting with a reservation left; a complete one. -/
theorem witness_DispatchEvents : (∀ k < 16, base.headOf 0 k = none) ∧ fresh.dispatchHeld 0 = false ∧ (∀ j < 16, 0 < j → fresh.headOf 0 j = none) ∧
  (match fresh.headOf 0 0 with
   | some c => c.group == .fresh 1 0 [0] && (fresh.chooseOwners.findCluster 0 mould0 c.group).isSome
   | none => false) = true ∧
  (match fresh.rangeFate graph1 mould0 0 with | .tiles l => fresh.canReserve (fresh.framesFor l) | _ => false) = true ∧ fresh.hold = false ∧
  TheCasting glob cast1 ∧ ({ glob with me := { glob.me with live := false } } : State).isComplete cast1 = true ∧ glob.isComplete cast1 = false ∧ cast1.state = .resident ∧
  (let s : State := { glob with me := { glob.me with live := false } }
   let d : Casting := { cast1 with state := .completed, readyAt := s.ticks }
   (s.completeCasting cast1).mayCommit d = true ∧ s.framesOf 1 = [] ∧ (({ glob2 with me := { glob.me with live := false } } : State).framesOf 1) = [0] ∧
   (({ s with castings := [cast1, { cast1 with uid := 2 }], nextCommit := 2 ^ 31 } : State).completeCasting cast1).mayCommit d = false) ∧
  (let c := { cast1 with reservation := [(0, 0x100, BitVec.allOnes 256)] }
   (∀ e ∈ c.reservation, e.1 = 0 → glob.takesFrames 0 e.2.1 = true) ∧ (glob.sliceOf 0).frames.length + framesIn c.reservation 0 ≤ 8192 * glob.chainWays 0 ∧
   glob.portWins 0 servicePort none = true) := by
  unfold TheCasting; decide +kernel
/-- A casting completed, committing, faulted and discarding, with its messages awaited and gone. -/
theorem witness_CommitEvents : let c := fun (x : CastState) (l : List Nat) => { cast1 with state := x, awaited := l, commitNo := 1, fault := some { casting := 1, cause := .address, pc := 0, rank := 0, cluster := 0, core := 0 } }
  let s := fun (x : CastState) (l : List Nat) => { glob2 with castings := [c x l] }
  let f : Frame := { casting := 1, tile := 0x100, bytes := [(2, 0x55), (255, 1)], declared := 0, tags := [] }
  TheCasting (s .completed []) (c .completed []) ∧ (c .completed []).uid ≠ (s .completed []).nextUid ∧ (s .completed []).mayCommit (c .completed []) = true ∧
  (s .completed []).framesOf 1 = [0] ∧ (s .committing [0]).commitsBefore 0 (c .committing [0]) = false ∧
  ([f].filter (fun f => f.casting == (1 : Nat)) = [f] ∧ f.bytes.Pairwise (fun a b => a.1 < b.1) ∧ isHbm (256 * f.tile) = true ∧ (∀ e ∈ f.bytes, e.1 < 256 ∧ glob2.homeOf (64 * (4 * f.tile + e.1 / 64)) = 0)) ∧
  ((s .committing []).graph? 1 = some graph1 ∧ graph1.moulds = [mould1] ∧ (graph1.run 0).ready = true ∧ mould1.ownCount ≤ (graph1.run 0).committed + 1 ∧ FMap.get [] glob2.spawned 0 = []) ∧
  glob2.portWins 0 servicePort none = true ∧ (s .faulted []).padStoresLeft 1 = false ∧
  cast1.takesFault = true ∧ { cast1 with state := .committing }.takesFault = false ∧ (s .faulted []).mouldOf 1 = some (c .faulted [], graph1, mould1) ∧
  ((c .faulted []).fault.isSome = true ∧ (c .faulted []).awaited = []) ∧ (s .faulted []).relaunches (c .faulted []) graph1 .address = false ∧
  (s .faulted []).relaunches (c .faulted []) graph1 .uncorrectable = true ∧ settled 0 0 = true := by unfold TheCasting; decide +kernel
/-- A split that waits for a page the tables do not hold, and one whose casting is already suspended. -/
theorem witness_TranslationEvents : let s := blocked glob (.walk 0x40000000 .read)
  let sus : Suspension := { va := 0x40000000, kind := .read, reason := 0, seq := 5, pc := 0, rank := 0, cluster := 0, core := 0 }
  let r := casts glob (fun c => { c with suspension := some sus })
  s.walks[0]? = some (s.me, s.me.sp, 0x40000000, .read) ∧ base.walks[0]? = none ∧ (match s.walk 0 0x40000000 .read with | .error _ => true | .ok _ => false) = true ∧
  s.mouldOf s.me.casting = some (cast1, graph1, mould1) ∧ TheCasting s cast1 ∧ cast1.suspension = none ∧
  (let head := base.reg 0x903
   (head - base.reg 0x904).toNat < 2 ^ ((base.reg 0x902).toNat % 16) ∧ 2 ^ ((base.reg 0x902).toNat % 16) ≤ (((base.setReg 0x903 64).reg 0x903) - base.reg 0x904).toNat) ∧
  r.waitingFor 0 5 = some ({ cast1 with suspension := some sus }, sus) ∧ base.waitingFor 0 5 = none ∧ { cast1 with suspension := some sus }.takesFault = true := by
  unfold TheCasting; decide +kernel
/-- One page for the whole of virtual memory: a leaf entry in the top level, at a root in host memory (R420). -/
theorem witness_TranslationEvents_leaf : let s := { base with tlb := [page0] }
  s.cached 0 0 0x10000 .read = some { base := 0, log := 30, pa := 0, fmt := 0, rpl := false, x := true, w := true, r := true } := by decide +kernel
/-- The die's cache answers for a cluster that has not cached the page (R422). -/
theorem test_walk_in_die_cache : let s := { blocked base (.walk 0x10000 .read) with tlb := [{ page0 with cluster := 64 }] }
  s.cached 0 0 0x10000 .read = none ∧ (match exec (.translationWalk 0) s with | .next t => (t.cached 0 0 0x10000 .read).isSome | _ => false) = true := by decide +kernel
theorem theCasting_glob : TheCasting glob cast1 := by unfold TheCasting; decide +kernel
theorem witness_PreemptionEvents : cast1.part < 24 ∧ glob.preempting 0 = false ∧ (casts glob (fun c => { c with preempt := some true })).preempting 0 = true ∧
  cast1.state = .resident ∧ glob.restartable cast1 = true ∧ glob.restartable { cast1 with unversioned := true } = false ∧ glob.sameGang 1 1 = true ∧
  glob.freeSlot 0 = none ∧ (glob.setReg 0x207 1).freeSlot 0 = some 0 ∧ glob.hasControl cast1 = false ∧
  ({ glob with graphs := [{ graph1 with moulds := [{ mould1 with control := true }] }] }).hasControl cast1 = true ∧
  (let c := { cast1 with preempt := some true, started := true, saveSlot := some 0 }
   let s := { (glob.mapMe (fun l => { l with stopped := true })) with castings := [c] }
   s.canSave c = true ∧ (∀ d ∈ s.castings, d = c) ∧ c.saveSlot.isSome = true ∧ s.mouldOf 1 = some (c, graph1, mould1)) ∧ (casts glob (fun c => { c with started := true })).canSave { cast1 with started := true } = false := by decide +kernel
theorem noWatches_glob : ∀ n, (glob.sliceOf n).watches = [] := fun _ => rfl
/-- The split register of partition 0 names no domain. -/
def split0 : State := base.setReg 0x440 0x200000000
theorem otherWays_split0 (n : Nat) (h : n / 32 = 0) : split0.otherWays 0 n = 0 := by
  unfold State.otherWays
  rw [h]
  rfl
/-- One pin way in every slice of the die, and none: both are taken. -/
theorem splitFree (v : Word64) (hv : v = 0x0003000200010000 ∨ v = 0x200000000) : split0.splitRefused 0 0 v = false := by
  have hs : ∀ n ∈ dieSlices 0, n / 32 = 0 ∧ (split0.sliceOf n).frames.length + split0.promised n = 0 := by
    intro n h
    obtain ⟨i, hi, rfl⟩ := List.mem_map.mp h
    exact ⟨by have := List.mem_range.mp hi; omega, rfl⟩
  unfold State.splitRefused
  simp only [Bool.or_eq_false_iff]
  refine ⟨⟨⟨⟨rfl, rfl⟩, ?_⟩, rfl⟩, ?_⟩
  · rcases hv with rfl | rfl <;> decide
  · rw [List.any_eq_false]
    intro n h
    rw [otherWays_split0 n (hs n h).1, (hs n h).2]
    unfold State.pinWays State.scratchWays
    generalize split0.splitCovers v (n / 32) (n % 32) = b
    rcases hv with rfl | rfl <;> cases b <;> decide
/-- HASH_CTL with every range empty is taken; the last live slice may not retire; a split register value with an overlap. -/
theorem witness_RegisterEvents : let last := base.setReg 0x41b 8
  base.goRefused 0 = false ∧ { base with homeChanges := [{ die := 0, retire := none, switched := [] }] }.goRefused 0 = true ∧ base.lastLive 0 3 = false ∧ last.lastLive 0 3 = true ∧
  split0.splitReach 0 (split0.reg 0x440) 0x0003000200010000 ≠ [] ∧ split0.splitReach 0 (split0.reg 0x440) 0x200000000 = [] ∧
  (let w : Word64 := 0x0003000200010001
   w.extractLsb' 0 16 &&& w.extractLsb' 16 16 ≠ 0 ∧ split0.splitRefused 0 0 w = true) ∧
  ({ base with boards := [(0, boardOf 0x0100000000000100)] }.board 0).assigned = true ∧ base.boardResets = [] ∧ (base.board 0).members < 512 ∧
  (popc (0b11 : BitVec 6) = 2 ∧ popc (0b100000 : BitVec 6) = 1) ∧ base.controlHeld 0 = false ∧ { ctl with castings := [cast1] }.controlHeld 0 = true ∧
  base.vfPresented 0 = false ∧ ({ base with vfEnable := Vector.replicate 2 true } : State).vfPresented 0 = true ∧ base.pfPresented = true ∧ (base.writeReg 0x301 9).isSome = true ∧
  (glob.writeReg 0x580 0).isNone = true ∧ regAssigned 0x1ff = false := by decide +kernel
theorem witness_PartitionEvents : base.partBusy 0 = false ∧ glob.partBusy 0 = true ∧ (3 : Nat) ∉ base.fmtLoads ∧ (base.readWords 0 (base.reg 0x500).toNat 1024).isNone = true ∧
  ((base.setReg 0x908 1).reg 0x908).toNat = 1 ∧ { base with shootdowns := [(0, 1)] }.shootdowns.find? (fun e => e.1 == 0) = some (0, 1) ∧ base.accessBefore 0 1 = false ∧
  (waiting base).accessBefore 0 1 = true ∧ isHost 0 = false := by decide +kernel
/-- A home change before and after its slices drain, with all but one switched; a retirement that slice scratch holds up; a request to be sent again. -/
theorem witness_HomeEvents : let h := fun (sw : List Nat) => ({ die := 0, retire := none, switched := sw } : HomeChange)
  let s := fun (sw : List Nat) => { base with homeChanges := [h sw], slices := (List.range 32).map (fun i => (i, { base.sliceOf 0 with drained := true })) }
  base.portWins 3 servicePort none = true ∧ base.homeChange? 0 = none ∧ (s []).homeChange? 0 = some (h []) ∧ (∀ m < 32, ((s []).sliceOf m).drained = true) ∧
  (∀ m < 32, m ≠ 3 → m ∈ (h ((List.range 32).filter (· != 3))).switched) ∧ base.framesHeld 3 = false ∧ base.scratchHeld 3 = false ∧ glob2.framesHeld 0 = true ∧
  ({ glob with castings := [{ cast1 with scratchSlices := [3] }] }.scratchHeld 3) = true ∧
  { base with rehomed := [req4 (.load false)] }.rehomed[0]? = some (req4 (.load false)) ∧ base.grantable (req4 (.load false)) = true ∧
  ({ base with splitChanges := [{ part := 0, die := 0, value := 0, left := [0, 1] }] }.splitChanges.find? (fun e : SplitChange => decide (e.part = 0) && decide (e.die = 0))).isSome = true := by decide +kernel
/-- A column due and free, one held by another of its group, one that realigns; a temperature at each threshold. -/
theorem witness_ColumnEvents : let d : Column := { base.column 0 0 with due := true }
  (d.due = true ∧ d.retrain = false ∧ ∀ j < 160, j / 4 = 0 → (base.column 0 j).retrain = false) ∧ base.transferOn 0 0 = false ∧
  ([95, 100, 105].filter (fun t => decide (t ≤ 95))).length = 1 ∧ ([95, 100, 105].filter (fun t => decide (t ≤ 105))).length = 3 ∧ (∀ e < 2, ∀ j < 160, (base.column e j).temp + 5 < 110) ∧
  (∀ e ∈ base.returning, e.1 ≠ 3) ∧ (tileR .pin).pend = none ∧ (req4 (.load false)).pend = some 0 ∧ (req4 (.load false)).who.ladle = base.me.uid := by decide +kernel
/-- A request of cluster 0 stands at slice 0: its port was granted less recently than the service port. -/
theorem witness_RepairEvents : let s := mods base (fun x => { x with pins := [(7, 0)], dirty := [28], errors := [225] })
  s.inRings 0 28 = true ∧ base.inRings 0 28 = false ∧ (s.sliceOf 0).unwritten 7 = false ∧ ((mods base (fun x => { x with pins := [(7, 0)] })).sliceOf 0).unwritten 7 = true ∧
  s.portWins 0 servicePort none = true ∧ (standing glob2).portWins 0 servicePort none = false ∧ (∃ w ∈ (s.sliceOf 0).errors, w / 8 = 28) ∧ (base.sliceOf 0).errors = [] ∧
  ((mods s (fun x => { x with scrub := some (0, 28, true) })).sliceOf 0).scrub = some (0, 28, true) ∧
  (glob2.holds (.frame 0 1 0x100) = true ∧ s.holds (.ring 0 28) = true ∧ base.holds (.registers 1) = true ∧ base.me.live = true ∧ base.holds (.pad 9) = false) ∧
  (base.setReg 0x810 0x400).sliceFails 0 = true ∧ base.sliceFails 0 = false ∧ (base.setReg 0x810 0x3ff).sliceFails 0 = false ∧ (base.reg 0x800).getLsbD 0 = true ∧ (base.reg 0x800).getLsbD 1 = true ∧
  base.lastLive 0 0 = false ∧ base.controlHeld 5 = false := by decide +kernel
def gangs (e : GangStart) : State := { glob with graphs := [{ graph1 with moulds := [{ mould1 with gang := true, board := 4, rank := 1, members := 2 }] }], gangs := [e] }
/-- A gang start before and after its post, with each outcome; its board closed, full and past level 0. -/
theorem witness_GangStarts : let e : GangStart := { graph := 1, mould := 0, posted := false, watchdog := false, outcome := none, started := false }
  let b : Board := { members := 2, level := 0, mask := 1, values := [], assigned := true, owner := 0 }
  (gangs e).gangStart? 1 0 = some e ∧ glob.gangStart? 1 0 = none ∧ ((gangs e).startMould 1 0).isSome = true ∧ (gangs { e with outcome := some true }).gangStart? 1 0 = some { e with outcome := some true } ∧
  (¬ ∀ i < b.members, b.mask.getLsbD i = true) ∧ (∀ i < b.members, (b.mask ||| BitVec.ofNat 256 (2 ^ 1)).getLsbD i = true) ∧ (gangs e).startCastings 1 0 = [cast1] ∧ cast1.takesFault = true ∧
  mould1.package = (gangs e).pkg ∧ { mould1 with package := 1 }.package ≠ (gangs e).pkg ∧ (4 : Nat) / 4096 = base.pkg ∧ (4100 : Nat) / 4096 ≠ base.pkg ∧
  (gangs { e with posted := true }).waitsOn 4 { e with posted := true } = true := by decide +kernel
/-- Partition 1 stands above its share while a casting of partition 0 has waited and can be placed nowhere. -/
theorem witness_ServiceEvents : let c := { cast1 with uid := 9, part := 1 }
  let s := { fresh with windows := [(1, 100)], castings := [c], service := 2 ^ 40, outOfService := List.range 320 }
  s.windows.Pairwise (fun a b => a.1 < b.1) ∧ glob.clusterHeld 0 = true ∧ base.clusterHeld 0 = false ∧ base.wanting 0 = [] ∧ fresh.wanting 0 = [0] ∧
  (s.reg 0x306).getLsbD 0 = true ∧ (0 : Int) < (1024 * 100 : Nat) - (((0 + 64) * 100 : Nat) : Int) ∧ s.overShare = [1] ∧ s.starved 0 = true ∧ fresh.starved 0 = false ∧
  s.preempting 1 = false ∧ s.latestOf 1 = some c ∧ base.overShare = [] := by decide +kernel
theorem witness_HostAccesses : base.links.toList.getD 0 false = true ∧ base.links.toList.getD 2 false = false ∧ (∀ k < 2, 0x10000 + k < 0xc000000000 ∧ base.domainOf (dieOf (0x10000 + k)) (dieOffset (0x10000 + k)) ≠ none) ∧
  (∀ k < 4, glob2.poisoned (0x10000 + k) = false) ∧ ({ base with vfEnable := Vector.replicate 2 true } : State).vfPresented 0 = true ∧ base.walkAddr 0 0x10000 .read = none := by decide +kernel
theorem witness_ManagementEvents : base.accepting = true ∧ [((5 : Nat), (6 : BitVec 16)), (9, 1)].Pairwise (fun a b => a.1 < b.1) ∧ (∀ k < 160, (base.column 0 k).temp ≤ 0) ∧
  (∃ k, k < 160 ∧ (base.column 0 k).temp = 0) ∧
  (let r := { boardReq base.me.who .boardRead 0 0 none with id := 3, place := .remote 5 }
   ({ base with requests := [r] } : State).requests.find? (fun q => q.id == 3) = some r) := by
  refine ⟨rfl, by decide, by decide +kernel, ⟨0, by decide, rfl⟩, by decide +kernel⟩
theorem witness_EncodingRoundTrip : (Instr.bar 2 2 7).wf = true ∧ (Instr.loop 16 63 0 31).wf = true ∧ reads 0xac151558 (.loop 1 20 21 22) := by decide
/-- A word in memory at the mapped program counter; one that does not decode; one in a loop body. -/
theorem witness_StepRunsDecoded : let s := { glob with mem := Memory.writeBytes [] 0 [0x0a, 0x45, 0x01, 0x30], service := 0 }
  s.agenda = [] ∧ s.me.canRun = true ∧ s.me.canIssue s.me.sp = true ∧ s.me.splits = [] ∧ s.me.pend = [] ∧ s.retrains s.me.cluster s.me.core = false ∧
  (s.physical s.me.who 0 .fetch).toOption.map (·.1) = some 0 ∧ (decode ((List.range 4).map (fun k => s.mem.read k))).toOption.map (·.1) = some (.fadd 0 0 0 20 20 10) ∧
  s.interlocked (.fadd 0 0 0 20 20 10) = false ∧ (match decode [0, 0, 0, 0] with | .error _ => true | .ok _ => false) = true ∧ (inLoop loop1).me.sp.looping = true := by decide +kernel
theorem witness_StepKeepsMemoryCanonical : State.reset.memOk ∧ glob2.memOk := by unfold State.memOk Memory.wf; decide +kernel
/-- Exceptions that are enabled at a landing point, with a handler, without one, and with no permit free. -/
theorem witness_LongLaneInstructions_traps : let s := (withV base 3 (fun j => if j = 0 then 0x4b800000 else 0x3f800000)).mapMe (fun l => { l with fmode := 0x900, tvec := 0x1000 })
  let x := (List.range 32).map (fun j => laneAt (s.me.getV 3) j)
  (enabled s.me (pairTree (reduceOp 1 .ne) 5 (x, 0)).2 ≠ 0 ∧ enabled s.me (scanStages (reduceOp 1 .ne) (lanesOf s.me 0) 5 1 (x, 0)).2 ≠ 0 ∧
   enabled s.me (unionExc (lanesOf s.me 0) (fun _ => sfu 0 0)) ≠ 0) ∧
  (s.me.sp.looping = false ∧ s.me.sp.mask &&& lanesOf s.me 0 ≠ 0 ∧ s.me.sp.mask &&& s.me.exchangeWrites (lanesOf s.me 0) ≠ 0 ∧ MayTrap s) ∧
  base.me.tvec.toNat / 4 % 2 ^ 55 = 0 ∧ { s with rest := (List.range 4).map (fun i => { lad with uid := i + 2, permit := true }) }.permitFree = false := by
  unfold MayTrap enabled lanesOf; decide +kernel
/-- A handler returns over a suspended result whose count has reached 0, and over one whose count has not. -/
theorem witness_TrapsAndReturns_suspended : let p := fun (n : Nat) => { base.me.newPending (.lane 1) 0 3 (List.replicate 32 7) with counts := Vector.replicate 32 n, suspended := true }
  let s := fun (n : Nat) => base.mapMe (fun l => { l with handlerActive := true, pend := [p n] })
  (Running (s 0) ∧ (s 0).me.pend = [p 0] ∧ (p 0).suspended = true ∧ (p 0).missing = 0 ∧ (p 0).fault = none ∧ (p 0).lanes ≠ 0 ∧ (p 0).exceptions &&& (p 0).enables = 0 ∧
    (p 0).dest = .lane 1 ∧ (s 0).me.handlerActive = true ∧ (s 0).me.tpc.toNat % 4 = 0 ∧ (s 0).me.deferred = false) ∧
  (∀ j : Fin 32, (p 0).counts[j] = 0) ∧ (∀ j : Fin 32, (p 2).counts[j] ≠ 0) := by unfold Running; decide +kernel
/-- A post and a read at a board of partition 0: at a good handle, with a stored slot and an empty one, and at four bad ones. -/
theorem witness_NoticeBoards_home : let b : Board := { members := 2, level := 5, mask := 3, values := [(0, 9, 5)], assigned := true, owner := 0 }
  let s := { base with boards := [(4, b)] }
  let r := fun (h : Word64) => boardReq s.me.who .boardRead h 0 (some 0)
  let bad := fun (h : Word64) => let b := FMap.get Board.fresh s.boards (h.toNat / 2 ^ 42)
    h.toNat / 2 ^ 32 % 4 ≠ 0 ∨ (h.toNat / 2 ^ 54 ≠ s.pkg ∧ s.routed (h.toNat / 2 ^ 54) = false) ∨ b.assigned = false ∨ b.owner ≠ (r h).who.part ∨ b.members ≤ h.toNat / 2 ^ 34 % 256
  (((r 0).ops.length = 1 ∧ (r 0).pend = some 0 ∧ (r 0).late = [] ∧ (r 0).who.ladle = s.me.uid) ∧ ¬ bad 0x100000000000 ∧ ¬ bad 0x100400000000) ∧
  (bad 0x100100000000 ∧ bad 0x40100000000000 ∧ bad 0x140000000000 ∧ bad 0x100800000000) ∧
  b.values.find? (fun e => e.1 == (0 : Nat)) = some (0, 9, 5) ∧ (∀ e ∈ b.values, e.1 ≠ 1) := by decide +kernel
/-- Format `f` at descriptor 1, and a byte of scale 255 at 0x10200. -/
def formats (f : Nat) : State :=
  { glob2 with fmt := [(1, [BitVec.ofNat 64 (2 ^ 63 + f * 2 ^ 56), 0, 0, 0])], mem := glob2.mem.write 0x10200 255 }
def elem (f : Nat) (scale : Option Nat) : LaneOp := { op4 with desc := 1, bit := 0, width := fmtBits f, scale := scale }
/-- Elements of every format, with no scale byte, with one below 255 and with 255; and a declared store of one. -/
theorem witness_PlainAccesses_elements : ∀ f : Fin 11, ∀ scale ∈ [none, some 0x10300, some 0x10200],
    let s := formats f
    let o := elem f scale
    let r := fun k => { req4 k with ops := [o] }
    (∀ k, AtHome s (r k) 0 o) ∧ ElemOp s 0 o ∧ (s.desc 0 1).fmt = f.val ∧ (s.desc 0 1).ae = false ∧ (r (.load true)).pend = some 0 ∧
    s.requestRaces (r (.load true)) false = false ∧ s.requestRaces (r (.store true)) true = false ∧
    (∀ b ∈ o.bytes, ∃ f ∈ (s.sliceOf 0).frames, f.casting = 1 ∧ f.tile = tileOf b) ∧
    o.scale.map (fun a => (s.scaleView (r (.load true)) o a).toNat) = scale.map (fun a => if a = 0x10200 then 255 else 0) := by
  intro f scale hs
  have h : (∀ b ∈ op4.bytes, isHbm b = true ∧ (formats f).homeOf b = 0 ∧ tileOf b = 0x100) := by revert f; decide +kernel
  refine ⟨fun k => ⟨rfl, rfl, rfl, rfl, rfl, h, by simp [elem, op4], fun n => ?_, fun w => noPoison_slices (formats f) rfl _ w⟩, ?_⟩
  · cases n <;> rfl
  · clear h
    revert f scale
    unfold ElemOp
    decide +kernel

theorem witness_Waits : NoPadWaits base ∧ (∀ pa ∈ [0x10000, 0x10004], glob.lateAt (glob.waitReq glob.me.who pa none) = []) ∧ glob.me.casting ≠ 0 := by
  unfold NoPadWaits; refine ⟨?_, by decide +kernel⟩
  refine ⟨fun l hl x hx u o w d => ?_, by decide⟩
  have h : ∀ l ∈ base.me :: base.rest, ∀ x ∈ l.sp :: l.splits, x.blocked = .ready := by decide
  rw [h l hl x hx]
  simp
theorem witness_MatrixUnit_suspends : (queued (entryOf (.msetmRow 1 2 3) 0xf0 1 false 0)).dropping 1 = false ∧
  (∀ q ∈ (queued (entryOf (.msetmRow 1 2 3) 0xf0 1 false 0)).outstanding 1, q.kind = .fold → q.engine = none) := by decide +kernel
/-- Another chain of the cluster waits for the word that a SIGNAL writes; a WAITW that a write has met. -/
theorem witness_ChainControl_waits : let c := Chain.begin_ glob.me 1 0 0 0
  let b : Chain := { c with waiting := true, watch := some (1, 0x100, 0, 7) }
  let s := { chained 3 0x100 7 0 with chains := [(0, [c, b])] }
  (s.chainAt 0 0 == some (s.me, c)) = true ∧ s.chainPaused s.me c = false ∧ ((s.fetchEntry c).toOption.map entryKind) = some 3 ∧ s.engineOutstanding 0 = false ∧
  ((s.entryWord s.me 0x100).toOption.map (fun e => (e.1.uid, e.2))) = some (1, 0x100) ∧ s.me.live = true ∧ s.me.pad.size ≠ 0 ∧ (s.chainList 0)[1]? = some b ∧
  chainCond 0 7 7 = true ∧ ({ b with met := true }.met = true ∧ b.met = false ∧ c.waiting = false) ∧ ∀ e ∈ (chained 3 0x100 7 0).chains, ∀ b ∈ e.2, b.watch = none := by decide +kernel
/-- A value, with its data come and not, an operation, and neither is the next that a shadow takes. -/
theorem witness_WaitsEnd_shadow : let v : ShadowValue := { order := 0, pend := some 5, vals := [] }
  let e : ShadowItem := { order := 1, pc := 0, requests := [], outcome := [] }
  let x := fun vs es : List _ => ({ v := base.me.v, s := base.me.s, k := base.me.k, values := vs, buffer := es } : Shadow)
  let waits := base.mapMe (fun l => { l with pend := [{ l.newPending (.lane 1) 0 3 [] with id := 5, missing := 1 }] })
  (x [v] [e]).valueFirst = true ∧ (x [v] []).valueFirst = true ∧ (x [{ v with order := 2 }] [e]).valueFirst = false ∧ (x [] [e]).valueFirst = false ∧ (x [] []).valueFirst = false ∧
  base.me.valueCome (x [v] [e]) = true ∧ waits.me.valueCome (x [v] [e]) = false ∧ base.padPaused 1 = false ∧ base.sent = [] ∧
  glob2.wins { glob2.waitReq glob2.me.who 0x10000 none with id := glob2.nextReq, order := glob2.nextReq } = true ∧
  glob2.lateAt { glob2.waitReq glob2.me.who 0x10000 none with id := glob2.nextReq, order := glob2.nextReq } = [] ∧ glob2.me.casting ≠ 0 ∧
  (glob2.sliceOf 0).watches = [] := by decide +kernel
theorem witness_SliceWork_still : let still := { base with columns := [(columnKey 0 0, { base.column 0 0 with retrain := true })] }
  (still.column 0 0).retrain = true ∧ (base.column 0 0).retrain = false ∧ (∃ d ∈ ((mods base (fun x => { x with dirty := [28] })).sliceOf 0).dirty, d / 4 = 7) ∧
  (∀ d ∈ (base.sliceOf 0).dirty, d / 4 ≠ 7) ∧ (base.sliceOf 0).writeBack = [] := by decide +kernel
theorem witness_DispatchEvents_one : (∀ q < 24, ∀ k < 16, base.headOf q k = none) ∧ (∀ h ∈ fresh.graphs, h.part = 0) ∧ fresh.castings = [] ∧ (∀ d ∈ fresh.ladles, d.casting ≠ fresh.nextUid) ∧
  (let c := { cast1 with reservation := [(0, 0x100, BitVec.allOnes 256)] }
   (glob.sliceOf 0).frames.length + framesIn c.reservation 0 ≤ 8192 * glob.frameWays 0 ∧ 8192 * glob.frameWays 0 < 8192 * 16 + 1) := by decide +kernel
/-- An interrupt that is sent, and ones that the function and the vector mask keep. -/
theorem witness_CommitEvents_interrupts : let e := fun (s : State) => FMap.get (false, false) s.msixEnable 1
  let m := fun (s : State) => (e s).2 || (FMap.get (0, 0x100000000) s.msixTable 64).2.getLsbD 32
  let on := { glob with msixEnable := [(1, true, false)], msixTable := [(64, 0, 0)] }
  ((e on).1 = true ∧ m on = false) ∧ (e glob).1 = false ∧ m { on with msixTable := [] } = true ∧
  glob.entriesLeft cast1 = false ∧ ({ glob with chains := [(0, [{ Chain.begin_ glob.me 1 0 0 0 with entry := [1] }])] } : State).entriesLeft cast1 = true := by decide +kernel
theorem witness_HomeEvents_replay : base.wins (req4 (.load false)) = true ∧ (standing glob2).wins { req4 (.store false) with id := 7 } = false ∧ base.hold = false ∧
  (standing glob2).hold = true ∧ (base.homeChange? (0 / 32)).isSome = false := by decide +kernel
/-- A clean tile, and a dirty one, of rings 1 to 4 or of a version frame; a store on its way that meets an error. -/
theorem witness_RepairEvents_marks : let s := mods base (fun x => { x with pins := [(7, 0)] })
  let d := mods base (fun x => { x with pins := [(7, 0)], dirty := [28], replicas := [] })
  let clean := fun (s : State) => (s.sliceOf 0).resident 7 = true ∧ (s.sliceOf 0).unwritten 7 = true
  let r := { req4 (.store false) with pend := none, place := .pad 1, id := 5 }
  clean s ∧ ¬ clean d ∧ (d.sliceOf 0).replica? 7 = none ∧ (∃ f ∈ (glob2.sliceOf 0).frames, f.casting = 1 ∧ f.tile = 0x100) ∧ glob2.inRings 0 0x400 = false ∧
  base.holds (.pad 1) = true ∧ ({ base with requests := [r] } : State).sent.find? (fun q => q.id == (5 : Nat) && q.who.ladle == base.me.uid) = some r ∧
  (base.reg 0x800).getLsbD 16 = false ∧ ((base.setReg 0x800 0x10000).reg 0x800).getLsbD 16 = true := by decide +kernel
theorem witness_GangStarts_clear : cast1.fault = none ∧ (∀ c ∈ (gangs { graph := 1, mould := 0, posted := false, watchdog := false, outcome := none, started := false }).startCastings 1 0, c.fault = none) := by
  decide +kernel
/-- A cluster that its owner can use no longer stays with it; one goes to the only partition that wants it. -/
theorem witness_ServiceEvents_owner : (fresh.owners ≠ [] ∧ FMap.get 0 fresh.owners 5 = 0 + 1 ∧ { fresh with graphs := [] }.wanting 5 = [] ∧ { fresh with graphs := [] }.clusterHeld 5 = false) ∧
  FMap.get 0 base.owners 5 = 0 ∧ fresh.wanting 5 = [0] := by decide +kernel
/-- A slice that cannot take a host's access: its miss registers are all taken. -/
theorem witness_HostAccesses_waits : let s := mods base (fun x => { x with miss := (List.range 1024).map (· + 5000) })
  (base.requests = [] ∧ ∀ n < 64, (base.sliceOf n).drained = false ∧ (base.sliceOf n).miss.length + 256 ≤ 1024) ∧ s.homeOf 0x10000 = 0 ∧
  (s.sliceOf 0).resident (tileOf 0x10000) = false ∧ tileOf 0x10000 ∉ (s.sliceOf 0).miss ∧ 1024 ≤ (s.sliceOf 0).miss.length ∧ s.homeOf (256 * (0x10000 / 256)) = 0 := by decide +kernel
theorem witness_HostAccesses_free : ∀ n, (base.sliceOf n).drained = false ∧ (base.sliceOf n).miss.length + 256 ≤ 1024 := fun n => ⟨rfl, (by decide : 0 + 256 ≤ 1024)⟩
/-- Before bring-up, and in recovery; a security version that the package accepts. -/
theorem witness_ManagementEvents_bringUp : ({ base with enabled := false } : State).enabled = false ∧ base.enabled = true ∧ base.recovery = false ∧
  (∃ v : BitVec 8, Sys2Proof.Config.fusedMinimum.toNat ≤ v.toNat) ∧ ({ base with recovery := true } : State).recovery = true := ⟨rfl, rfl, rfl, ⟨_, Nat.le_refl _⟩, rfl⟩
theorem witness_StepRunsDecoded_pool : poolEvent (.graphLoad 0) = true ∧ poolEvent (.writeBack 0) = false ∧
  (match exec (.graphLoad 0) base with | .next _ => true | _ => false) = true ∧ base.retrains 0 0 = false ∧
  ({ base with columns := [(columnKey 0 32, { base.column 0 32 with retrain := true })] } : State).retrains 0 0 = true := by decide +kernel
theorem witness_LaunchEvents_links : base.presents 0 true 0 = true ∧ base.presents 0 true 5 = false ∧ ({ base with vfEnable := Vector.replicate 2 true } : State).presents 0 false 0 = true := by decide

/-! ### Slots that are lost, errors in stored words, and values of the number formats -/

def isStand {α : Type} (x : Except Stop α) : Bool := match x with | .error (.stand _) => true | _ => false
/-- A load of the owning core stands at banks 0 to 3, where an engine's request then waits. -/
def busyBank (s : State) : State :=
  { s with requests := [{ req4 (.load false) with place := .pad 1, arrived := some 0, id := 7, ops := [{ op4 with bytes := List.range 32 }] }] }
/-- Sector `k` of slice 0 cannot be read. -/
def spoiled (s : State) (k : Nat) : State := mods s (fun x => { x with poison := [k] })

/-- Numbers, a quiet and a signalling NaN, an infinity and zero; 2^128 is above every F32 number. -/
theorem witness_NumberFormats_values : let d := fun c => f32.decode c
  IsNumber (d 0x3f800000) ∧ (d 0x7fc00000).isNan = true ∧ (d 0x7fc00000).isSignalling = false ∧ (d 0x7f800001).isSignalling = true ∧ (d 0xff800000).isInf = true ∧
  (d 0).isZero = true ∧ (d 0x80000000).isNeg = true ∧ (d 0x3f800000).isNan = false := by unfold IsNumber; decide
theorem witness_NumberFormats_overflow : ∃ r : ℚ, valueOf (f32.decode f32.maxCode) < |r| ∧ OnGrid f32 f32.qmin r := by
  have h : f32.decode f32.maxCode = .fin false (2 ^ 24 - 1) 104 := by decide
  refine ⟨(2 : ℚ) ^ (128 : ℤ), ?_, 1, 128, by decide, by decide, ?_⟩
  · rw [h, abs_of_pos (by positivity)]
    norm_num [valueOf]
  · rw [abs_of_pos (by positivity)]
    norm_num
theorem witness_Branches_trailed : Settled (trailed 0) ∧ ((withS (trailed 0) 5 8).me.getS 5).toNat % 4 = 0 ∧ ((trailed 0).me.getS 63).toNat % 4 = 0 := by
  unfold Settled Running; decide +kernel
theorem witness_LoopStarts_error : isErr ((spoiled glob 0).captureWords 4 1) (.fault .uncorrectable) = true ∧ glob.noErrors = true := by decide +kernel
/-- A second ladle that has arrived, and one that has not; a mould whose other packages have, and have not; a gang without one of its castings. -/
theorem witness_Barriers_phase : let two := fun (a : List Nat) => { base with rest := [{ lad with uid := 2 }], barriers := [{ Barrier.start 1 5 1 with arrived := a, completed := 3 }] }
  let m := { mould1 with gang := true, members := 2 }
  let g := fun (n : Nat) => { glob with graphs := [{ graph1 with moulds := [m] }], barriers := [{ Barrier.start 3 5 (2 ^ 80) with remote := n }] }
  let lanes := (base.me.bar 21).lanes ||| base.me.sp.mask
  (lanes ≠ 0 ∧ base.me.liveLanes &&& ~~~lanes = 0) ∧ ((two [2]).barrier 1 5 1).arrived = [2] ∧ ((two []).barrier 1 5 1).arrived = [] ∧
  (∀ a, (two a).groupOf (two a).me 1 = 1 ∧ (two a).groupOf { lad with uid := 2 } 1 = 1) ∧
  ((g 1).groupOf (g 1).me 3 = 2 ^ 80 ∧ (g 1).othersArrived ((g 1).barrier 3 5 (2 ^ 80)) = true ∧ (g 0).othersArrived ((g 0).barrier 3 5 (2 ^ 80)) = false) ∧
  (let s := casts (g 0) (fun c => { c with state := .ready })
   glob.groupAbsent 2 (2 ^ 80) = false ∧ s.groupAbsent 2 (2 ^ 80) = true) := by
  refine ⟨by decide +kernel, by decide +kernel, by decide +kernel, fun a => ⟨rfl, rfl⟩, by decide +kernel, by decide +kernel⟩

/-- A stream at the word at 0x10000 whose next number is 0, with contributions that wait. -/
def gapped (cs : List Contribution) : State := mods glob2 (fun x => { x with cursors := [(0x10000, 1)], buffer := cs })
def contribution (n : Nat) (last : Bool) : Contribution := { target := 0x10000, seq := n, last := last, op := 2, x := 1 }
theorem atHome_gapped (cs : List Contribution) (k : ReqKind) : AtHome (gapped cs) (req4 k) 0 op4 := by
  have h : ∀ b ∈ op4.bytes, isHbm b = true ∧ (gapped cs).homeOf b = 0 ∧ tileOf b = 0x100 :=
    (by decide +kernel : ∀ b ∈ op4.bytes, isHbm b = true ∧ glob2.homeOf b = 0 ∧ tileOf b = 0x100)
  refine ⟨rfl, rfl, rfl, rfl, rfl, h, by decide, fun n => ?_, fun w => noPoison _ (fun n => ?_) _ w⟩
  · cases n <;> rfl
  · cases n with
    | zero => exact ⟨rfl, (by decide : ∀ f ∈ (glob2.sliceOf 0).frames, f.lost = []), rfl⟩
    | succ n => exact ⟨rfl, List.forall_mem_nil _, rfl⟩
/-- A gap that contribution 0 fills up to the last, 2; a number that waits already; one past the last; a full buffer and a full table. -/
theorem witness_ReductionsInOrder_waiting : (∀ cs, AtHome (gapped cs) (req4 (.redg 2 0)) 0 op4) ∧ RawOp op4 4 ∧
  (let x := (gapped [contribution 2 true, contribution 1 false]).sliceOf 0
   let entry := fun (i : Nat) => (x.buffer ++ [contribution 0 false]).find? (fun c => decide (c.target = 0x10000) && decide (c.seq = (0 + i) % 2 ^ 31))
   FMap.get 0 x.cursors 0x10000 - 1 = 0 ∧ x.buffer.length < 256 ∧ (∀ i < 3, ∃ c, entry i = some c ∧ (c.last = true → i + 1 = 3)) ∧ entry 3 = none ∧ (entry 2).any (·.last) = true) ∧
  (∃ c ∈ ((gapped [contribution 1 false]).sliceOf 0).buffer, c.target = 0x10000 ∧ c.seq = 1) ∧
  (∃ c ∈ ((gapped [contribution 1 true]).sliceOf 0).buffer, c.target = 0x10000 ∧ c.last = true ∧ c.seq < 2) ∧
  256 ≤ ((gapped (List.replicate 256 (contribution 9 false))).sliceOf 0).buffer.length ∧
  (let x := (mods glob2 (fun x => { x with cursors := (List.range 1024).map (fun i => (8 * i, 1)) })).sliceOf 0
   FMap.get 0 x.cursors 0x10000 = 0 ∧ 1024 ≤ x.cursors.length) :=
  ⟨fun cs => atHome_gapped cs _, by unfold RawOp; decide, by decide +kernel, by decide +kernel, by decide +kernel, by decide +kernel, by decide +kernel⟩
/-- An `mmr` step over an integer slot, with its tile in residue mode and not; a depth counter that passes 2^25. -/
theorem witness_AmaxSlotsAndMatrixSteps_residue : let e := entryOf (.mmr 0 0 2 3 4 0 0) 0 0 true 0
  let w : WeightSlot := { valid := true, format := 9, along := true, scales := [], book := 0, codebook := [], elems := [] }
  let s := fun (r : Bool) => (queued e).modMat 0 (fun m => { m with slots := [(4, w)], residue := Vector.replicate 8 r, depth := Vector.replicate 8 (2 ^ 25), md := Vector.replicate 4 (BitVec.ofNat 48 3) })
  ((s true).stepWord (s true).me e).isOk = true ∧ ((s false).stepWord (s false).me e).isOk = true ∧ (s true).me.cluster < 64 ∧
  2 ^ 25 < ((s true).mat 0).depth.get 0 + ((List.range 48).filter (fun d => (((s true).mat 0).md.get 0).getLsbD d)).length := by decide +kernel

/-- A word that reads the scratchpad, with its bank free and with a core's load there; a table in HBM whose entry is poisoned. -/
def tabled : State := spoiled (glob.setReg 0x900 0x20000) 0x800
/-- A global `wload` of one BF16 element, whose slice is free, or has a core's load before it on the cluster's port. -/
def loading (busy : Bool) : State :=
  let s := (queued { entryOf (.wload 0 2 3 4 0 1) 0 0 false 0 with addr := 0x10000, after := 9 }).modMat 0 (fun m => { m with md := Vector.replicate 4 1, mx := Vector.replicate 4 1 })
  { s with tlb := [{ page0 with fmt := 1 }], fmt := [(1, [BitVec.ofNat 64 (2 ^ 63 + 2 * 2 ^ 56), 0, 0, 0])], nextReq := 9,
           requests := if busy then [{ req4 (.load false) with who := { base.me.who with ladle := 3 }, arrived := some 0 }] else [] }
theorem witness_MatrixUnit_stands : let s := loading true
  let e : QEntry := { entryOf (.wload 0 2 3 4 0 1) 0 0 false 0 with addr := 0x10000, after := 9 }
  MatrixHead s 0 s.me e [] ∧ s.unitBegins s.me = true ∧ s.ownOutstanding 1 = [] ∧ isStand (s.startWord s.me e) = true ∧ ((loading false).startWord s.me e).isOk = true ∧
  tabled.translate 0 0 0x40000000 .read = .error walkPoison ∧ glob.translate 0 0 0x40000000 .read ≠ .error walkPoison := by unfold MatrixHead; decide +kernel
/-- The chain of `chained` once it has fetched its entry. -/
def fetchedChain (w : List Word64) : Chain := { Chain.begin_ glob.me 1 0 0 0 with entry := w }
def holding (w : List Word64) : State := (chained (w.getD 0 0) (w.getD 1 0) (w.getD 2 0) (w.getD 3 0)).setChain 0 0 (fetchedChain w)
def entryAt (w : List Word64) (kind : Nat) : Prop := EntryAt (holding w) 0 0 (holding w).me (fetchedChain w) w kind
/-- Each kind of entry once it is fetched; a fetch and a COND whose bank a core's load has; a chain that has nothing fetched. -/
theorem witness_ChainControl_fetched : (entryAt [0x100000000, 0, 0, 0] 0 ∧ entryAt [3, 0x100, 7, 0] 3 ∧ entryAt [0x104, 2, 4, 8] 4 ∧ entryAt [0x20005, 0x100, 7, 0] 5 ∧ entryAt [7, 0x100, 7, 0] 7) ∧
  (let s := chained 3 0x100 7 0
   let c := Chain.begin_ glob.me 1 0 0 0
   BanksFree s ∧ c.entry = [] ∧ c.waiting = false ∧ (s.fetchEntry c).toOption = some [3, 0x100, 7, 0] ∧
   (match (busyBank s).chainRead c c.source (entryOps c.off) with | .error (.stand u) => (u.chainAt 0 0).all (fun e => e.2.entry == []) | _ => false) = true) ∧
  isStand ((busyBank (holding [0x20005, 0x100, 7, 0])).chainWord32 base.me (fetchedChain [0x20005, 0x100, 7, 0]) 0x100) = true := by
  unfold entryAt EntryAt BanksFree; decide +kernel
/-- A COPY with its entry fetched, whose transfer may go and whose bank a core's load has; one whose source is not mapped, and one whose source's
table entry is poisoned; all of it written. -/
theorem witness_ChainTransfers_fetched : entryAt [0x401, 0, 0x200, 3] 1 ∧ entryAt [0x306, 0, 0x200, 3] 6 ∧
  (let w : List Word64 := [0x401, 0, 0x200, 3]
   isStand ((busyBank (holding w)).copyOnce (holding w).me (fetchedChain w) w) = true ∧ ((holding w).copyOnce (holding w).me (fetchedChain w) w).isOk = true ∧
   BanksFree (holding w) ∧ 0 < (w.getD 0 0).toNat / 256 % 2 ^ 24) ∧
  (let w : List Word64 := [0x401, 0x8000000040000000, 0x200, 2]
   isErr ((holding w).copyOnce (holding w).me (fetchedChain w) w) (.walk 0x40000000 .read) = true) := by
  unfold entryAt EntryAt BanksFree; decide +kernel
/-- A watch over a word that a poisoned sector holds, one over a word with no error, and a split whose own test is on its way. -/
theorem witness_WaitsEnd_watch : (spoiled glob2 0x400).poisoned 0x10000 = true ∧ glob2.poisoned 0x10000 = false ∧ 0x10000 / 8 ∉ (glob2.sliceOf 0).errors ∧
  (∃ q ∈ ({ glob2 with requests := [req4 (.waitTest none)] } : State).sent, q.who.ladle = 1 ∧ ∃ o, q.kind = .waitTest o) ∧ glob2.sent = [] := by
  refine ⟨by decide +kernel, by decide +kernel, by decide +kernel, ⟨req4 (.waitTest none), by decide +kernel, rfl, none, rfl⟩, by decide +kernel⟩
/-- No casting of another priority has stopped the lower ones. -/
theorem witness_DispatchEvents_stops : (∀ j < 16, 0 < j → fresh.headOf 0 j = none ∧ ∀ h ∈ fresh.headsOf 0 j, fresh.stops h = false) ∧ fresh.quiet = true ∧ base.quiet = true := by
  decide +kernel
theorem witness_TranslationEvents_poison : let s := blocked tabled (.walk 0x40000000 .read)
  s.walks[0]? = some (s.me, s.me.sp, 0x40000000, .read) ∧ s.translate 0 0 0x40000000 .read = .error walkPoison ∧ tabled.noErrors = true := by decide +kernel
/-- A casting with a control ladle whose matrix unit holds a tile in residue mode. -/
theorem witness_PreemptionEvents_residue : let c := { cast1 with preempt := some true, started := true, saveSlot := some 0 }
  let s := { (glob.mapMe (fun l => { l with stopped := true })).modMat 0 (fun m => { m with residue := Vector.replicate 8 true }) with
    castings := [c], graphs := [{ graph1 with moulds := [{ mould1 with control := true }] }] }
  s.hasControl c = true ∧ true ∈ (s.mat c.cluster).residue.toList ∧ c.state = .resident ∧ c.started = true ∧ s.canSave c = true ∧ c.saveSlot.isSome = true ∧
  (s.mouldOf 1).isSome = true := by decide +kernel
theorem witness_RegisterEvents_package : ({ base with accepting := false } : State).accepting = false ∧ base.accepting = true ∧
  ([(0, boardOf 0x0100000000000100), (9, boardOf 1)] : List (Nat × Board)).Pairwise (fun a b => a.1 < b.1) ∧ (5 : Nat) % 1024 ≠ base.pkg := by decide +kernel
/-- A retirement lets a rehomed request go on; a home change does not. -/
theorem witness_HomeEvents_going : let h := fun (r : Option Nat) => ({ die := 0, retire := r, switched := [] } : HomeChange)
  let s := fun (r : Option Nat) => ({ base with homeChanges := [h r], rehomed := [req4 (.load false)] } : State)
  ((s none).homeChange? 0 = some (h none) ∧ (h none).retire = none) ∧ ((s (some 3)).homeChange? 0 = some (h (some 3)) ∧ (h (some 3)).retire ≠ none) ∧
  (s (some 3)).wins (req4 (.load false)) = true ∧ (s (some 3)).grantable (req4 (.load false)) = true ∧ (base.scratchWays 0x0003000200000000 3).getLsbD 0 = false := by decide +kernel
/-- Data of a ladle, and of a reader from outside, that one realignment holds. -/
theorem witness_ColumnEvents_late : let r := { req4 (.load false) with late := [3] }
  let d := { r with pend := none, kind := .syncLoad, unit := some 7 }
  let s := fun (r : Req) => ({ base with columns := [(columnKey 0 3, { base.column 0 3 with retrain := true })], returning := [(3, r, [(0, 1)])] } : State)
  ((s r).column 0 3).retrain = true ∧ ((s r).returning = [(3, r, [(0, 1)])] ∧ r.late = [32 * 0 + 3] ∧ r.pend = some 0 ∧ r.who.ladle = base.me.uid) ∧
  (d.late = [32 * 0 + 3] ∧ d.pend = none ∧ d.kind = .syncLoad ∧ d.unit = some 7) ∧ base.returning = [] := by decide +kernel
/-- A version frame whose sector 0x400 holds an error, and one without. -/
theorem witness_RepairEvents_frames : let s := mods glob2 (fun x => x.modFrame 1 0x400 (fun f => { f with errors := [0x2001] }))
  ((s.sliceOf 0).frame? 1 (0x400 / 4)).map (·.errors) = some [0x2001] ∧ (0x2001 : Nat) / 8 = 0x400 ∧ ((glob2.sliceOf 0).frame? 1 0x100).map (·.errors) = some [] ∧
  glob2.portWins 0 servicePort none = true ∧ (∃ f ∈ (glob2.sliceOf 0).frames, f.casting = 1 ∧ f.tile = 0x100) ∧ (∀ f ∈ (glob2.sliceOf 0).frames, ¬ (f.casting = 2 ∧ f.tile = 0x100)) ∧
  ((mods s (fun x => { x with scrub := some (1, 0x400, false) })).sliceOf 0).scrub = some (1, 0x400, false) := by decide +kernel
/-- A tile in ring 4 of a slice whose column realigns; windows of both functions. -/
theorem witness_HostAccesses_late : let s := ({ mods glob2 (fun x => { x with pins := [(0x100, 0)] }) with columns := [(columnKey 0 0, { base.column 0 0 with retrain := true })] } : State)
  s.requests = [] ∧ s.standing = [] ∧ (s.sliceOf 0).drained = false ∧ (∀ k < 4, s.poisoned (0x10000 + k) = false) ∧ s.homeOf 0x10000 = 0 ∧ s.homeOf (256 * (0x10000 / 256)) = 0 ∧
  (s.column 0 0).retrain = true ∧ s.outerTile 0 (tileOf 0x10000) = true ∧ (0x10000 : Nat) % 256 + 4 ≤ 256 ∧ (∀ e ∈ glob2.columns, e.2.retrain = false) ∧
  base.presentsFunction 0 0 = true ∧ ({ base with vfEnable := Vector.replicate 2 true } : State).presentsFunction 0 1 = true := by decide +kernel
theorem witness_StepRunsDecoded_poison : (spoiled glob 0).poisonedIn 0 4 = true ∧ glob.poisonedIn 0 4 = false ∧ ((spoiled glob 0).physical glob.me.who 0 .fetch).isOk = true := by
  decide +kernel

end Sys2Proof.Tests
end

/-!
PROOF. O56: decoding and encoding agree (R4, R50, R66).
A word has the encoding of an instruction exactly when each of its fields holds the instruction's operand
(`topBits_cat_iff`), so both directions compare fields. That a decoded instruction has the word it came from follows the
branches of the decoder; that an encoded instruction decodes follows the instructions.
-/

namespace Sys2Proof.Encoding

/-! ### The fields of a packed word -/

/-- The bits of `w` from bit `lo` up are those of the number `acc`. -/
def TopBits (w : Word32) (lo acc : Nat) : Prop := w.toNat / 2 ^ lo = acc % 2 ^ (32 - lo)

theorem ofNat_eq_iff_topBits {w : Word32} {acc : Nat} : BitVec.ofNat 32 acc = w ↔ TopBits w 0 acc := by
  rw [← BitVec.toNat_inj, BitVec.toNat_ofNat, TopBits, Nat.pow_zero, Nat.div_one, eq_comm]

/-- Each field that `cat` packs is a field of the word (R4). -/
theorem topBits_cat_iff {n lo acc : Nat} {w : Word32} {x : BitVec n} (h : lo + n ≤ 32) :
    TopBits w lo (cat acc x) ↔ TopBits w (lo + n) acc ∧ w.extractLsb' lo n = x := by
  obtain ⟨m, hm⟩ : ∃ m, 32 - lo = n + m := ⟨32 - (lo + n), by omega⟩
  have hm' : 32 - (lo + n) = m := by omega
  have hcat : cat acc x % 2 ^ (n + m) = x.toNat + 2 ^ n * (acc % 2 ^ m) := by
    rw [cat, Nat.pow_add, Nat.mod_mul, Nat.mul_comm acc, Nat.mul_add_mod, Nat.mod_eq_of_lt x.isLt,
      Nat.mul_add_div (Nat.two_pow_pos n), Nat.div_eq_of_lt x.isLt, Nat.add_zero]
  rw [← BitVec.toNat_inj, BitVec.extractLsb'_toNat, Nat.shiftRight_eq_div_pow, TopBits, TopBits, hm, hm', hcat,
    Nat.pow_add 2 lo, ← Nat.div_div_eq_div_mul]
  constructor
  · intro hw
    rw [hw, Nat.add_mul_div_left _ _ (Nat.two_pow_pos n), Nat.div_eq_of_lt x.isLt, Nat.zero_add, Nat.add_mul_mod_self_left,
      Nat.mod_eq_of_lt x.isLt]
    exact ⟨rfl, rfl⟩
  · rintro ⟨hacc, hx⟩
    rw [← hacc, ← hx, Nat.mod_add_div]

/-- The set's bit and the op field, the first that are packed. -/
theorem topBits_op_iff {op : Nat} {w : Word32} : TopBits w 25 op ↔ (w.extractLsb' 25 7).toNat = op % 2 ^ 7 := by
  rw [BitVec.extractLsb'_toNat, Nat.shiftRight_eq_div_pow, TopBits, Nat.mod_eq_of_lt (a := w.toNat / 2 ^ 25) (by omega)]

/-! ### The decoder's branches -/

theorem reserved_eq_ok {c : Prop} [Decidable c] {r : Except Reject Instr} {i : Instr} :
    reserved c r = .ok i ↔ c ∧ r = .ok i := by
  by_cases h : c <;> simp [reserved, h]

theorem accept_eq_ok {j i : Instr} : accept j = .ok i ↔ i.wf = true ∧ j = i := by
  constructor
  · intro h
    unfold accept at h
    split at h
    next hd => cases h; exact ⟨by rw [Instr.wf, hd]; rfl, rfl⟩
    next => cases h
  · rintro ⟨hwf, rfl⟩
    rw [accept, Option.isNone_iff_eq_none.1 hwf]

/-- The row that a two-bit fn field chooses, as the decoder's arms write it. It is reducible, so that an arm is seen to have this form. -/
abbrev fnRow (f : Nat) (r₀ r₁ r₂ r₃ : Except Reject Instr) : Except Reject Instr :=
  match f with
  | 0 => r₀
  | 1 => r₁
  | 2 => r₂
  | _ => r₃

theorem fnRow_eq_ok {x f : BitVec 2} {r₀ r₁ r₂ r₃ : Except Reject Instr} {i : Instr} (hx : x = f)
    (h : fnRow f.toNat r₀ r₁ r₂ r₃ = .ok i) : fnRow x.toNat r₀ r₁ r₂ r₃ = .ok i := hx ▸ h

/-- The same choice where one row stands for fn 2 and fn 3: neither is assigned. -/
abbrev fnPair (f : Nat) (r₀ r₁ r₂ : Except Reject Instr) : Except Reject Instr :=
  match f with
  | 0 => r₀
  | 1 => r₁
  | _ => r₂

theorem fnPair_eq_ok {x f : BitVec 2} {r₀ r₁ r₂ : Except Reject Instr} {i : Instr} (hx : x = f)
    (h : fnPair f.toNat r₀ r₁ r₂ = .ok i) : fnPair x.toNat r₀ r₁ r₂ = .ok i := hx ▸ h

theorem fn_eq_three {x : BitVec 2} (h₀ : x.toNat ≠ 0) (h₁ : x.toNat ≠ 1) (h₂ : x.toNat ≠ 2) : x.toNat = 3 := by omega

/-- The set's bit and the op field, as one number, choose the arm: the uniform set stands above the lane set (R50). -/
theorem decodeWord_eq_of_op (w : Word32) : decodeWord w =
    if (w.extractLsb' 25 7).toNat < 64 then decodeLane (w.extractLsb' 25 7).toNat w
    else decodeUniform ((w.extractLsb' 25 7).toNat - 64) w := by
  have hsplit : (w.extractLsb' 25 7).toNat = 64 * (w.extractLsb' 31 1).toNat + (w.extractLsb' 25 6).toNat := by
    simp only [BitVec.extractLsb'_toNat, Nat.shiftRight_eq_div_pow]
    omega
  unfold decodeWord
  by_cases h : w.extractLsb' 31 1 = 1
  · have h' : (w.extractLsb' 25 7).toNat = 64 + (w.extractLsb' 25 6).toNat := by rw [hsplit, h]; rfl
    rw [if_pos h, h', if_neg (by omega), Nat.add_sub_cancel_left]
  · have h0 : (w.extractLsb' 31 1).toNat = 0 := by
      have hne : (w.extractLsb' 31 1).toNat ≠ 1 := fun h1 => h (BitVec.eq_of_toNat_eq h1)
      omega
    have h' : (w.extractLsb' 25 7).toNat = (w.extractLsb' 25 6).toNat := by rw [hsplit, h0, Nat.mul_zero, Nat.zero_add]
    rw [if_neg h, h', if_pos (w.extractLsb' 25 6).isLt]

/-! ### A decoded instruction is well formed and has the word -/

/-- What `r` accepts is well formed, and its word is `w`. -/
def Sound (w : Word32) (r : Except Reject Instr) : Prop := ∀ i, r = .ok i → i.wf = true ∧ encode i = some w

theorem sound_error {w : Word32} (e : Reject) : Sound w (.error e) := nofun

theorem sound_reserved_iff {w : Word32} {c : Prop} [Decidable c] {r : Except Reject Instr} :
    Sound w (reserved c r) ↔ (c → Sound w r) := by
  simp only [Sound, reserved_eq_ok, and_imp]
  exact forall_comm

theorem sound_accept {w : Word32} {i : Instr} {acc : Nat} (he : encode i = some (BitVec.ofNat 32 acc)) (h : TopBits w 0 acc) :
    Sound w (accept i) := by
  intro j hj
  obtain ⟨hwf, rfl⟩ := accept_eq_ok.1 hj
  exact ⟨hwf, he.trans (congrArg some (ofNat_eq_iff_topBits.2 h))⟩

/-- The op chooses an arm of its set and fn a row of the arm; then the reserved fields are checked, and what is left is that each
field of `w` is what the row's word packs there. -/
theorem sound_decodeWord (w : Word32) : Sound w (decodeWord w) := by
  rw [decodeWord_eq_of_op]
  generalize hop : (w.extractLsb' 25 7).toNat = op
  rcases Nat.lt_or_ge op 64 with hlt | hge
  case' inl =>
    rw [if_pos hlt]
    unfold decodeLane
  case' inr =>
    obtain ⟨n, rfl⟩ := Nat.exists_eq_add_of_le hge
    rw [if_neg (Nat.not_lt.2 hge), Nat.add_sub_cancel_left]
    unfold decodeUniform
  all_goals split -- the arm of each op
  all_goals try split -- the row of each fn, in an arm of several rows
  all_goals try simp only [sound_error, sound_reserved_iff]
  all_goals
    intros
    refine sound_accept rfl ?_
  all_goals simp only [topBits_cat_iff, Nat.reduceAdd, topBits_op_iff, Nat.reducePow, Nat.reduceMod, Nat.reduceLeDiff, ← BitVec.toNat_inj,
    BitVec.reduceToNat, and_true, true_and, *]
  all_goals exact fn_eq_three ‹_› ‹_› ‹_›

/-! ### An encoded instruction decodes -/

theorem exists_encode_of_wf {i : Instr} (h : i.wf = true) : ∃ w, encode i = some w := by
  cases i
  all_goals try exact ⟨_, rfl⟩
  all_goals cases h -- an event is not well formed

/-- The fields of the word are the operands of the instruction, so the decoder takes its arm and its row, finds the reserved fields zero
and puts the operands back. -/
theorem decodeWord_of_encode {w : Word32} {i : Instr} (hwf : i.wf = true) (hw : encode i = some w) : decodeWord w = .ok i := by
  cases i
  all_goals try exact absurd hw.symm (Option.some_ne_none w) -- an event has no word
  all_goals
    replace hw := ofNat_eq_iff_topBits.1 (Option.some.inj hw)
    simp only [topBits_cat_iff, Nat.reduceAdd, topBits_op_iff, Nat.reducePow, Nat.reduceMod, Nat.reduceLeDiff] at hw
    casesm* _ ∧ _
    subst_vars -- each operand is the field of `w` that holds it
    simp only [decodeWord_eq_of_op, *, Nat.reduceLT, if_true, if_false, Nat.reduceSub]
    try (apply fnRow_eq_ok; assumption)
    try (apply fnPair_eq_ok; assumption)
    repeat (refine reserved_eq_ok.2 ⟨?_, ?_⟩; assumption) -- whatever reserved fields the row has
    exact accept_eq_ok.2 ⟨hwf, rfl⟩

/-- Settles O56: the fields of a word determine its instruction, and are determined by it. -/
theorem encodingRoundTrip : Obligations.EncodingRoundTrip := by
  refine ⟨fun i hwf => ?_, sound_decodeWord⟩
  obtain ⟨w, hw⟩ := exists_encode_of_wf hwf
  exact ⟨w, hw, decodeWord_of_encode hwf hw⟩

end Sys2Proof.Encoding

/-!
PROOF. O44 fails: the statement places the merged frame by the homes of its sectors, the model by the home of its tile.
R194 gives the bounds of a domain in GiB units, so that the four sectors of a tile have one home. The statement is about every state, and
`Machine.State` holds the bounds as plain 64-bit numbers (`State.homeReg`): a bound may fall inside a tile, and then `State.homeOf` differs
between the tile's first byte and a sector above the bound. A merge marks the written sectors of a resident tile dirty in the slice that homes
the tile (`State.sliceOfTile` in `State.putBytes`), while the statement looks for the mark in the slice that homes the sectors.
No write of DOM_LIMIT or DOM_BASE brings such a bound about (R196 reserves their bits [29:0]); the hypothesis that
`s.homeOf (256 * f.tile) = n` would shut it out.
-/

namespace Sys2Proof.Merge

open Sys2Proof.Machine Sys2Proof.Spec

/-- A casting that commits, and waits for slice 16 alone. -/
def committing : Casting :=
  { newCasting { uid := 1, part := 0, image := 0, moulds := [], edges := [], policy := 0, args := Vector.replicate 8 0, priority := 0,
                 completion := 0, value := 0, ci := false, vector := 0, function := 0, link := 0, privileged := false, runs := [],
                 dead := false, lost := [] } 0 0 1 0 0 with
    state := .committing, cluster := 0, commitNo := 1, awaited := [16] }

/-- Its version frame of tile 0, with one written byte, in the tile's second sector. -/
def secondSectorFrame : Frame := { casting := 1, tile := 0, bytes := [(64, 5)], declared := BitVec.allOnes 256, tags := [] }

/-- Domain 0 of die 0 ends, and domain 1 begins, at byte 64: between the first and the second sector of tile 0. Slice 16 holds the tile and
the version frame. -/
def boundInTile : State :=
  { State.reset with
    nextUid := 2, castings := [committing], home := [(0x411, 64), (0x412, 64)],
    slices := [(16, { Slice.empty with chain := [0], frames := [secondSectorFrame] })] }

theorem boundInTile_homes : boundInTile.homeOf (256 * 0) = 0 ∧ boundInTile.homeOf (64 * 1) = 16 := by decide +kernel

theorem theCasting_committing : TheCasting boundInTile committing := by
  refine ⟨by decide, fun d hd _ => ?_⟩
  exact List.mem_singleton.1 hd

/-- The commit message comes to the port of slice 16, which grants it, and merges the one frame. -/
theorem exec_commitMessage_boundInTile :
    exec (.commitMessage 16 1) boundInTile =
      .next (((boundInTile.portGranted 16 servicePort).mergeFrame 16 1 secondSectorFrame).dropFrames 16 1) := by
  rfl

/-- The merge marks the sector in slice 0, which homes the tile and does not hold it: no slice has the mark. -/
theorem mergeFrame_boundInTile_dirty :
    ((((boundInTile.portGranted 16 servicePort).mergeFrame 16 1 secondSectorFrame).dropFrames 16 1).sliceOf 16).dirty = [] := by
  decide +kernel

/-- Refutes O44: a bound of two domains falls inside the frame's tile, and the merged sector is not dirty in the slice that homes it. -/
theorem not_commitEvents : ¬ Obligations.CommitEvents := by
  unfold Obligations.CommitEvents
  intro h
  obtain ⟨-, -, -, atSlice, -⟩ := h boundInTile committing theCasting_committing (by decide)
  obtain ⟨-, -, merges, -⟩ := atSlice 16
  have sectorHome : ∀ e ∈ secondSectorFrame.bytes, e.1 < 256 ∧ boundInTile.homeOf (64 * (4 * secondSectorFrame.tile + e.1 / 64)) = 16 := by
    intro e he
    rw [List.mem_singleton.1 he]
    exact ⟨by decide, boundInTile_homes.2⟩
  obtain ⟨t, ht, -, -, -, -, -, dirty⟩ :=
    merges (by decide) (by decide) secondSectorFrame (by decide) (List.pairwise_singleton _ _) (by decide) sectorHome
  obtain rfl := Host.Outcome.next.inj (exec_commitMessage_boundInTile.symm.trans ht)
  have marked := (dirty (64, 5) (List.mem_singleton.2 rfl)).1
  rw [mergeFrame_boundInTile_dirty] at marked
  exact List.not_mem_nil marked

end Sys2Proof.Merge

/-!
PROOF. O7: illegal lane-set words (R24, R37, R49).
Every lane-set word acts through `State.laneWord`, which checks the registers that the word names before anything else
(`ChecksRegs`); so an illegal one is a casting fault and has no other effect.
-/

namespace Sys2Proof.LaneLegality

open Sys2Proof.Machine Sys2Proof.Spec

/-- The word faults where the check of a lane-set word that names `regs` fails (`State.laneWord`). -/
def ChecksRegs (s : State) (regs : List (BitVec 6)) (i : Instr) : Prop :=
  (s.me.control || (regs.any extended && !s.me.ext)) = true → exec i s = .next (s.castFault .illegal)

theorem check_fails_of_not_legal {l : Ladle} {regs : List (BitVec 6)} (h : ¬ Legal l regs) :
    (l.control || (regs.any extended && !l.ext)) = true := by
  unfold Legal at h
  cases hc : l.control <;> cases he : l.ext <;> simp_all

theorem ChecksRegs.faults {s : State} {regs : List (BitVec 6)} {i : Instr} (hi : ChecksRegs s regs i) (h : ¬ Legal s.me regs) :
    Completes i s (fun t => t = s.castFault .illegal ∧ t.me.stopped = true ∧ SameBytes s t) :=
  ⟨_, hi (check_fails_of_not_legal h), rfl, rfl, fun _ => rfl, fun _ => rfl⟩

/-- `cas` names a register pair for its data, the other operations one register (R388). -/
theorem atomicRegs_cas (q : BitVec 3) (d a : BitVec 6) : atomicRegs q true d a = if q = 7 then [a, d, d + 1] else [a, d] := by
  simp only [atomicRegs, Bool.true_and, beq_iff_eq, nextReg]

theorem checksRegs_atom (s : State) (k q r : BitVec 3) (n : BitVec 4) (d a : BitVec 6) :
    ChecksRegs s (if q = 7 then [a, d, d + 1] else [a, d]) (.atom k n q d a r) := by
  rw [← atomicRegs_cas]
  exact fun h => congrArg _ (if_pos h)

theorem checksRegs_atoms (s : State) (k q r : BitVec 3) (n : BitVec 4) (d a : BitVec 6) :
    ChecksRegs s (if q = 7 then [a, d, d + 1] else [a, d]) (.atoms k n q d a r) := by
  rw [← atomicRegs_cas]
  exact fun h => congrArg _ (if_pos h)

/-- `redg` comes to its check where its cluster's retry queue has room (R395). -/
theorem checksRegs_redg (s : State) (k q r : BitVec 3) (d a : BitVec 6) (room : (FMap.get [] s.retry s.me.cluster).length < 64) :
    ChecksRegs s (if q = 3 then [a, d, d + 1] else [a, d]) (.redg k q d a r) :=
  fun h => (if_neg (Nat.not_le.2 room)).trans (congrArg _ (if_pos h))

/-- Settles O7: each word of the lane set checks the registers that it names before it acts. -/
theorem illegalLaneWords : Obligations.IllegalLaneWords := by
  unfold Obligations.IllegalLaneWords
  intro s k q r h f n d a b u i w p m c illegal
  have all : ∀ {regs : List (BitVec 6)} {is : List Instr}, (∀ i ∈ is, ChecksRegs s regs i) → illegal regs is :=
    fun checks hl i hi => (checks i hi).faults hl
  refine ⟨all ?_, all ?_, all ?_, all ?_, all ?_, all ?_, all ?_, all ?_, all ?_, all ?atomics, fun room => all ?reduction⟩
  case atomics =>
    intro i hi
    fin_cases hi
    · exact checksRegs_atom s k q r n d a
    · exact checksRegs_atoms s k q r n d a
  case reduction =>
    intro i hi
    fin_cases hi
    exact checksRegs_redg s k q r d a room
  all_goals
    intro i hi
    fin_cases hi <;> exact fun h => congrArg _ (if_pos h)

end Sys2Proof.LaneLegality

/-!
PROOF. How an instruction of the issuing split completes, for the statements of castings and ladles: with its windows closed, at its next word
or at another.
-/

namespace Sys2Proof.Completion

open Sys2Proof.Machine Sys2Proof.Spec

theorem closing_of_settled {s : State} (h : Settled s) (f : State → State) : s.closing f = f s := by
  obtain ⟨⟨running, ready⟩, landed⟩ := h
  exact s.closing_nil f landed running ready

theorem jumps_of_exec {i : Instr} {s : State} {goal : Word64} {f : Ladle → Ladle} {Q : Ladle → Prop}
    (h : exec i s = .next (s.jump goal f)) (pad : (f s.me.issued).pad = s.me.pad) (q : Q (f s.me.issued)) : Jumps i s goal Q :=
  ⟨f s.me.issued, h, ⟨fun _ => rfl, fun a => by simp [pad]⟩, q⟩

theorem issues_of_exec {i : Instr} {s : State} {f : Ladle → Ladle} {Q : Ladle → Prop}
    (h : exec i s = .next (s.done f)) (pad : (f s.me.issued).pad = s.me.pad) (q : Q (f s.me.issued)) : Issues i s Q :=
  ⟨f s.me.issued, h, ⟨fun _ => rfl, fun a => by simp [pad]⟩, q⟩

end Sys2Proof.Completion

/-!
PROOF. O11: branches and jumps (R25, R118 to R120, R335, R336).
-/

namespace Sys2Proof.Branching

open Sys2Proof.Machine Sys2Proof.Spec Sys2Proof.Completion

/-! ### What the statements and the model say in different words -/

/-- The displacement counts words (R53). -/
theorem target_eq {n : Nat} (pc : Word64) (d : BitVec n) : target pc d = pc + BitVec.ofInt 64 (4 * d.toInt) := by
  have scaled : d.signExtend 64 <<< 2 = BitVec.ofInt 64 (4 * d.toInt) := by
    rw [BitVec.shiftLeft_eq_mul_twoPow, BitVec.ofInt_mul, BitVec.mul_comm]
    rfl
  rw [target, scaled]

theorem low_bits_eq_zero_iff (x : Word64) : x.extractLsb' 0 2 = 0 ↔ x.toNat % 4 = 0 := by
  rw [← BitVec.toNat_inj]
  simp [BitVec.extractLsb'_toNat]

/-- In half placement the pairs of lanes are the two halves of a mask (R336). -/
theorem maskPairs_iff (l : Ladle) (m : Word32) : l.maskPairs m = true ↔ (l.half = true → m.toNat % 65536 = m.toNat / 65536) := by
  have halves : m.extractLsb' 0 16 = m.extractLsb' 16 16 ↔ m.toNat % 65536 = m.toNat / 65536 := by
    rw [← BitVec.toNat_inj]
    simp only [BitVec.extractLsb'_toNat, Nat.shiftRight_eq_div_pow]
    omega
  cases h : l.half <;> simp [Ladle.maskPairs, h, halves]

/-- `bs` goes by its register (R118). -/
theorem bs_goes_iff (x : Word64) (n : BitVec 1) : ((x == 0) == (n == 0)) = true ↔ (n = 0 ↔ x = 0) := by
  rw [beq_iff_eq, Bool.eq_iff_iff, beq_iff_eq, beq_iff_eq]
  exact Iff.comm

/-! ### Shadow placement: the comparison comes first (R335) -/

/-- An instruction that acts under `State.compared` is compared with that outcome. -/
theorem compared_of_exec {i : Instr} {s : State} {w : List Word64} {f : State → State} (h : exec i s = .next (s.compared w f)) :
    Compared i s w := by
  intro x hx hc
  have shadowed : s.shadowed = true := by simp [State.shadowed, hx]
  have full : s.shadowFull = decide (16 ≤ x.buffer.length) := by simp [State.shadowFull, shadowed, hx]
  unfold Held
  rw [h, State.compared, shadowed, hc, full]
  refine ⟨fun room => ?_, fun busy => ?_⟩
  · simp [Nat.not_le.2 room, State.compareLater, shadowed]
  · simp [busy]

/-! ### The meaning of each word, with its windows closed -/

theorem exec_call {s : State} (h : Settled s) (d : BitVec 21) : exec (.call d) s =
    .next (s.branchTo (target s.me.sp.pc d) s.me.sp.mask
      (fun t => t.jump (target s.me.sp.pc d) (fun l => l.setS linkReg (l.sp.pc + 4)))) :=
  congrArg _ (closing_of_settled h _)

theorem jumpTo_of_aligned {s : State} (h : Settled s) {r : BitVec 6} (aligned : (s.me.getS r).toNat % 4 = 0) (f : Ladle → Ladle) :
    s.jumpTo r f = s.branchTo (s.me.getS r) s.me.sp.mask (fun t => t.jump (s.me.getS r) f) :=
  (closing_of_settled h _).trans (if_neg (not_not.2 ((low_bits_eq_zero_iff _).2 aligned)))

theorem jumpTo_of_misaligned {s : State} (h : Settled s) {r : BitVec 6} (off : (s.me.getS r).toNat % 4 ≠ 0) (f : Ladle → Ladle) :
    s.jumpTo r f = s.castFault .illegal :=
  (closing_of_settled h _).trans (if_pos (fun aligned => off ((low_bits_eq_zero_iff _).1 aligned)))

/-- Without a trailing shadow a branch acts at once. -/
theorem branchTo_off {s : State} (h : s.me.shadow = none) (goal : Word64) (taken : Word32) (f : State → State) :
    s.branchTo goal taken f = f s :=
  s.compared_off _ _ (by simp [State.shadowed, h])

theorem exec_bs {s : State} (h : s.me.shadow = none) (r : BitVec 4) (n : BitVec 1) (d : BitVec 20) : exec (.bs r n d) s =
    .next (if n = 0 ↔ s.me.getS (r.zeroExtend 6) = 0 then s.jump (target s.me.sp.pc d) (fun l => l) else s.done (fun l => l)) := by
  rw [← if_congr (bs_goes_iff (s.me.getS (r.zeroExtend 6)) n) rfl rfl]
  exact congrArg _ (branchTo_off h _ _ _)

/-- What `bk` does in a mode, with `t` the lanes of the split whose mask bit is set (R119). -/
def bkBy (m : BitVec 2) (t all : Word32) (go on divide : State) : State :=
  match m.toNat with
  | 0 => if t = all then go else if t = 0 then on else divide
  | 1 => if t = all then go else on
  | 2 => if t ≠ 0 then go else on
  | _ => if t = 0 then go else on

/-- A check mismatch comes before the mode (R336). -/
theorem exec_bk {s : State} (h : s.me.shadow = none) (k : BitVec 3) (m : BitVec 2) (d : BitVec 19) : exec (.bk k m d) s =
    .next (if !s.me.maskPairs (lanesOf s.me k) then s.castFault .checkMismatch
      else bkBy m (lanesOf s.me k) s.me.sp.mask (s.jump (target s.me.sp.pc d) (fun l => l)) (s.done (fun l => l))
        (s.done (fun l => l.divide (lanesOf s.me k) (target s.me.sp.pc d)))) :=
  congrArg Host.Outcome.next (branchTo_off h _ _ _)

/-! ### The three parts of the statement -/

/-- In shadow placement each word is compared with its target, the lanes that take it and the lanes of the split (R335). -/
theorem branches_compared (s : State) (r : BitVec 4) (n : BitVec 1) (k : BitVec 3) (m : BitVec 2) (a : BitVec 6) (d19 : BitVec 19)
    (d20 : BitVec 20) (d21 : BitVec 21) :
    let all : Word64 := s.me.sp.mask.setWidth 64
    let goal := fun (d : Int) => s.me.sp.pc + BitVec.ofInt 64 (4 * d)
    let whole := fun (i : Instr) (pc : Word64) => Compared i s [pc, all, all]
    whole (.b d21) (goal d21.toInt) ∧
    Compared (.bs r n d20) s [goal d20.toInt, if n = 0 ↔ s.me.getS (r.zeroExtend 6) = 0 then all else 0, all] ∧
    Compared (.bk k m d19) s [goal d19.toInt, (lanesOf s.me k).setWidth 64, all] ∧
    (Settled s → whole (.call d21) (goal d21.toInt)) ∧
    (Settled s → (s.me.getS a).toNat % 4 = 0 → whole (.jmp a) (s.me.getS a) ∧ whole (.calli a) (s.me.getS a)) ∧
    (Settled s → (s.me.getS 63#6).toNat % 4 = 0 → whole .ret (s.me.getS 63#6)) := by
  intro all goal whole
  simp only [whole, goal, ← target_eq]
  refine ⟨compared_of_exec rfl, ?bs, compared_of_exec rfl, fun h => compared_of_exec (exec_call h _), fun h aligned => ⟨?jmp, ?calli⟩,
    fun h aligned => ?ret⟩
  case bs =>
    rw [← if_congr (bs_goes_iff (s.me.getS (r.zeroExtend 6)) n) rfl rfl]
    have taken : ∀ c : Bool, (if c = true then all else 0) = (if c = true then s.me.sp.mask else 0).setWidth 64 := by
      intro c
      cases c <;> rfl
    rw [taken]
    exact compared_of_exec rfl
  case jmp => exact compared_of_exec (congrArg _ (jumpTo_of_aligned h aligned _))
  case calli => exact compared_of_exec (congrArg _ (jumpTo_of_aligned h aligned _))
  case ret => exact compared_of_exec (congrArg _ (jumpTo_of_aligned (r := linkReg) h aligned _))

/-- Without a shadow each word but `bk` goes to its target, or on (R118, R120). -/
theorem branches_jump (s : State) (r : BitVec 4) (n : BitVec 1) (a : BitVec 6) (d21 : BitVec 21) (d20 : BitVec 20)
    (off : s.me.shadow = none) :
    let pc := s.me.sp.pc
    let same := fun l => l = s.me.issued
    let linked := fun l => l = s.me.issued.setS 63#6 (pc + 4)
    let goal := fun (d : Int) => pc + BitVec.ofInt 64 (4 * d)
    Jumps (.b d21) s (goal d21.toInt) same ∧
    ((n = 0 ↔ s.me.getS (r.zeroExtend 6) = 0) → Jumps (.bs r n d20) s (goal d20.toInt) same) ∧
    (¬(n = 0 ↔ s.me.getS (r.zeroExtend 6) = 0) → Issues (.bs r n d20) s same) ∧
    (Settled s → Jumps (.call d21) s (goal d21.toInt) linked) ∧
    (Settled s → (s.me.getS a).toNat % 4 = 0 → Jumps (.jmp a) s (s.me.getS a) same ∧ Jumps (.calli a) s (s.me.getS a) linked) ∧
    (Settled s → (s.me.getS a).toNat % 4 ≠ 0 → Faults (.jmp a) s .illegal ∧ Faults (.calli a) s .illegal) ∧
    (Settled s → (s.me.getS 63#6).toNat % 4 = 0 → Jumps .ret s (s.me.getS 63#6) same) ∧
    (Settled s → (s.me.getS 63#6).toNat % 4 ≠ 0 → Faults .ret s .illegal) := by
  intro pc same linked goal
  simp only [goal, pc, ← target_eq]
  have aligned_jump : ∀ {i : Instr} {x : BitVec 6} {f : Ladle → Ladle} {Q : Ladle → Prop}, exec i s = .next (s.jumpTo x f) →
      Settled s → (s.me.getS x).toNat % 4 = 0 → (f s.me.issued).pad = s.me.pad → Q (f s.me.issued) → Jumps i s (s.me.getS x) Q :=
    fun hi h aligned => jumps_of_exec (hi.trans (congrArg _ ((jumpTo_of_aligned h aligned _).trans (branchTo_off off _ _ _))))
  refine ⟨jumps_of_exec (congrArg _ (branchTo_off off _ _ _)) rfl rfl, fun go => ?_, fun stay => ?_,
    fun h => jumps_of_exec ((exec_call h _).trans (congrArg _ (branchTo_off off _ _ _))) rfl rfl,
    fun h aligned => ⟨aligned_jump rfl h aligned rfl rfl, aligned_jump rfl h aligned rfl rfl⟩,
    fun h mis => ⟨congrArg _ (jumpTo_of_misaligned h mis _), congrArg _ (jumpTo_of_misaligned h mis _)⟩,
    fun h aligned => aligned_jump (x := linkReg) rfl h aligned rfl rfl,
    fun h mis => congrArg _ (jumpTo_of_misaligned (r := linkReg) h mis _)⟩
  · exact jumps_of_exec ((exec_bs off _ _ _).trans (congrArg _ (if_pos go))) rfl rfl
  · exact issues_of_exec ((exec_bs off _ _ _).trans (congrArg _ (if_neg stay))) rfl rfl

/-- `bk` by its mode (R25, R119, R336). -/
theorem bk_by_mode (s : State) (k : BitVec 3) (m : BitVec 2) (d : BitVec 19) (off : s.me.shadow = none) :
    let t := lanesOf s.me k
    let agree := s.me.half = true → t.toNat % 65536 = t.toNat / 65536
    let all := s.me.sp.mask
    let goal := s.me.sp.pc + BitVec.ofInt 64 (4 * d.toInt)
    let branches := Jumps (.bk k m d) s goal (fun l => l = s.me.issued)
    let goesOn := Issues (.bk k m d) s (fun l => l = s.me.issued)
    (¬agree → Faults (.bk k m d) s .checkMismatch) ∧
    (agree →
    (m = 0 → t = all → branches) ∧
    (m = 0 → t ≠ all → t = 0 → goesOn) ∧
    (m = 0 → t ≠ all → t ≠ 0 → Issues (.bk k m d) s (fun l =>
      l.sp = { s.me.sp with mask := all &&& ~~~t } ∧
      (∃ x, l.splits = s.me.splits ++ [x] ∧ x.mask = t ∧ x.pc = goal ∧
        x.slot = [0, 1, 2, 3].find? (fun n => !(s.me.sp :: s.me.splits).any (fun y => y.slot == some n))) ∧
      l = { s.me.issued with sp := l.sp, splits := l.splits, parkCounter := l.parkCounter })) ∧
    (m = 1 → t = all → branches) ∧ (m = 1 → t ≠ all → goesOn) ∧
    (m = 2 → t ≠ 0 → branches) ∧ (m = 2 → t = 0 → goesOn) ∧
    (m = 3 → t = 0 → branches) ∧ (m = 3 → t ≠ 0 → goesOn)) := by
  intro t agree all goal branches goesOn
  refine ⟨fun differ => ?mismatch, fun same => ?_⟩
  case mismatch =>
    have fails : s.me.maskPairs t = false := Bool.eq_false_iff.2 (fun h => differ ((maskPairs_iff _ _).1 h))
    exact (exec_bk off k m d).trans (congrArg _ (if_pos (congrArg not fails)))
  have passes : ¬ (!s.me.maskPairs t) = true := by simp [(maskPairs_iff s.me t).2 same]
  have act := (exec_bk off k m d).trans (congrArg _ (if_neg passes))
  have go : ∀ {u}, exec (.bk k m d) s = .next u → u = s.jump (target s.me.sp.pc d) (fun l => l) → branches := by
    rintro _ h rfl
    simp only [branches, goal, ← target_eq]
    exact jumps_of_exec h rfl rfl
  have on : ∀ {u}, exec (.bk k m d) s = .next u → u = s.done (fun l => l) → goesOn := by
    rintro _ h rfl
    exact issues_of_exec h rfl rfl
  refine ⟨?_, ?_, ?divides, ?_, ?_, ?_, ?_, ?_, ?_⟩
  case divides =>
    rintro rfl part some
    refine issues_of_exec (act.trans (congrArg _ ((if_neg part).trans (if_neg some)))) rfl ⟨rfl, ⟨_, rfl, rfl, target_eq _ _, rfl⟩, rfl⟩
  · rintro rfl h
    exact go act (if_pos h)
  · rintro rfl part none
    exact on act ((if_neg part).trans (if_pos none))
  · rintro rfl h
    exact go act (if_pos h)
  · rintro rfl h
    exact on act (if_neg h)
  · rintro rfl h
    exact go act (if_pos h)
  · rintro rfl h
    exact on act (if_neg (not_not.2 h))
  · rintro rfl h
    exact go act (if_pos h)
  · rintro rfl h
    exact on act (if_neg h)

/-- Settles O11. -/
theorem branches : Obligations.Branches := by
  unfold Obligations.Branches
  exact ⟨branches_compared, branches_jump, bk_by_mode, by decide, by decide⟩

end Sys2Proof.Branching

/-!
PROOF. O16: `rget` and `rrel` (R35 to R38, R130).
-/

namespace Sys2Proof.ExtendedBlock

open Sys2Proof.Machine Sys2Proof.Spec Sys2Proof.Completion

/-! ### The blocks that a grant takes (R35) -/

theorem length_pickBlocks (l : List Nat) (n seed : Nat) : (pickBlocks l n seed).length = n := by
  induction n generalizing l seed with
  | zero => rfl
  | succ n ih => simp [pickBlocks, ih]

theorem mem_of_mem_pickBlocks {l : List Nat} {n seed x : Nat} (room : n ≤ l.length) (h : x ∈ pickBlocks l n seed) : x ∈ l := by
  induction n generalizing l seed with
  | zero => exact absurd h List.not_mem_nil
  | succ n ih =>
    have inside : ∀ k : Nat, k % l.length < l.length := fun k => Nat.mod_lt _ (by omega)
    have chosen : ∀ k : Nat, l.getD (k % l.length) 0 ∈ l := by
      intro k
      rw [List.getD_eq_getElem _ _ (inside k)]
      exact List.getElem_mem _
    rcases List.mem_cons.1 h with rfl | rest
    · exact chosen _
    · refine List.mem_of_mem_erase (ih ?_ rest)
      rw [List.length_erase_of_mem (chosen _)]
      omega

/-! ### v32-v63 (R37) -/

theorem getV_clearExtended (l : Ladle) (r : BitVec 6) :
    l.clearExtended.getV r = if r.toNat < 32 then l.getV r else Vector.replicate 32 0#32 := by
  simp only [Ladle.getV, Ladle.clearExtended, get_of_val, Vector.getElem_ofFn]
  rfl

theorem getV_clearExtended_low (l : Ladle) {r : BitVec 6} (h : r.toNat < 32) : l.clearExtended.getV r = l.getV r := by
  rw [getV_clearExtended, if_pos h]

theorem laneAt_clearExtended_high (l : Ladle) {r : BitVec 6} (h : 32 ≤ r.toNat) {j : Nat} (hj : j < 32) :
    laneAt (l.clearExtended.getV r) j = 0 := by
  rw [getV_clearExtended, if_neg (Nat.not_lt.2 h)]
  simp [laneAt, hj]

/-! ### A value from outside the registers (R335) -/

@[simp] theorem setOutside_pad (l : Ladle) (d : BitVec 6) (x : Word64) : (l.setOutside d x).pad = l.pad := rfl

theorem uniformWritten_setOutside (l m : Ladle) (d : BitVec 6) (x : Word64) (h : m.s = l.s) : UniformWritten l (m.setOutside d x) d x := by
  have same : ∀ r, m.getS r = l.getS r := fun r => congrArg (fun v => Vector.get v r.toFin) h
  exact ⟨m.getS_setS_self d x, fun r hr => (m.getS_setS_other x hr).trans (same r)⟩

/-! ### The words, with their windows closed -/

/-- `rget` in order: illegal, held already, joined to the ladle's queued request, granted, or queued (R37, R38, R130). -/
theorem exec_rget {s : State} (h : Settled s) (room : s.valuesFull = false) (d : BitVec 6) :
    let q := FMap.get [] s.rgetQueue (5 * s.me.cluster + s.me.core)
    exec (.rget d) s = .next (
      if s.me.control || !s.me.mayExtend then s.castFault .illegal
      else if s.me.ext then s.done (fun l => l.setOutside d 1)
      else if q.any (fun e => e.1 == s.me.uid) then blocked s (.rget d)
      else if q.isEmpty && s.blocksFor s.me then s.extend.done (fun l => l.setOutside d 1)
      else { blocked s (.rget d) with rgetQueue := FMap.set [] s.rgetQueue (5 * s.me.cluster + s.me.core) (q ++ [(s.me.uid, d)]) }) := by
  refine (congrArg Host.Outcome.next (closing_of_settled h _)).trans ?_
  simp only [room, Bool.false_eq_true, if_false]
  rfl

theorem exec_rrel {s : State} (h : Settled s) : exec .rrel s =
    .next (if s.me.control then s.castFault .illegal else s.done (fun l => if l.ext then l.dropExtended.giveBlock else l)) :=
  congrArg Host.Outcome.next (closing_of_settled h _)

/-- With no result pending none lands in the block that is given back. -/
theorem dropExtended_nil (l : Ladle) (h : l.pend = []) : l.dropExtended = l := by
  simp [Ladle.dropExtended, h]

theorem issued_pend_nil {l : Ladle} (h : l.pend = []) : l.issued.pend = [] := by
  simp [Ladle.issued, h]

/-- A grant gives the ladle its blocks, with every register of them zero (R36, R37). -/
theorem extend_eq (s : State) : ∃ v,
    s.extend = { s with me := { s.me with v := v, ext := true,
                                          extBlocks := pickBlocks (s.freeBlocks s.me.cluster s.me.core) s.me.blocks s.free },
                        free := s.free + s.me.blocks } ∧
    ∀ r : BitVec 6, v.get r.toFin = s.me.clearExtended.getV r := by
  unfold State.extend Ladle.clearExtended
  generalize Vector.ofFn _ = v
  exact ⟨v, rfl, fun _ => rfl⟩

theorem giveBlock_eq (l : Ladle) : ∃ v, l.giveBlock = { l with v := v, ext := false, extBlocks := [] } ∧
    ∀ r : BitVec 6, v.get r.toFin = l.clearExtended.getV r := by
  unfold Ladle.giveBlock Ladle.clearExtended
  generalize Vector.ofFn _ = v
  exact ⟨v, rfl, fun _ => rfl⟩

/-- Settles O16. -/
theorem extendedRegisters : Obligations.ExtendedRegisters := by
  unfold Obligations.ExtendedRegisters
  intro s d h notFull q may waiting room
  have rget := exec_rget h notFull d
  have legal : may → ¬ (s.me.control || !s.me.mayExtend) = true := by
    rintro ⟨vector, declared⟩
    simp [vector, declared]
  have has_room : (q.isEmpty && s.blocksFor s.me) = true ↔ room := by
    simp [room, State.blocksFor]
  refine ⟨fun no => ?illegal, fun ok held => ?held, fun ok free hroom => ?grant, fun ok free hroom first => ?queue, fun ok free hw => ?join,
    fun control => ?control, fun vector free => ?nothing, fun vector held => ?back⟩
  case illegal =>
    have illegal : (s.me.control || !s.me.mayExtend) = true := by
      cases hc : s.me.control <;> cases hm : s.me.mayExtend <;> simp_all [may]
    exact rget.trans (congrArg _ (if_pos illegal))
  case held =>
    refine issues_of_exec (rget.trans (congrArg _ ((if_neg (legal ok)).trans (if_pos held)))) rfl ⟨?_, rfl⟩
    exact uniformWritten_setOutside _ _ _ _ rfl
  case grant =>
    have alone : ¬ q.any (fun e => e.1 == s.me.uid) = true := by simp [hroom.1]
    obtain ⟨v, extended, lanes⟩ := extend_eq s
    refine ⟨s.extend.me.issued.setOutside d 1, ?_, ?_⟩
    · rw [rget, if_neg (legal ok), if_neg (by simp [free]), if_neg alone, if_pos (has_room.2 hroom), extended]
      rfl
    · rw [extended]
      exact ⟨uniformWritten_setOutside _ _ _ _ rfl, rfl, length_pickBlocks _ _ _, fun _ hx => mem_of_mem_pickBlocks hroom.2 hx,
        fun r hr => (lanes r).trans (getV_clearExtended_low s.me hr),
        fun r hr j hj => (congrArg (laneAt · j) (lanes r)).trans (laneAt_clearExtended_high s.me hr hj), rfl⟩
  case queue => rw [rget, if_neg (legal ok), if_neg (by simp [free]), if_neg first, if_neg (mt has_room.1 hroom)]
  case join => rw [rget, if_neg (legal ok), if_neg (by simp [free]), if_pos hw]
  case control => exact (exec_rrel h).trans (congrArg _ (if_pos control))
  case nothing =>
    refine issues_of_exec ((exec_rrel h).trans (congrArg _ (if_neg (by simp [vector])))) ?_ ?_ <;> simp [free]
  case back =>
    have dropped : s.me.issued.dropExtended = s.me.issued := dropExtended_nil _ (issued_pend_nil h.2)
    obtain ⟨v, back, lanes⟩ := giveBlock_eq s.me.issued
    have given : (if s.me.issued.ext = true then s.me.issued.dropExtended.giveBlock else s.me.issued)
        = { s.me.issued with v := v, ext := false, extBlocks := [] } := by
      rw [if_pos (by simp [held]), dropped, back]
    refine issues_of_exec ((exec_rrel h).trans (congrArg _ (if_neg (by simp [vector])))) ?_ ?_
    · rw [given]; rfl
    · rw [given]
      exact ⟨rfl, rfl, fun r hr => (lanes r).trans (getV_clearExtended_low s.me.issued hr), rfl⟩

end Sys2Proof.ExtendedBlock

/-!
PROOF. O17: `exit` and `exit.abort` (R13, R30, R33, R164 to R166).
-/

namespace Sys2Proof.Exits

open Sys2Proof.Machine Sys2Proof.Spec Sys2Proof.Completion

/-! ### What the end of a ladle touches beyond the ladle -/

/-- The states differ in faults, in ladles that have been stopped, and in barriers, as after the retirement of an `exit`: in what a ladle holds
and in memory they agree. -/
structure Aftermath (s t : State) : Prop where
  me : ∃ b, t.me = { s.me with stopped := b }
  mem : t.mem = s.mem
  slices : t.slices = s.slices
  regs : t.regs = s.regs
  others : t.rest.map Ladle.uid = s.rest.map Ladle.uid

theorem Aftermath.refl (s : State) : Aftermath s s := ⟨⟨_, rfl⟩, rfl, rfl, rfl, rfl⟩

theorem Aftermath.trans {s t u : State} (h : Aftermath s t) (k : Aftermath t u) : Aftermath s u := by
  obtain ⟨a, ha⟩ := h.me
  obtain ⟨b, hb⟩ := k.me
  exact ⟨⟨b, by rw [hb, ha]⟩, k.mem.trans h.mem, k.slices.trans h.slices, k.regs.trans h.regs, k.others.trans h.others⟩

theorem Aftermath.foldl {α : Type} {f : State → α → State} (step : ∀ s a, Aftermath s (f s a)) (l : List α) (s : State) :
    Aftermath s (l.foldl f s) := by
  induction l generalizing s with
  | nil => exact .refl s
  | cons a r ih => exact (step s a).trans (ih (f s a))

theorem raiseFor_aftermath (s : State) (casting rank cluster core : Nat) (c : Cause) (pc : Word64) :
    Aftermath s (s.raiseFor casting rank cluster core c pc) := by
  refine ⟨?_, rfl, rfl, rfl, ?_⟩
  · simp only [State.raiseFor, State.mapLadles]
    split <;> exact ⟨_, rfl⟩
  · simp only [State.raiseFor, State.mapLadles, List.map_map]
    refine List.map_congr_left fun l _ => ?_
    rw [Function.comp_apply]
    split <;> rfl

theorem releasePad_aftermath (s : State) (uid : Nat) : Aftermath s (s.releasePad uid) :=
  .foldl (fun _ _ => raiseFor_aftermath _ _ _ _ _ _ _) _ s

theorem checkBarrier_aftermath (s : State) (b : Barrier) : Aftermath s (s.checkBarrier b) := by
  unfold State.checkBarrier
  split
  · exact ⟨⟨_, rfl⟩, rfl, rfl, rfl, rfl⟩
  · exact .refl s

theorem checkBarriers_aftermath (s : State) : Aftermath s s.checkBarriers := .foldl checkBarrier_aftermath _ s

/-! ### The end of a split (R30) -/

/-- The ladle's last split gives everything back; the end of a handler that runs in it changes no register. -/
theorem endSplit_last {l : Ladle} (alone : l.splits = []) (noLoop : l.loop = none) :
    let m := l.endSplit
    m.live = false ∧ m.ext = false ∧ m.permit = false ∧ m.handlerActive = false ∧ m.pad.size = 0 ∧ m.sp.mask = 0 ∧ m.v = l.v ∧ m.s = l.s := by
  unfold Ladle.endSplit
  generalize (l.handlerActive && l.sp.handler && !l.splits.any (·.handler)) = last
  cases last
  · simp [alone]
  · simp [alone, noLoop, Ladle.endHandler]

/-- Outside a handler another split goes on in its place. -/
theorem endSplit_cons {l : Ladle} {x : Split} {r : List Split} (h : l.splits = x :: r) (outside : l.handlerActive = false) :
    l.endSplit = Ladle.fillSlots { l with sp := x, splits := r } := by
  unfold Ladle.endSplit
  simp only [outside, Bool.false_and, Bool.false_eq_true, if_false, h]

/-- With the ladle's last split gone its scratchpad and its part in the barriers are looked at again. -/
theorem retireExit_of_gone {s : State} (gone : s.me.endSplit.live = false) : Aftermath (s.mapMe Ladle.endSplit) s.retireExit := by
  have retired : s.retireExit = ((s.mapMe Ladle.endSplit).releasePad s.me.endSplit.uid).checkBarriers := if_neg (by simp [gone])
  rw [retired]
  exact (releasePad_aftermath _ _).trans (checkBarriers_aftermath _)

/-- With no barrier partly arrived at there is none to look at again (R32). -/
theorem recheckMe_idle {s : State} (h : ∀ k < 64, (s.me.bar k).lanes = 0) : s.recheckMe = s := by
  have none_open : (List.range 64).filter (fun k => (s.me.bar k).lanes ≠ 0) = [] :=
    List.filter_eq_nil_iff.2 (fun k hk => by simp [h k (List.mem_range.1 hk)])
  rw [State.recheckMe, none_open]
  rfl

theorem retireExit_cons {s : State} {x : Split} {r : List Split} (h : s.me.splits = x :: r) (live : s.me.live = true)
    (outside : s.me.handlerActive = false) (landed : s.me.pend = []) (idle : ∀ k < 64, (s.me.bar k).lanes = 0) :
    s.retireExit = s.mapMe Ladle.endSplit := by
  have ended := endSplit_cons h outside
  have still : ∀ k < 64, (((s.mapMe Ladle.endSplit).me).bar k).lanes = 0 := by
    intro k hk
    rw [State.mapMe_me, ended, Ladle.bar, Ladle.fillSlots_bars]
    exact idle k hk
  have retired : s.retireExit = (s.mapMe Ladle.endSplit).recheckMe.settle := if_pos (by simp [ended, live])
  rw [retired, recheckMe_idle still, State.settle_nil _ (by simp [ended, landed])]

/-! ### The words -/

theorem exec_exit {s : State} (h : Settled s) (off : s.me.shadow = none) : exec .exit s =
    .next (if s.exitReady s.me then s.retireExit else s.mapMe (fun l => { l.issued with sp := { l.sp with blocked := .exitWait } })) :=
  congrArg Host.Outcome.next ((closing_of_settled h _).trans (s.compared_off _ _ (by simp [State.shadowed, off])))

theorem exec_exitAbort {s : State} (h : Settled s) (off : s.me.shadow = none) : exec .exitAbort s = .next (s.castFault .abort) :=
  congrArg Host.Outcome.next ((closing_of_settled h _).trans (s.compared_off _ _ (by simp [State.shadowed, off])))

/-- Settles O17. -/
theorem exitWords : Obligations.ExitWords := by
  unfold Obligations.ExitWords
  intro s h off
  refine ⟨fun waits => ?waits, fun ready alone noLoop => ?last, fun ready live outside x r more idle => ?oneOf, ?abort⟩
  case waits => rw [exec_exit h off, waits, if_neg Bool.false_ne_true]
  case last =>
    have ended := endSplit_last alone noLoop
    obtain ⟨⟨b, me⟩, mem, slices, regs, _⟩ := retireExit_of_gone ended.1
    refine ⟨s.retireExit, by rw [exec_exit h off, ready, if_pos rfl], ?_⟩
    simp only [me, mem, slices, regs]
    obtain ⟨gone, block, permit, handler, pad, mask, v, u⟩ := ended
    exact ⟨gone, block, permit, handler, pad, mask, v, u, fun _ => rfl, rfl, rfl⟩
  case oneOf =>
    refine ⟨s.mapMe Ladle.endSplit, ?_, rfl, endSplit_cons more outside⟩
    rw [exec_exit h off, ready, if_pos rfl, retireExit_cons more live outside h.2 idle]
  case abort => exact ⟨_, exec_exitAbort h off, ⟨rfl, rfl⟩, rfl, rfl⟩

end Sys2Proof.Exits

/-!
PROOF. O15: `bar`, arrivals and phases (R31, R32, R126 to R128).
-/

namespace Sys2Proof.Barriers

open Sys2Proof.Machine Sys2Proof.Spec Sys2Proof.Completion

/-! ### The table of barriers -/

theorem find?_replace_self {α : Type} {p : α → Bool} {b : α} (hb : p b = true) {bs : List α} (known : bs.any p = true) :
    (bs.map (fun c => if p c then b else c)).find? p = some b := by
  induction bs with
  | nil => simp at known
  | cons c cs ih =>
    by_cases hc : p c = true
    · simp [hc, hb]
    · simpa [hc] using ih (by simpa [hc] using known)

theorem find?_replace_other {α : Type} {p q : α → Bool} {b : α} (apart : ∀ c, p c = true → q c = false) (hb : q b = false)
    (bs : List α) : (bs.map (fun c => if p c then b else c)).find? q = bs.find? q := by
  induction bs with
  | nil => rfl
  | cons c cs ih =>
    by_cases hc : p c = true
    · simpa [hc, hb, apart c hc] using ih
    · simp only [List.map_cons, if_neg hc, List.find?_cons, ih]

theorem is_iff (b : Barrier) (lv : Level) (id group : Nat) :
    b.is lv id group = true ↔ b.level = lv ∧ b.id = id ∧ b.group = group := by
  simp [Barrier.is, and_assoc]

/-- The barrier that the table gives for a key has that key, whether it stands there or is a new one. -/
theorem barrier_key (s : State) (lv : Level) (id group : Nat) :
    (s.barrier lv id group).level = lv ∧ (s.barrier lv id group).id = id ∧ (s.barrier lv id group).group = group := by
  unfold State.barrier
  cases found : s.barriers.find? (fun b => b.is lv id group) with
  | none => exact ⟨rfl, rfl, rfl⟩
  | some b => exact (is_iff b lv id group).1 (List.find?_some (p := fun b : Barrier => b.is lv id group) found)

theorem barrier_setBarrier_self (s : State) (b : Barrier) : (s.setBarrier b).barrier b.level b.id b.group = b := by
  have self : b.is b.level b.id b.group = true := (is_iff _ _ _ _).2 ⟨rfl, rfl, rfl⟩
  unfold State.setBarrier State.barrier
  by_cases known : s.barriers.any (fun c => c.is b.level b.id b.group) = true
  · simp only [if_pos known]
    rw [find?_replace_self (p := fun c : Barrier => c.is b.level b.id b.group) self known, Option.getD_some]
  · have missing : s.barriers.find? (fun c => c.is b.level b.id b.group) = none :=
      List.find?_eq_none.2 fun c hc found => known (List.any_eq_true.2 ⟨c, hc, found⟩)
    simp only [if_neg known]
    simp [missing, self]

theorem barrier_setBarrier_other (s : State) {b : Barrier} {lv : Level} {id group : Nat}
    (h : (lv, id, group) ≠ (b.level, b.id, b.group)) : (s.setBarrier b).barrier lv id group = s.barrier lv id group := by
  have apart : ∀ c : Barrier, c.is b.level b.id b.group = true → c.is lv id group = false := by
    intro c hc
    obtain ⟨e1, e2, e3⟩ := (is_iff _ _ _ _).1 hc
    rw [← Bool.not_eq_true, is_iff, e1, e2, e3]
    rintro ⟨rfl, rfl, rfl⟩
    exact h rfl
  have other : b.is lv id group = false := apart b ((is_iff _ _ _ _).2 ⟨rfl, rfl, rfl⟩)
  unfold State.setBarrier State.barrier
  by_cases known : s.barriers.any (fun c => c.is b.level b.id b.group) = true
  · simp only [if_pos known]
    rw [find?_replace_other (p := fun c : Barrier => c.is b.level b.id b.group) apart other]
  · simp only [if_neg known]
    simp [other]

/-! ### When a phase completes (R32, R126) -/

/-- The open phase of a barrier completes: someone has arrived, and no one is missing. -/
def AllArrived (s : State) (b : Barrier) : Prop :=
  b.arrived ≠ [] ∧ (∀ l ∈ s.members b.level b.group, l.uid ∈ b.arrived) ∧ s.groupAbsent b.level b.group = false ∧ s.othersArrived b = true

theorem checkBarrier_of_arrived {s : State} {b : Barrier} (h : AllArrived s b) :
    s.checkBarrier b = s.setBarrier { b with completed := b.completed + 1, arrived := [] } := by
  obtain ⟨some, all, present, others⟩ := h
  exact if_pos (by simpa [some, present, others] using all)

theorem checkBarrier_of_missing {s : State} {b : Barrier} (h : ¬ AllArrived s b) : s.checkBarrier b = s := by
  refine if_neg fun c => h ?_
  simpa [AllArrived, and_assoc] using c

theorem mem_members {s : State} {lv : Level} {group : Nat} {l : Ladle} :
    l ∈ s.members lv group ↔ (l = s.me ∨ l ∈ s.rest ∨ ∃ c ∈ s.castings, l ∈ c.saved) ∧ l.live = true ∧ s.groupOf l lv = group := by
  simp [State.members, State.ladles]

theorem othersArrived_of_level {s : State} {b : Barrier} (h : b.level ≠ 3) : s.othersArrived b = true := if_neg h

theorem othersArrived_congr {s t : State} {b c : Barrier} (graphs : t.graphs = s.graphs) (level : c.level = b.level)
    (group : c.group = b.group) (completed : c.completed = b.completed) (remote : c.remote = b.remote) :
    t.othersArrived c = s.othersArrived b := by
  simp only [State.othersArrived, State.mouldOfGroup, graphs, level, group, completed, remote]

theorem groupOf_congr {s t : State} (graphs : t.graphs = s.graphs) (castings : t.castings = s.castings) (l : Ladle) (lv : Level) :
    t.groupOf l lv = s.groupOf l lv := by
  simp only [State.groupOf, State.gangOf, State.mouldOf, graphs, castings]

theorem groupAbsent_congr {s t : State} (graphs : t.graphs = s.graphs) (castings : t.castings = s.castings) (lv : Level)
    (group : Nat) : t.groupAbsent lv group = s.groupAbsent lv group := by
  simp only [State.groupAbsent, graphs, castings]

theorem groupAbsent_of_level {s : State} {lv : Level} {group : Nat} (h : lv.toNat < 2) : s.groupAbsent lv group = false := by
  simp [State.groupAbsent, Nat.not_le.2 h]

/-! ### A ladle's own arrival (R32) -/

/-- The ladle with its arrival at the open phase after `completed` ones: no lane of it stands arrived any more, and it is counted. -/
def arrivedAt (l : Ladle) (lv : Level) (id completed : Nat) : Ladle :=
  { l.setBar (barKey lv id) { l.bar (barKey lv id) with lanes := 0, arrived := completed + 1 } with
    arrivals := if lv = 1 then l.arrivals + 1 else l.arrivals,
    gangArrivals := if lv = 2 then l.gangArrivals + 1 else l.gangArrivals }

/-- The issuing split's lanes stand arrived. -/
def markLanes (l : Ladle) (key : Nat) : Ladle := l.setBar key { l.bar key with lanes := (l.bar key).lanes ||| l.sp.mask }

@[simp] theorem bar_setBar_self (l : Ladle) (key : Nat) (r : BarRec) : (l.setBar key r).bar key = r := FMap.get_set_self _ _ _ _

theorem bar_setBar_other (l : Ladle) {key q : Nat} (r : BarRec) (h : q ≠ key) : (l.setBar key r).bar q = l.bar q :=
  FMap.get_set_other _ _ _ (Ne.symm h)

@[simp] theorem liveLanes_markLanes (l : Ladle) (key : Nat) : (markLanes l key).liveLanes = l.liveLanes := rfl

theorem bar_markLanes_self (l : Ladle) (key : Nat) :
    (markLanes l key).bar key = { l.bar key with lanes := (l.bar key).lanes ||| l.sp.mask } := bar_setBar_self _ _ _

theorem splitArrives_eq (s : State) (lv : Level) (id : Nat) :
    s.splitArrives lv id = (s.mapMe (fun l => markLanes l (barKey lv id))).ladleArrives lv id := rfl

theorem ladleArrives_of_others {s : State} {lv : Level} {id : Nat} (h : s.me.liveLanes &&& ~~~(s.me.bar (barKey lv id)).lanes ≠ 0) :
    s.ladleArrives lv id = s := if_neg fun c => h c.2

theorem ladleArrives_of_last {s : State} {lv : Level} {id : Nat} (mine : (s.me.bar (barKey lv id)).lanes ≠ 0)
    (last : s.me.liveLanes &&& ~~~(s.me.bar (barKey lv id)).lanes = 0) :
    let b := s.barrier lv id (s.groupOf s.me lv)
    let c := { b with arrived := b.arrived ++ [s.me.uid] }
    s.ladleArrives lv id = ((s.mapMe (fun l => arrivedAt l lv id b.completed)).setBarrier c).checkBarrier c := if_pos ⟨mine, last⟩

/-- A split whose ladle has other lanes to come marks its own and changes nothing else (R32). -/
theorem splitArrives_of_others {s : State} {lv : Level} {id : Nat}
    (h : s.me.liveLanes &&& ~~~((s.me.bar (barKey lv id)).lanes ||| s.me.sp.mask) ≠ 0) :
    s.splitArrives lv id = s.mapMe (fun l => markLanes l (barKey lv id)) := by
  rw [splitArrives_eq]
  apply ladleArrives_of_others
  rwa [State.mapMe_me, bar_markLanes_self, liveLanes_markLanes]

/-- The record of the open phase at which the issuing ladle arrives, with its arrival. -/
def arrival (s : State) (lv : Level) (id : Nat) : Barrier :=
  { s.barrier lv id (s.groupOf s.me lv) with arrived := (s.barrier lv id (s.groupOf s.me lv)).arrived ++ [s.me.uid] }

/-- The package once the issuing ladle has counted its arrival. -/
def counted (s : State) (lv : Level) (id : Nat) : State :=
  s.mapMe (fun l => arrivedAt (markLanes l (barKey lv id)) lv id (s.barrier lv id (s.groupOf s.me lv)).completed)

theorem counted_graphs (s : State) (lv : Level) (id : Nat) : (counted s lv id).graphs = s.graphs := rfl

theorem counted_castings (s : State) (lv : Level) (id : Nat) : (counted s lv id).castings = s.castings := rfl

theorem counted_rest (s : State) (lv : Level) (id : Nat) : (counted s lv id).rest = s.rest := rfl

theorem counted_uid (s : State) (lv : Level) (id : Nat) : (counted s lv id).me.uid = s.me.uid := rfl

theorem mem_members_counted {s : State} {lv m : Level} {id group : Nat} {l : Ladle} :
    l ∈ (counted s lv id).members m group ↔
      (l = (counted s lv id).me ∨ l ∈ s.rest ∨ ∃ c ∈ s.castings, l ∈ c.saved) ∧ l.live = true ∧ s.groupOf l m = group := by
  rw [mem_members, groupOf_congr (counted_graphs s lv id) (counted_castings s lv id), counted_rest, counted_castings]

theorem arrival_key (s : State) (lv : Level) (id : Nat) :
    (arrival s lv id).level = lv ∧ (arrival s lv id).id = id ∧ (arrival s lv id).group = s.groupOf s.me lv := barrier_key s lv id _

theorem barrier_at_arrival (t s : State) (lv : Level) (id : Nat) :
    t.barrier lv id (s.groupOf s.me lv) = t.barrier (arrival s lv id).level (arrival s lv id).id (arrival s lv id).group := by
  obtain ⟨level, ident, group⟩ := arrival_key s lv id
  rw [level, ident, group]

/-- The last live lanes' arrival is the ladle's: its barrier has one member more arrived, and is looked at (R32). -/
theorem splitArrives_of_last {s : State} {lv : Level} {id : Nat}
    (mine : (s.me.bar (barKey lv id)).lanes ||| s.me.sp.mask ≠ 0)
    (last : s.me.liveLanes &&& ~~~((s.me.bar (barKey lv id)).lanes ||| s.me.sp.mask) = 0) :
    s.splitArrives lv id = ((counted s lv id).setBarrier (arrival s lv id)).checkBarrier (arrival s lv id) := by
  rw [splitArrives_eq, ladleArrives_of_last]
  · rfl
  · rwa [State.mapMe_me, bar_markLanes_self]
  · rwa [State.mapMe_me, bar_markLanes_self, liveLanes_markLanes]

/-- What a ladle's arrival changes: the ladle and the table of barriers. -/
theorem checkBarrier_frame (s : State) (b : Barrier) : s.checkBarrier b = { s with barriers := (s.checkBarrier b).barriers } := by
  by_cases h : AllArrived s b
  · rw [checkBarrier_of_arrived h]; rfl
  · rw [checkBarrier_of_missing h]

theorem barrier_checkBarrier_other (s : State) {b : Barrier} {lv : Level} {id group : Nat}
    (h : (lv, id, group) ≠ (b.level, b.id, b.group)) : (s.checkBarrier b).barrier lv id group = s.barrier lv id group := by
  by_cases c : AllArrived s b
  · rw [checkBarrier_of_arrived c]
    exact barrier_setBarrier_other s h
  · rw [checkBarrier_of_missing c]

/-- The record a barrier has once it has been looked at with `b` in its place. -/
theorem barrier_looked_at (s : State) (b : Barrier) :
    (AllArrived s b → ((s.setBarrier b).checkBarrier b).barrier b.level b.id b.group = { b with completed := b.completed + 1, arrived := [] }) ∧
    (¬ AllArrived s b → ((s.setBarrier b).checkBarrier b).barrier b.level b.id b.group = b) := by
  have same : AllArrived (s.setBarrier b) b ↔ AllArrived s b := Iff.rfl
  refine ⟨fun h => ?_, fun h => ?_⟩
  · rw [checkBarrier_of_arrived (same.2 h)]
    exact barrier_setBarrier_self _ { b with completed := b.completed + 1, arrived := [] }
  · rw [checkBarrier_of_missing (mt same.1 h), barrier_setBarrier_self]

/-! ### The table of a ladle's own arrivals plays no part in where its splits go on -/

theorem fillSlots_with_bars (l : Ladle) (m : FMap BarRec) : Ladle.fillSlots { l with bars := m } = { l.fillSlots with bars := m } := by
  have slot : ∀ l : Ladle, Ladle.fillSlot { l with bars := m } = { l.fillSlot with bars := m } := by
    intro l
    unfold Ladle.fillSlot
    simp only [Ladle.freeSlot, Ladle.longestParked, Ladle.allSplits, Ladle.mapSplits]
    split <;> rfl
  unfold Ladle.fillSlots
  rw [slot, slot, slot, slot]

theorem mapSplits_with_bars (l : Ladle) (m : FMap BarRec) (p : Split → Bool) (f : Split → Split) :
    Ladle.mapSplits { l with bars := m } p f = { l.mapSplits p f with bars := m } := rfl

theorem freeLoop_with_bars (l : Ladle) (m : FMap BarRec) : Ladle.freeLoop { l with bars := m } = { l.freeLoop with bars := m } := by
  unfold Ladle.freeLoop
  rw [← fillSlots_with_bars, ← mapSplits_with_bars]

theorem endPass_with_bars (l : Ladle) (b : LoopBuf) (m : FMap BarRec) :
    Ladle.endPass { l with bars := m } b = { l.endPass b with bars := m } := by
  unfold Ladle.endPass
  simp only [Ladle.setS]
  split
  · exact freeLoop_with_bars { l with s := _, sp := _ } m
  · rfl

theorem advance_with_bars (l : Ladle) (m : FMap BarRec) : Ladle.advance { l with bars := m } = { l.advance with bars := m } := by
  unfold Ladle.advance
  simp only
  split
  · split
    · split
      · rfl
      · exact endPass_with_bars l _ m
    · rfl
  · rfl

/-! ### The word, with its windows closed -/

theorem exec_bar {s : State} (h : Settled s) (lv k : BitVec 2) (i : BitVec 4) :
    exec (.bar lv k i) s = .next (
      if lv = 3 ∧ s.me.gangMould = false then s.castFault .illegal
      else if k = 2 then s.barWait lv i.toNat
      else if s.unperformed s.me.uid (levelScope lv) s.nextReq then s
      else s.barArrive lv i.toNat (k == 0)) := congrArg Host.Outcome.next (closing_of_settled h _)

/-- The ladle has marked the lanes of its split: its own record has them, and nothing else of it differs from `l`. -/
theorem marked {l l' m : Ladle} {key : Nat} (bars : l'.bars = (markLanes m key).bars) (rest : l' = { l with bars := l'.bars }) :
    l'.bar key = { m.bar key with lanes := (m.bar key).lanes ||| m.sp.mask } ∧ (∀ q, q ≠ key → l'.bar q = m.bar q) ∧
    l' = { l with bars := l'.bars } := by
  have same : ∀ q, l'.bar q = (markLanes m key).bar q := fun q => congrArg (fun t => FMap.get BarRec.none t q) bars
  exact ⟨(same key).trans (bar_markLanes_self m key), fun q hq => (same q).trans (bar_setBar_other m _ hq), rest⟩

theorem waitedThrough_pad (l : Ladle) (lv : Level) (id phase : Nat) : (l.waitedThrough lv id phase).pad = l.pad := by
  simp only [Ladle.waitedThrough, apply_ite Ladle.pad, Ladle.setBar, ite_self]

/-! ### The arrival of a ladle's last lanes -/

/-- A live member of a barrier other than the issuing ladle, saved ones among them. -/
def Other (s : State) (lv : Level) (group : Nat) (l : Ladle) : Prop :=
  (l ∈ s.rest ∨ ∃ c ∈ s.castings, l ∈ c.saved) ∧ l.live = true ∧ s.groupOf l lv = group ∧ l.uid ≠ s.me.uid

/-- With the issuing ladle's arrival in, the phase completes when every other live member has arrived and no one else is missing. -/
theorem allArrived_iff (s : State) (lv : Level) (id : Nat) :
    AllArrived (counted s lv id) (arrival s lv id) ↔
      (∀ l, Other s lv (s.groupOf s.me lv) l → l.uid ∈ (s.barrier lv id (s.groupOf s.me lv)).arrived) ∧
      s.groupAbsent lv (s.groupOf s.me lv) = false ∧ s.othersArrived (s.barrier lv id (s.groupOf s.me lv)) = true := by
  obtain ⟨level, -, group⟩ := arrival_key s lv id
  unfold AllArrived
  have present : (counted s lv id).groupAbsent lv (s.groupOf s.me lv) = s.groupAbsent lv (s.groupOf s.me lv) :=
    groupAbsent_congr (counted_graphs s lv id) (counted_castings s lv id) _ _
  have others : (counted s lv id).othersArrived (arrival s lv id) = s.othersArrived (s.barrier lv id (s.groupOf s.me lv)) :=
    othersArrived_congr (counted_graphs s lv id) rfl rfl rfl rfl
  rw [level, group, present, others]
  have arrives : (arrival s lv id).arrived ≠ [] := by simp [arrival]
  refine (and_iff_right arrives).trans (and_congr_left fun _ => ⟨fun all l ⟨place, live, group, apart⟩ => ?_, fun all l hl => ?_⟩)
  · have := all l (mem_members_counted.2 ⟨.inr place, live, group⟩)
    simpa [arrival, apart] using this
  · obtain ⟨place, live, group⟩ := mem_members_counted.1 hl
    by_cases apart : l.uid = s.me.uid
    · simp [arrival, apart]
    · have away : l ∈ s.rest ∨ ∃ c ∈ s.castings, l ∈ c.saved :=
        place.resolve_left fun me => apart ((congrArg Ladle.uid me).trans (counted_uid s lv id))
      simp [arrival, all l ⟨away, live, group, apart⟩]

section LastLanes

variable {s : State} {lv : Level} {id : Nat} (mine : (s.me.bar (barKey lv id)).lanes ||| s.me.sp.mask ≠ 0)
  (last : s.me.liveLanes &&& ~~~((s.me.bar (barKey lv id)).lanes ||| s.me.sp.mask) = 0)

include mine last

theorem barrier_of_completion (h : AllArrived (counted s lv id) (arrival s lv id)) :
    (s.splitArrives lv id).barrier lv id (s.groupOf s.me lv) =
      { arrival s lv id with completed := (arrival s lv id).completed + 1, arrived := [] } := by
  have look := (barrier_looked_at (counted s lv id) (arrival s lv id)).1 h
  rw [← splitArrives_of_last mine last] at look
  exact (barrier_at_arrival _ s lv id).trans look

theorem barrier_of_missing (h : ¬ AllArrived (counted s lv id) (arrival s lv id)) :
    (s.splitArrives lv id).barrier lv id (s.groupOf s.me lv) = arrival s lv id := by
  have look := (barrier_looked_at (counted s lv id) (arrival s lv id)).2 h
  rw [← splitArrives_of_last mine last] at look
  exact (barrier_at_arrival _ s lv id).trans look

theorem released_of_last : ((s.splitArrives lv id).barrier lv id (s.groupOf s.me lv)).released
    = (s.barrier lv id (s.groupOf s.me lv)).released := by
  by_cases h : AllArrived (counted s lv id) (arrival s lv id)
  · rw [barrier_of_completion mine last h]; rfl
  · rw [barrier_of_missing mine last h]; rfl

theorem barrier_other_of_last {m : Level} {i g : Nat} (h : (m, i, g) ≠ (lv, id, s.groupOf s.me lv)) :
    (s.splitArrives lv id).barrier m i g = s.barrier m i g := by
  obtain ⟨level, ident, group⟩ := arrival_key s lv id
  have apart : (m, i, g) ≠ ((arrival s lv id).level, (arrival s lv id).id, (arrival s lv id).group) := by rwa [level, ident, group]
  rw [splitArrives_of_last mine last, barrier_checkBarrier_other _ apart, barrier_setBarrier_other _ apart]
  rfl

theorem frame_of_last :
    s.splitArrives lv id = { s with me := (counted s lv id).me, barriers := (s.splitArrives lv id).barriers } := by
  rw [splitArrives_of_last mine last, checkBarrier_frame]
  rfl

theorem me_of_last : (s.splitArrives lv id).me
    = arrivedAt (markLanes s.me (barKey lv id)) lv id (s.barrier lv id (s.groupOf s.me lv)).completed :=
  congrArg State.me (frame_of_last mine last)

end LastLanes

theorem bar_arrivedAt (l : Ladle) (lv : Level) (id completed : Nat) :
    (arrivedAt l lv id completed).bar (barKey lv id) = { l.bar (barKey lv id) with lanes := 0, arrived := completed + 1 } := by
  exact bar_setBar_self l (barKey lv id) { l.bar (barKey lv id) with lanes := 0, arrived := completed + 1 }

theorem arrivals_arrivedAt (l : Ladle) (lv : Level) (id completed : Nat) :
    (arrivedAt l lv id completed).arrivals = l.arrivals + (if lv = 1 then 1 else 0) := by
  simp only [arrivedAt]
  split <;> rfl

theorem gangArrivals_arrivedAt (l : Ladle) (lv : Level) (id completed : Nat) :
    (arrivedAt l lv id completed).gangArrivals = l.gangArrivals + (if lv = 2 then 1 else 0) := by
  simp only [arrivedAt]
  split <;> rfl

section Word

variable {s : State} (h : Settled s) {lv k : BitVec 2} {i : BitVec 4} (legal : lv = 3 → s.me.gangMould = true)

include h legal

theorem exec_bar_wait (hk : k = 2) : exec (.bar lv k i) s = .next (s.barWait lv i.toNat) := by
  rw [exec_bar h, if_neg (by simpa using legal), if_pos hk]

theorem exec_bar_arrive (hk : k ≠ 2) (free : s.unperformed s.me.uid (levelScope lv) s.nextReq = false) :
    exec (.bar lv k i) s = .next (s.barArrive lv i.toNat (k == 0)) := by
  rw [exec_bar h, if_neg (by simpa using legal), if_neg hk, if_neg (by simp [free])]

/-- An arrival with no earlier one outstanding (R126). -/
theorem exec_bar_arrival (hk : k ≠ 2) (free : s.unperformed s.me.uid (levelScope lv) s.nextReq = false)
    (ended : (s.me.bar (barKey lv i.toNat)).arrived ≤ (s.barrier lv i.toNat (s.groupOf s.me lv)).completed)
    (lanes : lv = 0 → (s.me.bar (barKey lv i.toNat)).lanes &&& s.me.sp.mask = 0) :
    exec (.bar lv k i) s = .next (if k = 0
      then blocked (s.splitArrives lv i.toNat) (.barrier lv i.toNat ((s.barrier lv i.toNat (s.groupOf s.me lv)).completed + 1) true)
      else (s.splitArrives lv i.toNat).done (fun l => l)) := by
  have once : ¬ (lv = 0 ∧ (s.me.bar (barKey lv i.toNat)).lanes &&& s.me.sp.mask ≠ 0) := fun c => c.2 (lanes c.1)
  rw [exec_bar_arrive h legal hk free]
  refine congrArg Host.Outcome.next ((if_neg (Nat.not_lt.2 ended)).trans ((if_neg once).trans ?_))
  simp only [beq_iff_eq]
  rfl

end Word

/-- The lanes of a split that goes on, with others of its ladle to come (R32). -/
theorem marked_done {s : State} {lv : Level} {id : Nat}
    (h : s.me.liveLanes &&& ~~~((s.me.bar (barKey lv id)).lanes ||| s.me.sp.mask) ≠ 0) :
    let t := (s.splitArrives lv id).done (fun l => l)
    t = { s with me := t.me } ∧ SameBytes s t ∧ t.me.bars = (markLanes s.me (barKey lv id)).bars ∧
      t.me = { s.me.issued.advance with bars := t.me.bars } := by
  rw [splitArrives_of_others h]
  intro t
  have bars : t.me.bars = (markLanes s.me (barKey lv id)).bars := by simp [t, State.done, Ladle.issued]
  refine ⟨rfl, ⟨fun _ => rfl, fun a => ?_⟩, bars, ?_⟩
  · simp [t, State.done, markLanes, Ladle.setBar]
  · rw [bars]
    exact advance_with_bars s.me.issued _

/-- The lanes of a split that waits for its phase, with others of its ladle to come (R32). -/
theorem marked_blocked {s : State} {lv : Level} {id : Nat} (b : Blocked)
    (h : s.me.liveLanes &&& ~~~((s.me.bar (barKey lv id)).lanes ||| s.me.sp.mask) ≠ 0) :
    let t := blocked (s.splitArrives lv id) b
    t = { s with me := t.me } ∧ SameBytes s t ∧ t.me.bars = (markLanes s.me (barKey lv id)).bars ∧
      t.me = { (s.me.issued.block b).fillSlots with bars := t.me.bars } := by
  rw [splitArrives_of_others h]
  intro t
  have bars : t.me.bars = (markLanes s.me (barKey lv id)).bars := by simp [t, blocked, Ladle.issued, Ladle.block]
  refine ⟨rfl, ⟨fun _ => rfl, fun a => ?_⟩, bars, ?_⟩
  · simp [t, blocked, markLanes, Ladle.setBar, Ladle.block, Ladle.issued]
  · rw [bars]
    exact fillSlots_with_bars (s.me.issued.block b) _

/-- Settles O15: by the cases of `bar`, and, for an arrival, by what the look at the barrier finds. -/
theorem barriers : Obligations.Barriers := by
  unfold Obligations.Barriers
  refine ⟨fun s lv k i h => ?_, fun s lv id => ?_⟩
  · intro r b legal free phase mine
    refine ⟨fun hl => ?_, fun hl hk past => ?_, fun hl hk ahead => ?_, fun hl hk hf => ?_, fun hl hk hf outstanding => ?_,
      fun hl hk hf ended level lanes => ?_, fun hl hk hf ended lanes => ?_⟩
    · exact (exec_bar h lv k i).trans (congrArg _ (if_pos (by simpa [legal] using hl)))
    · exact issues_of_exec (f := fun l => l.waitedThrough lv i.toNat phase)
        ((exec_bar_wait h hl hk).trans (congrArg _ (if_pos past))) (waitedThrough_pad _ _ _ _) rfl
    · exact (exec_bar_wait h hl hk).trans (congrArg _ (if_neg (Nat.not_le.2 ahead)))
    · refine (exec_bar h lv k i).trans ?_
      rw [if_neg (by simpa [legal] using hl), if_neg hk, if_pos (by simpa [free] using hf)]
    · exact (exec_bar_arrive h hl hk hf).trans (congrArg _ (if_pos outstanding))
    · refine (exec_bar_arrive h hl hk hf).trans (congrArg _ ((if_neg ?_).trans (if_pos ⟨level, lanes⟩)))
      exact Nat.not_lt.2 ended
    · have step := exec_bar_arrival h hl hk hf ended lanes
      have goes : k ≠ 0 → exec (.bar lv k i) s = .next ((s.splitArrives lv i.toNat).done (fun l => l)) :=
        fun hk0 => step.trans (congrArg _ (if_neg hk0))
      have waits : k = 0 →
          exec (.bar lv k i) s = .next (blocked (s.splitArrives lv i.toNat) (.barrier lv i.toNat (b.completed + 1) true)) :=
        fun hk0 => step.trans (congrArg _ (if_pos hk0))
      refine ⟨waits, goes, fun others => ⟨fun hk0 => ?_, fun hk0 => ?_⟩⟩
      · obtain ⟨frame, bytes, bars, me⟩ := marked_done others
        exact ⟨_, goes hk0, frame, bytes, marked bars me⟩
      · obtain ⟨frame, bytes, bars, me⟩ := marked_blocked (.barrier lv i.toNat (b.completed + 1) true) others
        exact ⟨_, waits hk0, frame, bytes, marked bars me⟩
  · intro key group b lanes some_ last t after other come
    have whether := allArrived_iff s lv id
    have me := me_of_last some_ last
    refine ⟨fun all here => ?_, fun missing => ?_, fun hl => ?_, groupAbsent_of_level, released_of_last some_ last, ?_,
      fun m i g h => barrier_other_of_last some_ last h, ?_, ?_, ?_, ?_⟩
    · have done := barrier_of_completion some_ last (whether.2 ⟨all, here⟩)
      exact ⟨congrArg Barrier.completed done, congrArg Barrier.arrived done⟩
    · have still : ¬ AllArrived (counted s lv id) (arrival s lv id) := fun c => by
        obtain ⟨all, here⟩ := whether.1 c
        exact missing.elim (fun ⟨l, hl, out⟩ => out (all l hl)) (fun out => out here)
      have same := barrier_of_missing some_ last still
      exact ⟨(congrArg Barrier.completed same).trans rfl, (congrArg Barrier.arrived same).trans rfl⟩
    · exact othersArrived_of_level (by rwa [(barrier_key s lv id group).1])
    · exact (frame_of_last some_ last).trans (by rw [me]; rfl)
    · rw [me, arrivals_arrivedAt]; rfl
    · rw [me, gangArrivals_arrivedAt]; rfl
    · exact (congrArg (fun l => (Ladle.bar l key).arrived) me).trans (congrArg BarRec.arrived (bar_arrivedAt _ lv id _))
    · exact (congrArg (fun l => (Ladle.bar l key).lanes) me).trans (congrArg BarRec.lanes (bar_arrivedAt _ lv id _))

end Sys2Proof.Barriers

/-!
PROOF. O38: what reaches a ladle between its instructions (R38, R47, R57, R126, R157, R161, R164, R175).
-/

namespace Sys2Proof.LadleEvents

open Sys2Proof.Machine Sys2Proof.Spec Sys2Proof.Completion

/-! ### The fields of %tcause (R156) -/

/-- A field that reads 0 takes its value by addition. -/
theorem putBits_ofNat {w : Nat} (a hi lo v : Nat) (clear : a / 2 ^ lo % 2 ^ (hi + 1 - lo) = 0) :
    putBits (BitVec.ofNat w a) hi lo v = BitVec.ofNat w (a + v % 2 ^ (hi + 1 - lo) * 2 ^ lo) := by
  unfold putBits
  generalize hi + 1 - lo = n at clear ⊢
  have outside : BitVec.ofNat w a &&& BitVec.ofNat w ((2 ^ n - 1) * 2 ^ lo) = 0#w := by
    refine BitVec.eq_of_getLsbD_eq fun i hi => ?_
    have bit := congrArg (fun x => x.testBit (i - lo)) clear
    simp only [Nat.testBit_mod_two_pow, Nat.testBit_div_two_pow, Nat.zero_testBit] at bit
    simp only [BitVec.getLsbD_and, BitVec.getLsbD_ofNat, Nat.testBit_mul_two_pow, Nat.testBit_two_pow_sub_one]
    by_cases low : lo ≤ i
    · rw [Nat.sub_add_cancel low] at bit
      simpa [hi, low, Bool.and_comm] using bit
    · simp [low]
  have inside : BitVec.ofNat w (v * 2 ^ lo) &&& BitVec.ofNat w ((2 ^ n - 1) * 2 ^ lo) = BitVec.ofNat w (v % 2 ^ n * 2 ^ lo) := by
    refine BitVec.eq_of_getLsbD_eq fun i hi => ?_
    simp only [BitVec.getLsbD_and, BitVec.getLsbD_ofNat, Nat.testBit_mul_two_pow, Nat.testBit_two_pow_sub_one, Nat.testBit_mod_two_pow]
    by_cases low : lo ≤ i <;> simp [hi, low, Bool.and_comm]
  have kept : BitVec.ofNat w a &&& ~~~BitVec.ofNat w ((2 ^ n - 1) * 2 ^ lo) = BitVec.ofNat w a := by
    refine BitVec.eq_of_getLsbD_eq fun i hi => ?_
    have bit := congrArg (fun x => x.getLsbD i) outside
    simp only [BitVec.getLsbD_and, BitVec.getLsbD_zero] at bit
    rw [BitVec.getLsbD_and, BitVec.getLsbD_not]
    revert bit
    cases (BitVec.ofNat w a).getLsbD i <;> simp [hi]
  have apart : BitVec.ofNat w a &&& BitVec.ofNat w (v % 2 ^ n * 2 ^ lo) = 0#w := by
    rw [← inside, BitVec.and_comm (BitVec.ofNat w (v * 2 ^ lo)), ← BitVec.and_assoc, outside, BitVec.zero_and]
  simp only
  rw [kept, inside, ← BitVec.add_eq_or_of_and_eq_zero _ _ apart, BitVec.ofNat_add]

theorem causeWord_landing (cls code window : Nat) (offset : Word64) :
    causeWord cls code true window offset = BitVec.ofNat 64 (2 ^ 63 + cls % 32 * 2 ^ 56 + window % 16 * 2 ^ 48 + 2 ^ 47 +
      offset.toNat % 2 ^ 25 * 2 ^ 22 + code % 8192) := by
  have hc : cls % 32 < 32 := Nat.mod_lt _ (by omega)
  have hw : window % 16 < 16 := Nat.mod_lt _ (by omega)
  have ho : offset.toNat % 2 ^ 25 < 2 ^ 25 := Nat.mod_lt _ (by omega)
  unfold causeWord
  rw [show (0 : Word64) = BitVec.ofNat 64 0 from rfl, putBits_ofNat _ _ _ _ (by simp), putBits_ofNat _ _ _ _ (by simp),
    putBits_ofNat _ _ _ _ (by norm_num; omega), putBits_ofNat _ _ _ _ (by norm_num; omega),
    putBits_ofNat _ _ _ _ (by norm_num [bit]; omega), putBits_ofNat _ _ _ _ (by norm_num [bit]; omega)]
  norm_num [bit]

theorem bitsOf_tvec (x : Word64) : bitsOf x 56 2 = x.toNat / 4 % 2 ^ 55 := by
  simp [bitsOf, Nat.shiftRight_eq_div_pow]

/-! ### Acting on the issuing ladle (R30) -/

theorem selectLadle_of_absent {s : State} {u : Nat} (h : ∀ l ∈ s.rest, l.uid ≠ u) : s.selectLadle u = s := by
  have absent : s.rest.find? (fun l => l.uid == u) = none := List.find?_eq_none.2 fun l hl => by simpa using h l hl
  simp only [State.selectLadle, absent]

/-- The others keep their numbers, so the issuing place stays with the ladle. -/
theorem onLadle_self {s : State} (h : Alone s) {f : State → State} (others : (f s).rest.map Ladle.uid = s.rest.map Ladle.uid) :
    s.onLadle s.me.uid f = f s := by
  obtain ⟨live, alone⟩ := h
  have here : s.ladles.any (fun l => l.uid == s.me.uid && l.live) = true := by simp [State.ladles, live]
  have absent : ∀ l ∈ (f s).rest, l.uid ≠ s.me.uid := by
    intro l hl same
    have mem : l.uid ∈ s.rest.map Ladle.uid := others ▸ List.mem_map_of_mem hl
    obtain ⟨m, hm, e⟩ := List.mem_map.1 mem
    exact alone m hm (e.trans same)
  rw [State.onLadle, if_pos here, selectLadle_of_absent alone, selectLadle_of_absent absent]

theorem onLadle_eq {s t : State} (h : Alone s) {f : State → State} (e : f s = t)
    (others : t.rest.map Ladle.uid = s.rest.map Ladle.uid) : s.onLadle s.me.uid f = t := by
  subst e
  exact onLadle_self h others

theorem onSplit_eq {s t : State} (h : Alone s) {p : Split → Bool} (hp : p s.me.sp = true) {f : State → State} (e : f s = t)
    (others : t.rest.map Ladle.uid = s.rest.map Ladle.uid) : s.onSplit s.me.uid p f = t := by
  have picked : s.me.selectSplit p = some s.me := if_pos hp
  refine onLadle_eq h ?_ others
  simp only [picked]
  exact e

theorem ladle?_self (s : State) : s.ladle? s.me.uid = some s.me := by simp [State.ladle?, State.ladles]

/-! ### Slots (R26) -/

theorem fillSlot_slot (l : Ladle) :
    ∃ n xs, l.fillSlot = { l with sp := { l.sp with slot := n }, splits := xs } ∧ xs.length = l.splits.length := by
  unfold Ladle.fillSlot
  split
  · simp only [Ladle.mapSplits]
    split
    · exact ⟨_, _, rfl, by simp⟩
    · exact ⟨l.sp.slot, _, rfl, by simp⟩
  · exact ⟨l.sp.slot, l.splits, rfl, rfl⟩

/-- Filling slots changes nothing of the issuing split but its slot. -/
theorem fillSlots_slot (l : Ladle) :
    ∃ n xs, l.fillSlots = { l with sp := { l.sp with slot := n }, splits := xs } ∧ xs.length = l.splits.length := by
  obtain ⟨a, xs, h, hx⟩ := fillSlot_slot l
  obtain ⟨b, ys, h1, hy⟩ := fillSlot_slot l.fillSlot
  obtain ⟨c, zs, h2, hz⟩ := fillSlot_slot l.fillSlot.fillSlot
  obtain ⟨d, ws, h3, hw⟩ := fillSlot_slot l.fillSlot.fillSlot.fillSlot
  refine ⟨d, ws, by rw [Ladle.fillSlots, h3, h2, h1, h], ?_⟩
  rw [hw, h2, hz, h1, hy, h, hx]


/-- The handler finds a slot for its split and changes nothing else of it. -/
theorem takeSlot_slot (l : Ladle) :
    ∃ n xs c, l.takeSlot = { l with sp := { l.sp with slot := n }, splits := xs, parkCounter := c } := by
  unfold Ladle.takeSlot
  split
  · exact ⟨l.sp.slot, _, _, rfl⟩
  · split <;> exact ⟨_, _, _, rfl⟩

theorem takeSlot_pc (l : Ladle) : l.takeSlot.sp.pc = l.sp.pc := by
  obtain ⟨n, xs, c, e⟩ := takeSlot_slot l
  rw [e]

theorem takeSlot_tvec (l : Ladle) : l.takeSlot.tvec = l.tvec := by
  obtain ⟨n, xs, c, e⟩ := takeSlot_slot l
  rw [e]

theorem enterHandler_tpc (l : Ladle) (cls code : Nat) (a : StopAt) : (l.enterHandler cls code a).tpc = l.sp.pc := takeSlot_pc l

theorem enterHandler_pc (l : Ladle) (cls code : Nat) (a : StopAt) :
    (l.enterHandler cls code a).sp.pc = BitVec.ofNat 64 (l.tvec.toNat / 4 % 2 ^ 55 * 4) := by
  rw [← bitsOf_tvec, ← takeSlot_tvec]
  rfl

theorem enterHandler_tcause (l : Ladle) (cls code : Nat) (a : Word64) (w : Nat) :
    (l.enterHandler cls code (.landing a w)).tcause = causeWord cls code true (min w 15) ((a - l.sp.pc).sshiftRight 2) := by
  rw [← takeSlot_pc]
  rfl

/-! ### A demand-miss notification (R161) -/

theorem settle_of_calm {s : State} (calm : ∀ p ∈ s.me.pend, s.me.landable false p = false) : s.settle = s := by
  have nothing : s.me.pend.any (fun p => s.me.landable false p) = false := by simpa using calm
  simp [State.settle, State.landDue, nothing]

theorem selectSlot_of_alone {l : Ladle} (alone : l.splits = []) (n : Nat) : l.selectSlot n = l := by
  simp [Ladle.selectSlot, alone]

/-- The ladle may take a notification in place of its wait. -/
def MayNotify (s : State) : Prop :=
  s.me.canRun = true ∧ s.me.tvec.getLsbD 1 = true ∧ s.me.tcause.getLsbD 63 = false ∧ s.me.tvec.toNat / 4 % 2 ^ 55 ≠ 0 ∧
    s.permitFree = true

theorem barred_iff (s : State) :
    (!s.me.canRun || !s.me.tvec.getLsbD 1 || causeM s.me.tcause || decide (bitsOf s.me.tvec 56 2 = 0) || !s.permitFree) = true ↔
      ¬ MayNotify s := by
  simp only [MayNotify, causeM, bitsOf_tvec, Bool.or_eq_true, Bool.not_eq_true', decide_eq_true_eq, not_and_or, Bool.not_eq_true,
    Bool.not_eq_false, ne_eq, not_not, or_assoc]

section Notification

variable {s : State} (h : Alone s) (calm : ∀ p ∈ s.me.pend, s.me.landable false p = false)

include h calm

theorem exec_demandMiss_of_barred (barred : ¬ MayNotify s) : exec (.demandMissNotification s.me.uid) s = .next s := by
  refine congrArg Host.Outcome.next (onLadle_eq h ?_ rfl)
  simp only [settle_of_calm calm]
  exact if_pos ((barred_iff s).2 barred)

theorem exec_demandMiss_of_none (may : MayNotify s) (alone : s.me.splits = []) (miss : s.demandMiss = none) :
    exec (.demandMissNotification s.me.uid) s = .next s := by
  have slot : ∀ n, s.mapMe (fun l => l.selectSlot n) = s := fun n => by rw [State.mapMe, selectSlot_of_alone alone]
  refine congrArg Host.Outcome.next (onLadle_eq h ?_ rfl)
  simp only [settle_of_calm calm, slot, miss]
  exact if_neg (fun c => (barred_iff s).1 c may)

theorem exec_demandMiss_of_some (may : MayNotify s) (alone : s.me.splits = []) {p : Pending} {g : Nat} (miss : s.demandMiss = some (p, g)) :
    exec (.demandMissNotification s.me.uid) s = .next (s.mapMe (fun l => l.notifyMiss p g)) := by
  have slot : ∀ n, s.mapMe (fun l => l.selectSlot n) = s := fun n => by rw [State.mapMe, selectSlot_of_alone alone]
  refine congrArg Host.Outcome.next (onLadle_eq h ?_ rfl)
  simp only [settle_of_calm calm, slot, miss]
  refine (if_neg (fun c => (barred_iff s).1 c may)).trans ?_
  simp [State.mapMe, selectSlot_of_alone alone]

end Notification

/-- The ladle enters its handler at the landing point of the load (R158, R161). -/
theorem notifyMiss_entered (l : Ladle) (p : Pending) (g : Nat) :
    let m := l.notifyMiss p g
    m.permit = true ∧ m.handlerActive = true ∧ m.tpc = l.sp.pc ∧ m.sp.handler = true ∧
      m.sp.pc = BitVec.ofNat 64 (l.tvec.toNat / 4 % 2 ^ 55 * 4) ∧ (∀ q ∈ m.pend, q.suspended = true) ∧
      m.tcause = BitVec.ofNat 64 (2 ^ 63 + 4 * 2 ^ 56 +
        min (p.window (if p.dest.isLane && p.awaitedIn l.sp then p.dueLanes false &&& l.sp.mask else p.lanes)) 15 * 2 ^ 48 + 2 ^ 47 +
        ((p.pc - l.sp.pc).sshiftRight 2).toNat % 2 ^ 25 * 2 ^ 22 + g % 8192) := by
  refine ⟨rfl, rfl, enterHandler_tpc _ _ _ _, rfl, enterHandler_pc _ _ _ _, fun q hq => ?_, ?_⟩
  · obtain ⟨r, -, rfl⟩ := List.mem_map.1 hq
    rfl
  · refine (enterHandler_tcause _ _ _ _ _).trans ?_
    rw [causeWord_landing, Nat.mod_eq_of_lt (a := min _ 15) (by omega)]
    rfl

/-! ### A landing (R57) -/

theorem dueLanes_lane {p : Pending} {d : BitVec 6} (dest : p.dest = .lane d) :
    p.dueLanes false = laneMask (fun j => p.lanes.getLsbD j && decide (p.counts.toList.getD j 0 = 0)) := by
  refine BitVec.eq_of_getLsbD_eq fun j hj => ?_
  simp only [Pending.dueLanes, dest, Dest.isLane, if_true]
  rw [BitVec.getLsbD_and, laneMask_getLsbD _ hj, laneMask_getLsbD _ hj, Bool.false_or]

theorem laneMask_eq_zero_iff (f : Nat → Bool) : laneMask f = 0 ↔ ∀ j < 32, f j = false := by
  refine ⟨fun h j hj => ?_, fun h => BitVec.eq_of_getLsbD_eq fun j hj => ?_⟩
  · rw [← laneMask_getLsbD f hj, h]; simp
  · rw [laneMask_getLsbD f hj, h j hj]; simp

theorem traps_of_quiet {p : Pending} (quiet : p.exceptions = 0) : p.traps = 0 := by simp [Pending.traps, quiet]

theorem land_quiet (s : State) {p : Pending} (sound : p.fault = none) (quiet : p.exceptions = 0) :
    s.land p false = s.mapMe (fun l => l.landed p false) := by
  simp [State.land, sound, traps_of_quiet quiet]

theorem landable_quiet (l : Ladle) {p : Pending} (come : p.missing = 0) (free : p.suspended = false) (quiet : p.exceptions = 0) :
    l.landable false p = decide (p.dueLanes false ≠ 0) := by
  simp [Ladle.landable, Pending.lands, come, free, traps_of_quiet quiet]

theorem exec_longResultLanding {s : State} (h : Alone s) {p : Pending} (one : s.me.pend = [p]) (running : s.me.stopped = false)
    (sound : p.fault = none) (quiet : p.exceptions = 0) (come : p.missing = 0) (free : p.suspended = false) :
    exec (.longResultLanding s.me.uid 0) s =
      .next (if p.dueLanes false ≠ 0 then s.mapMe (fun l => l.landed p false) else s) := by
  refine congrArg Host.Outcome.next (onLadle_eq h ?_ ?_)
  · simp only [one, List.getElem?_cons_zero, landable_quiet s.me come free quiet, running, land_quiet s sound quiet]
    simp
  · split <;> rfl

theorem landed_v (l : Ladle) (p : Pending) (all : Bool) : (l.landed p all).v = (l.deliver p (p.dueLanes all)).v := by
  simp only [Ladle.landed]
  split <;> rfl

/-- What a result of a lane register leaves: its lanes written, and of itself the lanes that are not due. -/
theorem landed_lane {l : Ladle} {p : Pending} {d : BitVec 6} (dest : p.dest = .lane d) (one : l.pend = [p]) (quiet : p.exceptions = 0) :
    let m := l.landed p false
    LanesWritten l m d (p.dueLanes false) (fun j => (p.laneVal j).setWidth 32) ∧ m.s = l.s ∧ m.fmode = l.fmode ∧ m.sp = l.sp ∧
      m.pend = if p.lanes &&& ~~~p.dueLanes false = 0 then []
        else [{ p with lanes := p.lanes &&& ~~~p.dueLanes false, exceptions := 0 }] := by
  intro m
  have v : m.v = (l.setV d (p.dueLanes false) (fun j => (p.laneVal j).setWidth 32)).v := by
    rw [landed_v, Ladle.deliver, dest]
  have reg : ∀ r, m.getV r = (l.setV d (p.dueLanes false) (fun j => (p.laneVal j).setWidth 32)).getV r :=
    fun r => congrArg (fun v => Vector.get v r.toFin) v
  refine ⟨⟨fun j hj => ?_, fun r hr => ?_⟩, ?_, ?_, ?_, ?_⟩
  · rw [reg, Ladle.laneAt_setV_self _ _ _ _ hj]
  · rw [reg, Ladle.getV_setV_other _ _ _ hr]
  · simp only [m, Ladle.landed, Ladle.deliver, dest]
    split <;> rfl
  · simp only [m, Ladle.landed, Ladle.deliver, dest, quiet, raiseFlags]
    split <;> simp [Ladle.fillValue]
  · simp only [m, Ladle.landed, Ladle.deliver, dest]
    split <;> rfl
  · simp only [m, Ladle.landed, Ladle.deliver, dest]
    split <;> simp [Ladle.fillValue, dest, one]

/-! ### A barrier's release (R126) -/

/-- The releases of a barrier's phases change the ladle's record of them and its splits, and no register. -/
theorem releaseBar_frame (l : Ladle) (lv : Level) (id phase : Nat) :
    (l.releaseBar lv id phase).s = l.s ∧ (l.releaseBar lv id phase).v = l.v ∧ (l.releaseBar lv id phase).k = l.k := by
  unfold Ladle.releaseBar Ladle.waitedThrough
  simp only [Ladle.fillSlots_s, Ladle.fillSlots_v, Ladle.fillSlots_k, Ladle.mapSplits]
  split
  · split <;> exact ⟨rfl, rfl, rfl⟩
  · exact ⟨rfl, rfl, rfl⟩

/-- What a release makes of a split. -/
def releasedSplit (x : Split) (lv : Level) (id phase : Nat) : Split :=
  if x.released lv id phase then { x with blocked := .ready, pc := x.pc + 4 }
  else if x.arrivesAgain lv id phase then { x with blocked := .ready } else x

theorem releaseBar_sp (l : Ladle) (lv : Level) (id phase : Nat) :
    ∃ n, (l.releaseBar lv id phase).sp = { releasedSplit l.sp lv id phase with slot := n } := by
  have counted : ∀ b : Bool, (if b then l.waitedThrough lv id phase else l).sp = l.sp := by
    intro b
    simp only [Ladle.waitedThrough, apply_ite Ladle.sp, Ladle.setBar, ite_self]
  unfold Ladle.releaseBar
  simp only
  generalize hq : Ladle.mapSplits (Ladle.mapSplits _ _ _) _ _ = q
  obtain ⟨n, xs, e, -⟩ := fillSlots_slot q
  have sp : q.sp = releasedSplit l.sp lv id phase := by
    rw [← hq]
    simp only [Ladle.mapSplits, counted, releasedSplit]
    by_cases h : l.sp.released lv id phase = true
    · simp [h, Split.arrivesAgain]
    · simp [h]
  exact ⟨n, by rw [e, sp]⟩

theorem released_iff {x : Split} {lv : Level} {id p : Nat} {w : Bool} (h : x.blocked = .barrier lv id p w) (phase : Nat) :
    x.released lv id phase = decide (p ≤ phase) ∧ x.arrivesAgain lv id phase = false := by
  simp [Split.released, Split.arrivesAgain, h]

section Release

variable {s : State} {n : Nat} {b : Barrier} (here : s.barriers[n]? = some b)

include here

theorem exec_barrierRelease_of_none (no : b.completed ≤ b.released) : exec (.barrierRelease n) s = .next s := by
  have act : exec (.barrierRelease n) s = match s.barriers[n]? with
    | some b => if b.released < b.completed then .next (s.releaseBarrier b) else .next s
    | none => .next s := rfl
  rw [act, here]
  exact if_neg (Nat.not_lt.2 no)

theorem exec_barrierRelease (due : b.released < b.completed) : exec (.barrierRelease n) s = .next (s.releaseBarrier b) := by
  have act : exec (.barrierRelease n) s = match s.barriers[n]? with
    | some b => if b.released < b.completed then .next (s.releaseBarrier b) else .next s
    | none => .next s := rfl
  rw [act, here]
  exact if_pos due

end Release

theorem releaseBarrier_me (s : State) (b : Barrier) : (s.releaseBarrier b).me =
    if s.me.live && decide (s.groupOf s.me b.level = b.group) then s.me.releaseBar b.level b.id b.completed else s.me := rfl

/-! ### Register grants (R38, R46, R47) -/

theorem wake_eq (s : State) (d : BitVec 6) (x : Word64) :
    ∃ n xs, s.wake d x = { s with me := { s.me.setOutside d x with sp := { s.me.sp with blocked := .ready, pc := s.me.sp.pc + 4, slot := n },
                                                                    splits := xs } } ∧ xs.length = s.me.splits.length := by
  obtain ⟨n, xs, e, len⟩ := fillSlots_slot { s.me.setOutside d x with sp := { s.me.sp with blocked := .ready, pc := s.me.sp.pc + 4 } }
  exact ⟨n, xs, congrArg (fun l => { s with me := l }) e, len⟩

theorem answerRget_of_none (status : Word64) (n : Nat) {s : State} (h : s.me.selectSplit Split.waitsRget = none) :
    State.answerRget status n s = s := by
  cases n with
  | zero => rfl
  | succ n => simp only [State.answerRget, h]

/-- The one split of a ladle that waits in `rget` gets its answer, and there is no other to answer. -/
theorem answerRget_of_alone {s : State} {d : BitVec 6} (status : Word64) (n : Nat) (waits : s.me.sp.blocked = .rget d) (alone : s.me.splits = []) :
    State.answerRget status (n + 1) s = s.wake d status := by
  have picked : s.me.selectSplit Split.waitsRget = some s.me := if_pos (by simp [Split.waitsRget, waits])
  have answered : State.answerRget status (n + 1) s = State.answerRget status n (s.wake d status) := by
    simp only [State.answerRget, picked, waits]
  obtain ⟨m, xs, e, len⟩ := wake_eq s d status
  have empty : xs = [] := List.length_eq_zero_iff.1 (by rw [len, alone]; rfl)
  rw [answered, answerRget_of_none]
  simp [e, empty, Ladle.selectSplit, Split.waitsRget]

theorem extend_frame (s : State) : s.extend.me.sp = s.me.sp ∧ s.extend.me.splits = s.me.splits ∧ s.extend.rest = s.rest := by
  obtain ⟨v, e, -⟩ := ExtendedBlock.extend_eq s
  rw [e]
  exact ⟨rfl, rfl, rfl⟩

section Registers

variable {s : State} (h : Alone s) {core : Nat} {d e : BitVec 6} (alone : s.me.splits = []) (waits : s.me.sp.blocked = .rget d)

include h alone waits

theorem onLadle_answerRget (status : Word64) {f : State → State} (sp : (f s).me.sp = s.me.sp) (splits : (f s).me.splits = s.me.splits)
    (rest : (f s).rest = s.rest) :
    s.onLadle s.me.uid (fun t => State.answerRget status maxSplits (f t)) = (f s).wake d status := by
  refine onLadle_eq h (answerRget_of_alone status 31 (sp ▸ waits) (splits ▸ alone)) ?_
  rw [← rest]
  rfl

theorem exec_rgetGrant {q : List (Nat × BitVec 6)} (head : FMap.get [] s.rgetQueue core = (s.me.uid, e) :: q) :
    exec (.rgetGrant core) s = .next (if s.blocksFor s.me then
      ({ s with rgetQueue := FMap.set [] s.rgetQueue core q } : State).extend.wake d 1 else s) := by
  have act : exec (.rgetGrant core) s = match FMap.get [] s.rgetQueue core with
    | [] => .next s
    | (uid, _) :: r =>
      match s.ladle? uid with
      | some l => if s.blocksFor l then .next (({ s with rgetQueue := FMap.set [] s.rgetQueue core r } : State).onLadle uid (fun t =>
          t.extend.answerRget 1 maxSplits)) else .next s
      | none => .next { s with rgetQueue := FMap.set [] s.rgetQueue core r } := rfl
  rw [act, head]
  simp only [ladle?_self]
  by_cases room : s.blocksFor s.me = true
  · simp only [room, if_true]
    obtain ⟨sp, splits, rest⟩ := extend_frame { s with rgetQueue := FMap.set [] s.rgetQueue core q }
    exact congrArg Host.Outcome.next (onLadle_answerRget (s := { s with rgetQueue := FMap.set [] s.rgetQueue core q }) h alone waits 1
      sp splits rest)
  · simp only [room, Bool.false_eq_true, if_false]

theorem exec_registerExamination {q : List (Nat × BitVec 6)} (last : FMap.get [] s.rgetQueue core = q ++ [(s.me.uid, e)]) :
    exec (.registerExamination core) s = .next (if s.registersStuck core then
      ({ s with rgetQueue := FMap.set [] s.rgetQueue core q } : State).wake d 0 else s) := by
  have act : exec (.registerExamination core) s = match (FMap.get [] s.rgetQueue core).getLast? with
    | some (uid, _) =>
      if s.registersStuck core then
        .next (({ s with rgetQueue := FMap.set [] s.rgetQueue core (FMap.get [] s.rgetQueue core).dropLast } : State).onLadle uid
          (fun t => t.answerRget 0 maxSplits))
      else .next s
    | none => .next s := rfl
  rw [act, last, List.getLast?_concat, List.dropLast_concat]
  by_cases stuck : s.registersStuck core = true
  · simp only [stuck, if_true]
    exact congrArg Host.Outcome.next (onLadle_answerRget (s := { s with rgetQueue := FMap.set [] s.rgetQueue core q }) (f := id) h alone waits 0
      rfl rfl rfl)
  · simp only [stuck, Bool.false_eq_true, if_false]

end Registers

/-! ### The retirement of `exit` (R164) -/

theorem exec_exitRetire {s : State} (h : Alone s) (waits : s.me.sp.blocked = .exitWait) (ended : s.me.endSplit.live = false) :
    exec (.exitRetire s.me.uid) s = .next (if s.exitReady s.me then s.retireExit else s) := by
  refine congrArg Host.Outcome.next (onSplit_eq h (by simp [waits]) rfl ?_)
  split
  · exact (Exits.retireExit_of_gone ended).others
  · rfl

/-! ### What the answers leave -/

/-- A grant leaves the ladle its blocks, every register of them zero, and the answer 1 (R36 to R38). -/
theorem grant_leaves (s : State) (d : BitVec 6) (room : s.me.blocks ≤ (s.freeBlocks s.me.cluster s.me.core).length) :
    let t := s.extend.wake d 1
    t.me.ext = true ∧ UniformWritten s.me t.me d 1 ∧ t.me.extBlocks.length = s.me.blocks ∧
      (∀ x ∈ t.me.extBlocks, x ∈ s.freeBlocks s.me.cluster s.me.core) ∧ t.me.sp.blocked = .ready ∧ t.me.sp.pc = s.me.sp.pc + 4 ∧
      (∀ r : BitVec 6, r.toNat < 32 → t.me.getV r = s.me.getV r) ∧
      (∀ r : BitVec 6, 32 ≤ r.toNat → ∀ j < 32, laneAt (t.me.getV r) j = 0) ∧ t.rgetQueue = s.rgetQueue ∧ t.mem = s.mem := by
  obtain ⟨v, extended, lanes⟩ := ExtendedBlock.extend_eq s
  obtain ⟨n, xs, e, -⟩ := wake_eq s.extend d 1
  intro t
  have ht : t = _ := e
  rw [ht, extended]
  exact ⟨rfl, ExtendedBlock.uniformWritten_setOutside _ _ _ _ rfl, ExtendedBlock.length_pickBlocks _ _ _,
    fun _ hx => ExtendedBlock.mem_of_mem_pickBlocks room hx, rfl, rfl,
    fun r hr => (lanes r).trans (ExtendedBlock.getV_clearExtended_low s.me hr),
    fun r hr j hj => (congrArg (laneAt · j) (lanes r)).trans (ExtendedBlock.laneAt_clearExtended_high s.me hr hj), rfl, rfl⟩

/-- An answer alone changes the destination, and the split goes on. -/
theorem wake_leaves (s : State) (d : BitVec 6) (x : Word64) :
    let t := s.wake d x
    t.me.ext = s.me.ext ∧ UniformWritten s.me t.me d x ∧ GoesOn s.me t.me ∧ t.rgetQueue = s.rgetQueue ∧ t.mem = s.mem := by
  obtain ⟨n, xs, e, -⟩ := wake_eq s d x
  intro t
  have ht : t = _ := e
  rw [ht]
  exact ⟨rfl, ExtendedBlock.uniformWritten_setOutside _ _ _ _ rfl, ⟨rfl, rfl, rfl, rfl, rfl⟩, rfl, rfl⟩

theorem release_leaves {s : State} {b : Barrier} (live : s.me.live = true) {p : Nat} {w : Bool}
    (member : s.groupOf s.me b.level = b.group) (waits : s.me.sp.blocked = .barrier b.level b.id p w) :
    (p ≤ b.completed → GoesOn s.me (s.releaseBarrier b).me) ∧
    (b.completed < p → (s.releaseBarrier b).me.sp.blocked = s.me.sp.blocked ∧ (s.releaseBarrier b).me.sp.pc = s.me.sp.pc) := by
  have reached : (s.releaseBarrier b).me = s.me.releaseBar b.level b.id b.completed := by
    rw [releaseBarrier_me, if_pos (by simp [live, member])]
  obtain ⟨released, again⟩ := released_iff waits b.completed
  obtain ⟨-, v, k⟩ := releaseBar_frame s.me b.level b.id b.completed
  obtain ⟨n, sp⟩ := releaseBar_sp s.me b.level b.id b.completed
  rw [reached]
  refine ⟨fun done => ?_, fun ahead => ?_⟩
  · rw [releasedSplit, if_pos (by simpa [released] using done)] at sp
    exact ⟨by rw [sp], by rw [sp], by rw [sp], v, k⟩
  · rw [releasedSplit, if_neg (by simpa [released] using ahead), if_neg (by simp [again])] at sp
    exact ⟨by rw [sp], by rw [sp]⟩

theorem releaseBarrier_s (s : State) (b : Barrier) : (s.releaseBarrier b).me.s = s.me.s := by
  rw [releaseBarrier_me, apply_ite Ladle.s, (releaseBar_frame _ _ _ _).1, ite_self]

/-- Of a result of which only some lanes are due, the others stay pending. -/
theorem left_eq_zero_iff (p : Pending) (due : Nat → Bool) :
    p.lanes &&& ~~~laneMask (fun j => p.lanes.getLsbD j && due j) = 0 ↔ ∀ j < 32, p.lanes.getLsbD j = (p.lanes.getLsbD j && due j) := by
  refine ⟨fun h j hj => ?_, fun h => BitVec.eq_of_getLsbD_eq fun j hj => ?_⟩
  · have bit := congrArg (fun m => m.getLsbD j) h
    simp only [BitVec.getLsbD_and, BitVec.getLsbD_not, hj, laneMask_getLsbD] at bit
    revert bit
    cases p.lanes.getLsbD j <;> simp
  · rw [BitVec.getLsbD_and, BitVec.getLsbD_not, laneMask_getLsbD _ hj, ← h j hj]
    simpa using fun set => by simp [set]

/-- Settles O38. -/
theorem ladleEvents : Obligations.LadleEvents := by
  unfold Obligations.LadleEvents
  intro s h l u core may calm free
  refine ⟨fun w backs => ?retry, fun settled barred => ?barred, fun settled ok alone none_ => ?noMiss, fun settled ok alone p g miss => ?miss,
    fun ended => ?expiry, fun goesOn => ?deferred, fun p d one dest sound quiet come goes running => ?landing, fun n b here no => ?stays,
    fun n b here due => ?release, fun d e q head alone waits => ⟨fun room => ?grant, fun full => ?noGrant⟩,
    fun d e q last alone waits => ⟨fun stuck => ?deny, fun free => ?noDeny⟩, fun waits alone busy => ?noExit,
    fun waits alone noLoop ready => ?exit⟩
  case retry => exact congrArg Host.Outcome.next (onSplit_eq h (by simp [l, backs]) rfl rfl)
  case barred => exact exec_demandMiss_of_barred h settled barred
  case noMiss => exact exec_demandMiss_of_none h settled ok alone none_
  case miss => exact ⟨_, exec_demandMiss_of_some h settled ok alone miss, rfl, notifyMiss_entered l p g⟩
  case expiry =>
    refine congrArg Host.Outcome.next (onLadle_eq h (congrArg (fun l => { s with me := l }) (if_pos ?_)) rfl)
    simpa using ended
  case deferred =>
    refine congrArg Host.Outcome.next (onLadle_eq h (congrArg (fun l => { s with me := l }) (if_neg ?_)) rfl)
    simpa using goesOn
  case landing =>
    have step := exec_longResultLanding h one running.1 sound quiet come goes
    intro due
    have dueLanes : p.dueLanes false = laneMask due := dueLanes_lane dest
    refine ⟨fun ⟨j, hj, dj⟩ => ?_, fun none_ => ?_⟩
    · have some_ : p.dueLanes false ≠ 0 := fun zero => by
        rw [dueLanes, laneMask_eq_zero_iff] at zero
        exact Bool.noConfusion (dj.symm.trans (zero j hj))
      obtain ⟨written, uniform, flags, sp, pend⟩ := landed_lane dest one quiet
      rw [dueLanes] at written
      rw [dueLanes] at pend
      have left := left_eq_zero_iff p (fun j => decide (p.counts.toList.getD j 0 = 0))
      refine ⟨_, step.trans (congrArg _ (if_pos some_)), rfl, written, uniform, flags, sp, fun all => pend.trans (if_pos (left.2 all)),
        fun others => ⟨_, pend.trans (if_neg (mt left.1 others)), fun i hi => ?_⟩⟩
      rw [BitVec.getLsbD_and, BitVec.getLsbD_not, laneMask_getLsbD _ hi]
      simp [hi, due]
    · rw [step, dueLanes, if_neg]
      exact not_not.2 ((laneMask_eq_zero_iff due).2 none_)
  case stays => exact exec_barrierRelease_of_none here no
  case release =>
    exact ⟨_, exec_barrierRelease here due, rfl, releaseBarrier_s s b, fun p w member blocked => release_leaves h.1 member blocked⟩
  case grant =>
    obtain ⟨ext, status, length, blocks, ready, pc, low, high, queue, mem⟩ :=
      grant_leaves { s with rgetQueue := FMap.set [] s.rgetQueue core q } d room
    refine ⟨_, (exec_rgetGrant h alone waits head).trans (congrArg _ (if_pos ?_)), ext, status, length, blocks, ready, pc, low, high, ?_, mem⟩
    · simpa [State.blocksFor] using room
    · rw [queue, FMap.get_set_self]
  case noGrant =>
    rw [exec_rgetGrant h alone waits head, if_neg]
    simpa [State.blocksFor] using full
  case deny =>
    obtain ⟨ext, status, goes, queue, mem⟩ := wake_leaves { s with rgetQueue := FMap.set [] s.rgetQueue core q } d 0
    refine ⟨_, (exec_registerExamination h alone waits last).trans (congrArg _ (if_pos stuck)), ext, status, goes, ?_, mem⟩
    rw [queue, FMap.get_set_self]
  case noDeny => rw [exec_registerExamination h alone waits last, free, if_neg Bool.false_ne_true]
  case noExit =>
    refine congrArg Host.Outcome.next (onSplit_eq h (by simp [waits, l]) (if_neg ?_) rfl)
    simp [busy, l]
  case exit =>
    have ended := Exits.endSplit_last alone noLoop
    obtain ⟨⟨b, me⟩, mem, slices, -, -⟩ := Exits.retireExit_of_gone ended.1
    refine ⟨s.retireExit, by rw [exec_exitRetire h waits ended.1, ready, if_pos rfl], ?_⟩
    simp only [me, mem, slices]
    obtain ⟨gone, block, permit, -, pad, -⟩ := ended
    exact ⟨gone, block, permit, pad, rfl, rfl⟩

end Sys2Proof.LadleEvents

/-!
PROOF. O36: chain entries that move no data (R44, R150, R234, R266, R278 to R280, R386).
-/

namespace Sys2Proof.ChainControl

open Sys2Proof.Machine Sys2Proof.Spec Sys2Proof.Completion

/-! ### The table of chains -/

@[simp] theorem chainList_setChain_self (s : State) (cluster n : Nat) (c : Chain) :
    (s.setChain cluster n c).chainList cluster = (s.chainList cluster).set n c := FMap.get_set_self _ _ _ _

theorem chainList_setChain_other (s : State) {cluster k : Nat} (n : Nat) (c : Chain) (h : k ≠ cluster) :
    (s.setChain cluster n c).chainList k = s.chainList k := FMap.get_set_other _ _ _ (Ne.symm h)

theorem chainList_dropChain_self (s : State) (cluster n : Nat) :
    (s.dropChain cluster n).chainList cluster = (s.chainList cluster).eraseIdx n := FMap.get_set_self _ _ _ _

theorem chainIs_setChain (s : State) (cluster n : Nat) (c : Chain) (b : FMap Nat) :
    ChainIs s (({ s with bankLast := b } : State).setChain cluster n c) cluster n c :=
  ⟨FMap.get_set_self _ _ _ _, fun _ h => FMap.get_set_other _ _ _ (Ne.symm h)⟩

/-! ### A request of an engine at the banks of one scratchpad (R150) -/

theorem scaleTiles_nil {s : State} {r : Req} (unscaled : ∀ o ∈ r.ops, o.scale = none) : s.scaleTiles r = [] := by
  have none_ : r.ops.flatMap (fun o => (o.scale.map (fun a => (s.scaleLoc r o a, tileOf a))).toList) = [] :=
    List.flatMap_eq_nil_iff.2 fun o ho => by simp [unscaled o ho]
  rw [State.scaleTiles, none_]
  rfl

theorem standingOf_free {s : State} {r : Req} (free : BanksFree s) :
    s.standingOf r = { req := { r with id := s.nextReq }, granted := false, data := [] } := by
  simp [State.standingOf, free.2]

section PadRequest

variable {s : State} {r : Req} {u : Nat} (place : r.place = .pad u)

include place

theorem byteLoc_pad (a : Nat) : s.byteLoc r a = (.pad u, r.replica) := by
  simp [State.byteLoc, place]

theorem outputOf_pad : s.outputOf r = none := by
  simp [State.outputOf, place]

theorem noteGrant_pad : ∃ b, s.noteGrant r = { s with bankLast := b } := by
  simp only [State.noteGrant, outputOf_pad place]
  exact ⟨_, rfl⟩

theorem wins_pad (free : BanksFree s) : s.wins r = true := by
  have rivals : s.rivals = [] := by simp [State.rivals, free.1, free.2]
  have bank : s.bankWins r = true := by
    cases h : s.banksOf r <;> simp [State.bankWins, State.winsBank, rivals, h]
  simp only [State.wins, outputOf_pad place, bank, Bool.and_true]

variable (plain : r.kind.plainData = true) (unscaled : ∀ o ∈ r.ops, o.scale = none)

include unscaled

include plain

theorem placeReady_pad (moves : s.padPaused u = false) : s.placeReady r = true := by
  have scales := scaleTiles_nil (s := s) unscaled
  have sent : s.unsent r = false := by
    unfold State.unsent
    cases hk : r.kind <;> simp [ReqKind.plainData, hk] at plain ⊢
  simp [State.placeReady, State.homeTrips, State.heldBySlice, State.awaitsMerge, State.mergeDue, place, plain, scales, sent, moves]

theorem askArbiter_pad (free : BanksFree s) (moves : s.padPaused u = false) :
    ∃ b, s.askArbiter r = ({ s with bankLast := b }, { req := { r with id := s.nextReq }, granted := true, data := [] }) := by
  obtain ⟨b, noted⟩ := noteGrant_pad (s := s) (r := { r with id := s.nextReq }) place
  have ready : s.placeReady { r with id := s.nextReq } = true := placeReady_pad (r := { r with id := s.nextReq }) place plain unscaled moves
  have wins : s.wins { r with id := s.nextReq } = true := wins_pad (r := { r with id := s.nextReq }) place free
  exact ⟨b, by simp only [State.askArbiter, standingOf_free free, ready, wins, noted, Bool.false_eq_true, if_false, Bool.and_self, if_true]⟩

omit plain in
theorem tilesAt_pad : ∀ e ∈ s.tilesAt r, e.1 = (.pad u, r.replica) := by
  have own : ∀ e ∈ ((r.place, r.replica), r.tile) :: (r.bytes.map (fun a => (s.byteLoc r a, tileOf a))).eraseDups ++ s.scaleTiles r,
      e.1 = (.pad u, r.replica) := by
    intro e he
    rw [scaleTiles_nil unscaled, List.append_nil] at he
    rcases List.mem_cons.1 he with rfl | h
    · rw [place]
    · obtain ⟨a, -, rfl⟩ := List.mem_map.1 (List.mem_eraseDups.1 h)
      exact byteLoc_pad place a
  intro e he
  rcases List.mem_append.1 he with h | h
  · exact own e h
  · obtain ⟨x, hx, found⟩ := List.mem_filterMap.1 h
    simp [own x hx] at found

omit plain in
theorem lateAt_pad : s.lateAt r = [] := by
  have frames : r.bytes.filter (s.inFrame r) = [] :=
    List.filter_eq_nil_iff.2 fun a _ => by simp [State.inFrame, byteLoc_pad place]
  unfold State.lateAt
  split
  · rfl
  · rw [frames, List.filterMap_nil, List.append_nil, List.filterMap_eq_nil_iff.2 fun e he => by simp [tilesAt_pad place unscaled e he]]
    rfl

end PadRequest

/-! ### A read in one scratchpad (R278) -/

/-- What a lane of a chain's read brings, of an allocation that holds the bytes `m`. -/
def padCode (m : Memory) (o : LaneOp) : Nat := opCode m.read o

theorem noteScratch_pad {s : State} {r : Req} {u : Nat} (casting : Nat) (place : r.place = .pad u) : s.noteScratch casting [r] = s := by
  have scratch : r.scratch = false := by simp [Req.scratch, place]
  simp [State.noteScratch, scratch]

theorem viewByte_pad {s : State} {r : Req} {u : Nat} {g : Ladle} (place : r.place = .pad u) (here : s.ladle? u = some g) :
    s.viewByte r = g.pad.bytes.read := by
  funext a
  simp [State.viewByte, State.byteAt, byteLoc_pad place, here]

theorem unstand_free {s : State} (free : BanksFree s) (number : Nat) : s.unstand number = s := by
  have same : s.standing.filter (fun e => e.req.engine != some number) = s.standing := by rw [free.2]; rfl
  rw [State.unstand, same]

theorem engineCheck_pad {s : State} {r : Req} {u : Nat} {g : Ladle} (write : Bool) (place : r.place = .pad u) (here : s.ladle? u = some g)
    (live : g.live = true) (size : g.pad.size ≠ 0) : s.engineCheck write r = .ok () := by
  simp [State.engineCheck, State.targetGone, place, here, live, size]

theorem engineAccess_pad {s : State} {r : Req} {u : Nat} (write : Bool) (place : r.place = .pad u) : s.engineAccess write r = s := by
  simp [State.engineAccess, place, Place.isPad]

section Read

variable {s : State} {u : Nat} {g : Ladle} (free : BanksFree s) (here : s.ladle? u = some g) (live : g.live = true)
  (size : g.pad.size ≠ 0) (moves : s.padPaused u = false)

include free here live size moves

theorem engineReads_pad {r : Req} (number : Nat) (place : r.place = .pad u) (plain : r.kind.plainData = true)
    (unscaled : ∀ o ∈ r.ops, o.scale = none) :
    ∃ b e, State.engineReads number (fun t => t) [r] [] s = .ok ({ s with bankLast := b }, [e]) ∧ e.req.late = [] ∧
      e.data = r.movers.map (fun o => (o.lane, padCode g.pad.bytes o, none)) := by
  obtain ⟨b, asks⟩ := askArbiter_pad place plain unscaled free moves
  refine ⟨b, { req := { r with id := s.nextReq, late := s.lateAt r }, granted := true, data := ({ s with bankLast := b } : State).readCodes [r] },
    ?_, lateAt_pad place unscaled, ?_⟩
  · simp only [State.engineReads, asks, standingOf_free free, Bool.not_true, Bool.false_eq_true, if_false, List.nil_append,
      engineAccess_pad _ place, noteScratch_pad _ place]
    rw [engineCheck_pad (s := { s with bankLast := b }) false place here live size]
  · simp only [State.readCodes, List.flatMap_cons, List.flatMap_nil, List.append_nil, viewByte_pad (s := { s with bankLast := b }) place here]
    refine List.map_congr_left fun o ho => ?_
    rw [unscaled o (List.mem_of_mem_filter ho)]
    rfl

/-- With its bank free a chain's read in one scratchpad is performed at once, and changes what the bank remembers alone. -/
theorem chainRead_free (c : Chain) {ops : List LaneOp} (unscaled : ∀ o ∈ ops, o.scale = none) (whole : ∀ o ∈ ops, o.width ≠ 0) :
    ∃ b, s.chainRead c u ops = .ok ({ s with bankLast := b }, ops.map (padCode g.pad.bytes)) := by
  obtain ⟨b, e, reads, late, data⟩ := engineReads_pad free here live size moves
    (r := { c.padReq (.load false) u ops with engine := some c.after }) c.after rfl rfl unscaled
  have fetches : s.engineFetch c.after (fun t => t) [c.padReq (.load false) u ops] = .ok ({ s with bankLast := b }, [e]) := by
    have unit : ofUnit c.after [c.padReq (.load false) u ops] = [{ c.padReq (.load false) u ops with engine := some c.after }] := rfl
    simp only [State.engineFetch, unit, reads, List.any_cons, List.any_nil, late, Bool.or_self, Bool.false_eq_true, if_false]
  have movers : ({ c.padReq (.load false) u ops with engine := some c.after } : Req).movers = ops :=
    List.filter_eq_self.2 fun o ho => by simpa using whole o ho
  refine ⟨b, ?_⟩
  rw [State.chainRead, fetches]
  simp only [Except.map, fetched, List.flatMap_cons, List.flatMap_nil, List.append_nil, data, movers]
  rw [unstand_free (s := { s with bankLast := b }) free, List.map_map]
  rfl

end Read

/-! ### The words that a read brings -/

theorem foldr_bytes (m : Memory) (off k : Nat) :
    ((List.range k).map (off + ·)).foldr (fun b acc => (m.read b).toNat + 256 * acc) 0 = m.readN off k := by
  induction k generalizing off with
  | zero => rfl
  | succ k ih =>
    have rest : (List.range k).map ((off + ·) ∘ Nat.succ) = (List.range k).map (off + 1 + ·) :=
      List.map_congr_left fun i _ => by simp only [Function.comp_apply]; omega
    rw [List.range_succ_eq_map, List.map_cons, List.foldr_cons, List.map_map, rest, ih, Memory.readN]
    rfl

theorem ofNat_padCode {w : Nat} (m : Memory) {o : LaneOp} {off k : Nat} (bytes : o.bytes = (List.range k).map (off + ·)) (bit : o.bit = 0)
    (width : o.width = w) : BitVec.ofNat w (padCode m o) = BitVec.ofNat w (m.readN off k) := by
  rw [padCode, opCode, bytes, bit, width, foldr_bytes, Nat.pow_zero, Nat.div_one]
  exact BitVec.eq_of_toNat_eq (by simp)

theorem ofNat_wordOp (m : Memory) (off : Nat) : BitVec.ofNat 32 (padCode m (wordOp off)) = m.read32 off :=
  ofNat_padCode m rfl rfl rfl

theorem ofNat_entryOps (m : Memory) (off : Nat) : ((entryOps off).map (padCode m)).map (BitVec.ofNat 64) = entryWords m off := by
  simp only [entryOps, entryWords, List.map_map]
  exact List.map_congr_left fun i _ => ofNat_padCode m rfl rfl rfl

/-! ### A chain that may go on (R171, R278) -/

theorem chainAt_iff {s : State} {cluster n : Nat} {l : Ladle} {c : Chain} : s.chainAt cluster n = some (l, c) ↔
    (s.chainList cluster)[n]? = some c ∧ s.ladle? c.who.ladle = some l ∧ l.live = true ∧ s.chainRuns l c = true ∧ c.begins l = true ∧
      s.earlierOutstanding l.uid c.after = false ∧ s.stuck l.casting c.after = false := by
  unfold State.chainAt
  cases chain : (s.chainList cluster)[n]? with
  | none => simp
  | some d =>
    simp only [Option.some.injEq]
    cases maker : s.ladle? d.who.ladle with
    | none =>
      refine ⟨fun h => by simp at h, fun ⟨same, there, _⟩ => ?_⟩
      simp [← same, maker] at there
    | some m =>
      constructor
      · intro h
        by_cases goes : (!m.live || !s.chainRuns m d || !d.begins m || s.earlierOutstanding m.uid d.after || s.stuck m.casting d.after) = true
        · exact absurd ((if_pos goes).symm.trans h) (by simp)
        · simp only [if_neg goes, Option.some.injEq, Prod.mk.injEq] at h
          obtain ⟨rfl, rfl⟩ := h
          simpa [maker, and_assoc] using goes
      · rintro ⟨rfl, there, goes⟩
        rw [maker, Option.some.injEq] at there
        subst there
        simpa [and_assoc] using goes

/-! ### An entry that its chain stands at (R280) -/

section Entry

variable {s : State} {cluster n : Nat} {l : Ladle} {c : Chain} {w : List Word64} {kind : Nat} (at_ : EntryAt s cluster n l c w kind)

include at_

theorem fetchEntry_at : s.fetchEntry c = .ok w := by
  obtain ⟨-, -, rfl, some_, -⟩ := at_
  exact if_pos some_

theorem fetchStep_at : s.fetchStep cluster n c = s := by
  obtain ⟨-, -, rfl, some_, -⟩ := at_
  exact if_pos some_

theorem entryIs_at : s.entryIs kind cluster n = some (l, c, .ok w) := by
  have entry := fetchEntry_at at_
  obtain ⟨runs, moves, -, -, kind_⟩ := at_
  simp only [State.entryIs, runs, moves, entry, kind_, if_true, Bool.false_eq_true, if_false]

theorem onEntry_at (fuel : Nat) (f : State → Ladle → Chain → Except Stop State) :
    s.onEntry cluster n fuel f = State.engineRun c.who c.after (fun s => f s l c) fuel s := by
  have step := fetchStep_at at_
  obtain ⟨runs, moves, rfl, some_, -⟩ := at_
  have words : c.entry.isEmpty = false := by simpa using some_
  simp only [State.onEntry, runs, moves, step, words, Bool.false_eq_true, if_false]

/-- What the entry does to the state and its chain. -/
theorem controlEntry_at (f : State → Ladle → Chain → List Word64 → Except Stop (State × Option Chain)) :
    s.controlEntry kind cluster n f = State.engineRun c.who c.after (fun s => (f s l c w).map (fun r =>
      match r.2 with | some c => r.1.setChain cluster n c | none => r.1.dropChain cluster n)) 1 s := by
  have run := onEntry_at at_ 1 (fun s l c => (f s l c c.entry).map (fun r =>
    match r.2 with | some c => r.1.setChain cluster n c | none => r.1.dropChain cluster n))
  have entry := entryIs_at at_
  obtain ⟨-, -, rfl, -, -⟩ := at_
  simp only [State.controlEntry, entry]
  exact run

theorem controlEntry_ok {f : State → Ladle → Chain → List Word64 → Except Stop (State × Option Chain)} {t : State} {d : Chain}
    (h : f s l c w = .ok (t, some d)) : s.controlEntry kind cluster n f = t.setChain cluster n d := by
  simp only [controlEntry_at at_, State.engineRun, h, Except.map]

theorem controlEntry_end {f : State → Ladle → Chain → List Word64 → Except Stop (State × Option Chain)} {t : State}
    (h : f s l c w = .ok (t, none)) : s.controlEntry kind cluster n f = t.dropChain cluster n := by
  simp only [controlEntry_at at_, State.engineRun, h, Except.map]

theorem controlEntry_wait {f : State → Ladle → Chain → List Word64 → Except Stop (State × Option Chain)}
    (h : f s l c w = .error .wait) : s.controlEntry kind cluster n f = s := by
  simp only [controlEntry_at at_, State.engineRun, h, Except.map]

theorem controlEntry_stand {f : State → Ladle → Chain → List Word64 → Except Stop (State × Option Chain)} {u : State}
    (h : f s l c w = .error (.stand u)) : s.controlEntry kind cluster n f = u := by
  simp only [controlEntry_at at_, State.engineRun, h, Except.map]

end Entry

/-! ### The scratchpad word that an entry names (R233) -/

theorem uid_of_ladle? {s : State} {u : Nat} {g : Ladle} (h : s.ladle? u = some g) : g.uid = u := by
  simpa using List.find?_some h

section Word

variable {s : State} {l g : Ladle} {off : Nat} {w : List Word64} (word : s.entryWord l (w.getD 1 0) = .ok (g, off))

include word

theorem operand_of_entryWord : ∃ o, s.operand l false (w.getD 1 0) = .ok o ∧ o.pad = some g.uid ∧ s.ladle? g.uid = some g ∧
    off + 4 ≤ g.pad.size := by
  unfold State.entryWord at word
  cases operand : s.operand l false (w.getD 1 0) with
  | error e => simp only [operand, reduceCtorEq] at word
  | ok o =>
    cases here : o.pad.bind s.ladle? with
    | none => simp only [operand, here, reduceCtorEq] at word
    | some t =>
      obtain ⟨u, pad, found⟩ := Option.bind_eq_some_iff.1 here
      simp only [operand, here] at word
      split at word
      · simp at word
      · split at word
        · simp at word
        · simp only [Except.ok.injEq, Prod.mk.injEq] at word
          obtain ⟨rfl, rfl⟩ := word
          have uid := uid_of_ladle? found
          exact ⟨o, rfl, by rw [uid, pad], by rw [uid, found], by omega⟩

theorem ladle?_of_entryWord : s.ladle? g.uid = some g := by
  obtain ⟨o, -, -, here, -⟩ := operand_of_entryWord word
  exact here

theorem size_of_entryWord : off + 4 ≤ g.pad.size := by
  obtain ⟨o, -, -, -, size⟩ := operand_of_entryWord word
  exact size

variable {cluster n kind : Nat} {c : Chain} (at_ : EntryAt s cluster n l c w kind) (names : kind = 3 ∨ kind = 5 ∨ kind = 7)

include at_ names

/-- The banks of the word's allocation move data, as the chain is not paused (R229). -/
theorem moves_of_entryWord : s.padPaused g.uid = false := by
  obtain ⟨o, operand, pad, -, -⟩ := operand_of_entryWord word
  have entry := fetchEntry_at at_
  obtain ⟨-, moves, -, -, kind_⟩ := at_
  have pads : s.entryPads l c w = [g.uid] := by
    rcases names with rfl | rfl | rfl <;> simp only [State.entryPads, kind_, operand, pad, Option.toList_some]
  simp only [State.chainPaused, entry, pads, List.any_cons, List.any_nil, Bool.or_false, Bool.or_eq_false_iff] at moves
  exact moves.2

theorem chainWord32_free (free : BanksFree s) (live : g.live = true) :
    ∃ b, s.chainWord32 l c (w.getD 1 0) = .ok ({ s with bankLast := b }, g, off, g.pad.bytes.read32 off) := by
  have size := size_of_entryWord word
  obtain ⟨b, read⟩ := chainRead_free free (ladle?_of_entryWord word) live (by omega) (moves_of_entryWord word at_ names) c
    (ops := [wordOp off]) (by simp [wordOp]) (by simp [wordOp])
  refine ⟨b, ?_⟩
  rw [State.chainWord32, word]
  simp only [Except.bind, read, Except.map, List.map_cons, List.headD_cons, ofNat_wordOp]

end Word

/-! ### The fields of an entry (R279) -/

theorem bitsOf_eq {w : Nat} (x : BitVec w) (hi lo : Nat) : bitsOf x hi lo = x.toNat / 2 ^ lo % 2 ^ (hi + 1 - lo) := by
  simp [bitsOf, Nat.shiftRight_eq_div_pow]

theorem entryBody_eq (w : List Word64) : entryBody w = (w.getD 0 0).toNat / 256 % 256 := bitsOf_eq _ _ _

theorem entryCond_eq (w : List Word64) : entryCond w = (w.getD 0 0).toNat / 256 % 8 := bitsOf_eq _ _ _

theorem entrySkip_eq (w : List Word64) : entrySkip w = (w.getD 0 0).toNat / 2 ^ 16 % 256 := bitsOf_eq _ _ _

theorem chainCond_eq (k : Nat) (v : Word32) (x : Word64) : chainCond k v (x.setWidth 32) =
    match k with
    | 0 => decide (v = x.setWidth 32)
    | 1 => decide (v ≠ x.setWidth 32)
    | 2 => decide (v.toNat < x.toNat % 2 ^ 32)
    | _ => decide (x.toNat % 2 ^ 32 ≤ v.toNat) := by
  match k with
  | 0 => simp [chainCond, Bool.beq_eq_decide_eq]
  | 1 => simp [chainCond, bne, Bool.beq_eq_decide_eq]
  | 2 => simp [chainCond]
  | k + 3 => simp [chainCond]

theorem goTo_off (c : Chain) (off : Nat) : (c.goTo off).off = off ∧ (c.goTo off).entry = [] := by
  unfold Chain.goTo
  simp only
  split
  · split <;> exact ⟨rfl, rfl⟩
  · exact ⟨rfl, rfl⟩

/-! ### The entries (R279, R280) -/

theorem onlyChain_setChain (s : State) (cluster n : Nat) (c : Chain) (b : FMap Nat) :
    OnlyChain s (({ s with bankLast := b } : State).setChain cluster n c) := rfl

section Entries

variable {s : State} {cluster n : Nat} {l : Ladle} {c : Chain} {w : List Word64}

theorem exec_endEntry (at_ : EntryAt s cluster n l c w 0) (written : s.engineOutstanding c.after = false) :
    exec (.endEntry cluster n) s = .next (s.dropChain cluster n) :=
  congrArg Host.Outcome.next (controlEntry_end at_ (by simp only [written, Bool.false_eq_true, if_false]))

theorem exec_endEntry_early (at_ : EntryAt s cluster n l c w 0) (early : s.engineOutstanding c.after = true) :
    Idles (.endEntry cluster n) s :=
  congrArg Host.Outcome.next (controlEntry_wait at_ (by simp only [early, if_true]))

theorem exec_signalEntry_early (at_ : EntryAt s cluster n l c w 3) (early : s.engineOutstanding c.after = true) :
    Idles (.signalEntry cluster n) s :=
  congrArg Host.Outcome.next (controlEntry_wait at_ (by simp only [early, if_true]))

theorem loop_own {s : State} {c : Chain} {b : Nat} (flat : s.nestedLoop c b = false) (own : c.loop = none ∨ c.loop = some c.off) : (s.nestedLoop c b || (match c.loop with | some e => e != c.off | none => false)) = false := by
  rcases own with h | h <;> simp [flat, h]

section Loop

variable (at_ : EntryAt s cluster n l c w 4) (flat : s.nestedLoop c (entryBody w) = false) (own : c.loop = none ∨ c.loop = some c.off)

include at_ flat own

theorem exec_loopEntry_back (more : c.pass + 1 < bitsOf (w.getD 1 0) 31 0) (room : 32 * entryBody w ≤ c.off) :
    exec (.loopEntry cluster n) s = .next (s.setChain cluster n { c.goTo (c.off - 32 * entryBody w) with
      pass := c.pass + 1, loop := some c.off, srcStride := w.getD 2 0, dstStride := w.getD 3 0 }) := by
  refine congrArg Host.Outcome.next (controlEntry_ok at_ ?_)
  exact (if_neg (Bool.eq_false_iff.1 (loop_own flat own))).trans ((if_pos more).trans (if_neg (Nat.not_lt.2 room)))

theorem exec_loopEntry_on (last : ¬ c.pass + 1 < bitsOf (w.getD 1 0) 31 0) :
    exec (.loopEntry cluster n) s = .next (s.setChain cluster n { c.next with pass := 0, loop := none, srcStride := 0, dstStride := 0 }) := by
  refine congrArg Host.Outcome.next (controlEntry_ok at_ ?_)
  exact (if_neg (Bool.eq_false_iff.1 (loop_own flat own))).trans (if_neg last)

end Loop

theorem exec_condEntry_stands (at_ : EntryAt s cluster n l c w 5) {u : State} (stands : s.chainWord32 l c (w.getD 1 0) = .error (.stand u)) :
    exec (.condEntry cluster n) s = .next u :=
  congrArg Host.Outcome.next (controlEntry_stand at_ (by simp only [stands, Except.map]))

section Reads

variable (free : BanksFree s) {g : Ladle} {off : Nat} (word : s.entryWord l (w.getD 1 0) = .ok (g, off)) (live : g.live = true)

include free word live

theorem exec_condEntry (at_ : EntryAt s cluster n l c w 5) : ∃ b, exec (.condEntry cluster n) s =
    .next (({ s with bankLast := b } : State).setChain cluster n
      (c.goTo (if chainCond (entryCond w) (g.pad.bytes.read32 off) ((w.getD 2 0).setWidth 32) then c.off + 32
        else c.off + 32 + 32 * entrySkip w))) := by
  obtain ⟨b, read⟩ := chainWord32_free word at_ (by simp) free live
  refine ⟨b, congrArg Host.Outcome.next (controlEntry_ok at_ ?_)⟩
  simp only [read, Except.map]
  split <;> rfl

theorem waitw_at (at_ : EntryAt s cluster n l c w 7) : ∃ b, s.waitw cluster n =
    ({ s with bankLast := b } : State).setChain cluster n
      (if c.met = true ∨ chainCond (entryCond w) (g.pad.bytes.read32 off) ((w.getD 2 0).setWidth 32) = true then c.goTo (c.off + 32)
        else { c with waiting := true, watch := some (g.uid, off, entryCond w, (w.getD 2 0).setWidth 32) }) := by
  obtain ⟨b, read⟩ := chainWord32_free word at_ (by simp) free live
  by_cases met : c.met = true
  · refine ⟨s.bankLast, controlEntry_ok at_ ?_⟩
    simp only [met, if_true, true_or]
    rfl
  · refine ⟨b, controlEntry_ok at_ ?_⟩
    simp only [met, if_false, false_or, read, Except.map, Bool.false_eq_true]
    split <;> rfl

end Reads

theorem chain_of_at {kind : Nat} (at_ : EntryAt s cluster n l c w kind) : (s.chainList cluster)[n]? = some c :=
  (chainAt_iff.1 at_.1).1

theorem exec_waitwEntry (chain : (s.chainList cluster)[n]? = some c) (first : c.waiting = false) :
    exec (.waitwEntry cluster n) s = .next (s.waitw cluster n) := by
  have act : exec (.waitwEntry cluster n) s = match (s.chainList cluster)[n]? with
    | some c => if c.waiting then .next s else .next (s.waitw cluster n)
    | none => .next s := rfl
  simp only [act, chain, first, Bool.false_eq_true, if_false]

theorem exec_waitwWake (chain : (s.chainList cluster)[n]? = some c) (again : c.waiting = true) :
    exec (.waitwWake cluster n) s = .next (s.waitw cluster n) := by
  have act : exec (.waitwWake cluster n) s = match (s.chainList cluster)[n]? with
    | some c => if c.waiting then .next (s.waitw cluster n) else .next s
    | none => .next s := rfl
  simp only [act, chain, again, if_true]

end Entries

/-! ### A fetch (R150, R278, R281) -/

theorem entryWords_ne (m : Memory) (off : Nat) : entryWords m off ≠ [] := by simp [entryWords]

theorem fetchEntry_iff {s : State} {c : Chain} {w : List Word64} (empty : c.entry = []) : s.fetchEntry c = .ok w ↔
    ∃ t, s.ladle? c.source = some t ∧ t.live = true ∧ t.pad.size ≠ 0 ∧ c.off + 32 ≤ t.pad.size ∧ entryBad (entryWords t.pad.bytes c.off) = false ∧
      entryWords t.pad.bytes c.off = w := by
  have asks : ¬ c.entry ≠ [] := not_not.2 empty
  unfold State.fetchEntry
  rw [if_neg asks]
  cases s.ladle? c.source with
  | none => simp
  | some t =>
    simp only [Option.some.injEq, exists_eq_left']
    by_cases gone : t.live = true ∧ t.pad.size ≠ 0
    · obtain ⟨live, size⟩ := gone
      by_cases room : t.pad.size < c.off + 32
      · simp [live, size, room]
      · cases good : entryBad (entryWords t.pad.bytes c.off) <;> simp [live, size, room, Nat.not_lt.1 room]
    · have lost : (!t.live || decide (t.pad.size = 0)) = true := by
        cases live : t.live
        · simp
        · simpa [live] using gone
      rw [if_pos lost]
      exact ⟨fun h => by simp at h, fun ⟨live, size, _⟩ => absurd ⟨live, size⟩ gone⟩

section Fetch

variable {s : State} {cluster n : Nat} {l : Ladle} {c : Chain} {w : List Word64} (empty : c.entry = []) (first : c.waiting = false)
  (runs : s.chainAt cluster n = some (l, c)) (moves : s.chainPaused l c = false) (free : BanksFree s) (words : s.fetchEntry c = .ok w)

/-- The package with the entry of a chain fetched. -/
def withEntry (s : State) (cluster n : Nat) (c : Chain) (w : List Word64) (b : FMap Nat) : State :=
  { s.setChain cluster n { c with entry := w } with bankLast := b }

theorem operand_withEntry (b : FMap Nat) (l : Ladle) (g : Bool) (a : Word64) :
    (withEntry s cluster n c w b).operand l g a = s.operand l g a := by
  unfold State.operand State.peerOf State.gangOf State.mouldOf
  rfl

theorem entryPads_withEntry (b : FMap Nat) (l : Ladle) (v : List Word64) :
    (withEntry s cluster n c w b).entryPads l { c with entry := w } v = s.entryPads l c v := by
  unfold State.entryPads State.copySides State.side
  simp only [operand_withEntry]
  rfl

theorem padPaused_withEntry (b : FMap Nat) : (withEntry s cluster n c w b).padPaused = s.padPaused := rfl

include empty moves free words in
theorem fetchStep_free : ∃ b, s.fetchStep cluster n c = withEntry s cluster n c w b := by
  obtain ⟨t, here, live, size, room, good, rfl⟩ := (fetchEntry_iff empty).1 words
  have still : s.padPaused c.source = false := (Bool.or_eq_false_iff.1 moves).1
  obtain ⟨b, read⟩ := chainRead_free free here live size still c (ops := entryOps c.off) (by simp [entryOps]) (by simp [entryOps])
  refine ⟨b, ?_⟩
  have inside : (s.ladle? c.source).any (fun t => t.live && t.pad.size != 0 && decide (t.pad.size < c.off + 32)) = false := by
    simp [here, Nat.not_lt.2 room]
  have asks : ¬ c.entry ≠ [] := not_not.2 empty
  simp only [State.fetchStep, asks, if_false, State.engineRun, inside, Bool.false_eq_true, read, ofNat_entryOps, good]
  rfl

include empty runs words in
theorem chainAt_fetched (b : FMap Nat) : (withEntry s cluster n c w b).chainAt cluster n = some (l, { c with entry := w }) := by
  obtain ⟨chain, maker, live, goes, begins, earlier, stuck⟩ := chainAt_iff.1 runs
  obtain ⟨t, -, -, -, -, -, rfl⟩ := (fetchEntry_iff empty).1 words
  refine chainAt_iff.2 ⟨?_, maker, live, ?_, ?_, earlier, stuck⟩
  · refine (congrArg (·[n]?) (chainList_setChain_self s cluster n _)).trans ?_
    rw [List.getElem?_set_self (List.getElem?_eq_some_iff.1 chain).1]
  · have before : s.chainRuns l c = (!c.failed && s.unitRuns l) := by simp [State.chainRuns, empty]
    rw [before, Bool.and_eq_true] at goes
    have after : (withEntry s cluster n c (entryWords t.pad.bytes c.off) b).unitRuns l = s.unitRuns l := rfl
    simp [State.chainRuns, goes, after]
  · simp [Chain.begins, entryWords]

include empty runs moves words in
/-- The fetched entry stands there, and its data cross no column that realigns. -/
theorem entryAt_fetched (b : FMap Nat) :
    EntryAt (withEntry s cluster n c w b) cluster n l { c with entry := w } w (entryKind w) := by
  obtain ⟨t, -, -, -, -, -, rfl⟩ := (fetchEntry_iff empty).1 words
  refine ⟨chainAt_fetched empty runs words b, ?_, rfl, entryWords_ne _ _, rfl⟩
  have entry : (withEntry s cluster n c (entryWords t.pad.bytes c.off) b).fetchEntry { c with entry := entryWords t.pad.bytes c.off }
      = .ok (entryWords t.pad.bytes c.off) := if_pos (entryWords_ne _ _)
  rw [State.chainPaused, words] at moves
  rw [State.chainPaused, entry]
  simp only [entryPads_withEntry, padPaused_withEntry]
  exact moves

include empty runs moves free words

theorem onEntry_fetched : ∃ b, ∀ fuel f, s.onEntry cluster n fuel f = (withEntry s cluster n c w b).onEntry cluster n fuel f := by
  obtain ⟨b, fetch⟩ := fetchStep_free (n := n) (cluster := cluster) empty moves free words
  refine ⟨b, fun fuel f => ?_⟩
  have at_ := entryAt_fetched empty runs moves words b
  rw [onEntry_at at_]
  obtain ⟨found, -, -, some_, -⟩ := at_
  have filled : w.isEmpty = false := by simpa using some_
  simp only [State.onEntry, runs, moves, fetch, found, filled, Bool.false_eq_true, if_false]

end Fetch

/-! ### The events of a chain, before and after its fetch -/

/-- `t` is `s` with the entry of a chain fetched: the chain stands at it there, and each of its events acts from `t`. -/
structure Fetched (s t : State) (cluster n : Nat) (l : Ladle) (c : Chain) (w : List Word64) : Prop where
  before : s.entryIs (entryKind w) cluster n = some (l, c, .ok w)
  after : t.entryIs (entryKind w) cluster n = some (l, { c with entry := w }, .ok w)
  same : ∀ fuel f, s.onEntry cluster n fuel f = t.onEntry cluster n fuel f
  chain : (s.chainList cluster)[n]? = some c
  chain' : (t.chainList cluster)[n]? = some { c with entry := w }

theorem fetched_of_free {s : State} {cluster n : Nat} {l : Ladle} {c : Chain} {w : List Word64} (empty : c.entry = [])
    (runs : s.chainAt cluster n = some (l, c)) (moves : s.chainPaused l c = false) (free : BanksFree s) (words : s.fetchEntry c = .ok w) :
    ∃ b, Fetched s (withEntry s cluster n c w b) cluster n l c w := by
  obtain ⟨b, same⟩ := onEntry_fetched empty runs moves free words
  have at_ := entryAt_fetched empty runs moves words b
  refine ⟨b, ?_, entryIs_at at_, same, (chainAt_iff.1 runs).1, chain_of_at at_⟩
  simp only [State.entryIs, runs, moves, words, if_true, Bool.false_eq_true, if_false]

section Agreement

variable {s t : State} {cluster n : Nat} {l : Ladle} {c : Chain} {w : List Word64} (h : Fetched s t cluster n l c w)

include h

theorem chainStep_fetched : s.chainStep cluster n = t.chainStep cluster n := h.same _ _

theorem controlEntry_fetched {kind : Nat} (kind_ : entryKind w = kind)
    (f : State → Ladle → Chain → List Word64 → Except Stop (State × Option Chain)) :
    s.controlEntry kind cluster n f = t.controlEntry kind cluster n f := by
  obtain rfl := kind_
  simp only [State.controlEntry, h.before, h.after]
  exact h.same _ _

theorem dataEntry_fetched {kind : Nat} (kind_ : entryKind w = kind) : s.dataEntry kind cluster n = t.dataEntry kind cluster n := by
  obtain rfl := kind_
  have progress : s.chainProgress cluster n = t.chainProgress cluster n := by
    simp only [State.chainProgress, h.chain, h.chain', Option.map_some, Option.getD_some]
  have rest : ∀ fuel, State.chainRest cluster n (fuel + 1) s = State.chainRest cluster n (fuel + 1) t := fun fuel => by
    simp only [State.chainRest, chainStep_fetched h, progress]
  simp only [State.dataEntry, h.before, h.after, rest]

theorem waitwEntry_fetched (kind_ : entryKind w = 7) (first : c.waiting = false) :
    exec (.waitwEntry cluster n) s = exec (.waitwEntry cluster n) t := by
  rw [exec_waitwEntry h.chain first, exec_waitwEntry h.chain' first]
  exact congrArg Host.Outcome.next (controlEntry_fetched h kind_ _)

/-- The event of the fetched entry's kind acts as it does with the entry fetched. -/
theorem events_fetched (first : c.waiting = false) :
    ∀ i ∈ ([[.endEntry cluster n], [.copyEntry cluster n], [.mcastEntry cluster n], [.signalEntry cluster n], [.loopEntry cluster n],
      [.condEntry cluster n], [.reduceEntry cluster n], [.waitwEntry cluster n]] : List (List Instr)).getD (entryKind w) [],
      exec i s = exec i t := by
  intro i hi
  match hk : entryKind w with
  | 0 =>
    obtain rfl : i = .endEntry cluster n := by simpa [hk] using hi
    exact congrArg Host.Outcome.next (controlEntry_fetched h hk _)
  | 1 =>
    obtain rfl : i = .copyEntry cluster n := by simpa [hk] using hi
    exact congrArg Host.Outcome.next (dataEntry_fetched h hk)
  | 2 =>
    obtain rfl : i = .mcastEntry cluster n := by simpa [hk] using hi
    exact congrArg Host.Outcome.next (dataEntry_fetched h hk)
  | 3 =>
    obtain rfl : i = .signalEntry cluster n := by simpa [hk] using hi
    exact congrArg Host.Outcome.next (controlEntry_fetched h hk _)
  | 4 =>
    obtain rfl : i = .loopEntry cluster n := by simpa [hk] using hi
    exact congrArg Host.Outcome.next (controlEntry_fetched h hk _)
  | 5 =>
    obtain rfl : i = .condEntry cluster n := by simpa [hk] using hi
    exact congrArg Host.Outcome.next (controlEntry_fetched h hk _)
  | 6 =>
    obtain rfl : i = .reduceEntry cluster n := by simpa [hk] using hi
    exact congrArg Host.Outcome.next (dataEntry_fetched h hk)
  | 7 =>
    obtain rfl : i = .waitwEntry cluster n := by simpa [hk] using hi
    exact waitwEntry_fetched h hk first
  | k + 8 => simp [hk] at hi

end Agreement

/-- A fetch that another request keeps from its bank stands there, and the chain waits (R150). -/
theorem exec_chainTransfer_stands {s u : State} {cluster n : Nat} {l : Ladle} {c : Chain} (empty : c.entry = [])
    (runs : s.chainAt cluster n = some (l, c)) (moves : s.chainPaused l c = false)
    (stands : s.chainRead c c.source (entryOps c.off) = .error (.stand u)) (room : ∀ g, s.ladle? c.source = some g → c.off + 32 ≤ g.pad.size)
    (unfetched : ∀ e, u.chainAt cluster n = some e → e.2.entry = []) : exec (.chainTransfer cluster n) s = .next u := by
  have inside : (s.ladle? c.source).any (fun t => t.live && t.pad.size != 0 && decide (t.pad.size < c.off + 32)) = false := by
    cases here : s.ladle? c.source with
    | none => rfl
    | some g => simp [Nat.not_lt.2 (room g here)]
  have asks : ¬ c.entry ≠ [] := not_not.2 empty
  have fetch : s.fetchStep cluster n c = u := by
    simp only [State.fetchStep, asks, if_false, State.engineRun, inside, Bool.false_eq_true, stands]
  refine congrArg Host.Outcome.next ?_
  simp only [State.chainStep, State.onEntry, runs, moves, fetch, Bool.false_eq_true, if_false]
  cases found : u.chainAt cluster n with
  | none => rfl
  | some e => simp [unfetched e found]

/-! ### SIGNAL (R266, R386) -/

theorem ladle?_mapLadles (s : State) (p : Ladle → Bool) (f : Ladle → Ladle) (uid : ∀ l, (f l).uid = l.uid) (u : Nat) :
    (s.mapLadles p f).ladle? u = (s.ladle? u).map (fun l => if p l then f l else l) := by
  have all : (s.mapLadles p f).ladles = s.ladles.map (fun l => if p l then f l else l) := rfl
  have same : (fun l : Ladle => l.uid == u) ∘ (fun l => if p l then f l else l) = fun l => l.uid == u := by
    funext l
    simp only [Function.comp_apply]
    split
    · rw [uid]
    · rfl
  rw [State.ladle?, all, List.find?_map, same]
  rfl

theorem ladle?_modLadle (s : State) (u : Nat) (f : Ladle → Ladle) (uid : ∀ l, (f l).uid = l.uid) :
    (s.modLadle u f).ladle? u = (s.ladle? u).map f := by
  rw [State.modLadle, ladle?_mapLadles _ _ _ uid]
  refine Option.map_congr fun l hl => if_pos ?_
  simpa using uid_of_ladle? hl

/-- A ladle with bytes written in its allocation, one after another. -/
def putAll (g : Ladle) (l : List (Nat × Byte)) : Ladle :=
  { g with pad := { g.pad with bytes := l.foldl (fun m e => m.write e.1 e.2) g.pad.bytes } }

/-- `t` is `s` with the ladles changed alone, and ladle `u` by `f`. -/
def OnlyLadles (s t : State) (u : Nat) (f : Ladle → Ladle) : Prop :=
  t = { s with me := t.me, rest := t.rest } ∧ t.ladle? u = (s.ladle? u).map f

theorem storeByte_pad {s : State} {r : Req} {u : Nat} (place : r.place = .pad u) (a : Nat) (b : Byte) :
    OnlyLadles s (s.storeByte r a b) u (fun g => putAll g [(a, b)]) := by
  have store : s.storeByte r a b = s.modLadle u (fun t => { t with pad := { t.pad with bytes := t.pad.bytes.write a b } }) := by
    simp only [State.storeByte, byteLoc_pad place]
  rw [store]
  exact ⟨rfl, ladle?_modLadle s u _ fun _ => rfl⟩

theorem foldl_storeByte_pad {r : Req} {u : Nat} (place : r.place = .pad u) (l : List (Nat × Byte)) (s : State) :
    OnlyLadles s (l.foldl (fun t e => t.storeByte r e.1 e.2) s) u (fun g => putAll g l) := by
  induction l generalizing s with
  | nil => exact ⟨rfl, by simp [putAll]⟩
  | cons e l ih =>
    obtain ⟨frame, first⟩ := storeByte_pad (s := s) place e.1 e.2
    obtain ⟨frames, rest⟩ := ih (s.storeByte r e.1 e.2)
    refine ⟨?_, ?_⟩
    · rw [List.foldl_cons, frames]
      generalize List.foldl _ _ l = t
      rw [frame]
    · rw [List.foldl_cons, rest, first, Option.map_map]
      rfl

/-! #### The word that a SIGNAL writes -/

/-- The write of a word in one lane. -/
def signalOp (off : Nat) (x : Word64) : LaneOp := { wordOp off with x := BitVec.ofNat 64 (bitsOf x 31 0) }

/-- The bytes of the word. -/
def signalBytes (off : Nat) (x : Word64) : List (Nat × Byte) :=
  (List.range 4).map (fun i => (off + i, BitVec.ofNat 8 (x.toNat / 256 ^ i)))

theorem ofNat_low (x i : Nat) (h : i < 4) : BitVec.ofNat 8 (x % 2 ^ 32 / 256 ^ i) = BitVec.ofNat 8 (x / 256 ^ i) := by
  refine BitVec.eq_of_toNat_eq ?_
  simp only [BitVec.toNat_ofNat]
  match i, h with
  | 0, _ => omega
  | 1, _ => omega
  | 2, _ => omega
  | 3, _ => omega

theorem foldr_bytes_lt (rd : Nat → Byte) (l : List Nat) : l.foldr (fun b acc => (rd b).toNat + 256 * acc) 0 < 256 ^ l.length := by
  induction l with
  | nil => simp
  | cons b l ih =>
    have := (rd b).isLt
    rw [List.foldr_cons, List.length_cons, Nat.pow_succ]
    omega

theorem opBytes_signalOp (rd : Nat → Byte) (off : Nat) (x : Word64) :
    opBytes rd (signalOp off x) (signalOp off x).x.toNat = signalBytes off x := by
  have code : (signalOp off x).x.toNat = x.toNat % 2 ^ 32 := by
    simp [signalOp, bitsOf_eq]
    omega
  have old := foldr_bytes_lt rd (signalOp off x).bytes
  unfold opBytes
  rw [code]
  generalize (signalOp off x).bytes.foldr (fun b acc => (rd b).toNat + 256 * acc) 0 = o at old
  have short : o < 2 ^ 32 := lt_of_lt_of_eq old (by simp [signalOp, wordOp])
  have new : o - o / 2 ^ (signalOp off x).bit % 2 ^ (signalOp off x).width * 2 ^ (signalOp off x).bit
      + x.toNat % 2 ^ 32 % 2 ^ (signalOp off x).width * 2 ^ (signalOp off x).bit = x.toNat % 2 ^ 32 := by
    show o - o / 2 ^ 0 % 2 ^ 32 * 2 ^ 0 + x.toNat % 2 ^ 32 % 2 ^ 32 * 2 ^ 0 = x.toNat % 2 ^ 32
    omega
  have bytes : (signalOp off x).bytes.zipIdx = (List.range 4).map (fun i => (off + i, i)) := rfl
  simp only [new, bytes, List.map_map, signalBytes]
  exact List.map_congr_left fun i hi => congrArg (Prod.mk (off + i)) (ofNat_low _ _ (List.mem_range.1 hi))

theorem read_signalBytes (m : Memory) (off : Nat) (x : Word64) (a : Nat) :
    ((signalBytes off x).foldl (fun m e => m.write e.1 e.2) m).read a =
      if off ≤ a ∧ a < off + 4 then BitVec.ofNat 8 (x.toNat / 256 ^ (a - off)) else m.read a := by
  have writes : (signalBytes off x).foldl (fun m e => m.write e.1 e.2) m =
      (((m.write off (BitVec.ofNat 8 (x.toNat / 256 ^ 0))).write (off + 1) (BitVec.ofNat 8 (x.toNat / 256 ^ 1))).write (off + 2)
        (BitVec.ofNat 8 (x.toNat / 256 ^ 2))).write (off + 3) (BitVec.ofNat 8 (x.toNat / 256 ^ 3)) := rfl
  rw [writes]
  simp only [Memory.read_write]
  by_cases inside : off ≤ a ∧ a < off + 4
  · rw [if_pos inside]
    obtain ⟨i, hi, rfl⟩ : ∃ i < 4, a = off + i := ⟨a - off, by omega, by omega⟩
    rw [Nat.add_sub_cancel_left]
    match i, hi with
    | 0, _ => simp
    | 1, _ => simp
    | 2, _ => simp
    | 3, _ => simp
  · rw [if_neg inside, if_neg (by omega), if_neg (by omega), if_neg (by omega), if_neg (by omega)]

theorem read32_signalBytes (m : Memory) (off : Nat) (x : Word64) :
    ((signalBytes off x).foldl (fun m e => m.write e.1 e.2) m).read32 off = x.setWidth 32 := by
  refine BitVec.eq_of_toNat_eq ?_
  simp only [Memory.read32, Memory.readN, read_signalBytes, BitVec.toNat_ofNat, BitVec.toNat_setWidth]
  simp [Nat.add_assoc]
  omega

/-! #### The write at its grant -/

/-- The request of a SIGNAL. -/
def signalReq (c : Chain) (u off : Nat) (x : Word64) : Req := c.padReq (.store false) u [signalOp off x]

/-- The waits of chains on the words of the allocation, once the word has been written. -/
theorem padWritten_pad (s : State) (u : Nat) : (s.padWritten (.pad u)).mem = s.mem ∧
    (s.padWritten (.pad u)).chains = s.chains.map (fun e => (e.1, e.2.map (s.chainMet u))) ∧
    ((s.padWritten (.pad u)).ladle? u).map (fun g => g.pad) = (s.ladle? u).map (fun g => g.pad) := by
  refine ⟨rfl, rfl, ?_⟩
  have ladle := ladle?_mapLadles s (fun l => l.live && l.allSplits.any (s.padMet l u)) (fun l => l.mapSplits (s.padMet l u) s.takePad)
    (fun _ => rfl) u
  refine (congrArg (Option.map (fun g => g.pad)) ladle).trans ?_
  rw [Option.map_map]
  refine Option.map_congr fun l _ => ?_
  simp only [Function.comp_apply]
  split <;> rfl

theorem forgetOlds_frame (s : State) (casting : Nat) (p : Place) (as : List Nat) : ∃ m, s.forgetOlds casting p as = { s with matrix := m } := by
  unfold State.forgetOlds
  split
  · exact ⟨s.matrix, rfl⟩
  · exact ⟨_, rfl⟩

theorem noteEngine_frame (s : State) (casting : Nat) (rs : List Req) : ∃ cs, s.noteEngine casting rs = { s with castings := cs } := by
  unfold State.noteEngine
  simp only
  split
  · exact ⟨_, rfl⟩
  · exact ⟨s.castings, rfl⟩

theorem keepWritten_free {s : State} (none_ : s.requests = []) (r : Req) : s.keepWritten r = s := by
  unfold State.keepWritten
  split
  · exact if_pos (by simp [none_])
  · rfl

/-- What the write of bytes in allocation `u` leaves: memory as it was, the allocation with the bytes, and every chain that watches a word of
it with a look at the word (R280). -/
structure Stored (s t : State) (u : Nat) (l : List (Nat × Byte)) : Prop where
  mem : t.mem = s.mem
  pad : (t.ladle? u).map (fun g => g.pad) = (s.ladle? u).map (fun g => (putAll g l).pad)
  looked : ∃ y : State, y.ladle? u = (s.ladle? u).map (fun g => putAll g l) ∧ t.chains = s.chains.map (fun e => (e.1, e.2.map (y.chainMet u)))

/-- The writer's record, its castings and what it leaves at arbiters play no part in what has been stored. -/
theorem Stored.with_castings {s t : State} {u : Nat} {l : List (Nat × Byte)} (h : Stored s t u l) (cs : List Casting) (st : List Standing) :
    Stored s { t with castings := cs, standing := st } u l := ⟨h.mem, h.pad, h.looked⟩

theorem written_pad {s t : State} {r : Req} {u : Nat} {l : List (Nat × Byte)} (place : r.place = .pad u) (none_ : s.requests = [])
    (stored : OnlyLadles s t u (fun g => putAll g l)) : Stored s (t.written r) u l := by
  obtain ⟨frame, ladle⟩ := stored
  obtain ⟨m, olds⟩ := forgetOlds_frame t r.who.casting r.place r.bytes
  have free : t.requests = [] := by rw [frame]; exact none_
  have after : t.written r = ({ t with matrix := m } : State).padWritten (.pad u) := by
    have isPad : r.place.isPad = true := by rw [place]; rfl
    simp only [State.written, olds, isPad, if_true]
    rw [keepWritten_free (s := { t with matrix := m }) free, place]
  obtain ⟨mem, chains, pad⟩ := padWritten_pad { t with matrix := m } u
  have here : ({ t with matrix := m } : State).ladle? u = (s.ladle? u).map (fun g => putAll g l) := ladle
  rw [after]
  refine ⟨mem.trans ?_, pad.trans ?_, _, here, chains.trans ?_⟩
  · show t.mem = s.mem
    rw [frame]
  · rw [here, Option.map_map]
    rfl
  · have same : ({ t with matrix := m } : State).chains = s.chains := by
      show t.chains = s.chains
      rw [frame]
    rw [same]

section Signal

variable {s : State} {c : Chain} {u off : Nat} {x : Word64} {g : Ladle} (free : BanksFree s) (here : s.ladle? u = some g)
  (live : g.live = true) (size : g.pad.size ≠ 0) (moves : s.padPaused u = false)

include free in
theorem engineWrite_signal : Stored s (s.engineWrite { signalReq c u off x with engine := some c.after }) u (signalBytes off x) := by
  generalize hr : ({ signalReq c u off x with engine := some c.after } : Req) = r
  have place : r.place = .pad u := by rw [← hr]; rfl
  have movers : r.movers = [signalOp off x] := by rw [← hr]; rfl
  have unscaled : ∀ o ∈ r.ops, o.scale = none := by
    rw [← hr]
    intro o ho
    obtain rfl := List.mem_singleton.1 ho
    rfl
  have elem : (r.kind.elemStore && r.unit == some 6) = false := by rw [← hr]; rfl
  have store : s.storeOp r false (signalOp off x) = (signalBytes off x).foldl (fun t e => t.storeByte r e.1 e.2) s := by
    simp only [State.storeOp, State.storeCode, Bool.false_eq_true, if_false, Bool.false_and, opBytes_signalOp]
  simp only [State.engineWrite, lateAt_pad place unscaled, movers, elem, List.foldl_cons, List.foldl_nil, engineAccess_pad true place, store]
  exact written_pad place free.1 (foldl_storeByte_pad place _ s)

include free here live size moves

theorem engineWrites_signal : ∃ t, s.engineWrites c.after c.who.casting [] [signalReq c u off x] = .ok t ∧ Stored s t u (signalBytes off x) := by
  have unscaled : ∀ o ∈ [signalOp off x], o.scale = none := by
    intro o ho
    obtain rfl := List.mem_singleton.1 ho
    rfl
  obtain ⟨b, asks⟩ := askArbiter_pad (s := s) (r := { signalReq c u off x with engine := some c.after }) rfl rfl unscaled free moves
  have stored := engineWrite_signal (s := { s with bankLast := b }) (c := c) (u := u) (off := off) (x := x) free
  have unit : ofUnit c.after [signalReq c u off x] = [{ signalReq c u off x with engine := some c.after }] := rfl
  have grants : s.engineGrants c.after [] [signalReq c u off x] = .ok { s with bankLast := b } := by
    have check : ({ s with bankLast := b } : State).engineCheck true (signalReq c u off x) = .ok () :=
      engineCheck_pad true rfl here live size
    simp only [State.engineGrants, unit, State.askAll, asks, if_true, checkAll, check, Except.map]
  obtain ⟨cs, noted⟩ := noteEngine_frame (({ s with bankLast := b } : State).engineWrite { signalReq c u off x with engine := some c.after })
    c.who.casting [signalReq c u off x]
  refine ⟨({ s with bankLast := b } : State).performWrites c.after c.who.casting [signalReq c u off x], ?_, ?_⟩
  · rw [State.engineWrites, grants]
    rfl
  · have performed := (stored.with_castings cs
      ((({ s with bankLast := b } : State).engineWrite { signalReq c u off x with engine := some c.after }).standing.filter
        (fun e => e.req.engine != some c.after)))
    simp only [State.performWrites, unit, List.foldl_cons, List.foldl_nil, noted, noteScratch_pad c.who.casting (r := signalReq c u off x) rfl,
      State.unstand]
    exact ⟨performed.mem, performed.pad, performed.looked⟩

end Signal

theorem get_map_chains (m : FMap (List Chain)) (f : Chain → Chain) (k : Nat) :
    FMap.get [] (m.map (fun e => (e.1, e.2.map f))) k = (FMap.get [] m k).map f := by
  induction m with
  | nil => rfl
  | cons e m ih =>
    simp only [List.map_cons, FMap.get]
    split
    · rfl
    · exact ih

theorem chainMet_unwatched {y : State} {u : Nat} {b : Chain} (h : b.watch = none) : y.chainMet u b = b := by
  simp only [State.chainMet, h]

/-- A word that meets what a chain waits for has ended its wait (R280). -/
theorem chainMet_met {y : State} {u off k : Nat} {b : Chain} {v word : Word32} (waits : b.waiting = true)
    (watch : b.watch = some (u, off, k, v)) (read : y.padWord u off = some word) (meets : chainCond k word v = true) :
    (y.chainMet u b).met = true := by
  simp [State.chainMet, watch, waits, read, meets]

section SignalEntry

variable {s : State} {cluster n : Nat} {l : Ladle} {c : Chain} {w : List Word64}

theorem exec_signalEntry (at_ : EntryAt s cluster n l c w 3) (written : s.engineOutstanding c.after = false) (free : BanksFree s) {g : Ladle}
    {off : Nat} (word : s.entryWord l (w.getD 1 0) = .ok (g, off)) (live : g.live = true) :
    ∃ t, exec (.signalEntry cluster n) s = .next (t.setChain cluster n c.next) ∧ Stored s t g.uid (signalBytes off (w.getD 2 0)) := by
  have size := size_of_entryWord word
  obtain ⟨t, writes, stored⟩ := engineWrites_signal (c := c) (off := off) (x := w.getD 2 0) free (ladle?_of_entryWord word) live (by omega)
    (moves_of_entryWord word at_ (by simp))
  have request : s.engineWrites c.after c.who.casting [] [c.padReq (.store false) g.uid
      [{ wordOp off with x := BitVec.ofNat 64 (bitsOf (w.getD 2 0) 31 0) }]] = .ok t := writes
  refine ⟨t, congrArg Host.Outcome.next (controlEntry_ok at_ ?_), stored⟩
  simp only [written, Bool.false_eq_true, if_false, word, Except.bind, request, Except.map]

variable {t : State} {u off : Nat} {x : Word64} {g : Ladle}

theorem chainIs_of_unwatched {l : List (Nat × Byte)} (stored : Stored s t u l) (unwatched : ∀ e ∈ s.chains, ∀ b ∈ e.2, b.watch = none) (d : Chain) :
    ChainIs s (t.setChain cluster n d) cluster n d := by
  obtain ⟨y, -, chains⟩ := stored.looked
  have same : t.chains = s.chains := by
    rw [chains]
    refine (List.map_congr_left fun e he => ?_).trans (List.map_id _)
    have row : e.2.map (y.chainMet u) = e.2 :=
      (List.map_congr_left fun b hb => chainMet_unwatched (unwatched e he b hb)).trans (List.map_id _)
    rw [row]
    rfl
  have lists : ∀ k, t.chainList k = s.chainList k := fun k => by rw [State.chainList, same]; rfl
  refine ⟨?_, fun k hk => ?_⟩
  · rw [chainList_setChain_self, lists]
  · rw [chainList_setChain_other _ _ _ hk, lists]

theorem met_of_stored (stored : Stored s t u (signalBytes off x)) (here : s.ladle? u = some g) (live : g.live = true) (size : 0 < g.pad.size)
    {m k : Nat} {b : Chain} {v : Word32} (apart : m ≠ n) (chain : (s.chainList cluster)[m]? = some b) (waits : b.waiting = true)
    (watch : b.watch = some (u, off, k, v)) (meets : chainCond k (x.setWidth 32) v = true) (d : Chain) :
    (((t.setChain cluster n d).chainList cluster)[m]?).map (·.met) = some true := by
  obtain ⟨y, there, chains⟩ := stored.looked
  have read : y.padWord u off = some (x.setWidth 32) := by
    have allocated : ((putAll g (signalBytes off x)).live && decide (0 < (putAll g (signalBytes off x)).pad.size)) = true := by
      simpa [putAll, live] using size
    simp only [State.padWord, there, here, Option.map_some]
    rw [if_pos allocated]
    exact congrArg some (read32_signalBytes _ _ _)
  have list : t.chainList cluster = (s.chainList cluster).map (y.chainMet u) := by
    rw [State.chainList, chains, get_map_chains]
    rfl
  rw [chainList_setChain_self, List.getElem?_set_ne (Ne.symm apart), list, List.getElem?_map, chain]
  simp only [Option.map_some, chainMet_met waits watch read meets]

theorem bytes_of_stored (stored : Stored s t u (signalBytes off x)) (d : Chain) (a : Nat) :
    ((t.setChain cluster n d).ladle? u).map (fun q => q.pad.bytes.read a) = (s.ladle? u).map (fun q =>
      if off ≤ a ∧ a < off + 4 then BitVec.ofNat 8 (x.toNat / 256 ^ (a - off)) else q.pad.bytes.read a) := by
  have pads := congrArg (Option.map (fun p : Pad => p.bytes.read a)) stored.pad
  rw [Option.map_map, Option.map_map] at pads
  refine Eq.trans (b := (t.ladle? u).map (fun q => q.pad.bytes.read a)) rfl (pads.trans (Option.map_congr fun q _ => ?_))
  exact read_signalBytes _ _ _ _

end SignalEntry

/-- Settles O36: each entry by its own effect, and a fetch by what its read brings. -/
theorem chainControl : Obligations.ChainControl := by
  unfold Obligations.ChainControl
  intro s cluster n l c w word cond body skip passes written
  have fields : ∀ v, chainCond (entryCond w) v ((word 2).setWidth 32) = cond v := fun v => by
    rw [entryCond_eq]
    exact chainCond_eq _ _ _
  refine ⟨fun at_ done => ?endEntry, fun early => ⟨fun at_ => ?endEarly, fun at_ => ?signalEarly⟩, fun empty first runs moves free words => ?fetch,
    fun u empty runs moves stands room unfetched => exec_chainTransfer_stands empty runs moves stands room unfetched,
    fun at_ u stands => exec_condEntry_stands at_ stands, fun at_ done free g off names live => ?signal,
    fun at_ flat own more room => ?back, fun at_ flat own last => ?on, fun at_ free g off names live => ?cond,
    fun at_ free g off names live => ?waitw⟩
  case endEntry => exact ⟨_, exec_endEntry at_ done, rfl, chainList_dropChain_self _ _ _⟩
  case endEarly => exact exec_endEntry_early at_ (by simpa [written] using early)
  case signalEarly => exact exec_signalEntry_early at_ (by simpa [written] using early)
  case fetch =>
    obtain ⟨b, fetched⟩ := fetched_of_free empty runs moves free words
    exact ⟨b, congrArg Host.Outcome.next (chainStep_fetched fetched), events_fetched fetched first⟩
  case signal =>
    obtain ⟨t, step, stored⟩ := exec_signalEntry at_ done free names live
    have here := ladle?_of_entryWord names
    have size := size_of_entryWord names
    exact ⟨_, step, fun unwatched => chainIs_of_unwatched stored unwatched _, stored.mem,
      fun m b k v apart chain waits watch meets => met_of_stored stored here live (by omega) apart chain waits watch meets _,
      bytes_of_stored stored _⟩
  case back =>
    have fewer : c.pass + 1 < bitsOf (w.getD 1 0) 31 0 := by rw [bitsOf_eq]; simpa [passes, word] using more
    obtain ⟨off, fresh⟩ := goTo_off c (c.off - 32 * entryBody w)
    have same : entryBody w = body := entryBody_eq w
    rw [← same] at flat room
    exact ⟨_, exec_loopEntry_back at_ flat own fewer room, rfl, _, chainIs_setChain s cluster n _ s.bankLast, off.trans (by rw [same]), rfl, rfl,
      rfl, rfl, fresh⟩
  case on =>
    have enough : ¬ c.pass + 1 < bitsOf (w.getD 1 0) 31 0 := by rw [bitsOf_eq]; simpa [passes, word] using last
    have same : entryBody w = body := entryBody_eq w
    rw [← same] at flat
    exact ⟨_, exec_loopEntry_on at_ flat own enough, rfl, _, chainIs_setChain s cluster n _ s.bankLast, (goTo_off c (c.off + 32)).1, rfl, rfl⟩
  case cond =>
    obtain ⟨b, step⟩ := exec_condEntry free names live at_
    rw [entrySkip_eq, fields] at step
    exact ⟨_, step, rfl, chainIs_setChain s cluster n _ b⟩
  case waitw =>
    obtain ⟨b, wait⟩ := waitw_at free names live at_
    rw [fields, entryCond_eq] at wait
    refine ⟨fun first => ⟨_, exec_waitwEntry (chain_of_at at_) first, ?_⟩, fun again => ⟨_, exec_waitwWake (chain_of_at at_) again, ?_⟩⟩ <;>
      (rw [wait]; exact ⟨rfl, chainIs_setChain s cluster n _ b⟩)

end Sys2Proof.ChainControl

/-!
PROOF. O43: dispatch, version reservations and completions (R23, R182, R208, R359 to R363, R371, R373).
-/

namespace Sys2Proof.DispatchEvents

open Sys2Proof.Machine Sys2Proof.Spec

/-! ### What corrections and evictions keep -/

/-- Only what slices, registers, the side band and the crosspoints keep has changed. -/
structure OnlyStores (s t : State) : Prop where
  same : t = { s with slices := t.slices, regs := t.regs, sideband := t.sideband, portOrder := t.portOrder }

theorem OnlyStores.refl (s : State) : OnlyStores s s := ⟨rfl⟩

theorem OnlyStores.trans {s t u : State} (a : OnlyStores s t) (b : OnlyStores t u) : OnlyStores s u := ⟨by rw [b.same, a.same]⟩

theorem OnlyStores.mem {s t : State} (h : OnlyStores s t) : t.mem = s.mem := (congrArg State.mem h.same :)
theorem OnlyStores.me {s t : State} (h : OnlyStores s t) : t.me = s.me := (congrArg State.me h.same :)
theorem OnlyStores.rest {s t : State} (h : OnlyStores s t) : t.rest = s.rest := (congrArg State.rest h.same :)
theorem OnlyStores.castings {s t : State} (h : OnlyStores s t) : t.castings = s.castings := (congrArg State.castings h.same :)
theorem OnlyStores.gangs {s t : State} (h : OnlyStores s t) : t.gangs = s.gangs := (congrArg State.gangs h.same :)
theorem OnlyStores.graphs {s t : State} (h : OnlyStores s t) : t.graphs = s.graphs := (congrArg State.graphs h.same :)
theorem OnlyStores.lastCommit {s t : State} (h : OnlyStores s t) : t.lastCommit = s.lastCommit := (congrArg State.lastCommit h.same :)
theorem OnlyStores.nextCommit {s t : State} (h : OnlyStores s t) : t.nextCommit = s.nextCommit := (congrArg State.nextCommit h.same :)
theorem OnlyStores.nextUid {s t : State} (h : OnlyStores s t) : t.nextUid = s.nextUid := (congrArg State.nextUid h.same :)

theorem OnlyStores.foldl {α : Type} {f : State → α → State} (step : ∀ s a, OnlyStores s (f s a)) (l : List α) (s : State) :
    OnlyStores s (l.foldl f s) := by
  induction l generalizing s with
  | nil => exact .refl s
  | cons a r ih => exact (step s a).trans (ih _)

/-- A correction or an eviction: only stores have changed, the version frames and the registers below the error counters stand, and no
replica has come. -/
structure Upkeep (s t : State) : Prop where
  only : OnlyStores s t
  frames : ∀ n, (t.sliceOf n).frames = (s.sliceOf n).frames
  replicas : NoReplicas s → NoReplicas t
  regs : ∀ k, k < 0x810 → t.reg k = s.reg k

theorem Upkeep.refl (s : State) : Upkeep s s := ⟨.refl s, fun _ => rfl, id, fun _ _ => rfl⟩

theorem Upkeep.trans {s t u : State} (a : Upkeep s t) (b : Upkeep t u) : Upkeep s u :=
  ⟨a.only.trans b.only, fun n => (b.frames n).trans (a.frames n), b.replicas ∘ a.replicas, fun k h => (b.regs k h).trans (a.regs k h)⟩

theorem Upkeep.foldl {α : Type} {f : State → α → State} (step : ∀ s a, Upkeep s (f s a)) (l : List α) (s : State) : Upkeep s (l.foldl f s) := by
  induction l generalizing s with
  | nil => exact .refl s
  | cons a r ih => exact (step s a).trans (ih _)

theorem sliceOf_modSlice (s : State) (n m : Nat) (f : Slice → Slice) :
    (s.modSlice n f).sliceOf m = if n = m then f (s.sliceOf m) else s.sliceOf m := by
  unfold State.sliceOf State.modSlice
  rw [FMap.get_set]
  split
  next h => rw [h]; rfl
  next => rfl

theorem modSlice_upkeep (s : State) (n : Nat) {f : Slice → Slice} (frames : ∀ x, (f x).frames = x.frames)
    (replicas : ∀ x, x.replicas = [] → (f x).replicas = []) : Upkeep s (s.modSlice n f) where
  only := ⟨rfl⟩
  frames m := by
    rw [sliceOf_modSlice]
    split
    · exact frames _
    · rfl
  replicas h m := by
    rw [sliceOf_modSlice]
    split
    · exact replicas _ (h m)
    · exact h m
  regs _ _ := rfl

theorem reg_setReg_other (s : State) {n k : Nat} (v : Word64) (h : n ≠ k) : (s.setReg n v).reg k = s.reg k := by
  show FMap.get (regReset k) (FMap.set (regReset n) s.regs n v) k = FMap.get (regReset k) s.regs k
  unfold FMap.set
  split
  · exact FMap.get_erase_other _ _ h
  · exact FMap.get_insert_other _ _ _ h

theorem correct_upkeep (s : State) (n a : Nat) : Upkeep s (s.correct n a) := by
  unfold State.correct
  split
  · refine Upkeep.trans (t := s.countReg (sliceCe n)) ⟨⟨rfl⟩, fun _ => rfl, id, fun k h => ?_⟩ (modSlice_upkeep _ n (fun _ => rfl) (fun _ h => h))
    have apart : sliceCe n ≠ k := by unfold sliceCe; omega
    exact reg_setReg_other s _ apart
  · exact .refl s

theorem correctBytes_upkeep (s : State) (pas : List Nat) : Upkeep s (s.correctBytes pas) := by
  unfold State.correctBytes
  split
  · exact .refl s
  · exact .foldl (fun s a => correct_upkeep s _ a) pas s

theorem correctWalk_upkeep (s : State) (p va : Nat) : Upkeep s (s.correctWalk p va) := by
  unfold State.correctWalk
  split
  · exact .refl s
  · exact correctBytes_upkeep s _

theorem correctRange_write_upkeep (s : State) (p va n : Nat) : Upkeep s (s.correctRange p .write va n) := by
  unfold State.correctRange
  split
  · exact .refl s
  · refine .foldl (fun s e => ?_) _ s
    exact correctWalk_upkeep s p e.1

theorem correctRanges_upkeep (s : State) (g : Graph) (m : Mould) (i : Nat) : Upkeep s (s.correctRanges g m i) := by
  unfold State.correctRanges
  split
  · exact .refl s
  · exact .foldl (fun s (r : Nat × Nat) => correctRange_write_upkeep s g.part r.1 r.2) _ s

theorem leaveStamps_upkeep (s : State) (n tile : Nat) : Upkeep s (s.leaveStamps n tile) := by
  have forget : ∀ u : State, Upkeep u (u.modSlice n (fun x => x.forgetStamps tile)) := fun u => modSlice_upkeep u n (fun _ => rfl) (fun _ h => h)
  unfold State.leaveStamps
  split
  · exact Upkeep.trans (t := { s with sideband := FMap.set (0, 0) s.sideband tile (s.sidebandOf n tile) })
      ⟨⟨rfl⟩, fun _ => rfl, id, fun _ _ => rfl⟩ (forget _)
  · exact forget s

theorem queueRoomAt_upkeep (s : State) (n : Nat) : Upkeep s (s.queueRoomAt n) := by
  unfold State.queueRoomAt
  split
  · split
    · exact modSlice_upkeep s n (fun _ => rfl) (fun _ h => h)
    · exact .refl s
  · exact .refl s

theorem queueWriteBack_upkeep (s : State) (n tile : Nat) : Upkeep s (s.queueWriteBack n tile) := by
  unfold State.queueWriteBack
  simp only
  split
  · exact ((leaveStamps_upkeep s n tile).trans (queueRoomAt_upkeep _ n)).trans (modSlice_upkeep _ n (fun _ => rfl) (fun _ h => h))
  · exact leaveStamps_upkeep s n tile

/-- With no replica in a slice an eviction sends nothing. -/
theorem evict_upkeep {s : State} (h : NoReplicas s) (n tile : Nat) : Upkeep s (s.evict n tile) := by
  unfold State.evict
  simp only [h n, List.find?_nil]
  exact (queueWriteBack_upkeep s n tile).trans (modSlice_upkeep _ n (fun _ => rfl) (fun x h => by simp [h]))

theorem trim_upkeep {s : State} (h : NoReplicas s) (n k : Nat) : Upkeep s (s.trim n k) := by
  induction k generalizing s with
  | zero => exact .refl s
  | succ k ih =>
    unfold State.trim
    simp only
    split
    · split
      · have e := evict_upkeep h n (by assumption)
        exact e.trans (ih (e.replicas h))
      · exact .refl s
    · exact .refl s

/-! ### Reservations -/

/-- The frames that a reservation makes in a slice. -/
def newFrames (casting n : Nat) (fs : List (Nat × Nat × BitVec 256)) : List Frame :=
  (fs.filter (fun f => f.1 == n)).map (fun f => { casting := casting, tile := f.2.1, bytes := [], declared := f.2.2, tags := [] })

theorem reserveIn_only {s : State} (h : NoReplicas s) (casting n : Nat) (fs : List (Nat × Nat × BitVec 256)) :
    OnlyStores s (s.reserveIn casting n fs) ∧ NoReplicas (s.reserveIn casting n fs) ∧
    ∀ k, ((s.reserveIn casting n fs).sliceOf k).frames = (s.sliceOf k).frames ++ (if n = k then newFrames casting n fs else []) := by
  let t := s.modSlice n (fun x => { x with frames := x.frames ++ newFrames casting n fs })
  have same : s.reserveIn casting n fs = t.trim n (t.sliceOf n).chain.length := rfl
  have none_ : NoReplicas t := by
    intro k
    simp only [t, sliceOf_modSlice]
    split
    · exact h k
    · exact h k
  have up := trim_upkeep none_ n (t.sliceOf n).chain.length
  rw [same]
  refine ⟨OnlyStores.trans (t := t) ⟨rfl⟩ up.only, up.replicas none_, fun k => ?_⟩
  rw [up.frames k]
  simp only [t, sliceOf_modSlice]
  split
  · rfl
  · simp

/-! ### VERSION_RESERVATION -/

theorem casting?_of_unique {s : State} {d : Casting} (mem : d ∈ s.castings) (one : ∀ e ∈ s.castings, e.uid = d.uid → e = d) :
    s.casting? d.uid = some d := by
  unfold State.casting?
  cases h : s.castings.find? (fun c => c.uid == d.uid) with
  | none => simpa using List.find?_eq_none.mp h d mem
  | some e => rw [one e (List.mem_of_find?_eq_some h) (by simpa using List.find?_some h)]

theorem mem_of_theCasting {s : State} {c : Casting} (h : TheCasting s c) : c ∈ s.castings := List.mem_of_find?_eq_some h.1

/-- One change of the only casting of a number leaves it the only one. -/
theorem castingIs_modCasting {s t : State} {c : Casting} (h : TheCasting s c) (f : Casting → Casting) (castings : t.castings = s.castings) :
    CastingIs s (t.modCasting c.uid f) c (f c) := by
  refine ⟨?_, ?_, ?_⟩
  · exact List.mem_map.mpr ⟨c, castings ▸ mem_of_theCasting h, if_pos rfl⟩
  · intro e he uid
    obtain ⟨b, hb, rfl⟩ := List.mem_map.mp he
    have hb : b ∈ s.castings := castings ▸ hb
    by_cases same : b.uid = c.uid
    · rw [if_pos same, h.2 b hb same]
    · rw [if_neg same] at uid
      exact absurd uid same
  · intro e he apart
    exact List.mem_map.mpr ⟨e, castings ▸ he, if_neg apart⟩

theorem startLadles_waiting {s : State} {u : Nat} {c : Casting} (h : s.casting? u = some c) (waits : c.reservation ≠ []) : s.startLadles u = s := by
  unfold State.startLadles
  simp [h, waits]

theorem startLadles_started {s : State} {u : Nat} {c : Casting} (h : s.casting? u = some c) (taken : c.reservation = [])
    (free : ∀ e ∈ s.gangs, e.graph ≠ c.graph) :
    s.startLadles u = s.mapLadles (fun l => decide (l.casting = u)) (fun l => { l with heldAtEntry := false }) := by
  have none_ : s.gangs.any (fun e => e.isOf c.graph c.mould && !e.started) = false := by
    simp only [List.any_eq_false, GangStart.isOf]
    intro e he
    simp [free e he]
  unfold State.startLadles
  simp [h, taken, none_]

/-- The start of ladles changes the ladles alone, and them by their hold at entry. -/
theorem startLadles_frame (s : State) (u : Nat) : ∃ l r, s.startLadles u = { s with me := l, rest := r } := by
  unfold State.startLadles
  split
  · split
    · exact ⟨_, _, rfl⟩
    · exact ⟨s.me, s.rest, rfl⟩
  · exact ⟨s.me, s.rest, rfl⟩

section Reservation
variable {s : State} {c : Casting} {n tile : Nat} {bytes : BitVec 256} {rest : List (Nat × Nat × BitVec 256)}

/-- The slice `n` takes its part of a reservation. -/
def Takes (s : State) (c : Casting) (n : Nat) : Prop :=
  (∀ e ∈ c.reservation, e.1 = n → s.takesFrames n e.2.1 = true) ∧
  (s.sliceOf n).frames.length + framesIn c.reservation n ≤ 8192 * s.frameWays n ∧ s.portWins n servicePort none = true

/-- The state once slice `n` has taken its part. -/
def afterTaking (s : State) (c : Casting) (n : Nat) : State :=
  ((((s.portGranted n servicePort).reserveIn c.uid n c.reservation).modCasting c.uid (fun c =>
    { c with reservation := c.reservation.filter (fun f => f.1 != n) })).startLadles c.uid)

theorem exec_versionReservation_nil (h : TheCasting s c) (nil : c.reservation = []) : exec (.versionReservation c.uid) s = .next s := by
  have act : exec (.versionReservation c.uid) s = execVersionReservation c.uid s := rfl
  rw [act, execVersionReservation]
  simp [h.1, nil]

/-- The pool looks at the first slice of the reservation. -/
theorem exec_versionReservation_cons (h : TheCasting s c) (first : c.reservation = (n, tile, bytes) :: rest) :
    exec (.versionReservation c.uid) s =
      if (c.reservation.all (fun f => f.1 != n || s.takesFrames n f.2.1))
          && decide ((s.sliceOf n).frames.length + framesIn c.reservation n ≤ 8192 * s.frameWays n) then
        .next (if s.portWins n servicePort none then afterTaking s c n else s)
      else .next s := by
  show execVersionReservation c.uid s = _
  rw [execVersionReservation]
  simp only [h.1]
  split
  next e =>
    rw [first] at e
    obtain ⟨⟨rfl, -⟩, -⟩ := List.cons.inj e |>.imp_left Prod.mk.inj
    rfl
  next e => rw [first] at e; cases e

theorem all_takesFrames_iff : c.reservation.all (fun f => f.1 != n || s.takesFrames n f.2.1) = true ↔
    ∀ e ∈ c.reservation, e.1 = n → s.takesFrames n e.2.1 = true := by
  simp only [List.all_eq_true, Bool.or_eq_true, bne_iff_ne, ne_eq]
  exact forall₂_congr fun e _ => ⟨fun o y => o.resolve_left (not_not_intro y), fun o => or_iff_not_imp_left.mpr fun y => o (not_not.mp y)⟩

theorem exec_versionReservation_taken (h : TheCasting s c) (first : c.reservation = (n, tile, bytes) :: rest) (takes : Takes s c n) :
    exec (.versionReservation c.uid) s = .next (afterTaking s c n) := by
  obtain ⟨all, room, wins⟩ := takes
  rw [exec_versionReservation_cons h first, all_takesFrames_iff.mpr all, decide_eq_true room, if_pos wins]
  rfl

theorem exec_versionReservation_idle (h : TheCasting s c) (first : c.reservation = (n, tile, bytes) :: rest) (waits : ¬ Takes s c n) :
    exec (.versionReservation c.uid) s = .next s := by
  rw [exec_versionReservation_cons h first]
  split
  next may =>
    rw [Bool.and_eq_true, all_takesFrames_iff, decide_eq_true_iff] at may
    rw [if_neg fun wins => waits ⟨may.1, may.2, wins⟩]
  next => rfl

theorem afterTaking_spec (h : TheCasting s c) (none_ : NoReplicas s) :
    (afterTaking s c n).mem = s.mem ∧
    CastingIs s (afterTaking s c n) c { c with reservation := c.reservation.filter (fun e => e.1 != n) } ∧
    ((afterTaking s c n).sliceOf n).frames = (s.sliceOf n).frames ++ newFrames c.uid n c.reservation ∧
    (c.reservation.filter (fun e => e.1 != n) = [] → (∀ e ∈ s.gangs, e.graph ≠ c.graph) → s.me.casting = c.uid →
      (afterTaking s c n).me.heldAtEntry = false) ∧
    (c.reservation.filter (fun e => e.1 != n) ≠ [] → (afterTaking s c n).me = s.me) := by
  let u := s.portGranted n servicePort
  let v := u.reserveIn c.uid n c.reservation
  let f : Casting → Casting := fun c => { c with reservation := c.reservation.filter (fun e => e.1 != n) }
  let w := v.modCasting c.uid f
  obtain ⟨only, -, frames⟩ := reserveIn_only (s := u) none_ c.uid n c.reservation
  have only : OnlyStores s v := OnlyStores.trans (t := u) ⟨rfl⟩ only
  have castings : v.castings = s.castings := only.castings
  have is_ : CastingIs s w c (f c) := castingIs_modCasting h f castings
  have found : w.casting? c.uid = some (f c) := casting?_of_unique is_.1 is_.2.1
  obtain ⟨l, r, started⟩ := startLadles_frame w c.uid
  have eq : afterTaking s c n = w.startLadles c.uid := rfl
  rw [eq]
  refine ⟨?_, ?_, ?_, fun empty free mine => ?_, fun more => ?_⟩
  · rw [started]
    exact only.mem
  · rw [started]
    exact is_
  · rw [started]
    exact (frames n).trans (by rw [if_pos rfl]; rfl)
  · have gangs : w.gangs = s.gangs := only.gangs
    have me : w.me = s.me := only.me
    rw [startLadles_started found empty (by rw [gangs]; exact free)]
    simp [State.mapLadles, me, mine]
  · rw [startLadles_waiting found more]
    exact only.me

end Reservation

/-! ### The end of a graph and committed writes leave the pool's castings and numbers -/

/-- The castings and the commit numbers stand. -/
structure SamePool (s t : State) : Prop where
  castings : t.castings = s.castings
  next : t.nextCommit = s.nextCommit
  last : t.lastCommit = s.lastCommit

theorem SamePool.refl (s : State) : SamePool s s := ⟨rfl, rfl, rfl⟩

theorem SamePool.trans {s t u : State} (a : SamePool s t) (b : SamePool t u) : SamePool s u :=
  ⟨b.castings.trans a.castings, b.next.trans a.next, b.last.trans a.last⟩

theorem SamePool.foldl {α : Type} {f : State → α → State} (step : ∀ s a, SamePool s (f s a)) (l : List α) (s : State) : SamePool s (l.foldl f s) := by
  induction l generalizing s with
  | nil => exact .refl s
  | cons a r ih => exact (step s a).trans (ih _)

theorem OnlyStores.samePool {s t : State} (h : OnlyStores s t) : SamePool s t := ⟨h.castings, h.nextCommit, h.lastCommit⟩

theorem testWatch_samePool (s : State) (n : Nat) (w : Watch) : SamePool s (s.testWatch n w) := by
  have fault : SamePool s (s.watchFault w) := by
    unfold State.watchFault
    split
    · exact .foldl (fun t x => SamePool.mk (t := t.raiseFor _ _ _ _ _ _) rfl rfl rfl) _ s
    · exact .refl s
  have correct := (correct_upkeep s n w.pa).only.samePool
  unfold State.testWatch
  simp only
  split
  · exact fault.trans ⟨rfl, rfl, rfl⟩
  · split
    · exact correct.trans ⟨rfl, rfl, rfl⟩
    · exact correct

theorem touchSector_samePool (s : State) (n k : Nat) : SamePool s (s.touchSector n k) := by
  have seen : SamePool s (s.intervene n k) := by
    unfold State.intervene State.interveneIn
    split
    · exact .refl s
    · exact ⟨rfl, rfl, rfl⟩
  unfold State.touchSector
  simp only
  split
  · exact seen.trans ⟨rfl, rfl, rfl⟩
  · exact seen

theorem clearPoison_samePool (s : State) (n k : Nat) (bytes : List Nat) : SamePool s (s.clearPoison n k bytes) := by
  unfold State.clearPoison
  split
  · exact ⟨rfl, rfl, rfl⟩
  · exact .refl s

theorem putBytes_samePool (s : State) (bs : List (Nat × Byte)) : SamePool s (s.putBytes bs) := by
  let t : State := { s with mem := bs.foldl (fun m e => m.write e.1 e.2) s.mem }
  let own := (bs.map (·.1)).filter (fun a => isHbm a || isScratch a)
  have marked : SamePool t ((sectorsOf own).foldl (fun t k => (t.touchSector (t.sliceOfTile (k / 4)) k).clearPoison (t.sliceOfTile (k / 4)) k own) t) :=
    .foldl (fun t k => (touchSector_samePool t _ k).trans (clearPoison_samePool _ _ k own)) _ t
  have start : SamePool s t := ⟨rfl, rfl, rfl⟩
  exact (start.trans marked).trans (correctBytes_upkeep _ own).only.samePool

theorem commitBytes_samePool (s : State) (bs : List (Nat × Byte)) : SamePool s (s.commitBytes bs) := by
  refine (putBytes_samePool s bs).trans ?_
  exact .foldl (fun t k => .foldl (fun u w => testWatch_samePool u _ w) _ t) _ _

theorem interrupt_samePool (s : State) (link function vector : Nat) : SamePool s (s.interrupt link function vector) := by
  unfold State.interrupt
  split <;> exact ⟨rfl, rfl, rfl⟩

theorem completionWrite_samePool (s : State) (g : Graph) : SamePool s (s.completionWrite g) := by
  have written : ∀ pa, SamePool s ((s.correctWalk g.part g.completion.toNat).commitWord pa 8 g.value.toNat) := fun pa =>
    (correctWalk_upkeep s _ _).only.samePool.trans (commitBytes_samePool _ _)
  unfold State.completionWrite
  split
  · exact .refl s
  · split
    · exact ⟨rfl, rfl, rfl⟩
    · simp only
      split
      · exact (written _).trans (interrupt_samePool _ _ _ _)
      · exact written _

theorem enqueueSpawned_samePool (p n : Nat) (s : State) : SamePool s (State.enqueueSpawned p n s) := by
  induction n generalizing s with
  | zero => exact .refl s
  | succ n ih =>
    unfold State.enqueueSpawned
    split
    · exact .refl s
    · split
      · exact .refl s
      · exact ⟨(ih _).castings, (ih _).next, (ih _).last⟩

theorem openStarts_samePool (s : State) (u : Nat) : SamePool s (s.openStarts u) := by
  unfold State.openStarts
  split
  · exact ⟨rfl, rfl, rfl⟩
  · exact .refl s

theorem commitGraph_samePool (s : State) (u : Nat) : SamePool s (s.commitGraph u) := by
  unfold State.commitGraph
  split
  · split
    · exact (completionWrite_samePool s _).trans ⟨rfl, rfl, rfl⟩
    · exact .refl s
  · exact .refl s

theorem endGraph_samePool (s : State) (u : Nat) : SamePool s (s.endGraph u) := by
  unfold State.endGraph
  split
  · split
    · exact ⟨rfl, rfl, rfl⟩
    · exact .refl s
  · exact .refl s

theorem announceHorizon_samePool (s : State) : SamePool s s.announceHorizon := by
  unfold State.announceHorizon
  split
  · exact .foldl (fun t n => SamePool.mk (t := (t.settleStamps n s.horizon).portGranted n servicePort) rfl rfl rfl) _ s
  · exact .refl s

/-- A commit takes its casting out of the pool, and gives no number. -/
theorem commitCasting_pool (s : State) (c : Casting) :
    SamePool { s with castings := s.castings.filter (fun d => d.uid != c.uid) } (s.commitCasting c) := by
  let t : State := { s with castings := s.castings.filter (fun d => d.uid != c.uid) }
  let u : State := match s.graph? c.graph with
    | some g => { t with spawned := FMap.modify [] t.spawned c.part (· ++ spawnedRecords g c) }
    | none => t
  have spawned : SamePool t u := by
    simp only [u]
    split
    · exact ⟨rfl, rfl, rfl⟩
    · exact .refl t
  let v : State := (State.enqueueSpawned c.part c.spawns.length u).modGraph c.graph (fun g =>
    let h := g.setRun c.mould { g.run c.mould with committed := (g.run c.mould).committed + 1 }
    if h.dead then h else h.ready s.ticks s.service)
  have ready : SamePool u v := (enqueueSpawned_samePool c.part c.spawns.length u).trans ⟨rfl, rfl, rfl⟩
  have ended : SamePool v ((((v.openStarts c.graph).commitGraph c.graph).endGraph c.graph).announceHorizon) :=
    (((openStarts_samePool v _).trans (commitGraph_samePool _ _)).trans (endGraph_samePool _ _)).trans (announceHorizon_samePool _)
  exact (spawned.trans ready).trans ended

/-! ### CASTING_COMPLETE -/

/-- A retirement of a channel changes registers and what the policy keeps. -/
theorem retireChannel_frame (s : State) (x ch : Nat) : ∃ a b, s.retireChannel x ch = { s with regs := a, policyPrev := b } := by
  unfold State.retireChannel
  simp only
  split
  · split
    next t named =>
      unfold State.nameChannel State.writeRns at named
      simp only [if_true] at named
      split at named
      · cases named
      · cases named
        exact ⟨_, _, rfl⟩
    next => exact ⟨s.regs, _, rfl⟩
  · split
    · exact ⟨s.regs, _, rfl⟩
    · exact ⟨_, _, rfl⟩

theorem retryChannels_frame (s : State) (x : Nat) : ∃ a b, s.retryChannels x = { s with regs := a, policyPrev := b } := by
  have all : ∀ (l : List Nat) (t : State), (∃ a b, t = { s with regs := a, policyPrev := b }) →
      ∃ a b, l.foldl (fun t ch => t.retireChannel x ch) t = { s with regs := a, policyPrev := b } := by
    intro l
    induction l with
    | nil => exact fun t h => h
    | cons ch r ih =>
      rintro t ⟨a, b, rfl⟩
      exact ih _ (retireChannel_frame _ x ch)
  exact all _ s ⟨s.regs, s.policyPrev, rfl⟩

/-- A casting as it stands when it has completed. -/
def completed (s : State) (c : Casting) : Casting :=
  { c with state := .completed, preempt := none, along := false, started := false, saveSlot := none, mxsBlock := none, readyAt := s.ticks }

/-- What a completion leaves, and the completed casting as the only one of its number. -/
structure Finished (s t : State) (c : Casting) : Prop where
  mem : t.mem = s.mem
  me : t.me = s.me
  slices : t.slices = s.slices
  next : t.nextCommit = s.nextCommit
  last : t.lastCommit = s.lastCommit
  rest : ∀ e ∈ t.rest, e.casting ≠ c.uid
  here : completed s c ∈ t.castings
  one : ∀ e ∈ t.castings, e.uid = c.uid → e = completed s c

theorem Finished.found {s t : State} {c : Casting} (h : Finished s t c) : t.casting? c.uid = some (completed s c) :=
  casting?_of_unique (d := completed s c) h.here h.one

/-- The state of a completion before castings whose discard is over are looked at. -/
def closed (s : State) (c : Casting) : State :=
  let t := s.modCasting c.uid (completed s)
  (({ t with rest := t.rest.filter (fun l => decide (l.casting ≠ c.uid)) } : State).dropBarriers c.uid
    ((s.ladles.filter (fun l => decide (l.casting = c.uid))).map (·.uid))).retryChannels c.cluster

theorem closed_frame (s : State) (c : Casting) : ∃ a b d, closed s c = { s with
    castings := (s.modCasting c.uid (completed s)).castings, rest := s.rest.filter (fun l => decide (l.casting ≠ c.uid)), barriers := d,
    regs := a, policyPrev := b } := by
  obtain ⟨a, b, e⟩ := retryChannels_frame (({ s.modCasting c.uid (completed s) with
    rest := s.rest.filter (fun l => decide (l.casting ≠ c.uid)) } : State).dropBarriers c.uid
      ((s.ladles.filter (fun l => decide (l.casting = c.uid))).map (·.uid))) c.cluster
  exact ⟨a, b, _, e⟩

theorem completeCasting_eq (s : State) (c : Casting) : s.completeCasting c = (closed s c).releaseDiscarded := rfl

/-- A casting as the look at discarded ones leaves it. -/
def lookedAt (s : State) (c : Casting) : Casting :=
  if c.state = .discarded ∧ !s.castings.any (fun d => s.sameGang c.uid d.uid && d.leaving) then
    { c with state := .ready, readyAt := s.ticks, readyClock := s.service }
  else c

theorem releaseDiscarded_eq (s : State) : s.releaseDiscarded = { s with castings := s.castings.map (lookedAt s) } := rfl

theorem uid_lookedAt (s : State) (c : Casting) : (lookedAt s c).uid = c.uid := by
  unfold lookedAt
  split <;> rfl

theorem lookedAt_of_not_discarded (s : State) {c : Casting} (h : c.state ≠ .discarded) : lookedAt s c = c := if_neg fun e => h e.1

theorem completeCasting_finished {s : State} {c : Casting} (h : TheCasting s c) : Finished s (s.completeCasting c) c := by
  obtain ⟨a, b, d, frame⟩ := closed_frame s c
  obtain ⟨here, one, -⟩ := castingIs_modCasting h (completed s) rfl
  have kept : lookedAt (closed s c) (completed s c) = completed s c := lookedAt_of_not_discarded _ (by simp [completed])
  have castings : (closed s c).castings = (s.modCasting c.uid (completed s)).castings := by rw [frame]
  rw [completeCasting_eq, releaseDiscarded_eq]
  refine ⟨?_, ?_, ?_, ?_, ?_, ?_, ?_, ?_⟩
  · exact (congrArg State.mem frame :)
  · exact (congrArg State.me frame :)
  · exact (congrArg State.slices frame :)
  · exact (congrArg State.nextCommit frame :)
  · exact (congrArg State.lastCommit frame :)
  · intro e he
    have he : e ∈ (closed s c).rest := he
    rw [frame] at he
    simpa using (List.mem_filter.mp he).2
  · exact List.mem_map.mpr ⟨_, castings ▸ here, kept⟩
  · intro e he same
    obtain ⟨x, hx, rfl⟩ := List.mem_map.mp he
    rw [uid_lookedAt] at same
    rw [one x (castings ▸ hx) same, kept]

theorem exec_castingComplete {s : State} {c : Casting} (h : TheCasting s c) :
    exec (.castingComplete c.uid) s = .next (if s.isComplete c then (s.completeCasting c).assignCommit (completed s c) else s) := by
  show execCastingComplete c.uid s = _
  rw [execCastingComplete]
  simp only [h.1]
  split
  · rw [(completeCasting_finished h).found]
  · rfl

section Assign
variable {s t : State} {c : Casting} (h : Finished s t c)

theorem assignCommit_waits (may : ¬ t.mayCommit (completed s c) = true) : t.assignCommit (completed s c) = t :=
  if_neg fun e => may e.2

/-- The casting with its commit number. -/
def numberedCasting (s : State) (c : Casting) : Casting :=
  { completed s c with state := .committing, commitNo := s.nextCommit, awaited := s.framesOf c.uid }

/-- The pool with the number given. -/
def numberGiven (s t : State) (c : Casting) : State :=
  { t.modCasting c.uid (fun _ => numberedCasting s c) with nextCommit := (s.nextCommit + 1) % 2 ^ 48, lastCommit := s.nextCommit }

include h in
theorem assignCommit_takes (may : t.mayCommit (completed s c) = true) : t.assignCommit (completed s c) =
    if (s.framesOf c.uid).isEmpty then (numberGiven s t c).commitCasting (numberedCasting s c) else numberGiven s t c := by
  have frames : t.framesOf c.uid = s.framesOf c.uid := by
    unfold State.framesOf
    rw [h.slices]
  have given : t.assignCommit (completed s c) =
      let d := { completed s c with state := CastState.committing, commitNo := t.nextCommit, awaited := t.framesOf c.uid }
      let u := { t.modCasting c.uid (fun _ => d) with nextCommit := (t.nextCommit + 1) % 2 ^ 48, lastCommit := t.nextCommit }
      if d.awaited.isEmpty then u.commitCasting d else u := if_pos ⟨rfl, may⟩
  rw [given, h.next, frames]
  rfl

include h in
theorem numberedCasting_mem : numberedCasting s c ∈ (numberGiven s t c).castings :=
  List.mem_map.mpr ⟨_, h.here, if_pos rfl⟩

end Assign

/-- A casting without frames is committed with its number: none of its number is left. -/
theorem commitCasting_gone (s t : State) (c : Casting) :
    let u := (numberGiven s t c).commitCasting (numberedCasting s c)
    u.nextCommit = (s.nextCommit + 1) % 2 ^ 48 ∧ u.lastCommit = s.nextCommit ∧ ∀ e ∈ u.castings, e.uid ≠ c.uid := by
  have pool := commitCasting_pool (numberGiven s t c) (numberedCasting s c)
  refine ⟨pool.next, pool.last, fun e he => ?_⟩
  rw [pool.castings] at he
  exact bne_iff_ne.mp (List.mem_filter.mp he).2

/-! ### The heads of the pool -/

/-- The state with other records of heads and other owners of clusters. -/
def pooled (s : State) (h : FMap (List Head)) (o : FMap Nat) : State := { s with heads := h, owners := o }

section Pooled
variable (s : State) (h : FMap (List Head)) (o : FMap Nat)

theorem headOf_pooled (p k : Nat) : (pooled s h o).headOf p k = s.headOf p k := rfl
theorem dispatchHeld_pooled (p : Nat) : (pooled s h o).dispatchHeld p = s.dispatchHeld p := rfl
theorem findCluster_pooled (p : Nat) (m : Mould) (grp : Group) : (pooled s h o).findCluster p m grp = (pooled s s.heads o).findCluster p m grp := rfl

theorem walkFrom_pooled (p va : Nat) (kind : AccessKind) (n t : Nat) : (pooled s h o).walkFrom p va kind n t = s.walkFrom p va kind n t := by
  induction n generalizing t with
  | zero => rfl
  | succ n ih =>
    unfold State.walkFrom
    simp only [ih]
    rfl

theorem walk_pooled (p va : Nat) (kind : AccessKind) : (pooled s h o).walk p va kind = s.walk p va kind := walkFrom_pooled s h o p va kind 4 _

theorem rangeTiles_pooled (p n va size : Nat) (acc : FMap (BitVec 256)) :
    (pooled s h o).rangeTiles p n va size acc = s.rangeTiles p n va size acc := by
  induction n generalizing va size acc with
  | zero => rfl
  | succ n ih =>
    unfold State.rangeTiles
    simp only [ih, walk_pooled]

theorem allRanges_pooled (p : Nat) (rs : List (Nat × Nat)) (acc : FMap (BitVec 256)) :
    (pooled s h o).allRanges p rs acc = s.allRanges p rs acc := by
  induction rs generalizing acc with
  | nil => rfl
  | cons r rs ih =>
    unfold State.allRanges
    simp only [ih, rangeTiles_pooled]

theorem rangeFate_pooled (g : Graph) (m : Mould) (i : Nat) : (pooled s h o).rangeFate g m i = s.rangeFate g m i := by
  unfold State.rangeFate
  simp only [allRanges_pooled]
  rfl

end Pooled

theorem chooseOwners_frame (s : State) : ∃ o, s.chooseOwners = pooled s s.heads o := by
  have all : ∀ (l : List Nat) (t : State), (∃ o, t = pooled s s.heads o) → ∃ o, l.foldl State.chooseOwner t = pooled s s.heads o := by
    intro l
    induction l with
    | nil => exact fun t h => h
    | cons x r ih =>
      rintro t ⟨o, rfl⟩
      refine ih _ ?_
      unfold State.chooseOwner
      split
      · exact ⟨o, rfl⟩
      · split
        · exact ⟨_, rfl⟩
        · exact ⟨o, rfl⟩
  exact all _ s ⟨s.owners, rfl⟩

theorem noteHeads_eq (s : State) (p : Nat) : ∃ h, s.noteHeads p = pooled s h s.owners := ⟨_, rfl⟩

theorem dispatchWalk_of_none {s : State} {p : Nat} {l : List Nat} (none_ : ∀ k ∈ l, s.headOf p k = none) : s.dispatchWalk p l = s := by
  induction l with
  | nil => rfl
  | cons q r ih =>
    unfold State.dispatchWalk
    simp only [none_ q List.mem_cons_self, ih fun k hk => none_ k (List.mem_cons_of_mem _ hk), ite_self]

theorem dispatchFor_of_none {s : State} {p : Nat} (none_ : ∀ k < 16, s.headOf p k = none) : ∃ h, s.dispatchFor p = pooled s h s.owners := by
  obtain ⟨h, e⟩ := noteHeads_eq s p
  refine ⟨h, ?_⟩
  unfold State.dispatchFor
  simp only [e]
  split
  · rfl
  · exact dispatchWalk_of_none fun k hk => (headOf_pooled s h s.owners p k).trans (none_ k (by simpa using hk))

theorem poolWalk_of_none {s : State} {l : List Nat} (none_ : ∀ q ∈ l, ∀ k < 16, s.headOf q k = none) :
    ∃ h, l.foldl State.dispatchFor s = pooled s h s.owners := by
  have all : ∀ (l : List Nat), (∀ q ∈ l, ∀ k < 16, s.headOf q k = none) → ∀ t : State, (∃ h, t = pooled s h s.owners) →
      ∃ h, l.foldl State.dispatchFor t = pooled s h s.owners := by
    intro l
    induction l with
    | nil => exact fun _ t h => h
    | cons q r ih =>
      rintro empty t ⟨h, rfl⟩
      refine ih (fun x hx => empty x (List.mem_cons_of_mem _ hx)) _ ?_
      obtain ⟨k, e⟩ := dispatchFor_of_none (s := pooled s h s.owners) fun k hk => empty q List.mem_cons_self k hk
      exact ⟨k, e⟩
  exact all l none_ s ⟨s.heads, rfl⟩

theorem exec_dispatch (s : State) (p : Nat) :
    exec (.dispatch p) s = .next (((List.range 24).filter (· != p)).foldl State.dispatchFor (s.chooseOwners.dispatchFor p)) := by
  have act : exec (.dispatch p) s = execDispatch p s := rfl
  rw [act, execDispatch, State.poolSlot, List.foldl_cons]

/-- With no head the slot of the pool changes heads and owners alone. -/
theorem exec_dispatch_of_none {s : State} {p : Nat} (none_ : ∀ q, q = p ∨ q < 24 → ∀ k < 16, s.headOf q k = none) :
    ∃ h o, exec (.dispatch p) s = .next (pooled s h o) := by
  obtain ⟨o, chosen⟩ := chooseOwners_frame s
  obtain ⟨h, e⟩ := poolWalk_of_none (s := pooled s s.heads o) (l := p :: (List.range 24).filter (· != p)) fun q hq k hk =>
    none_ q (by simpa [List.mem_cons, List.mem_filter] using (List.mem_cons.mp hq).imp_right fun e => (List.mem_range.mp (List.mem_filter.mp e).1)) k hk
  refine ⟨h, o, ?_⟩
  rw [exec_dispatch, chosen]
  exact congrArg _ e

/-! ### The walk to the head that is dispatched -/

theorem get_foldl_heads (f : Nat → List Head) (p : Nat) (l : List Nat) (m : FMap (List Head)) {j : Nat} (hj : j ∈ l) :
    FMap.get [] (l.foldl (fun m q => FMap.set [] m (16 * p + q) (f q)) m) (16 * p + j) = f j := by
  induction l using List.reverseRecOn with
  | nil => cases hj
  | append_singleton r q ih =>
    rw [List.foldl_append, List.foldl_cons, List.foldl_nil]
    by_cases same : q = j
    · rw [same, FMap.get_set_self]
    · rw [FMap.get_set_other _ _ _ (by omega)]
      exact ih (by simpa [Ne.symm same] using hj)

theorem headStops_noted (s : State) (p : Nat) {j : Nat} (hj : j < 16) : (s.noteHeads p).headStops p j = (s.headsOf p j).any s.stops := by
  have noted : FMap.get [] (s.noteHeads p).heads (16 * p + j) = s.headsOf p j :=
    get_foldl_heads (s.headsOf p) p (List.range 16) s.heads (List.mem_range.mpr hj)
  unfold State.headStops
  rw [noted]
  rfl

/-- Priorities without a head, and without a casting that stops those below, are passed over. -/
theorem dispatchWalk_passes {s : State} {p : Nat} {l r : List Nat} (none_ : ∀ j ∈ l, s.headOf p j = none ∧ s.headStops p j = false) :
    s.dispatchWalk p (l ++ r) = s.dispatchWalk p r := by
  induction l with
  | nil => rfl
  | cons q l ih =>
    obtain ⟨head, free⟩ := none_ q List.mem_cons_self
    rw [List.cons_append, State.dispatchWalk]
    simp only [head, free, Bool.false_eq_true, if_false]
    exact ih fun j hj => none_ j (List.mem_cons_of_mem _ hj)

/-- A fresh head that can be dispatched is. -/
theorem dispatchWalk_fresh {s t : State} {p k : Nat} {r : List Nat} {c : Candidate} {g : Graph} {m : Mould} {u n : Nat} {is : List Nat}
    (head : s.headOf p k = some c) (fresh : c.group = .fresh u n is) (mould : s.groupMould c = some (g, m))
    (new : s.dispatchNew g m c = some t) : s.dispatchWalk p (k :: r) = t := by
  rw [State.dispatchWalk]
  simp only [head, mould, fresh, new, Option.getD_some]

/-- The priorities from the highest down: those above `k`, then `k`. -/
theorem range_reverse_split {n k : Nat} (hk : k < n) : ∃ a b, (List.range n).reverse = a ++ k :: b ∧ ∀ j ∈ a, j < n ∧ k < j := by
  induction n with
  | zero => omega
  | succ n ih =>
    rw [List.range_succ, List.reverse_append, List.reverse_singleton]
    by_cases last : k = n
    · exact ⟨[], (List.range n).reverse, by rw [last]; rfl, nofun⟩
    · obtain ⟨a, b, e, above⟩ := ih (by omega)
      refine ⟨n :: a, b, by rw [e]; rfl, fun j hj => ?_⟩
      rcases List.mem_cons.mp hj with rfl | hj
      · omega
      · have := above j hj
        omega

/-! ### Reservations under an upkeep -/

section Upkeep
variable {s t : State} (up : Upkeep s t)
include up

theorem homeOf_upkeep (pa : Nat) : t.homeOf pa = s.homeOf pa := by rw [up.only.same]; rfl

theorem framesFor_upkeep (l : FMap (BitVec 256)) : t.framesFor l = s.framesFor l := by
  unfold State.framesFor
  simp only [homeOf_upkeep up]

theorem promised_upkeep (n : Nat) : t.promised n = s.promised n := by
  unfold State.promised
  rw [up.only.castings]

theorem otherWays_upkeep (p : Nat) {n : Nat} (hn : n < 64) : t.otherWays p n = s.otherWays p n := by
  have ways : ∀ w, t.pinWays w n = s.pinWays w n ∧ t.scratchWays w n = s.scratchWays w n := fun w => by
    rw [up.only.same]
    exact ⟨rfl, rfl⟩
  have changes : t.splitChanges = s.splitChanges := (congrArg State.splitChanges up.only.same :)
  unfold State.otherWays
  refine List.foldl_ext _ _ _ fun m q hq => ?_
  have small : q < 24 := List.mem_range.mp (List.mem_filter.mp hq).1
  simp only [ways, changes, up.regs (0x440 + 2 * q + n / 32) (by omega)]

theorem frameWays_upkeep {n : Nat} (hn : n < 64) : t.frameWays n = s.frameWays n := by
  unfold State.frameWays
  rw [otherWays_upkeep up 24 hn]

theorem domainStaged_upkeep {e : Nat} (he : e < 2) (off : Nat) : t.domainStaged e off = s.domainStaged e off := by
  unfold State.domainStaged domainBy
  simp (disch := omega) only [List.find?_cons, List.find?_nil, up.regs]

theorem nextSlice_upkeep {h : HomeChange} (stays : h.retire = none) (pa : Nat) {e : Nat} (he : e < 2) : t.nextSlice h pa e = s.nextSlice h pa e := by
  have domain : ∀ die off, t.domainOf die off = s.domainOf die off := fun _ _ => by rw [up.only.same]; rfl
  have staged : ∀ key, t.bucketStaged key = s.bucketStaged key := fun _ => by rw [up.only.same]; rfl
  have bits : ∀ x, bucketBits (fun i => t.reg (0x400 + 0x20 * e + i)) x = bucketBits (fun i => s.reg (0x400 + 0x20 * e + i)) x := fun x => by
    refine List.foldl_ext _ _ _ fun b i hi => ?_
    have small : i < 12 := List.mem_range.mp hi
    simp only [up.regs (0x400 + 0x20 * e + i) (by omega)]
  unfold State.nextSlice
  simp only [stays, domain, staged, bits, domainStaged_upkeep up he]

theorem takesFrames_upkeep {n : Nat} (hn : n < 64) (tile : Nat) : t.takesFrames n tile = s.takesFrames n tile := by
  have changes : t.homeChanges = s.homeChanges := (congrArg State.homeChanges up.only.same :)
  have leaving : t.leaving n tile = s.leaving n tile := by
    unfold State.leaving
    rw [changes]
    split
    · rfl
    · split
      · rfl
      next stays => rw [nextSlice_upkeep up (by simpa using stays) _ (by omega)]
  unfold State.takesFrames
  rw [leaving, changes]

theorem canReserve_upkeep {fs : List (Nat × Nat × BitVec 256)} (small : ∀ f ∈ fs, f.1 < 64) (room : s.canReserve fs = true) :
    t.canReserve fs = true := by
  unfold State.canReserve at *
  simp only [Bool.and_eq_true, List.all_eq_true, decide_eq_true_eq] at *
  obtain ⟨fits, takes⟩ := room
  refine ⟨fun n hn => ?_, fun f hf => ?_⟩
  · obtain ⟨f, hf, rfl⟩ : ∃ f ∈ fs, f.1 = n := List.mem_map.mp (List.mem_eraseDups.mp hn)
    rw [up.frames, promised_upkeep up, frameWays_upkeep up (small f hf)]
    exact fits f.1 hn
  · rw [takesFrames_upkeep up (small f hf)]
    exact takes f hf

end Upkeep

/-! ### The tiles of write ranges -/

/-- Tiles of HBM within the size of space 0. -/
def InHbm (l : FMap (BitVec 256)) : Prop := ∀ e ∈ l, 256 * e.1 < hbmLimit

theorem inHbm_modify {l : FMap (BitVec 256)} (h : InHbm l) {k : Nat} (hk : 256 * k < hbmLimit) (f : BitVec 256 → BitVec 256) :
    InHbm (FMap.modify 0 l k f) := by
  unfold FMap.modify FMap.set
  split
  · exact fun e he => h e (List.mem_filter.mp he).1
  · intro e he
    rcases FMap.mem_insert he with rfl | he
    · exact hk
    · exact h e he

theorem inHbm_rangeTiles {s : State} {p n va size : Nat} {acc l : FMap (BitVec 256)} (h : InHbm acc) (fate : s.rangeTiles p n va size acc = .tiles l) :
    InHbm l := by
  induction n generalizing va size acc with
  | zero =>
    cases fate
    exact h
  | succ n ih =>
    unfold State.rangeTiles at fate
    simp only at fate
    split at fate
    · cases fate
      exact h
    · split at fate
      · split at fate <;> cases fate
      · split at fate
        · cases fate
        next inside =>
          refine ih ?_ fate
          split
          next hbm =>
            refine inHbm_modify h ?_ _
            simp only [Bool.or_eq_true, Bool.and_eq_true, decide_eq_true_eq, not_or, not_and, not_le] at inside
            have := inside.2 hbm
            unfold tileOf
            omega
          next => exact h

theorem inHbm_allRanges {s : State} {p : Nat} {rs : List (Nat × Nat)} {acc l : FMap (BitVec 256)} (h : InHbm acc)
    (fate : s.allRanges p rs acc = .tiles l) : InHbm l := by
  induction rs generalizing acc with
  | nil =>
    cases fate
    exact h
  | cons r rs ih =>
    unfold State.allRanges at fate
    split at fate
    next m tiles => exact ih (inHbm_rangeTiles h tiles) fate
    next other => exact absurd fate (other l)

theorem inHbm_rangeFate {s : State} {g : Graph} {m : Mould} {i : Nat} {l : FMap (BitVec 256)} (fate : s.rangeFate g m i = .tiles l) : InHbm l := by
  unfold State.rangeFate at fate
  simp only at fate
  split at fate
  · cases fate
  · split at fate
    · cases fate
    · split at fate
      next tiles =>
        split at fate
        · cases fate
        · cases fate
          exact inHbm_allRanges (by simp [InHbm]) tiles
      next other => exact absurd fate (other l)

theorem framesFor_small {s : State} {l : FMap (BitVec 256)} (h : InHbm l) : ∀ f ∈ s.framesFor l, f.1 < 64 := by
  intro f hf
  obtain ⟨e, he, rfl⟩ := List.mem_map.mp hf
  have die : dieOf (256 * e.1) < 2 := Nat.div_lt_of_lt_mul (h e he)
  have five := (s.bucket (dieOf (256 * e.1) * 16384 + (s.domainOf (dieOf (256 * e.1)) (dieOffset (256 * e.1))).getD 0 * 4096 +
    s.bucketOf (dieOf (256 * e.1)) (dieOffset (256 * e.1)))).isLt
  show 32 * dieOf (256 * e.1) + _ < 64
  omega

/-! ### Reservations of a dispatch -/

theorem nodup_eraseDups (l : List Nat) : l.eraseDups.Nodup := by
  induction h : l.length using Nat.strong_induction_on generalizing l with
  | _ n ih =>
    cases l with
    | nil => exact .nil
    | cons a r =>
      rw [List.eraseDups_cons, List.nodup_cons]
      refine ⟨fun ha => ?_, ih _ ?_ _ rfl⟩
      · simpa using (List.mem_filter.mp (List.mem_eraseDups.mp ha)).2
      · have := List.length_filter_le (fun b => !b == a) r
        simp only [List.length_cons] at h
        omega

theorem foldl_reserveIn {casting : Nat} {fs : List (Nat × Nat × BitVec 256)} (l : List Nat) (once : l.Nodup) {s : State} (none_ : NoReplicas s) :
    let t := l.foldl (fun t n => (t.reserveIn casting n fs).portGranted n servicePort) s
    OnlyStores s t ∧ ∀ k, (t.sliceOf k).frames = (s.sliceOf k).frames ++ (if k ∈ l then newFrames casting k fs else []) := by
  induction l generalizing s with
  | nil => exact ⟨.refl s, fun k => by simp⟩
  | cons n r ih =>
    obtain ⟨apart, once⟩ := List.nodup_cons.mp once
    obtain ⟨only, still, frames⟩ := reserveIn_only none_ casting n fs
    obtain ⟨only', frames'⟩ := ih once (s := (s.reserveIn casting n fs).portGranted n servicePort) still
    refine ⟨(only.trans ⟨rfl⟩).trans only', fun k => ?_⟩
    refine (frames' k).trans ?_
    show ((s.reserveIn casting n fs).sliceOf k).frames ++ _ = _
    rw [frames k]
    by_cases same : n = k
    · rw [← same]
      simp [apart]
    · simp [same, Ne.symm same]

theorem length_newFrames (casting n : Nat) (fs : List (Nat × Nat × BitVec 256)) :
    ((newFrames casting n fs).filter (fun f => decide (f.casting = casting))).length = framesIn fs n := by
  have all : (newFrames casting n fs).filter (fun f => decide (f.casting = casting)) = newFrames casting n fs := by
    rw [List.filter_eq_self]
    intro f hf
    obtain ⟨e, -, rfl⟩ := List.mem_map.mp hf
    exact decide_eq_true rfl
  rw [all, newFrames, List.length_map]
  rfl

theorem framesIn_zero {fs : List (Nat × Nat × BitVec 256)} {n : Nat} (h : n ∉ frameSlices fs) : framesIn fs n = 0 := by
  unfold framesIn
  rw [List.length_eq_zero_iff, List.filter_eq_nil_iff]
  intro f hf same
  exact h (List.mem_eraseDups.mpr (List.mem_map.mpr ⟨f, hf, by simpa using same⟩))

/-- Where nothing stands at a port every slice takes its part of the reservation at once. -/
theorem reserve_quiet {s : State} (quiet : s.quiet = true) (none_ : NoReplicas s) (casting : Nat) (fs : List (Nat × Nat × BitVec 256)) :
    OnlyStores s (s.reserve casting fs) ∧
    ∀ n, (((s.reserve casting fs).sliceOf n).frames.filter (fun f => decide (f.casting = casting))).length =
      framesIn fs n + ((s.sliceOf n).frames.filter (fun f => decide (f.casting = casting))).length := by
  obtain ⟨only, frames⟩ := foldl_reserveIn (casting := casting) (fs := fs) (frameSlices fs) (nodup_eraseDups _) none_
  have eq : s.reserve casting fs = (frameSlices fs).foldl (fun t n => (t.reserveIn casting n fs).portGranted n servicePort) s := if_pos quiet
  rw [eq]
  refine ⟨only, fun n => ?_⟩
  rw [frames n, List.filter_append, List.length_append, Nat.add_comm]
  split
  next => rw [length_newFrames]
  next out => rw [framesIn_zero out]; rfl

/-! ### Ladles at their entry -/

/-- A ladle as it enters, with the barriers of its gang. -/
def entering (g : Graph) (m : Mould) (c : Casting) (placement uid : Nat) (p : Spot) (b : FMap BarRec) : Ladle :=
  { entryLadle g m c placement uid p true with bars := b }

theorem joinBarriers_frame (s : State) (l : Ladle) : ∃ b, s.joinBarriers l = { l with bars := b } := by
  have all : ∀ (bs : List Barrier) (x : Ladle), (∃ b, x = { l with bars := b }) → ∃ b, bs.foldl (fun l b =>
      if 2 ≤ b.level.toNat ∧ s.groupOf l b.level = b.group then
        l.setBar (barKey b.level b.id) { lanes := 0, arrived := b.completed, waited := b.completed }
      else l) x = { l with bars := b } := by
    intro bs
    induction bs with
    | nil => exact fun x h => h
    | cons a r ih =>
      rintro x ⟨b, rfl⟩
      refine ih _ ?_
      beta_reduce
      split
      · exact ⟨_, rfl⟩
      · exact ⟨b, rfl⟩
  exact all s.barriers l ⟨l.bars, rfl⟩

/-- Ladles of a casting have entered, and nothing else has changed but the counter of numbers and the matrix state. -/
structure Enters (g : Graph) (m : Mould) (c : Casting) (placement : Nat) (s t : State) (new : List Ladle) : Prop where
  same : t = { s with rest := s.rest ++ new, nextUid := t.nextUid, matrix := t.matrix }
  entry : ∀ l ∈ new, ∃ p u b, l = entering g m c placement u p b

section Enters
variable {g : Graph} {m : Mould} {c : Casting} {placement : Nat}

theorem Enters.nil (s : State) : Enters g m c placement s s [] := ⟨by rw [List.append_nil], by simp⟩

theorem Enters.append {s t u : State} {a b : List Ladle} (x : Enters g m c placement s t a) (y : Enters g m c placement t u b) :
    Enters g m c placement s u (a ++ b) where
  same := by rw [y.same, x.same, List.append_assoc]
  entry l hl := (List.mem_append.mp hl).elim (x.entry l) (y.entry l)

theorem enterLadle_enters (s : State) (p : Spot) : ∃ l, Enters g m c placement s (s.enterLadle g m c placement true p) [l] := by
  obtain ⟨b, e⟩ := joinBarriers_frame s (entryLadle g m c placement s.nextUid p true)
  refine ⟨entering g m c placement s.nextUid p b, ?_, ?_⟩
  · unfold State.enterLadle
    simp only [e]
    rfl
  · intro l hl
    exact ⟨p, _, b, List.mem_singleton.mp hl⟩

theorem foldl_enterLadle (ps : List Spot) (s : State) : ∃ new, new.length = ps.length ∧
    Enters g m c placement s (ps.foldl (fun t p => t.enterLadle g m c placement true p) s) new := by
  induction ps generalizing s with
  | nil => exact ⟨[], rfl, .nil s⟩
  | cons p r ih =>
    obtain ⟨l, first⟩ := enterLadle_enters (g := g) (m := m) (c := c) (placement := placement) s p
    obtain ⟨new, count, others⟩ := ih (s.enterLadle g m c placement true p)
    exact ⟨l :: new, by rw [List.length_cons, count, List.length_cons], first.append others⟩

theorem enterCasting_enters (s : State) (p : Plan) : ∃ new, new.length = p.spots.length + bit m.control ∧
    Enters g m c p.placement s (s.enterCasting g m c p true) new := by
  obtain ⟨new, count, enters⟩ := foldl_enterLadle (g := g) (m := m) (c := c) (placement := p.placement) p.spots s
  unfold State.enterCasting
  simp only
  split
  next control =>
    let t := p.spots.foldl (fun t e => t.enterLadle g m c p.placement true e) s
    obtain ⟨l, last⟩ := enterLadle_enters (g := g) (m := m) (c := c) (placement := p.placement) (t.setMat c.cluster Matrix.start)
      (controlSpot m.ladles)
    refine ⟨new ++ [l], by rw [List.length_append, count, control]; rfl, ?_⟩
    have matrix : Enters g m c p.placement t (t.setMat c.cluster Matrix.start) [] := ⟨by rw [List.append_nil]; rfl, by simp⟩
    exact enters.append (matrix.append last)
  next vector => exact ⟨new, by rw [count, Bool.eq_false_iff.mpr vector]; rfl, enters⟩

end Enters

theorem get_entryS (args : Vector Word64 8) (index : Nat) (wid : Word64) (r : Fin 64) : (entryS args index wid).get r =
    if h : r.val < 8 then args[r.val] else if r.val = 8 then BitVec.ofNat 64 index else if r.val = 9 then wid else 0 := by
  unfold entryS
  simp only [Vector.get_eq_getElem, Vector.getElem_ofFn]

theorem laneAt_entryV (half : Bool) (wid : Word64) (r : Fin 64) {j : Nat} (hj : j < 32) : laneAt ((entryV half wid).get r) j =
    if r.val = 0 then (wid + BitVec.ofNat 64 (if half then j % 16 else j)).setWidth 32
    else if r.val = 1 then (wid + BitVec.ofNat 64 (if half then j % 16 else j)).extractLsb' 32 32 else 0 := by
  unfold entryV laneAt
  rw [dif_pos hj, Vector.get_eq_getElem, Vector.getElem_ofFn]
  split
  · rw [Vector.getElem_ofFn]
  · split
    · rw [Vector.getElem_ofFn]
    · exact Vector.getElem_replicate _

section Entry
variable (g : Graph) (m : Mould) (c : Casting) (placement uid : Nat) (p : Spot) (b : FMap BarRec)

/-- A ladle that has entered, once its hold at entry has ended. -/
def entered : Ladle := { entering g m c placement uid p b with heldAtEntry := false }

theorem getS_entered (r : BitVec 6) : (entered g m c placement uid p b).getS r =
    if h : r.toNat < 8 then g.args[r.toNat] else if r.toNat = 8 then BitVec.ofNat 64 c.index
    else if r.toNat = 9 then BitVec.ofNat 64 (c.index * 2 ^ (5 + m.w1) + 32 * p.rank) else 0 :=
  get_entryS g.args c.index _ r.toFin

theorem vector_of_entered (vector : (entered g m c placement uid p b).control = false) : p.core ≠ 4 := of_decide_eq_false vector

theorem mask_entered : (entered g m c placement uid p b).sp.mask = if p.core = 4 then 1#32 else 0xffffffff#32 := rfl

theorem padSize_entered : (entered g m c placement uid p b).pad.size = if p.core = 4 then 0 else 4096 * ((m.scratch + 4095) / 4096) := rfl

theorem half_entered (vector : p.core ≠ 4) : (entered g m c placement uid p b).half = decide (placement = 2) := by
  show (decide (placement = 2) && !decide (p.core = 4)) = _
  simp [vector]

theorem v_entered (vector : p.core ≠ 4) : (entered g m c placement uid p b).v =
    entryV (decide (placement = 2)) (BitVec.ofNat 64 (c.index * 2 ^ (5 + m.w1) + 32 * p.rank)) := if_neg vector

theorem laneAt_entered (vector : p.core ≠ 4) (r : BitVec 6) {j : Nat} (hj : j < 32) :
    let id : Word64 := BitVec.ofNat 64 (c.index * 2 ^ (5 + m.w1) + 32 * p.rank) +
      BitVec.ofNat 64 (if (entered g m c placement uid p b).half then j % 16 else j)
    laneAt ((entered g m c placement uid p b).getV r) j =
      if r.toNat = 0 then id.setWidth 32 else if r.toNat = 1 then id.extractLsb' 32 32 else 0 := by
  rw [half_entered g m c placement uid p b vector, Ladle.getV, v_entered g m c placement uid p b vector]
  exact laneAt_entryV _ _ r.toFin hj

/-- It is in the state of R23. -/
theorem entered_atEntry : AtEntry (entered g m c placement uid p b) g m c.index := by
  refine ⟨rfl, rfl, rfl, rfl, rfl, rfl, rfl, rfl, rfl, rfl, rfl, fun n => ?args, ?index, ?wid, fun r hr => ?zero, rfl, rfl, rfl, rfl,
    fun control => ?control, fun vector => ?vector⟩
  case args =>
    have small : (BitVec.ofNat 6 n.val).toNat = n.val := by
      rw [BitVec.toNat_ofNat]
      omega
    rw [getS_entered, dif_pos (by omega)]
    simp only [small]
    rfl
  case index => exact getS_entered g m c placement uid p b 8
  case wid => exact getS_entered g m c placement uid p b 9
  case zero => rw [getS_entered, dif_neg (by omega), if_neg (by omega), if_neg (by omega)]
  case control =>
    have core : p.core = 4 := of_decide_eq_true control
    exact ⟨(mask_entered g m c placement uid p b).trans (if_pos core), (padSize_entered g m c placement uid p b).trans (if_pos core)⟩
  case vector =>
    have core := vector_of_entered g m c placement uid p b vector
    refine ⟨(mask_entered g m c placement uid p b).trans (if_neg core), (padSize_entered g m c placement uid p b).trans (if_neg core),
      fun j hj => ⟨?_, ?_, fun r hr => ?_⟩⟩
    · exact laneAt_entered g m c placement uid p b core 0 hj
    · exact laneAt_entered g m c placement uid p b core 1 hj
    · rw [laneAt_entered g m c placement uid p b core r hj, if_neg (by omega), if_neg (by omega)]

end Entry

/-! ### The dispatch of one new casting -/

section One
variable {s : State} {g : Graph} {m : Mould} {c : Candidate} {i x : Nat} {plan : Plan} {l : FMap (BitVec 256)}

/-- The casting that is taken from the ready order. -/
def takenCasting (s : State) (g : Graph) (c : Candidate) (i : Nat) : Casting := newCasting g c.mould i s.nextUid c.since c.clock

/-- The casting as it stands on its cluster. -/
def placedCasting (s : State) (g : Graph) (c : Candidate) (i x : Nat) (plan : Plan) : Casting :=
  { takenCasting s g c i with
    state := .resident, cluster := x, placement := plan.placement, dispatchNo := s.lastCommit, placedAt := s.ticks }

/-- The pool with the casting taken from the ready order, the walks of its ranges made. -/
def takenState (s : State) (g : Graph) (m : Mould) (c : Candidate) (i : Nat) : State :=
  (s.correctRanges g m i).takeGroup c [takenCasting s g c i]

/-- A fresh group of one casting that can be placed, whose ranges are sound and whose frames find room, is dispatched. -/
theorem dispatchNew_one (fresh : c.group = .fresh g.uid c.mould [i]) (cluster : s.findCluster g.part m c.group = some (x, [plan]))
    (fate : s.rangeFate g m i = .tiles l) (single : m.gang = false) (room : s.canReserve (s.framesFor l) = true) :
    s.dispatchNew g m c =
      some (((takenState s g m c i).dispatchOne g m x (takenCasting s g c i) plan ((takenState s g m c i).framesFor l)).endGraph g.uid) := by
  have up := correctRanges_upkeep s g m i
  have group : s.groupCastings g c = [takenCasting s g c i] := by
    unfold State.groupCastings
    rw [fresh]
    rfl
  have index : (takenCasting s g c i).index = i := rfl
  have need : (s.correctRanges g m i).canReserve ((s.correctRanges g m i).framesFor l) = true := by
    rw [framesFor_upkeep up]
    exact canReserve_upkeep up (framesFor_small (inHbm_rangeFate fate)) room
  unfold State.dispatchNew
  simp only [cluster, group, List.map_cons, List.map_nil, index, fate, List.foldl_cons, List.foldl_nil, List.zip_cons_cons, List.zip_nil_right,
    List.findSome?_cons, List.findSome?_nil, List.flatMap_cons, List.flatMap_nil, List.append_nil, need, single]
  rfl

/-- A graph whose group of index `i` has been taken. -/
def takenFrom (u mould i : Nat) (h : Graph) : Graph := if h.uid = u then h.setRun mould { h.run mould with next := i + 1 } else h

/-- What a state keeps while it takes a casting from the ready order. -/
structure Taken (s t : State) (g : Graph) (c : Candidate) (i : Nat) : Prop where
  same : t = { s with graphs := s.graphs.map (takenFrom g.uid c.mould i), castings := s.castings ++ [takenCasting s g c i],
                      nextUid := s.nextUid + 1, slices := t.slices, regs := t.regs, sideband := t.sideband, portOrder := t.portOrder }
  frames : ∀ n, (t.sliceOf n).frames = (s.sliceOf n).frames
  replicas : NoReplicas s → NoReplicas t
  homes : ∀ l, t.framesFor l = s.framesFor l

theorem takenState_taken (fresh : c.group = .fresh g.uid c.mould [i]) : Taken s (takenState s g m c i) g c i := by
  have up := correctRanges_upkeep s g m i
  have eq : takenState s g m c i = { s.correctRanges g m i with
      graphs := (s.correctRanges g m i).graphs.map (takenFrom g.uid c.mould i),
      castings := (s.correctRanges g m i).castings ++ [takenCasting s g c i], nextUid := (s.correctRanges g m i).nextUid + 1 } := by
    unfold takenState State.takeGroup
    rw [fresh]
    rfl
  refine ⟨?_, fun n => ?_, fun h n => ?_, fun l => ?_⟩
  · rw [eq, up.only.graphs, up.only.castings, up.only.nextUid, up.only.same]
  · rw [eq]
    exact up.frames n
  · rw [eq]
    exact up.replicas h n
  · rw [eq]
    exact framesFor_upkeep up l

/-- A ladle as it stands when its casting starts. -/
def unheld (l : Ladle) : Ladle := { l with heldAtEntry := false }

/-- What the dispatch of the casting comes to. -/
structure Dispatched (s t : State) (g : Graph) (m : Mould) (c : Candidate) (i x : Nat) (plan : Plan) (fs : List (Nat × Nat × BitVec 256))
    (new : List Ladle) : Prop where
  mem : t.mem = s.mem
  last : t.lastCommit = s.lastCommit
  me : t.me = s.me
  graphs : t.graphs = s.graphs.map (takenFrom g.uid c.mould i)
  castings : t.castings = s.castings ++ [placedCasting s g c i x plan]
  rest : t.rest = s.rest ++ new.map unheld
  count : new.length = plan.spots.length + bit m.control
  entry : ∀ l ∈ new, ∃ p u b, l = entering g m (placedCasting s g c i x plan) plan.placement u p b
  frames : ∀ n, ((t.sliceOf n).frames.filter (fun f => decide (f.casting = s.nextUid))).length =
    framesIn fs n + ((s.sliceOf n).frames.filter (fun f => decide (f.casting = s.nextUid))).length

theorem map_append_fresh {α : Type} {p : α → Prop} [DecidablePred p] (f : α → α) {l r : List α} (out : ∀ a ∈ l, ¬ p a) (inside : ∀ a ∈ r, p a) :
    (l ++ r).map (fun a => if p a then f a else a) = l ++ r.map f := by
  rw [List.map_append]
  congr 1
  · exact (List.map_congr_left fun a ha => if_neg (out a ha)).trans (List.map_id' l)
  · exact List.map_congr_left fun a ha => if_pos (inside a ha)

section Fresh
variable (apart : ∀ d ∈ s.castings, d.uid ≠ s.nextUid) (foreign : ∀ d ∈ s.ladles, d.casting ≠ s.nextUid) (free : ∀ d ∈ s.gangs, d.graph ≠ g.uid)
  (quiet : s.quiet = true) (none_ : NoReplicas s)
include apart foreign free quiet none_

theorem dispatchOne_dispatched {u : State} (taken : Taken s u g c i) (fs : List (Nat × Nat × BitVec 256)) :
    ∃ new, Dispatched s (u.dispatchOne g m x (takenCasting s g c i) plan fs) g m c i x plan fs new := by
  let f : Casting → Casting := fun d => { d with
    state := CastState.resident, cluster := x, placement := plan.placement, dispatchNo := u.lastCommit, placedAt := u.ticks }
  let d := takenCasting s g c i
  let a := u.modCasting s.nextUid f
  have placed : f d = placedCasting s g c i x plan := by
    simp only [f]
    rw [taken.same]
    rfl
  obtain ⟨new, count, enters⟩ := enterCasting_enters (g := g) (m := m) (c := f d) a plan
  let b := a.enterCasting g m (f d) plan true
  have quiet_b : b.quiet = true := by
    show (a.enterCasting g m (f d) plan true).quiet = true
    rw [enters.same]
    show u.quiet = true
    rw [taken.same]
    exact quiet
  have slices_b : ∀ n, b.sliceOf n = u.sliceOf n := fun n => by
    show (a.enterCasting g m (f d) plan true).sliceOf n = u.sliceOf n
    rw [enters.same]
    rfl
  have none_b : NoReplicas b := fun n => by
    rw [slices_b]
    exact taken.replicas none_ n
  obtain ⟨only, frames⟩ := reserve_quiet quiet_b none_b s.nextUid fs
  let e := b.reserve s.nextUid fs
  have castings : e.castings = s.castings ++ [f d] := by
    rw [only.castings]
    refine ((congrArg State.castings enters.same :).trans ?_ : b.castings = _)
    refine (congrArg (List.map _) (congrArg State.castings taken.same :)).trans ?_
    exact map_append_fresh f apart (by simp [takenCasting, newCasting])
  have found : e.casting? s.nextUid = some (f d) := by
    refine casting?_of_unique (d := f d) (by rw [castings]; simp) fun y hy same => ?_
    rw [castings] at hy
    rcases List.mem_append.mp hy with hy | hy
    · exact absurd same (apart y hy)
    · exact List.mem_singleton.mp hy
  have rest : e.rest = s.rest ++ new := by
    rw [only.rest]
    refine ((congrArg State.rest enters.same :).trans ?_ : b.rest = _)
    exact congrArg (· ++ new) (congrArg State.rest taken.same :)
  have me : e.me = s.me := (only.me.trans (congrArg State.me enters.same :)).trans (congrArg State.me taken.same :)
  have gangs : e.gangs = s.gangs := (only.gangs.trans (congrArg State.gangs enters.same :)).trans (congrArg State.gangs taken.same :)
  have started : e.startLadles s.nextUid = _ := startLadles_started found rfl (by rw [gangs]; exact free)
  have eq : u.dispatchOne g m x d plan fs = e.mapLadles (fun l => decide (l.casting = s.nextUid)) unheld := started
  refine ⟨new, ?_⟩
  rw [eq]
  refine ⟨?_, ?_, ?_, ?_, ?_, ?_, count, ?_, ?_⟩
  · exact (only.mem.trans (congrArg State.mem enters.same :)).trans (congrArg State.mem taken.same :)
  · exact (only.lastCommit.trans (congrArg State.lastCommit enters.same :)).trans (congrArg State.lastCommit taken.same :)
  · show (if decide (e.me.casting = s.nextUid) = true then unheld e.me else e.me) = s.me
    rw [me, if_neg (by simpa using foreign s.me List.mem_cons_self)]
  · exact (only.graphs.trans (congrArg State.graphs enters.same :)).trans (congrArg State.graphs taken.same :)
  · exact castings.trans (by rw [placed])
  · show e.rest.map (fun l => if decide (l.casting = s.nextUid) = true then unheld l else l) = _
    rw [rest]
    refine map_append_fresh unheld (fun l hl => by simpa using foreign l (List.mem_cons_of_mem _ hl)) fun l hl => ?_
    obtain ⟨p, k, bars, rfl⟩ := enters.entry l hl
    exact decide_eq_true rfl
  · rw [← placed]
    exact enters.entry
  · intro n
    refine (frames n).trans ?_
    rw [slices_b, taken.frames]

end Fresh

end One

/-! ### DISPATCH -/

theorem Dispatched.pooled {s t : State} {g : Graph} {m : Mould} {c : Candidate} {i x : Nat} {plan : Plan} {fs : List (Nat × Nat × BitVec 256)}
    {new : List Ladle} (d : Dispatched s t g m c i x plan fs new) (h : FMap (List Head)) (o : FMap Nat) :
    Dispatched s (pooled t h o) g m c i x plan fs new :=
  ⟨d.mem, d.last, d.me, d.graphs, d.castings, d.rest, d.count, d.entry, d.frames⟩

theorem Dispatched.of_pooled {s t : State} {h : FMap (List Head)} {o : FMap Nat} {g : Graph} {m : Mould} {c : Candidate} {i x : Nat} {plan : Plan}
    {fs : List (Nat × Nat × BitVec 256)} {new : List Ladle} (d : Dispatched (DispatchEvents.pooled s h o) t g m c i x plan fs new) :
    Dispatched s t g m c i x plan fs new :=
  ⟨d.mem, d.last, d.me, d.graphs, d.castings, d.rest, d.count, d.entry, d.frames⟩

theorem takenFrom_keeps (u mould i : Nat) (h : Graph) :
    (takenFrom u mould i h).uid = h.uid ∧ (takenFrom u mould i h).part = h.part ∧ (takenFrom u mould i h).dead = h.dead := by
  unfold takenFrom
  split <;> exact ⟨rfl, rfl, rfl⟩

section Pool
variable {s t : State} {p k i x : Nat} {g : Graph} {m : Mould} {c : Candidate} {plan : Plan} {fs : List (Nat × Nat × BitVec 256)} {new : List Ladle}

/-- A graph that may still commit does not end. -/
theorem endGraph_alive (d : Dispatched s t g m c i x plan fs new) (known : s.graph? g.uid = some g) (alive : g.dead = false) :
    t.endGraph g.uid = t := by
  have uids : (fun h : Graph => (takenFrom g.uid c.mould i h).uid == g.uid) = fun h => h.uid == g.uid :=
    funext fun h => by rw [(takenFrom_keeps _ _ _ h).1]
  have found : t.graph? g.uid = some (takenFrom g.uid c.mould i g) := by
    unfold State.graph? at *
    rw [d.graphs, List.find?_map]
    show (s.graphs.find? fun h => (takenFrom g.uid c.mould i h).uid == g.uid).map _ = _
    rw [uids, known]
    rfl
  unfold State.endGraph
  rw [found]
  simp only [(takenFrom_keeps _ _ _ g).2.2, alive, Bool.false_and, Bool.false_eq_true, if_false]

/-- Another partition has nothing to dispatch. -/
theorem headOf_other (d : Dispatched s t g m c i x plan fs new) (part : g.part = p) (graphs : ∀ h ∈ s.graphs, h.part = p)
    (castings : ∀ d ∈ s.castings, d.part = p) {q : Nat} (other : q ≠ p) (k : Nat) : t.headOf q k = none := by
  have noGraph : t.graphs.filter (fun h => decide (h.part = q)) = [] := by
    rw [d.graphs, List.filter_eq_nil_iff]
    intro h hh
    obtain ⟨b, hb, rfl⟩ := List.mem_map.mp hh
    rw [(takenFrom_keeps _ _ _ b).2.1, graphs b hb]
    simpa using Ne.symm other
  have noCasting : t.castings.filter (fun d => decide (d.part = q)) = [] := by
    rw [d.castings, List.filter_eq_nil_iff]
    intro b hb
    have mine : b.part = p := by
      rcases List.mem_append.mp hb with hb | hb
      · exact castings b hb
      · rw [List.mem_singleton.mp hb]
        exact part
    simpa [mine] using Ne.symm other
  unfold State.headOf State.candidates
  rw [noGraph, noCasting]
  rfl

/-- The slot of the pool with one fresh casting to dispatch. -/
theorem exec_dispatch_one {l : FMap (BitVec 256)} (hk : k < 16) (open_ : s.dispatchHeld p = false)
    (above : ∀ j < 16, k < j → s.headOf p j = none ∧ ∀ h ∈ s.headsOf p j, s.stops h = false) (head : s.headOf p k = some c)
    (fresh : c.group = .fresh g.uid c.mould [i]) (mould : s.groupMould c = some (g, m)) (part : g.part = p) (alive : g.dead = false)
    (single : m.gang = false) (known : s.graph? g.uid = some g)
    (cluster : s.chooseOwners.findCluster p m c.group = some (x, [plan])) (fate : s.rangeFate g m i = .tiles l)
    (room : s.canReserve (s.framesFor l) = true) (quiet : s.quiet = true) (none_ : NoReplicas s) (graphs : ∀ h ∈ s.graphs, h.part = p)
    (castings : ∀ d ∈ s.castings, d.part = p) (apart : ∀ d ∈ s.castings, d.uid ≠ s.nextUid) (foreign : ∀ d ∈ s.ladles, d.casting ≠ s.nextUid)
    (free : ∀ d ∈ s.gangs, d.graph ≠ g.uid) :
    ∃ t new, exec (.dispatch p) s = .next t ∧ Dispatched s t g m c i x plan (s.framesFor l) new := by
  obtain ⟨o, chosen⟩ := chooseOwners_frame s
  obtain ⟨h, noted⟩ := noteHeads_eq (pooled s s.heads o) p
  let z := pooled s h o
  have noted : (pooled s s.heads o).noteHeads p = z := noted
  have stops : ∀ j, j < 16 → z.headStops p j = (s.headsOf p j).any s.stops := fun j hj => by
    rw [← noted]
    exact headStops_noted (pooled s s.heads o) p hj
  have new := dispatchNew_one (s := z) (x := x) (plan := plan) (l := l) fresh
    (by rw [part, ← cluster, chosen]; exact findCluster_pooled s h o p m c.group) ((rangeFate_pooled s h o g m i).trans fate) single room
  have taken := takenState_taken (s := z) (m := m) fresh
  obtain ⟨ladles, made⟩ := dispatchOne_dispatched (s := z) (m := m) (x := x) (plan := plan) apart foreign free quiet none_ taken
    ((takenState z g m c i).framesFor l)
  rw [taken.homes] at made new
  rw [endGraph_alive made known alive] at new
  generalize (takenState z g m c i).dispatchOne g m x (takenCasting z g c i) plan (z.framesFor l) = u at made new
  have made : Dispatched s u g m c i x plan (s.framesFor l) ladles := made.of_pooled
  have slot : (pooled s s.heads o).dispatchFor p = u := by
    obtain ⟨hi, lo, split, above_k⟩ := range_reverse_split hk
    unfold State.dispatchFor
    simp only [noted]
    rw [if_neg (by rw [dispatchHeld_pooled, open_]; exact Bool.false_ne_true), split, dispatchWalk_passes fun j hj => ?_]
    · exact dispatchWalk_fresh head fresh mould new
    · obtain ⟨hj, hkj⟩ := above_k j hj
      obtain ⟨empty, calm⟩ := above j hj hkj
      exact ⟨empty, (stops j hj).trans (List.any_eq_false.mpr fun y hy => by rw [calm y hy]; exact Bool.false_ne_true)⟩
  obtain ⟨h', others⟩ := poolWalk_of_none (s := u) (l := (List.range 24).filter (· != p)) fun q hq k _ =>
    headOf_other made part graphs castings (by simpa using (List.mem_filter.mp hq).2) k
  refine ⟨_, ladles, ?_, made.pooled h' u.owners⟩
  rw [exec_dispatch, chosen, slot, others]

end Pool

section Result
variable {s t : State} {g : Graph} {m : Mould} {c : Candidate} {i x : Nat} {plan : Plan} {fs : List (Nat × Nat × BitVec 256)} {new : List Ladle}

theorem graph?_of_groupMould (h : s.groupMould c = some (g, m)) : s.graph? c.graph = some g := by
  unfold State.groupMould at h
  split at h
  next f found =>
    obtain ⟨m', -, e⟩ := Option.map_eq_some_iff.mp h
    cases e
    exact found
  next => cases h

/-- A ladle of the new casting, as the pool leaves it. -/
theorem entered_of_mem (d : Dispatched s t g m c i x plan fs new) {l : Ladle} (hl : l ∈ new) :
    ∃ p u b, unheld l = entered g m (placedCasting s g c i x plan) plan.placement u p b := by
  obtain ⟨p, u, b, rfl⟩ := d.entry l hl
  exact ⟨p, u, b, rfl⟩

/-- The ladles of the new casting are those that have entered. -/
theorem rest_filter (d : Dispatched s t g m c i x plan fs new) (foreign : ∀ d ∈ s.ladles, d.casting ≠ s.nextUid) :
    t.rest.filter (fun d => decide (d.casting = s.nextUid)) = new.map unheld := by
  rw [d.rest, List.filter_append, List.filter_eq_nil_iff.mpr, List.nil_append, List.filter_eq_self]
  · intro l hl
    obtain ⟨b, hb, rfl⟩ := List.mem_map.mp hl
    obtain ⟨p, u, y, e⟩ := entered_of_mem d hb
    rw [e]
    exact decide_eq_true rfl
  · intro l hl
    simpa using foreign l (List.mem_cons_of_mem _ hl)

end Result

/-- Settles O43: a dispatch by the walk to its head, a reservation by the slice that takes its part, a completion by whether it takes its
number. -/
theorem dispatchEvents : Obligations.DispatchEvents := by
  unfold Obligations.DispatchEvents
  intro s p
  refine ⟨fun none_ => ?nothing, ?one, fun c only => ⟨fun nil => exec_versionReservation_nil only nil, fun n tile bytes rest first => ?reserve,
    fun still => ?still, fun complete => ?complete⟩⟩
  case nothing =>
    obtain ⟨h, o, e⟩ := exec_dispatch_of_none none_
    exact ⟨_, e, rfl⟩
  case one =>
    intro k g m x plan l i c hk open_ above head fresh mould part uid single alive cluster fate room quiet none_ graphs castings apart foreign free
    have known : s.graph? g.uid = some g := uid ▸ graph?_of_groupMould mould
    obtain ⟨t, new, e, d⟩ := exec_dispatch_one hk open_ above head fresh mould part alive single known cluster fate room quiet none_ graphs castings
      apart foreign free
    refine ⟨t, e, d.mem, d.last, ⟨placedCasting s g c i x plan, by rw [d.castings]; simp, rfl, rfl, rfl, rfl, part, ⟨rfl, rfl, rfl⟩, rfl, rfl⟩,
      fun y hy => by rw [d.castings]; exact List.mem_append_left _ hy, d.me, fun y hy => by rw [d.rest]; exact List.mem_append_left _ hy,
      ?_, fun y hy mine => ?_, d.frames⟩
    · rw [rest_filter d foreign, List.length_map, d.count]
    · have hy : y ∈ new.map unheld := by
        rw [← rest_filter d foreign]
        exact List.mem_filter.mpr ⟨hy, decide_eq_true mine⟩
      obtain ⟨z, hz, rfl⟩ := List.mem_map.mp hy
      obtain ⟨spot, u, b, e⟩ := entered_of_mem d hz
      rw [e]
      exact ⟨rfl, rfl, rfl, rfl, entered_atEntry g m (placedCasting s g c i x plan) plan.placement u spot b⟩
  case reserve =>
    refine ⟨fun waits => exec_versionReservation_idle only first waits, fun takes none_ => ⟨_, exec_versionReservation_taken only first takes, ?_⟩⟩
    obtain ⟨mem, is_, frames, started, waiting⟩ := afterTaking_spec (n := n) only none_
    have left : c.reservation.filter (fun e => e.1 != n) = rest.filter (fun e => e.1 != n) := by
      rw [first, List.filter_cons_of_neg (by simp)]
    rw [left] at is_ started waiting
    refine ⟨mem, is_, frames, fun all free mine => started ?_ free mine, fun more => waiting ?_⟩
    · rw [List.filter_eq_nil_iff]
      intro e he
      simpa using List.all_eq_true.mp all e he
    · obtain ⟨e, he, apart⟩ := List.any_eq_true.mp more
      exact List.ne_nil_of_mem (List.mem_filter.mpr ⟨he, apart⟩)
  case still =>
    rw [Idles, exec_castingComplete only, still]
    rfl
  case complete =>
    have finished := completeCasting_finished only
    have act : exec (.castingComplete c.uid) s = .next ((s.completeCasting c).assignCommit (completed s c)) := by
      rw [exec_castingComplete only, complete, if_pos rfl]
    refine ⟨fun may => ?_, fun may some_ => ?_, fun may none_ => ?_⟩
    · exact ⟨_, act.trans (by rw [assignCommit_waits may]), finished.mem, finished.me, finished.slices, finished.here, finished.rest, finished.next,
        finished.last⟩
    · refine ⟨numberGiven s (s.completeCasting c) c, act.trans (congrArg _ ((assignCommit_takes finished may).trans (if_neg ?_))), finished.mem,
        finished.me, finished.slices, numberedCasting_mem finished, finished.rest, rfl, rfl⟩
      simpa using some_
    · obtain ⟨next, last, gone⟩ := commitCasting_gone s (s.completeCasting c) c
      refine ⟨_, act.trans (congrArg _ ((assignCommit_takes finished may).trans (if_pos ?_))), ⟨next, last⟩, gone⟩
      simpa using none_

end Sys2Proof.DispatchEvents

/-!
PROOF. O57: words worked out in the spec (R50).
-/

namespace Sys2Proof.SpecWords

open Sys2Proof.Machine Sys2Proof.Spec

/-- Settles O57: each word is decoded. -/
theorem wordsOfTheSpec : Obligations.WordsOfTheSpec := by
  unfold Obligations.WordsOfTheSpec
  decide

end Sys2Proof.SpecWords

/-!
PROOF. How a long access completes whose requests wait for their slots (R56, R61, R141), for the statements of the loads and of `amax`.
-/

namespace Sys2Proof.OnTheWay

open Sys2Proof.Machine Sys2Proof.Spec

variable {s : State}

theorem longValue_of_room (few : s.me.pend.length < 16) (room : s.valuesFull = false) (f : State → State) : s.longValue f = f s :=
  if_neg (by simp [Nat.not_le.2 few, room])

theorem queueValue_off {l : Ladle} (off : l.shadow = none) (pend : Option Nat) (vals : List Word64) : l.queueValue pend vals = l := by
  cases l
  simp_all [Ladle.queueValue]

theorem holdBack_off (off : s.me.shadow = none) (outward : Bool) (rs : List Req) : s.holdBack outward rs = (s, rs) := by
  simp [State.holdBack, State.shadowed, off]

theorem noteScratch_castings (s : State) (casting : Nat) (rs : List Req) : ∃ cs, s.noteScratch casting rs = { s with castings := cs } := by
  unfold State.noteScratch
  simp only
  split
  · exact ⟨s.castings, rfl⟩
  · exact ⟨_, rfl⟩

/-- Where requests wait, none is granted in the step that sends it (log 5). -/
theorem submit_held (hold : s.hold = true) (id : Nat) : s.submit id = s := by
  unfold State.submit
  split
  · simp [State.atOnce, hold]
  · rfl

theorem submitAll_held (hold : s.hold = true) (rs : List Req) :
    s.submitAll rs = { s with requests := s.requests ++ numbered s rs, nextReq := s.nextReq + rs.length } := by
  have waits : ∀ (ids : List Nat) (u : State), u.hold = true → ids.foldl State.submit u = u := by
    intro ids
    induction ids with
    | nil => exact fun _ _ => rfl
    | cons id ids ih => exact fun u h => by rw [List.foldl_cons, submit_held h, ih u h]
  exact waits _ _ hold

/-- A long result whose requests have been sent: it waits for the data of each (R61, R144). -/
def awaiting (s : State) (p : Pending) (rs : List Req) : Pending :=
  { p with missing := rs.length, first := s.nextReq, groups := if p.globalLoad then s.number rs else [] }

/-- What an access of a ladle with nothing pending does before its requests are sent. -/
theorem done_awaiting (off : s.me.shadow = none) (empty : s.me.pend = []) (id : Nat) (q : Pending) :
    s.done (fun l => { l.queueValue (some id) [] with pend := l.pend ++ [q], nextPend := l.nextPend + 1 }) =
      s.mapMe (fun l => l.withPending q) := by
  have sent : s.me.issued.pend = [] := by simp [Ladle.issued, empty]
  simp only [State.done, State.mapMe, queueValue_off (l := s.me.issued) off, sent]
  rfl

/-- A long access of a ladle with nothing pending, where requests wait: its result waits for their data, and they are under way. -/
theorem issueRequests_held (hold : s.hold = true) (off : s.me.shadow = none) (empty : s.me.pend = []) {outward : Bool} {p : Pending}
    {mk : Option Nat → List Req} (some_ : s.spread (mk (some p.id)) ≠ []) :
    ∃ cs, s.issueRequests outward p mk =
      { s with
        me := s.me.withPending (awaiting s p (s.spread (mk (some p.id)))),
        nextReq := s.nextReq + (s.spread (mk (some p.id))).length,
        requests := s.requests ++ numbered s (s.spread (mk (some p.id))), castings := cs } := by
  unfold State.issueRequests
  simp only [holdBack_off off, done_awaiting off empty]
  generalize s.spread (mk (some p.id)) = rs at some_ ⊢
  obtain ⟨cs, noted⟩ := noteScratch_castings (s.mapMe (fun l => l.withPending (awaiting s p rs))) s.me.casting rs
  have sent := submitAll_held (s := (s.mapMe (fun l => l.withPending (awaiting s p rs))).noteScratch s.me.casting rs)
    (by rw [noted]; exact hold) rs
  refine ⟨cs, (congrArg State.settle (sent.trans (by rw [noted]; rfl))).trans (LadleEvents.settle_of_calm fun q hq => ?_)⟩
  obtain rfl : q = awaiting s p rs := by simpa [Ladle.withPending] using hq
  simp [Ladle.landable, Pending.lands, awaiting, some_]

theorem onItsWay_of_exec {i : Instr} {outward : Bool} {p : Pending} {mk : Option Nat → List Req}
    (act : exec i s = .next (s.issueRequests outward p mk))
    (hold : s.hold = true) (off : s.me.shadow = none) (empty : s.me.pend = []) (sound : p.fault = none) (here : p.pc = s.me.sp.pc) :
    OnItsWay i s p (s.spread (mk (some p.id))) := by
  intro some_
  obtain ⟨cs, sent⟩ := issueRequests_held (outward := outward) hold off empty some_
  refine ⟨_, act.trans (congrArg _ sent), rfl, ⟨fun _ => rfl, fun a => ?_⟩, awaiting s p _, rfl, rfl, rfl, here, rfl, sound,
    Ladle.withPending_eq _ _⟩
  simp [Ladle.withPending]

end Sys2Proof.OnTheWay

/-!
PROOF. O22 fails, for `ldgs` alone. The statement makes its pending result that of a global load (`globalPending s (.lane d) n k true`); the model's
`execLdgs` makes it with the mark off. The mark is what demand-miss notifications (R161) and the tile groups of a save (R144, R171) go by, and
those rules name `ldg`, `ldg2` and `sld`, and not the synchronising load. The two results differ as long as the result waits: here while its one
request waits for its slot.
-/

namespace Sys2Proof.SyncLoads

open Sys2Proof.Machine Sys2Proof.Spec Sys2Proof.OnTheWay

/-- A lane load whose word is legal, with room for its result and its value, and whose checks answer its requests. -/
theorem laneLoad_of_ok {s : State} {regs : List (BitVec 6)} {k : BitVec 3} {mk : Ladle → List Nat → Except Stop (Option Nat → List Req)}
    {reqs : Option Nat → List Req} (legal : Legal s.me regs) (few : s.me.pend.length < 16) (room : s.valuesFull = false)
    (some_ : s.me.accessLanes k ≠ 0) (made : mk s.me (bitsSet (s.me.accessLanes k) 32) = .ok reqs) (dest : Dest) (n : BitVec 4) (g : Bool) :
    s.laneLoad regs k dest n g mk = s.issueRequests false (globalPending s dest n k g) reqs := by
  unfold State.laneLoad
  rw [s.laneWord_legal regs _ legal.1 legal.2, longValue_of_room few room]
  simp only [if_neg some_, made]
  rfl

/-- The mark of the result that waits for the requests of an access. -/
theorem globalLoad_of_held {s : State} (hold : s.hold = true) (off : s.me.shadow = none) (empty : s.me.pend = []) {p : Pending}
    {mk : Option Nat → List Req} (some_ : s.spread (mk (some p.id)) ≠ []) :
    (s.issueRequests false p mk).me.pend.map Pending.globalLoad = [p.globalLoad] := by
  obtain ⟨cs, sent⟩ := issueRequests_held (outward := false) hold off empty some_
  rw [sent]
  simp [Ladle.withPending, awaiting]

/-- A ladle on a vector core polls the word at address 0x10000 with every lane, in a page that its cluster has cached, where requests wait for
their slots. The partition's window takes the first 2^30 bytes of HBM. -/
def polling : State :=
  ({ State.reset with
      me := Ladle.idle.setS 0 0x10000, hold := true,
      tlb := [{ cluster := 0, part := 0, base := 0, log := 30, pa := 0, fmt := 0, rpl := false, x := true, w := true, r := true }] } : State).setReg
    0xb01 0x40000000

/-- The requests of the load for the operands that its checks have found. -/
def pollRequests (ops : List GlobalOp) (pend : Option Nat) : List Req :=
  polling.globalReqs polling.me.who .syncLoad ((polling.me.getS 0).getLsbD 63) pend ops

/-- Its checks pass, and it has a request to send. -/
theorem polling_checks :
    ∃ ops, polling.rawOps polling.me .read false 2 0 0 4 (fun _ => 0) (fun _ => 0) (bitsSet (polling.me.accessLanes 0) 32) = .ok ops ∧
      polling.spread (pollRequests ops (some polling.me.nextPend)) ≠ [] := by
  have evaluated : (polling.rawOps polling.me .read false 2 0 0 4 (fun _ => 0) (fun _ => 0) (bitsSet (polling.me.accessLanes 0) 32)).toOption.any
      (fun ops => !(polling.spread (pollRequests ops (some polling.me.nextPend))).isEmpty) = true := by decide +kernel
  generalize polling.rawOps _ _ _ _ _ _ _ _ _ _ = r at evaluated ⊢
  cases r with
  | error e => exact absurd evaluated Bool.false_ne_true
  | ok ops => exact ⟨ops, rfl, by simpa [Except.toOption] using evaluated⟩

/-- Refutes O22: the result of `ldgs` waits without the mark of a global load. -/
theorem not_loadWords : ¬ Obligations.LoadWords := by
  unfold Obligations.LoadWords
  intro h
  obtain ⟨-, -, -, -, ldgs, -⟩ := h polling 0 0 1 2 0 0 0 0 (by decide) (by decide)
  obtain ⟨ops, ok, some_⟩ := polling_checks
  have legal : Legal polling.me [2, 1] := ⟨by decide, .inr (by decide)⟩
  have lanes : polling.me.accessLanes 0 ≠ 0 := by decide
  have stated : exec (.ldgs 0 0 1 2 0 0) polling =
      .next (polling.issueRequests false (globalPending polling (.lane 1) 0 0 true) (pollRequests ops)) :=
    ((ldgs legal).2 lanes).1 ops ok
  have model : exec (.ldgs 0 0 1 2 0 0) polling =
      .next (polling.issueRequests false (globalPending polling (.lane 1) 0 0 false) (pollRequests ops)) :=
    congrArg Host.Outcome.next (laneLoad_of_ok legal (by decide) (by decide) lanes (congrArg (Except.map _) ok) (.lane 1) 0 false)
  have same := congrArg (fun t => t.me.pend.map Pending.globalLoad) (Host.Outcome.next.inj (model.symm.trans stated))
  rw [globalLoad_of_held rfl rfl rfl some_, globalLoad_of_held rfl rfl rfl some_] at same
  exact absurd same (by decide)

end Sys2Proof.SyncLoads

/-!
PROOF. O31: matrix and residue words at issue (R49, R270, R288 to R303).
Every word that does nothing but join the queue acts through `State.enqueue` (`queuesWord_of_exec`); `mbatch` and `mwait` pass the same two
checks and then join it too (`joins_of_exec`).
-/

namespace Sys2Proof.MatrixIssue

open Sys2Proof.Machine Sys2Proof.Spec Sys2Proof.Completion Sys2Proof.OnTheWay

/-! ### The matrix state of a cluster -/

theorem mat_modMat_self (s : State) (c : Nat) (f : Matrix → Matrix) : (s.modMat c f).mat c = f (s.mat c) := FMap.get_set_self _ _ _ _

theorem mat_modMat_other (s : State) {c d : Nat} (f : Matrix → Matrix) (h : d ≠ c) : (s.modMat c f).mat d = s.mat d :=
  FMap.get_set_other _ _ _ (Ne.symm h)

/-! ### The two checks of a control core's word (R49, R288) -/

section Checks
variable {s : State} {f : State → State}

theorem controlWord_vector (h : s.me.control = false) : s.controlWord f = s.castFault .illegal := if_neg (by simp [h])

theorem checks_full (h : s.me.control = true) (full : 32 ≤ (s.mat s.me.cluster).queue.length) :
    s.controlWord (fun s => s.queueRoom f) = s := (if_pos h).trans (if_pos full)

theorem checks_room (h : s.me.control = true) (room : (s.mat s.me.cluster).queue.length < 32) :
    s.controlWord (fun s => s.queueRoom f) = f s := (if_pos h).trans (if_neg (Nat.not_le.2 room))

end Checks

/-! ### Joining the queue (R270) -/

section Joining
variable {s : State} {i : Instr} {addr x y : Word64}

/-- The new entry is the last of the open batch. -/
theorem mat_joinQueue_self : (s.joinQueue i addr x y).mat s.me.cluster =
    { s.mat s.me.cluster with
      opened := (s.mat s.me.cluster).opened + 1,
      queue := (s.mat s.me.cluster).queue ++
        [{ instr := i, addr := addr, src1 := x, src2 := y, pc := s.me.sp.pc, batch := (s.mat s.me.cluster).closed + 1, started := false,
           steps := 0, after := s.nextReq, add := s.me.addressAdd }] } := FMap.get_set_self _ _ _ _

theorem mat_joinQueue_other {c : Nat} (h : c ≠ s.me.cluster) : (s.joinQueue i addr x y).mat c = s.mat c :=
  FMap.get_set_other _ _ _ (Ne.symm h)

/-- A word joins the queue where its step leaves the ladle `me` and, of what else the package has, only the matrix state and the count of
requests changed: the cluster's as `f` makes it of the state with the new entry. -/
theorem joins_of_exec {u : State} {me : Ladle} {f : Matrix → Matrix} (act : exec i s = .next { u with me := me })
    (frame : u = { s with matrix := u.matrix, nextReq := s.nextReq + 1 })
    (here : u.mat s.me.cluster = f ((s.joinQueue i addr x y).mat s.me.cluster)) (others : ∀ c, c ≠ s.me.cluster → u.mat c = s.mat c) :
    Joins i s addr x y me f := by
  exact ⟨_, act, congrArg (fun v : State => { v with me := me }) frame, others, here.trans (congrArg f mat_joinQueue_self)⟩

/-- The same for a word that does nothing more to the matrix state. -/
theorem joins_of_join {me : Ladle} (act : exec i s = .next { s.joinQueue i addr x y with me := me }) : Joins i s addr x y me id :=
  joins_of_exec act rfl rfl fun _ h => mat_joinQueue_other h

theorem queuesWord_of_exec (act : exec i s = s.enqueue i addr x y) : QueuesWord i s addr x y := by
  unfold State.enqueue at act
  refine ⟨fun vector => ?_, fun control full => ?_, fun control room => ?_⟩
  · exact act.trans (congrArg _ (controlWord_vector vector))
  · exact act.trans (congrArg _ (checks_full control full))
  · exact joins_of_join (act.trans (congrArg _ (checks_room control room)))

end Joining

/-! ### Batches (R300, R301) -/

section Batches
variable {s : State} (control : s.me.control = true) (room : (s.mat s.me.cluster).queue.length < 32) (a : BitVec 6)
include control room

theorem mbatch_joins (free : (s.mat s.me.cluster).closed + 1 < 2 ^ 48) :
    Joins (.mbatch a) s 0 0 0 (s.me.issued.setS a (BitVec.ofNat 64 ((s.mat s.me.cluster).closed + 1))).advance
      (fun q => { q with closed := (s.mat s.me.cluster).closed + 1, opened := 0 }) := by
  refine joins_of_exec (u := (s.joinQueue (.mbatch a) 0 0 0).modMat s.me.cluster
      (fun q => { q with closed := (s.mat s.me.cluster).closed + 1, opened := 0 }))
    ((congrArg _ (checks_room control room)).trans (congrArg _ (if_neg (by omega)))) rfl (mat_modMat_self _ _ _) fun c h => ?_
  exact (mat_modMat_other _ _ h).trans (mat_joinQueue_other h)

theorem mbatch_last (last : (s.mat s.me.cluster).closed + 1 = 2 ^ 48) : Faults (.mbatch a) s .illegal :=
  (congrArg _ (checks_room control room)).trans (congrArg _ (if_pos (by omega)))

/-- `mwait` with its windows closed. -/
theorem exec_mwait (settled : Settled s) : exec (.mwait a) s = .next (
    if (s.mat s.me.cluster).closed < (s.me.getS a).toNat ∨ 2 ^ 48 ≤ (s.me.getS a).toNat then s.castFault .illegal
    else if (s.me.getS a).toNat ≤ (s.mat s.me.cluster).completed then (s.joinQueue (.mwait a) 0 (s.me.getS a) 0).done (fun l => l)
    else ((s.joinQueue (.mwait a) 0 (s.me.getS a) 0).mapMe Ladle.issued).blockMe (.mwait (s.me.getS a).toNat)) :=
  (congrArg _ (checks_room control room)).trans (congrArg _ (closing_of_settled settled _))

end Batches

/-! ### amax (R241, R303) -/

section Amax
variable {s : State} {clear : Bool} {i : Instr} {d a : BitVec 6} {n : BitVec 4} (few : s.me.pend.length < 16) (values : s.valuesFull = false)
  (act : exec i s = .next (s.amaxLong clear d a n))

/-- The one request of `amax`. -/
def amaxRequest (s : State) (clear : Bool) (a : BitVec 6) (pend : Option Nat) : Req :=
  { id := 0, who := s.me.who, kind := .amaxRead clear, place := .amax (s.me.part * 128 + (s.me.getS a).toNat), tile := 0, bypass := false,
    replica := false, rpl := false, pend := pend, ops := [], held := false }

include few values act

theorem amax_sends (low : (s.me.getS a).toNat ≤ 127) :
    Sends i s clear (s.me.newPending (.uniform d) n 1#32 [0, 0]) (fun pend => [amaxRequest s clear a pend]) := by
  rw [State.amaxLong, State.uniformLong, longValue_of_room few values] at act
  simp only [if_neg (Nat.not_lt.2 low)] at act
  exact act

theorem amax_onItsWay (low : (s.me.getS a).toNat ≤ 127) (hold : s.hold = true) (off : s.me.shadow = none) (empty : s.me.pend = []) :
    OnItsWay i s (s.me.newPending (.uniform d) n 1#32 [0, 0]) [amaxRequest s clear a (some s.me.nextPend)] := by
  have way := onItsWay_of_exec (amax_sends few values act low) hold off empty rfl rfl
  have whole : ∀ r : Req, r.place = .amax (s.me.part * 128 + (s.me.getS a).toNat) → s.spread [r] = [r] := fun r at_ => by
    simp [State.spread, hold, Req.bySector, Place.isPad, at_]
  rwa [whole _ rfl] at way

theorem amax_beyond (high : 127 < (s.me.getS a).toNat) :
    exec i s = .next (s.issueLong { s.me.newPending (.uniform d) n 1#32 [0, 0] with fault := some .address }) := by
  rw [State.amaxLong, State.uniformLong, longValue_of_room few values] at act
  simp only [if_pos high] at act
  exact act

end Amax

/-- `amax.clr` is an outward operation: it needs room in the comparison buffer too. -/
theorem exec_amaxClr {s : State} (room : s.shadowFull = false) (d a : BitVec 6) (n : BitVec 4) :
    exec (.amaxClr d a n) s = .next (s.amaxLong true d a n) := congrArg _ (if_neg (by simp [room]))

/-- Settles O31, by what each word does after the two checks of a control core. -/
theorem matrixWords : Obligations.MatrixWords := by
  unfold Obligations.MatrixWords
  intro s z k sc a b d p t g e n l at_ x m room i y ask result
  have queues : ∀ {w : Instr} {addr x y : Word64}, exec w s = s.enqueue w addr x y → QueuesWord w s addr x y := queuesWord_of_exec
  refine ⟨queues rfl, queues rfl, queues rfl, queues rfl, queues rfl, queues rfl, queues rfl, queues rfl, queues rfl, queues rfl, queues rfl,
    queues rfl, queues rfl, fun ⟨control, few⟩ free => mbatch_joins control few a free,
    fun ⟨control, few⟩ last => mbatch_last control few a last,
    fun ⟨control, few⟩ settled open_ => ?notClosed, fun ⟨control, few⟩ settled closed short done => ?goesOn,
    fun ⟨control, few⟩ settled closed short waits => ?blocks, fun control full => ⟨?_, ?_⟩, fun vector => ⟨?_, ?_⟩,
    fun few values compares => ?amax⟩
  case notClosed => exact (exec_mwait control few a settled).trans (congrArg _ (if_pos (.inl open_)))
  case goesOn =>
    have small := not_or.2 ⟨Nat.not_lt.2 closed, Nat.not_le.2 short⟩
    exact joins_of_join ((exec_mwait control few a settled).trans (congrArg _ ((if_neg small).trans (if_pos done))))
  case blocks =>
    have small := not_or.2 ⟨Nat.not_lt.2 closed, Nat.not_le.2 short⟩
    exact joins_of_join ((exec_mwait control few a settled).trans (congrArg _ ((if_neg small).trans (if_neg (Nat.not_le.2 waits)))))
  case amax =>
    have read : exec (.amax d a n) s = .next (s.amaxLong false d a n) := rfl
    have clear := exec_amaxClr compares d a n
    exact ⟨fun low => ⟨amax_sends few values read low, amax_sends few values clear low⟩,
      fun low hold off empty => ⟨amax_onItsWay few values read low hold off empty, amax_onItsWay few values clear low hold off empty⟩,
      fun high => ⟨amax_beyond few values read high, amax_beyond few values clear high⟩⟩
  · exact congrArg _ (checks_full control full)
  · exact congrArg _ (checks_full control full)
  · exact congrArg _ (controlWord_vector vector)
  · exact congrArg _ (controlWord_vector vector)

end Sys2Proof.MatrixIssue

/-!
PROOF. What taking an in-ladle trap does (R155 to R158, R160), by what stands in its way, for the statements of traps and of the long lane
instructions.
-/

namespace Sys2Proof.Trapping

open Sys2Proof.Machine Sys2Proof.Spec Sys2Proof.LadleEvents

variable {s : State} {cls code : Nat} {at_ : StopAt}

/-- Traps are masked, or no handler is set (R160). -/
theorem barred_iff (s : State) :
    (causeM s.me.tcause || decide (bitsOf s.me.tvec 56 2 = 0)) = true ↔ s.me.tcause.getLsbD 63 = true ∨ s.me.tvec.toNat / 4 % 2 ^ 55 = 0 := by
  rw [Bool.or_eq_true, decide_eq_true_iff, bitsOf_tvec]
  rfl

theorem takeTrap_unhandled (h : s.me.tcause.getLsbD 63 = true ∨ s.me.tvec.toNat / 4 % 2 ^ 55 = 0) :
    s.takeTrap cls code at_ = s.castFault .unhandledTrap := if_pos ((barred_iff s).2 h)

section Open
variable (unmasked : s.me.tcause.getLsbD 63 = false) (handler : s.me.tvec.toNat / 4 % 2 ^ 55 ≠ 0)
include unmasked handler

theorem not_barred : ¬ (causeM s.me.tcause || decide (bitsOf s.me.tvec 56 2 = 0)) = true := fun h =>
  ((barred_iff s).1 h).elim (fun masked => Bool.false_ne_true (unmasked.symm.trans masked)) handler

theorem takeTrap_enters (free : s.permitFree = true) : s.takeTrap cls code at_ = s.mapMe (fun l => l.enterHandler cls code at_) :=
  (if_neg (not_barred unmasked handler)).trans (if_pos free)

theorem takeTrap_refused (held : s.permitFree = false) :
    s.takeTrap cls code at_ = s.mapMe (fun l => { (l.block (.backoff l.backoff)).fillSlots with backoff := min (2 * l.backoff) 4096 }) :=
  (if_neg (not_barred unmasked handler)).trans (if_neg (by simp [held]))

end Open

theorem takeSlot_of_slot {l : Ladle} (h : l.sp.slot.isSome = true) : l.takeSlot = l := if_pos h

theorem causeWord_own (cls code : Nat) : causeWord cls code false 0 0 = BitVec.ofNat 64 (2 ^ 63 + cls % 32 * 2 ^ 56 + code % 8192) := by
  have hc : cls % 32 < 32 := Nat.mod_lt _ (by omega)
  unfold causeWord
  rw [show (0 : Word64) = BitVec.ofNat 64 0 from rfl, putBits_ofNat _ _ _ _ (by simp), putBits_ofNat _ _ _ _ (by simp),
    putBits_ofNat _ _ _ _ (by norm_num; omega), putBits_ofNat _ _ _ _ (by norm_num; omega),
    putBits_ofNat _ _ _ _ (by norm_num [bit]; omega), putBits_ofNat _ _ _ _ (by norm_num [bit]; omega)]
  norm_num [bit]

/-- The ladle of a trap at the instruction itself, in a split with a slot. -/
theorem handlerEntered_enterHandler {l : Ladle} (slot : l.sp.slot.isSome = true) (cls code : Nat) :
    HandlerEntered l (l.enterHandler cls code .own) cls code := by
  have entry : handlerAddress l.tvec = BitVec.ofNat 64 (l.tvec.toNat / 4 % 2 ^ 55 * 4) := by rw [handlerAddress, bitsOf_tvec]
  unfold HandlerEntered Ladle.enterHandler
  rw [takeSlot_of_slot slot]
  exact ⟨rfl, causeWord_own cls code, rfl, rfl, rfl, rfl, by simp only [entry], rfl, rfl, rfl, rfl⟩

/-- An instruction whose step takes a trap at its own address. -/
theorem traps_of_exec {i : Instr} (act : exec i s = .next (s.takeTrap cls code .own)) : Traps i s cls code := by
  refine ⟨fun ⟨unmasked, handler, free, slot⟩ => ?enters, fun barred => ?unhandled, fun unmasked handler held => ?refused⟩
  case enters =>
    exact ⟨_, act.trans (congrArg _ (takeTrap_enters unmasked handler free)), handlerEntered_enterHandler slot cls code⟩
  case unhandled => exact act.trans (congrArg _ (takeTrap_unhandled barred))
  case refused => exact act.trans (congrArg _ (takeTrap_refused unmasked handler held))

/-! ### Exceptions of the lanes (R76) -/

theorem toList_laneResults (lanes : Word32) (f : Nat → Word32 × Exc) :
    (laneResults lanes f).toList = (List.range 32).map (fun j => if lanes.getLsbD j then f j else (0, 0)) := by
  rw [laneResults, Vector.toList_ofFn, List.ofFn_eq_map, ← List.map_coe_finRange_eq_range, List.map_map]
  rfl

/-- The union over the results of a lane function is that of the exceptions that its lanes raise. -/
theorem resultExc_laneResults (lanes : Word32) (f : Nat → Word32 × Exc) : resultExc (laneResults lanes f) = unionExc lanes f := by
  have lane : ∀ (e : Exc) (j : Nat), e ||| (if lanes.getLsbD j then f j else (0, 0)).2 = if lanes.getLsbD j then e ||| (f j).2 else e := by
    intro e j
    split <;> simp
  rw [resultExc, toList_laneResults, List.foldl_map, unionExc]
  simp only [lane]

end Sys2Proof.Trapping

/-!
PROOF. O14: `trap`, `tsys` and arithmetic traps enter the handler; `tsys.tret` leaves it (R76, R155 to R158, R160, R162, R163).
-/

namespace Sys2Proof.Landing

open Sys2Proof.Machine Sys2Proof.Spec

/-! ### What a landing writes (R57, R58) -/

theorem getV_congr {l m : Ladle} (h : l.v = m.v) (r : BitVec 6) : l.getV r = m.getV r := congrArg (fun v => Vector.get v r.toFin) h

theorem getS_congr {l m : Ladle} (h : l.s = m.s) (r : BitVec 6) : l.getS r = m.getS r := congrArg (fun v => Vector.get v r.toFin) h

/-- A landing is seen in the lane and uniform registers alone. -/
theorem landed_congr {l l' m m' : Ladle} (v : l.v = m.v) (s : l.s = m.s) (v' : l'.v = m'.v) (s' : l'.s = m'.s) {dest : Dest} {lanes : Word32}
    {f : Nat → Word64} (h : Landed m m' dest lanes f) : Landed l l' dest lanes f := by
  unfold Landed at h ⊢
  simp only [LanesWritten, PairWritten, UniformWritten, getV_congr v, getV_congr v', getS_congr s, getS_congr s', v, s, v', s'] at h ⊢
  exact h

/-- A result is delivered to its own lane register, pair or uniform register. -/
theorem landed_deliver (l : Ladle) {p : Pending} (dest : ∃ d, p.dest = .lane d ∨ p.dest = .lanePair d ∨ p.dest = .uniform d) (lanes : Word32) :
    Landed l (l.deliver p lanes) p.dest lanes p.laneVal := by
  obtain ⟨d, lane | pair | uniform⟩ := dest
  · rw [Ladle.deliver, lane]
    exact ⟨⟨fun j hj => l.laneAt_setV_self _ _ _ hj, fun r hr => l.getV_setV_other _ _ hr⟩, rfl⟩
  · have apart : d ≠ d + 1 := fun h => by simp at h
    simp only [Landed, Ladle.deliver, pair, nextReg]
    refine ⟨⟨fun j hj => ?_, fun j hj => ?_, fun r low high => ?_⟩, rfl⟩
    · rw [Ladle.getV_setV_other _ _ _ apart, Ladle.laneAt_setV_self _ _ _ _ hj]
    · rw [← Ladle.getV_setV_other l lanes (fun j => (p.laneVal j).setWidth 32) (Ne.symm apart)]
      exact Ladle.laneAt_setV_self _ _ _ _ hj
    · exact (Ladle.getV_setV_other _ _ _ high).trans (l.getV_setV_other _ _ low)
  · rw [Ladle.deliver, uniform]
    exact ⟨⟨l.getS_setS_self d _, fun r hr => l.getS_setS_other _ hr⟩, rfl⟩

/-- Besides its destination a landing changes the flags, the pending results and the shadow's queue. -/
theorem landed_frame (l : Ladle) (p : Pending) (all : Bool) :
    (l.landed p all).v = (l.deliver p (p.dueLanes all)).v ∧ (l.landed p all).s = (l.deliver p (p.dueLanes all)).s ∧
    (l.landed p all).sp = l.sp ∧ (l.landed p all).handlerActive = l.handlerActive ∧
    (l.landed p all).fmode = raiseFlags l.fmode p.exceptions ∧
    (l.landed p all).pend = if p.lanes &&& ~~~p.dueLanes all = 0 then l.pend.filter (fun q => q.id != p.id)
      else l.pend.map (fun q => if q.id = p.id then { q with lanes := p.lanes &&& ~~~p.dueLanes all, exceptions := 0 } else q) := by
  have delivered : ∀ lanes, (l.deliver p lanes).sp = l.sp ∧ (l.deliver p lanes).handlerActive = l.handlerActive ∧
      (l.deliver p lanes).fmode = l.fmode ∧ (l.deliver p lanes).pend = l.pend := fun lanes => by
    unfold Ladle.deliver
    split <;> exact ⟨rfl, rfl, rfl, rfl⟩
  obtain ⟨sp, handler, fmode, pend⟩ := delivered (p.dueLanes all)
  simp only [Ladle.landed]
  split <;> exact ⟨rfl, rfl, sp, handler, congrArg (raiseFlags · _) fmode, by simp only [Ladle.fillValue, pend]⟩

/-! ### Results that land without a stop -/

/-- A result that brings neither a fault nor a trap. -/
def Quiet (p : Pending) : Prop := p.fault = none ∧ p.traps = 0

theorem land_of_quiet {s : State} {p : Pending} (quiet : Quiet p) (all : Bool) : s.land p all = s.mapMe (fun l => l.landed p all) := by
  simp [State.land, quiet.1, quiet.2]

theorem quiet_landed {l : Ladle} {p : Pending} (all : Bool) (quiet : ∀ q ∈ l.pend, Quiet q) : ∀ q ∈ (l.landed p all).pend, Quiet q := by
  obtain ⟨-, -, -, -, -, pend⟩ := landed_frame l p all
  rw [pend]
  split
  · exact fun q hq => quiet q (List.mem_filter.1 hq).1
  · intro q hq
    obtain ⟨r, hr, rfl⟩ := List.mem_map.1 hq
    obtain ⟨sound, traps⟩ := quiet r hr
    split
    · exact ⟨sound, by simp [Pending.traps]⟩
    · exact ⟨sound, traps⟩

/-- Landings without a stop change the issuing ladle alone, and neither its split nor its handler. -/
theorem landDue_quiet (all : Bool) (n : Nat) (s : State) (quiet : ∀ p ∈ s.me.pend, Quiet p) :
    ∃ l, State.landDue all n s = { s with me := l } ∧ l.sp = s.me.sp ∧ l.handlerActive = s.me.handlerActive := by
  induction n generalizing s with
  | zero => exact ⟨s.me, rfl, rfl, rfl⟩
  | succ n ih =>
    unfold State.landDue
    split
    · unfold State.landOne
      split
      · exact ih s quiet
      next p found =>
        rw [land_of_quiet (quiet p (List.mem_of_find?_eq_some found))]
        obtain ⟨l, frame, sp, handler⟩ := ih (s.mapMe (fun l => l.landed p all)) (quiet_landed all quiet)
        obtain ⟨-, -, sp', handler', -⟩ := landed_frame s.me p all
        exact ⟨l, frame, sp.trans sp', handler.trans handler'⟩
    · exact ⟨s.me, rfl, rfl, rfl⟩

/-- The only pending result, every lane of which is due, lands as a whole. -/
theorem settle_whole {s : State} {p : Pending} (one : s.me.pend = [p]) (running : s.me.stopped = false) (come : p.missing = 0)
    (free : p.suspended = false) (quiet : Quiet p) (some_ : p.lanes ≠ 0) (due : p.dueLanes false = p.lanes) :
    s.settle = s.mapMe (fun l => l.landed p false) ∧ (s.me.landed p false).pend = [] := by
  have lands : s.me.landable false p = true := by
    simpa [Ladle.landable, Pending.lands, free, come, due, quiet.2] using some_
  have none_ : (s.me.landed p false).pend = [] := by
    obtain ⟨-, -, -, -, -, pend⟩ := landed_frame s.me p false
    rw [pend, due, if_pos (by simp), one]
    simp
  refine ⟨?_, none_⟩
  unfold State.settle State.landDue State.landOne
  simp only [one, List.any_cons, List.any_nil, lands, running, List.find?_cons, Bool.or_false, Bool.not_false, Bool.and_self, if_true,
    land_of_quiet quiet]
  exact State.landDue_nil _ _ _ none_

end Sys2Proof.Landing

namespace Sys2Proof.Returning

open Sys2Proof.Machine Sys2Proof.Spec Sys2Proof.Completion Sys2Proof.Trapping Sys2Proof.Landing

/-! ### Windows that a handler has suspended (R59, R61) -/

/-- With every pending result suspended an instruction that closes windows acts at once. -/
theorem closing_of_suspended {s : State} (running : Running s) (suspended : ∀ p ∈ s.me.pend, p.suspended = true) (f : State → State) :
    s.closing f = f s := by
  obtain ⟨goes, ready⟩ := running
  have data : s.me.dataOutstanding = false := by simpa [Ladle.dataOutstanding] using fun p hp free => absurd (suspended p hp) (by simp [free])
  have open_ : s.me.windowsOpen = false := by simpa [Ladle.windowsOpen] using suspended
  have nothing : s.me.pend.any (fun p => s.me.landable true p) = false := by
    simpa using fun p hp => by simp [Ladle.landable, Pending.lands, suspended p hp]
  have still : State.landDue true 64 s = s := by
    unfold State.landDue
    simp [nothing]
  simp [State.closing, data, still, goes, ready, open_]

/-! ### M, bit 63 of %tcause (R156) -/

theorem getLsbD_setCauseM (t : Word64) (m : Bool) {j : Nat} (h : j < 64) :
    (setCauseM t m).getLsbD j = if j = 63 then m else t.getLsbD j := by
  have field : ∀ v : Nat, (BitVec.ofNat 64 (v * 2 ^ 63)).getLsbD j = (decide (63 ≤ j) && v.testBit (j - 63)) := fun v => by
    rw [BitVec.getLsbD_ofNat, Nat.testBit_mul_two_pow, decide_eq_true h, Bool.true_and]
  simp only [setCauseM, putBits, BitVec.getLsbD_or, BitVec.getLsbD_and, BitVec.getLsbD_not, h, field, decide_true, Bool.true_and]
  by_cases top : j = 63
  · subst top
    cases m <;> simp [bit]
  · simp [top, show ¬ 63 ≤ j by omega]

/-! ### `tsys.tret` (R163) -/

/-- `tsys.tret` where nothing stands in the way of closing the windows. -/
theorem exec_tret {s : State} (running : Running s) (suspended : ∀ p ∈ s.me.pend, p.suspended = true) : exec .tsysTret s = .next (
    if s.me.handlerActive = false ∨ s.me.tpc.extractLsb' 0 2 ≠ 0 then s.castFault .illegal
    else (s.mapMe (fun l => l.issued.trapReturn)).settle) := congrArg _ (closing_of_suspended running suspended _)

section Return
variable {s : State} (running : Running s) (suspended : ∀ p ∈ s.me.pend, p.suspended = true)
include running suspended

theorem exec_tret_returns (active : s.me.handlerActive = true) (aligned : s.me.tpc.toNat % 4 = 0) :
    exec .tsysTret s = .next (s.mapMe (fun l => l.issued.trapReturn)).settle := by
  refine (exec_tret running suspended).trans (congrArg _ (if_neg ?_))
  simp [active, (Branching.low_bits_eq_zero_iff _).2 aligned]

theorem exec_tret_illegal (h : s.me.handlerActive = false ∨ s.me.tpc.toNat % 4 ≠ 0) : exec .tsysTret s = .next (s.castFault .illegal) := by
  refine (exec_tret running suspended).trans (congrArg _ (if_pos ?_))
  exact h.imp_right (mt (Branching.low_bits_eq_zero_iff _).1)

end Return

/-- The one suspended result of a ladle goes on when the handler is over. -/
theorem pend_trapReturn {l : Ladle} {p : Pending} (one : l.pend = [p]) (suspended : p.suspended = true) :
    l.issued.trapReturn.pend = [{ p with suspended := false }] := by
  have kept : l.issued.pend = [p] := by simp [Ladle.issued, one, suspended]
  change l.issued.pend.map _ = _
  rw [kept]
  rfl

section Resumed
variable {s : State} {p : Pending} (running : Running s) (one : s.me.pend = [p]) (suspended : p.suspended = true) (come : p.missing = 0)
  (sound : p.fault = none) (some_ : p.lanes ≠ 0) (calm : p.exceptions &&& p.enables = 0)
  (dest : ∃ d, p.dest = .lane d ∨ p.dest = .lanePair d ∨ p.dest = .uniform d) (deferred : s.me.deferred = false)
include one suspended

theorem quiet_resumed (sound : p.fault = none) (calm : p.exceptions &&& p.enables = 0) :
    ∀ q ∈ (s.mapMe (fun l => l.issued.trapReturn)).me.pend, Quiet q := by
  rw [State.mapMe_me, pend_trapReturn one suspended]
  intro q hq
  obtain rfl := List.mem_singleton.1 hq
  exact ⟨sound, calm⟩

include running come sound some_ calm dest deferred in
/-- A suspended result whose counts are 0 lands at the return. -/
theorem settle_resumed_due (due : ∀ j : Fin 32, p.counts[j] = 0) :
    let t := (s.mapMe (fun l => l.issued.trapReturn)).settle
    t.me.pend = [] ∧ Landed s.me t.me p.dest p.lanes p.laneVal ∧ t.me.fmode = flagged s.me.fmode p.exceptions := by
  let q : Pending := { p with suspended := false }
  have lanes : q.dueLanes false = q.lanes := Pending.dueLanes_zero q due
  have goes : s.me.issued.trapReturn.stopped = false := by
    change (s.me.stopped || s.me.deferred) = false
    rw [running.1, deferred, Bool.or_false]
  obtain ⟨lands, none_⟩ := settle_whole (s := s.mapMe (fun l => l.issued.trapReturn)) (p := q) (pend_trapReturn one suspended) goes come rfl
    ⟨sound, calm⟩ some_ lanes
  obtain ⟨v, u, -, -, fmode, -⟩ := landed_frame s.me.issued.trapReturn q false
  intro t
  have landed : t.me = s.me.issued.trapReturn.landed q false := congrArg State.me lands
  rw [landed]
  exact ⟨none_, landed_congr rfl rfl v u (lanes ▸ landed_deliver s.me.issued.trapReturn (p := q) dest _), fmode⟩

/-- One whose counts are not stays pending. -/
theorem settle_resumed_later (later : ∀ j : Fin 32, p.counts[j] ≠ 0) :
    (s.mapMe (fun l => l.issued.trapReturn)).settle = s.mapMe (fun l => l.issued.trapReturn) := by
  refine LadleEvents.settle_of_calm fun q hq => ?_
  rw [State.mapMe_me, pend_trapReturn one suspended] at hq
  obtain rfl := List.mem_singleton.1 hq
  simp [Ladle.landable, Pending.lands, Pending.dueLanes_later { p with suspended := false } later]

end Resumed

/-! ### The parts of the statement -/

/-- `trap` and `tsys` with their windows closed (R162). -/
theorem trap_words {s : State} (settled : Settled s) (c : BitVec 3) (d a : BitVec 6) (i : BitVec 13) :
    (trapTest c (s.me.getS a) (i.signExtend 64) = true → Traps (.trap c a i) s 1 i.toNat) ∧
    (¬ trapTest c (s.me.getS a) (i.signExtend 64) = true → Issues (.trap c a i) s (fun l => l = s.me.issued)) ∧
    Traps .tsysBkpt s 2 0 ∧
    Issues .tsysNop s (fun l => l = s.me.issued) ∧
    Issues (.tsysTmask d a) s (fun l =>
      UniformWritten s.me l d (if s.me.tcause.getLsbD 63 then 1 else 0) ∧
      l.tcause.getLsbD 63 = (s.me.getS a).getLsbD 0 ∧ (∀ j < 63, l.tcause.getLsbD j = s.me.tcause.getLsbD j) ∧
      l = { s.me.issued with s := l.s, tcause := l.tcause }) := by
  have closed : ∀ {w : Instr} (f : State → State), exec w s = .next (s.closing f) → exec w s = .next (f s) :=
    fun _ act => act.trans (congrArg _ (closing_of_settled settled _))
  have tested := closed (w := .trap c a i) (fun s =>
    if trapTest c (s.me.getS a) (i.signExtend 64) then s.takeTrap 1 i.toNat .own else s.done (fun l => l)) rfl
  have swaps := closed (w := .tsysTmask d a) (fun s => s.done (fun l =>
    { l.setS d (boolWord (causeM l.tcause)) with tcause := setCauseM l.tcause ((l.getS a).getLsbD 0) })) rfl
  refine ⟨fun holds => traps_of_exec (tested.trans (congrArg _ (if_pos holds))),
    fun fails => issues_of_exec (tested.trans (congrArg _ (if_neg fails))) rfl rfl, traps_of_exec (closed (fun s => s.takeTrap 2 0 .own) rfl),
    issues_of_exec (closed (fun s => s.done (fun l => l)) rfl) rfl rfl,
    issues_of_exec swaps rfl ⟨⟨?value, fun r hr => ?others⟩, ?mask, fun j hj => ?kept, rfl⟩⟩
  case value => exact s.me.issued.getS_setS_self d _
  case others => exact s.me.issued.getS_setS_other _ hr
  case mask => exact getLsbD_setCauseM _ _ (by omega)
  case kept => exact (getLsbD_setCauseM _ _ (by omega)).trans (if_neg (by omega))

/-- The test of a `trap` by its condition (R162). -/
theorem trapTest_iff (c : BitVec 3) (x y : Word64) : trapTest c x y = true ↔
    match c.toNat with
    | 0 => True
    | 1 => x = y
    | 2 => x ≠ y
    | 3 => x.toInt < y.toInt
    | 4 => y.toInt ≤ x.toInt
    | 5 => x.toNat < y.toNat
    | _ => y.toNat ≤ x.toNat := by
  unfold trapTest
  generalize c.toNat = n
  rcases n with _ | _ | _ | _ | _ | _ | n <;> simp

/-- An arithmetic instruction that raises an enabled exception takes the trap, and has no effect (R76, R158). -/
theorem traps_of_laneFloat {s : State} {i w : Instr} {k : BitVec 3} {d : BitVec 6} {ops : List (BitVec 6)} {f : Ladle → Nat → Word32 × Exc}
    (act : exec i s = .next (s.laneFloat w k d ops f)) (legal : Legal s.me (d :: ops))
    (raised : enabled s.me (unionExc (lanesOf s.me k) (f s.me)) ≠ 0) :
    Traps i s 3 (enabled s.me (unionExc (lanesOf s.me k) (f s.me))).toNat := by
  rw [← resultExc_laneResults] at raised ⊢
  exact traps_of_exec (act.trans (congrArg _ ((s.laneWord_legal _ _ legal.1 legal.2).trans (s.arith_trap _ _ raised))))

/-- Settles O14, the words that trap apart from `tsys.tret`. -/
theorem trapsAndReturns : Obligations.TrapsAndReturns := by
  unfold Obligations.TrapsAndReturns
  refine ⟨⟨fun s c d a i settled => ?words, fun s k h f d a b legal => ?arithmetic⟩,
    fun s settled => ⟨fun active aligned => ?returns, ?illegal⟩,
    fun s p running one suspended come sound some_ calm dest active aligned deferred => ?resumed, by decide, by decide⟩
  case words =>
    intro x y holds
    obtain ⟨stops, goes, others⟩ := trap_words settled c d a i
    exact ⟨fun h => stops ((trapTest_iff c x y).2 h), fun h => goes (mt (trapTest_iff c x y).1 h), others⟩
  case arithmetic =>
    intro e raised
    exact traps_of_laneFloat (f := fun l j => fopLane f .add (fmodeRound l.fmode) (laneAt (l.getV a) j) (laneAt (l.getV b) j) (laneAt (l.getV d) j))
      rfl legal raised
  case returns =>
    have none_ : ∀ p ∈ s.me.pend, p.suspended = true := by simp [settled.2]
    have over_ : s.me.issued.trapReturn.pend = [] := by
      change s.me.issued.pend.map _ = []
      rw [ExtendedBlock.issued_pend_nil settled.2]
      rfl
    have act := (exec_tret_returns settled.1 none_ active aligned).trans (congrArg _ (State.settle_nil _ over_))
    exact ⟨_, act, rfl, ⟨fun _ => rfl, fun _ => rfl⟩, rfl, rfl, rfl, rfl, (getLsbD_setCauseM _ _ (by omega)).trans (if_pos rfl),
      fun j hj => (getLsbD_setCauseM _ _ (by omega)).trans (if_neg (by omega)), rfl, rfl, rfl, rfl, rfl, rfl, rfl⟩
  case illegal => exact exec_tret_illegal settled.1 (by simp [settled.2])
  case resumed =>
    have act := exec_tret_returns running (by simpa [one] using suspended) active aligned
    obtain ⟨l, frame, sp, handler⟩ := landDue_quiet false 64 _ (quiet_resumed one suspended sound calm)
    have alone : (s.mapMe (fun l => l.issued.trapReturn)).settle = { s with me := l } := frame
    refine ⟨_, act, by rw [alone], by rw [alone]; exact congrArg Split.pc sp, by rw [alone]; exact handler,
      fun due => settle_resumed_due running one suspended come sound some_ calm dest deferred due, fun later => ?_⟩
    rw [settle_resumed_later one suspended later]
    exact ⟨pend_trapReturn one suspended, rfl, rfl, rfl⟩

end Sys2Proof.Returning

/-!
PROOF. O5: the long lane instructions `fsfu`, `lred` and `lscan` (R56, R57, R61, R76, R99, R101, R102, R157, R158).
Each acts through `State.laneLong`, so what one does with its results and exceptions is said once: without an enabled exception
(`longWrites_of_exec`), and with one at its landing point (`landingTraps_of_exec`).
-/

namespace Sys2Proof.LongLane

open Sys2Proof.Machine Sys2Proof.Spec Sys2Proof.Completion Sys2Proof.Trapping Sys2Proof.LadleEvents Sys2Proof.Landing

/-- The result of a long lane instruction as it enters the pending list. -/
def longResult (l : Ladle) (d : BitVec 6) (n : BitVec 4) (lanes : Word32) (vals : List Word64) (e : Exc) (scan : Option ScanRec) : Pending :=
  { l.newPending (.lane d) n lanes vals with exceptions := e, scan := scan }

theorem counts_longResult (l : Ladle) (d : BitVec 6) (n : BitVec 4) (lanes : Word32) (vals : List Word64) (e : Exc) (scan : Option ScanRec)
    (j : Fin 32) : (longResult l d n lanes vals e scan).counts[j] = n.toNat := by
  simp [longResult, Ladle.newPending]

theorem traps_longResult (l : Ladle) (d : BitVec 6) (n : BitVec 4) (lanes : Word32) (vals : List Word64) (e : Exc) (scan : Option ScanRec) :
    (longResult l d n lanes vals e scan).traps = enabled l e := BitVec.and_comm _ _

/-- With no other result pending there is room for its result. -/
theorem laneLong_of_empty {s : State} (empty : s.me.pend = []) (lanes : Word32) (d : BitVec 6) (n : BitVec 4) (vals : List Word64) (e : Exc)
    (scan : Option ScanRec) :
    s.laneLong lanes d n vals e scan = if lanes = 0 then s.done id else s.issueLong (longResult s.me d n lanes vals e scan) :=
  s.long_free _ (by simp [empty])

/-! ### No enabled exception: the results (R56, R57) -/

section Results
variable {s : State} {i : Instr} {d : BitVec 6} {n : BitVec 4} {lanes : Word32} {vals : List Word64} {e : Exc} {scan : Option ScanRec}
  {r : Nat → Word32}

theorem sameBytes_of_window {t : State} (mem : t.mem = s.mem) (window : OnlyWindow s.me t.me) : SameBytes s t := by
  have pad : t.me.pad = s.me.pad := (congrArg Ladle.pad window).trans s.me.issued.advance_pad
  exact ⟨fun a => by rw [mem], fun a => by rw [pad]⟩

/-- What has landed when the next instruction comes. -/
theorem issueLong_due (running : Running s) (empty : s.me.pend = []) (some_ : lanes ≠ 0) (clear : enabled s.me e = 0)
    (values : ∀ j < 32, lanes.getLsbD j = true → vals.getD j 0 = (r j).setWidth 64) :
    let t := s.issueLong (longResult s.me d 0 lanes vals e scan)
    t = { s with me := t.me } ∧ OnlyWindow s.me t.me ∧ t.me.pend = [] ∧ LanesWritten s.me t.me d lanes r ∧
      t.me.fmode = flagged s.me.fmode e := by
  have lands := s.issueLong_lands (longResult s.me d 0 lanes vals e scan) empty running.1 rfl rfl rfl
    ((traps_longResult _ _ _ _ _ _ _).trans clear) some_ (counts_longResult _ _ _ _ _ _ _)
  simp only [Ladle.withPending_eq] at lands
  intro t
  have me : t = _ := lands
  have read : ∀ q, t.me.getV q =
      (Ladle.setV { s.me.issued.advance with pend := [longResult s.me d 0 lanes vals e scan], nextPend := s.me.nextPend + 1 } d lanes
        (fun j => (vals.getD j 0).setWidth 32)).getV q := fun q => by rw [me]; rfl
  have old : ∀ q, ({ s.me.issued.advance with pend := [longResult s.me d 0 lanes vals e scan], nextPend := s.me.nextPend + 1 } : Ladle).getV q =
      s.me.getV q := getV_congr s.me.issued.advance_v
  refine ⟨by rw [me]; rfl, by rw [me]; rfl, by rw [me]; rfl, ⟨fun j hj => ?_, fun q hq => ?_⟩, ?_⟩
  · rw [read, Ladle.laneAt_setV_self _ _ _ _ hj, old]
    refine if_ctx_congr Iff.rfl (fun active => ?_) fun _ => rfl
    rw [values j hj active, BitVec.setWidth_setWidth_of_le _ (by omega), BitVec.setWidth_eq]
  · rw [read, Ladle.getV_setV_other _ _ _ hq, old]
  · rw [me]
    exact congrArg (raiseFlags · e) s.me.issued.advance_fmode

/-- A result with a lookahead waits for its instructions. -/
theorem issueLong_ahead (empty : s.me.pend = []) (ahead : n ≠ 0)
    (values : ∀ j < 32, lanes.getLsbD j = true → vals.getD j 0 = (r j).setWidth 64) :
    let t := s.issueLong (longResult s.me d n lanes vals e scan)
    t = { s with me := t.me } ∧ OnlyWindow s.me t.me ∧
      (∃ p, t.me.pend = [p] ∧ Awaits p (.lane d) n lanes (fun j => (r j).setWidth 64) ∧ p.exceptions = e) ∧
      t.me.v = s.me.v ∧ t.me.fmode = s.me.fmode := by
  have later : ∀ j : Fin 32, (longResult s.me d n lanes vals e scan).counts[j] ≠ 0 := fun j => by
    rw [counts_longResult]
    exact fun zero => ahead (BitVec.eq_of_toNat_eq zero)
  have waits := s.issueLong_waits (longResult s.me d n lanes vals e scan) empty later
  simp only [Ladle.withPending_eq] at waits
  intro t
  have me : t = _ := waits
  have held : Awaits (longResult s.me d n lanes vals e scan) (.lane d) n lanes (fun j => (r j).setWidth 64) := by
    refine ⟨rfl, counts_longResult _ _ _ _ _ _ _, rfl, fun j active => values j ?_ active, rfl, rfl, rfl⟩
    exact BitVec.lt_of_getLsbD active
  rw [me]
  exact ⟨rfl, rfl, ⟨_, rfl, held, rfl⟩, s.me.issued.advance_v, s.me.issued.advance_fmode⟩

theorem longWrites_of_exec (act : exec i s = .next (s.laneLong lanes d n vals e scan)) (running : Running s) (empty : s.me.pend = [])
    (values : ∀ j < 32, lanes.getLsbD j = true → vals.getD j 0 = (r j).setWidth 64) (clear : n ≠ 0 ∨ enabled s.me e = 0) :
    LongWrites i s d n lanes r e := by
  rw [laneLong_of_empty empty] at act
  refine ⟨fun none_ => ?none_, fun some_ now => ?lands, fun some_ ahead => ?waits⟩
  case none_ => exact issues_of_exec (act.trans (congrArg _ (if_pos none_))) rfl rfl
  case lands =>
    subst now
    obtain ⟨frame, window, over_, written, flags⟩ := issueLong_due (d := d) (scan := scan) running empty some_
      (clear.resolve_left (· rfl)) values
    exact ⟨_, act.trans (congrArg _ (if_neg some_)), frame, sameBytes_of_window (by rw [frame]) window, window, over_, written, flags⟩
  case waits =>
    obtain ⟨frame, window, one, kept⟩ := issueLong_ahead (d := d) (scan := scan) (e := e) empty ahead values
    exact ⟨_, act.trans (congrArg _ (if_neg some_)), frame, sameBytes_of_window (by rw [frame]) window, window, one, kept⟩

end Results

/-! ### An enabled exception: the trap at the landing point (R61, R76, R158) -/

/-- In straight code the result is pending and the split at the next word. -/
theorem withPending_plain (l : Ladle) (p : Pending) (straight : l.sp.looping = false) : l.withPending p =
    { l with handlerIssued := l.issued.handlerIssued, pend := [p], nextPend := l.nextPend + 1, sp := { l.sp with pc := l.sp.pc + 4 } } :=
  Ladle.advance_plain _ straight

theorem permitFree_withPending (s : State) (p : Pending) (straight : s.me.sp.looping = false) :
    (s.mapMe (fun l => l.withPending p)).permitFree = s.permitFree := by
  have held : ∀ cluster core, (s.mapMe (fun l => l.withPending p)).permitsHeld cluster core = s.permitsHeld cluster core := fun cluster core => by
    simp only [State.permitsHeld, State.ladles, State.mapMe, withPending_plain _ _ straight, List.filter_cons]
    split <;> rfl
  rw [State.permitFree, held, State.mapMe_me, withPending_plain _ _ straight]
  rfl

theorem landDue_of_landable {u : State} {p : Pending} {all : Bool} (one : u.me.pend = [p]) (lands : u.me.landable all p = true)
    (running : u.me.stopped = false) (n : Nat) : State.landDue all (n + 1) u = State.landDue all n (u.land p all) := by
  simp [State.landDue, State.landOne, one, lands, running]

/-- The ladle's one result is due in all its lanes, of which the issuing split holds some, and traps with no window open. -/
structure TrapsHere (u : State) (p : Pending) : Prop where
  one : u.me.pend = [p]
  running : Running u
  come : p.missing = 0
  free : p.suspended = false
  sound : p.fault = none
  raised : p.traps ≠ 0
  due : p.dueLanes false = p.lanes
  held : u.me.sp.mask &&& p.lanes ≠ 0
  window : p.window p.lanes = 0

namespace TrapsHere
variable {u : State} {p : Pending} (here : TrapsHere u p)
include here

/-- The trap is taken, and a result whose trap is not refused leaves the pending list. -/
theorem settle : u.settle =
    let t := u.takeTrap 3 p.traps.toNat (.landing p.pc 0)
    State.landDue false 63 (if t.me.stopped || t.me.sp.blocked == .ready then t.mapMe (fun l => l.dropPending p.id) else t) := by
  obtain ⟨one, ⟨running, ready⟩, come, free, sound, raised, due, held, window⟩ := here
  have stays : u.me.selectLanes p.lanes = u.me := if_pos held
  have some_ : p.lanes ≠ 0#32 := fun none_ => held (by simp [none_])
  have lands : u.me.landable false p = true := by
    simp [Ladle.landable, Pending.lands, free, come, due, some_, stays, ready]
  have same : u.mapMe (fun l => l.selectLanes p.lanes) = u := by rw [State.mapMe, stays]
  have land : u.land p false =
      let t := u.takeTrap 3 p.traps.toNat (.landing p.pc 0)
      if t.me.stopped || t.me.sp.blocked == .ready then t.mapMe (fun l => l.dropPending p.id) else t := by
    rw [State.land, sound, due, same, window]
    exact if_pos raised
  rw [State.settle, landDue_of_landable one lands running, land]

/-- A trap that is not refused. -/
theorem settle_over {t : State} (trap : u.takeTrap 3 p.traps.toNat (.landing p.pc 0) = t)
    (over_ : (t.me.stopped || t.me.sp.blocked == .ready) = true) (only : ∀ q ∈ t.me.pend, q.id = p.id) :
    u.settle = t.mapMe (fun l => l.dropPending p.id) ∧ (t.me.dropPending p.id).pend = [] := by
  have none_ : (t.me.dropPending p.id).pend = [] := by simpa [Ladle.dropPending] using only
  refine ⟨?_, none_⟩
  rw [here.settle, trap]
  exact (congrArg (State.landDue false 63) (if_pos over_)).trans (State.landDue_nil _ _ _ none_)

/-- A refused one: the result stays until the split no longer backs off (R157). -/
theorem settle_refused {t : State} {n : Nat} (trap : u.takeTrap 3 p.traps.toNat (.landing p.pc 0) = t) (goes : t.me.stopped = false)
    (waits : t.me.sp.blocked = .backoff n) (one : t.me.pend = [p]) (mask : t.me.sp.mask = u.me.sp.mask) : u.settle = t := by
  have stays : t.me.selectLanes p.lanes = t.me := if_pos (mask ▸ here.held)
  have raised : ¬ p.traps = 0#5 := here.raised
  have held : t.me.landable false p = false := by
    simp [Ladle.landable, raised, here.sound, here.due, stays, waits]
  rw [here.settle, trap]
  refine (congrArg (State.landDue false 63) (if_neg (by simp [goes, waits]))).trans ?_
  unfold State.landDue
  simp [one, held]

end TrapsHere

section Traps
variable {s : State} {i : Instr} {d : BitVec 6} {lanes : Word32} {vals : List Word64} {e : Exc} {scan : Option ScanRec}
  (running : Running s) (empty : s.me.pend = []) (raised : enabled s.me e ≠ 0) (straight : s.me.sp.looping = false)
  (held : s.me.sp.mask &&& lanes ≠ 0)
include running empty raised straight held

/-- The long instruction with lookahead 0 is at its landing point once it has issued. -/
theorem trapsHere_longResult :
    let p := longResult s.me d 0 lanes vals e scan
    TrapsHere (s.mapMe (fun l => l.withPending p)) p ∧ s.issueLong p = (s.mapMe (fun l => l.withPending p)).settle := by
  intro p
  have plain := withPending_plain s.me p straight
  have due : p.dueLanes false = p.lanes := Pending.dueLanes_zero p (counts_longResult _ _ _ _ _ _ _)
  refine ⟨⟨congrArg Ladle.pend plain, ?_, rfl, rfl, rfl, (traps_longResult _ _ _ _ _ _ _).trans_ne raised, due, ?_, Nat.zero_sub _⟩, ?_⟩
  · rw [Running, State.mapMe_me, plain]
    exact running
  · rw [State.mapMe_me, plain]
    exact held
  · simp only [State.issueLong, State.done, State.mapMe, Ladle.withPending, ExtendedBlock.issued_pend_nil empty, List.nil_append]
    rfl

end Traps

/-- No lane is written and no flag set. -/
def KeepsRegisters (s t : State) : Prop := t.me.v = s.me.v ∧ t.me.k = s.me.k ∧ t.me.fmode = s.me.fmode

section Outcomes
variable {s : State} {p : Pending} (straight : s.me.sp.looping = false) (here : TrapsHere (s.mapMe (fun l => l.withPending p)) p)
include straight here

/-- The trap enters the handler, in a split with a slot. -/
theorem landing_enters (may : MayTrap s) (pc : p.pc = s.me.sp.pc) :
    let t := (s.mapMe (fun l => l.withPending p)).settle
    t = { s with me := t.me } ∧ t.me.pend = [] ∧ KeepsRegisters s t ∧ t.me.tpc = s.me.sp.pc + 4 ∧
      t.me.tcause = BitVec.ofNat 64 (2 ^ 63 + 3 * 2 ^ 56 + 2 ^ 47 + (2 ^ 25 - 1) * 2 ^ 22 + p.traps.toNat) ∧
      t.me.permit = true ∧ t.me.handlerActive = true ∧ t.me.sp.handler = true ∧
      t.me.sp.pc = BitVec.ofNat 64 (s.me.tvec.toNat / 4 % 2 ^ 55 * 4) := by
  obtain ⟨unmasked, handler, free, slot⟩ := may
  have plain := withPending_plain s.me p straight
  let m := (s.me.withPending p).enterHandler 3 p.traps.toNat (.landing p.pc 0)
  have seated : (s.me.withPending p).takeSlot = s.me.withPending p := takeSlot_of_slot (by rw [plain]; exact slot)
  have trap : (s.mapMe (fun l => l.withPending p)).takeTrap 3 p.traps.toNat (.landing p.pc 0) = { s with me := m } :=
    takeTrap_enters (by rw [State.mapMe_me, plain]; exact unmasked) (by rw [State.mapMe_me, plain]; exact handler)
      ((permitFree_withPending s p straight).trans free)
  have ready : m.sp.blocked = .ready := (congrArg (fun l : Ladle => l.sp.blocked) seated).trans here.running.2
  have pend : m.pend = [{ p with suspended := true }] := by
    refine (congrArg (fun l : Ladle => l.pend.map (fun p => { p with suspended := true })) seated).trans ?_
    rw [plain]
    rfl
  have code : p.traps.toNat % 8192 = p.traps.toNat := Nat.mod_eq_of_lt (by have := p.traps.isLt; omega)
  have back : (p.pc - (s.me.sp.pc + 4)).sshiftRight 2 = -1 := by
    rw [pc, show s.me.sp.pc - (s.me.sp.pc + 4) = -4#64 by bv_omega]
    decide
  obtain ⟨over_, none_⟩ := here.settle_over trap (by simp [ready]) (by simp [pend])
  have me : ((s.mapMe (fun l => l.withPending p)).settle).me = m.dropPending p.id := congrArg State.me over_
  have next : (s.me.withPending p).sp.pc = s.me.sp.pc + 4 := by rw [plain]
  simp only [KeepsRegisters, me]
  refine ⟨over_, none_, ⟨?lanes, ?masks, ?flags⟩, ?tpc, ?tcause, rfl, rfl, rfl, ?pc⟩
  case lanes => exact (congrArg Ladle.v seated).trans (by rw [plain])
  case masks => exact (congrArg Ladle.k seated).trans (by rw [plain])
  case flags => exact (congrArg Ladle.fmode seated).trans (by rw [plain])
  case tpc => exact (enterHandler_tpc (s.me.withPending p) 3 p.traps.toNat (.landing p.pc 0)).trans next
  case pc => exact (enterHandler_pc (s.me.withPending p) 3 p.traps.toNat (.landing p.pc 0)).trans (by rw [plain])
  case tcause =>
    refine (enterHandler_tcause (s.me.withPending p) 3 p.traps.toNat p.pc 0).trans ?_
    rw [next, back, causeWord_landing, code]
    rfl

/-- With traps masked, or no handler, it is a casting fault (R160). -/
theorem landing_unhandled (barred : s.me.tcause.getLsbD 63 = true ∨ s.me.tvec.toNat / 4 % 2 ^ 55 = 0) :
    let t := (s.mapMe (fun l => l.withPending p)).settle
    t.me.pend = [] ∧ KeepsRegisters s t ∧ t.me.stopped = true ∧
      t = { s with me := t.me, faults := t.faults } ∧
      t.faults = s.faults ++ [{ casting := s.me.casting, cause := .unhandledTrap, pc := s.me.sp.pc + 4, rank := s.me.rank,
                                cluster := s.me.cluster, core := s.me.core }] := by
  have plain := withPending_plain s.me p straight
  obtain ⟨over_, none_⟩ := here.settle_over (takeTrap_unhandled (by rw [State.mapMe_me, plain]; exact barred)) rfl
    (by simp [State.castFault, State.castFaultAt, plain])
  intro t
  have step : t = _ := over_
  rw [step]
  refine ⟨none_, ?_, rfl, rfl, ?_⟩
  · simp [KeepsRegisters, State.castFault, State.castFaultAt, plain]
  · simp [State.castFault, State.castFaultAt, plain]

/-- With no permit free the split parks and backs off, and the result stays (R157). -/
theorem landing_refused (unmasked : s.me.tcause.getLsbD 63 = false) (handler : s.me.tvec.toNat / 4 % 2 ^ 55 ≠ 0) (none_ : s.permitFree = false) :
    let t := (s.mapMe (fun l => l.withPending p)).settle
    t = { s with me := t.me } ∧ t.me.pend.length = 1 ∧ KeepsRegisters s t ∧
      t.me.sp.blocked = .backoff s.me.backoff ∧ t.me.backoff = min (2 * s.me.backoff) 4096 ∧ t.me.sp.pc = s.me.sp.pc + 4 := by
  have plain := withPending_plain s.me p straight
  have trap := takeTrap_refused (cls := 3) (code := p.traps.toNat) (at_ := .landing p.pc 0) (s := s.mapMe (fun l => l.withPending p))
    (by rw [State.mapMe_me, plain]; exact unmasked) (by rw [State.mapMe_me, plain]; exact handler)
    ((permitFree_withPending s p straight).trans none_)
  obtain ⟨slot, splits, filled, -⟩ := fillSlots_slot ((s.me.withPending p).block (.backoff (s.me.withPending p).backoff))
  simp only [State.mapMe, filled] at trap
  have stays := here.settle_refused (n := s.me.backoff) trap here.running.1 (by simp [Ladle.block, plain]) here.one rfl
  intro t
  have step : t = _ := stays
  rw [step]
  simp [KeepsRegisters, Ladle.block, plain]

end Outcomes

theorem landingTraps_of_exec {s : State} {i : Instr} {d : BitVec 6} {lanes : Word32} {vals : List Word64} {e : Exc} {scan : Option ScanRec}
    (act : exec i s = .next (s.laneLong lanes d 0 vals e scan)) (running : Running s) (empty : s.me.pend = [])
    (raised : enabled s.me e ≠ 0) : LandingTraps i s lanes e := by
  intro straight held
  have some_ : lanes ≠ 0 := fun none_ => held (by simp [none_])
  obtain ⟨here, issued⟩ := trapsHere_longResult (d := d) (vals := vals) (scan := scan) running empty raised straight held
  have lands := act.trans (congrArg _ ((laneLong_of_empty empty _ _ _ _ _ _).trans ((if_neg some_).trans issued)))
  rw [← traps_longResult s.me d 0 lanes vals e scan]
  exact ⟨fun may => ⟨_, lands, landing_enters straight here may rfl⟩, fun barred => ⟨_, lands, landing_unhandled straight here barred⟩,
    fun unmasked handler none_ => ⟨_, lands, landing_refused straight here unmasked handler none_⟩⟩

/-! ### The three instructions -/

/-- What a long lane instruction does with the results `r` and exceptions `e` of its lanes, whether or not they trap. -/
theorem long_of_exec {s : State} {i : Instr} {d : BitVec 6} {n : BitVec 4} {lanes : Word32} {vals : List Word64} {e : Exc} {scan : Option ScanRec}
    {r : Nat → Word32} (act : exec i s = .next (s.laneLong lanes d n vals e scan)) (running : Running s) (empty : s.me.pend = [])
    (values : ∀ j < 32, lanes.getLsbD j = true → vals.getD j 0 = (r j).setWidth 64) :
    (n ≠ 0 ∨ enabled s.me e = 0 → LongWrites i s d n lanes r e) ∧ (n = 0 → enabled s.me e ≠ 0 → LandingTraps i s lanes e) := by
  refine ⟨longWrites_of_exec act running empty values, fun now raised => ?_⟩
  subst now
  exact landingTraps_of_exec act running empty raised

section Words
variable {s : State} {k : BitVec 3} {n : BitVec 4} {d a : BitVec 6} (legal : Legal s.me [d, a])
include legal

theorem exec_fsfu (f : BitVec 6) :
    let special := fun j => sfu f.toNat (laneAt (s.me.getV a) j)
    exec (.fsfu k n d a f) s = .next (s.laneLong (lanesOf s.me k) d n
      ((laneResults (lanesOf s.me k) special).toList.map (fun x => x.1.setWidth 64)) (unionExc (lanesOf s.me k) special) none) := by
  intro special
  rw [← resultExc_laneResults]
  exact congrArg _ (s.laneWord_legal _ _ legal.1 legal.2)

theorem exec_lred (p : BitVec 5) :
    let act := s.me.exchangeLanes (lanesOf s.me k)
    let tree := pairTree (reduceOp p.toNat (fmodeRound s.me.fmode)) 5 (s.me.reduceInputs act p.toNat a, 0)
    ∃ c, exec (.lred k n d a p) s =
      .next (s.laneLong (s.me.exchangeWrites (lanesOf s.me k)) d n (List.replicate 32 ((tree.1.headD 0).setWidth 64)) tree.2 c) :=
  ⟨_, congrArg _ (s.laneWord_legal _ _ legal.1 legal.2)⟩

theorem exec_lscan (x : BitVec 1) (p : BitVec 5) :
    let act := s.me.exchangeLanes (lanesOf s.me k)
    let scan := scanStages (reduceOp p.toNat (fmodeRound s.me.fmode)) act 5 1 (s.me.reduceInputs act p.toNat a, 0)
    let values := if x = 1 then reduceIdentity p.toNat :: scan.1.take 31 else scan.1
    ∃ c, exec (.lscan k n d a x p) s = .next (s.laneLong (s.me.exchangeWrites (lanesOf s.me k)) d n
      ((List.range 32).map (fun j => (values.getD (s.me.programLane j) 0).setWidth 64)) scan.2 c) :=
  ⟨_, congrArg _ (s.laneWord_legal _ _ legal.1 legal.2)⟩

end Words

/-- Each lane of `fsfu` has a result of its own (R99). -/
theorem laneResults_value (lanes : Word32) (f : Nat → Word32 × Exc) {j : Nat} (hj : j < 32) (active : lanes.getLsbD j = true) :
    ((laneResults lanes f).toList.map (fun x => x.1.setWidth 64)).getD j (0 : Word64) = (f j).1.setWidth 64 := by
  simp [toList_laneResults, List.getD, hj, active]

/-- The exclusive scan is the inclusive one moved up by a lane (R102). -/
theorem getD_shifted (x : BitVec 1) (u : Word32) (r : List Word32) {q : Nat} (hq : q < 32) :
    (if x = 1 then u :: r.take 31 else r).getD q 0 = if x = 0 then r.getD q 0 else if q = 0 then u else r.getD (q - 1) 0 := by
  by_cases inclusive : x = 0
  · simp [inclusive]
  · have exclusive : x = 1 := by revert x; decide
    rw [if_pos exclusive, if_neg inclusive]
    rcases q with _ | q
    · rfl
    · simp [List.getD, show q < 31 by omega]

theorem getD_map_lanes (g : Nat → Word64) {j : Nat} (hj : j < 32) : ((List.range 32).map g).getD j 0 = g j := by
  simp [List.getD, hj]

theorem programLane_lt (l : Ladle) {j : Nat} (hj : j < 32) : l.programLane j < 32 := by
  unfold Ladle.programLane
  split <;> omega

/-- Settles O5: the three words act through `State.laneLong`. -/
theorem longLaneInstructions : Obligations.LongLaneInstructions := by
  unfold Obligations.LongLaneInstructions
  intro s k n d a f x p legal running empty _ act inputs op special tree scan
  obtain ⟨_, reduces⟩ := exec_lred (k := k) (n := n) legal p
  obtain ⟨_, scans⟩ := exec_lscan (k := k) (n := n) legal x p
  obtain ⟨own, ownTraps⟩ := long_of_exec (r := fun j => (special j).1) (exec_fsfu (k := k) (n := n) legal f) running empty
    fun j hj active => laneResults_value _ _ hj active
  obtain ⟨reduced, reducedTraps⟩ := long_of_exec (r := fun _ => tree.1.headD 0) reduces running empty
    fun j hj _ => List.getD_replicate _ hj
  obtain ⟨scanned, scannedTraps⟩ := long_of_exec (r := fun j =>
      let q := s.me.programLane j
      if x = 0 then scan.1.getD q 0 else if q = 0 then reduceIdentity p.toNat else scan.1.getD (q - 1) 0) scans running empty
    fun j hj _ => (getD_map_lanes _ hj).trans (congrArg (BitVec.setWidth 64) (getD_shifted _ _ _ (programLane_lt _ hj)))
  exact ⟨own, reduced, scanned, ownTraps, reducedTraps, scannedTraps⟩

end Sys2Proof.LongLane

/-!
PROOF. O1 to O4 and O6: the lane words that write in their own step (R76, R79 to R98, R100, R104, R105).
Each acts through one of three shapes, an integer word (`State.laneInt`), a mask word (`State.maskOp`) or a floating word (`State.laneFloat`), so
what a word writes and leaves is said once for each shape, and what is left for a word is that its operation on words is the one the rule gives.
-/

namespace Sys2Proof.LaneWords

open Sys2Proof.Machine Sys2Proof.Spec Sys2Proof.Completion Sys2Proof.Trapping Sys2Proof.ChainControl

/-! ### Legality (R24, R37) -/

theorem legal_of_subset {l : Ladle} {regs fewer : List (BitVec 6)} (legal : Legal l regs) (sub : fewer ⊆ regs) : Legal l fewer := by
  obtain ⟨vector, block | plain⟩ := legal
  · exact ⟨vector, .inl block⟩
  · exact ⟨vector, .inr (List.any_eq_false.2 fun r hr => List.any_eq_false.1 plain r (sub hr))⟩

/-! ### The replay queue (R334) -/

/-- Logging a completed instruction changes the replay queue alone. -/
theorem logReplay_changes (l : Ladle) (r : Replay) : l.logReplay r = { l with replay := (l.logReplay r).replay } := by
  unfold Ladle.logReplay
  split <;> rfl

@[simp] theorem logReplay_getV (l : Ladle) (r : Replay) (q : BitVec 6) : (l.logReplay r).getV q = l.getV q := by
  rw [logReplay_changes]; rfl

@[simp] theorem logReplay_getK (l : Ladle) (r : Replay) (q : BitVec 3) : (l.logReplay r).getK q = l.getK q := by
  rw [logReplay_changes]; rfl

@[simp] theorem logReplay_k (l : Ladle) (r : Replay) : (l.logReplay r).k = l.k := by rw [logReplay_changes]

@[simp] theorem logReplay_pad (l : Ladle) (r : Replay) : (l.logReplay r).pad = l.pad := by rw [logReplay_changes]

/-! ### Writes of lanes and of masks (R54, R55) -/

theorem lanesWritten_setV (l : Ladle) (d : BitVec 6) (lanes : Word32) {f g : Nat → Word32}
    (h : ∀ j < 32, lanes.getLsbD j = true → f j = g j) :
    LanesWritten l (l.issued.setV d lanes f) d lanes g :=
  ⟨fun j hj => (Ladle.laneAt_setV_self _ _ _ _ hj).trans (if_ctx_congr Iff.rfl (h j hj) fun _ => rfl),
    fun _ hr => Ladle.getV_setV_other _ _ _ hr⟩

theorem lanesWritten_congr {l m n : Ladle} {d : BitVec 6} {lanes : Word32} {f : Nat → Word32} (h : ∀ r, m.getV r = n.getV r)
    (written : LanesWritten l n d lanes f) : LanesWritten l m d lanes f := by
  simpa only [LanesWritten, h] using written

theorem maskWritten_setK {l : Ladle} (vector : l.control = false) (k : BitVec 3) {x : Word32} {f : Nat → Bool}
    (h : ∀ j < 32, l.sp.mask.getLsbD j = true → x.getLsbD j = f j) :
    MaskWritten l (l.issued.setK k l.sp.mask x) k f := by
  refine ⟨fun hk j hj => ?_, fun q hq => Ladle.getK_setK_other _ _ _ hq, fun hk => by rw [hk, Ladle.setK_zero]; rfl⟩
  rw [Ladle.getK_setK_self _ hk (by exact vector), Ladle.issued_getK]
  simp only [BitVec.getLsbD_or, BitVec.getLsbD_and, BitVec.getLsbD_not, hj, decide_true, Bool.true_and]
  cases selected : l.sp.mask.getLsbD j
  · simp
  · simp [h j hj selected]

theorem maskWritten_congr {l m n : Ladle} {k : BitVec 3} {f : Nat → Bool} (h : ∀ r, m.getK r = n.getK r) (hk : m.k = n.k)
    (written : MaskWritten l n k f) : MaskWritten l m k f := by
  simpa only [MaskWritten, h, hk] using written

theorem onlyLanes_setV (l : Ladle) (d : BitVec 6) (lanes : Word32) (f : Nat → Word32) : OnlyLanes l (l.issued.setV d lanes f) := rfl

theorem onlyLanes_logReplay {l m : Ladle} (h : OnlyLanes l m) (r : Replay) : OnlyLanes l (m.logReplay r) := by
  unfold Ladle.logReplay
  split
  · exact congrArg (fun x => { x with replay := (m.replay ++ [r]).drop ((m.replay ++ [r]).length - 16) }) h
  · exact h

theorem onlyMasks_logReplay {l m : Ladle} (h : OnlyMasks l m) (r : Replay) : OnlyMasks l (m.logReplay r) := by
  unfold Ladle.logReplay
  split
  · exact congrArg (fun x => { x with replay := (m.replay ++ [r]).drop ((m.replay ++ [r]).length - 16) }) h
  · exact h

theorem onlyMasks_setK (l : Ladle) (k : BitVec 3) (m x : Word32) : OnlyMasks l (l.issued.setK k m x) := by
  unfold OnlyMasks Ladle.setK
  split <;> rfl

/-! ### The shared shapes of the lane words -/

section Words
variable {i : Instr} {s : State} {k : BitVec 3} {d : BitVec 6} {ops : List (BitVec 6)}

/-- An integer lane word writes its active lanes. -/
theorem laneWrites_of_laneInt {f : Ladle → Nat → Word32} {g : Nat → Word32} (act : exec i s = .next (s.laneInt i k d ops f))
    (legal : Legal s.me (d :: ops)) (values : ∀ j < 32, f s.me j = g j) : LaneWrites i s k d g := by
  refine issues_of_exec (act.trans (congrArg _ (s.laneWord_legal _ _ legal.1 legal.2))) ?_ ⟨?_, ?_⟩
  · simp
  · exact lanesWritten_congr (fun _ => logReplay_getV _ _ _) (lanesWritten_setV _ _ _ fun j hj _ => values j hj)
  · exact onlyLanes_logReplay (onlyLanes_setV _ _ _ _) _

/-- A mask word writes the split's bits. -/
theorem maskWrites_of_maskOp {f : Ladle → Nat → Bool} {g : Nat → Bool} (act : exec i s = .next (s.maskOp i k ops f))
    (legal : Legal s.me ops) (values : ∀ j < 32, f s.me j = g j) : MaskWrites i s k g := by
  refine issues_of_exec (act.trans (congrArg _ (s.laneWord_legal _ _ legal.1 legal.2))) ?_ ⟨?_, ?_⟩
  · simp
  · exact maskWritten_congr (fun _ => logReplay_getK _ _ _) (logReplay_k _ _)
      (maskWritten_setK legal.1 _ fun j hj _ => (laneMask_getLsbD _ hj).trans (values j hj))
  · exact onlyMasks_logReplay (onlyMasks_setK _ _ _ _) _

end Words

/-! ### Words and integers (R79) -/

theorem satS_eq_satSigned (x : Int) : satS 32 x = satSigned 32 x := by
  unfold satS satSigned
  congr 1
  split <;> [skip; split] <;> omega

theorem satN_eq_satUnsigned (x : Int) : satN 32 x = satUnsigned 32 x := by
  unfold satN satUnsigned
  congr 1
  split <;> [skip; split] <;> omega

/-- The upper half of a 64-bit product is its floor quotient by 2^32. -/
theorem mulHi_eq_highHalf (x y : Int) : mulHi 32 x y = highHalf 32 (x * y) := by
  apply BitVec.eq_of_toNat_eq
  simp only [mulHi, highHalf, BitVec.toNat_ofInt, BitVec.extractLsb'_toNat, Nat.shiftRight_eq_div_pow]
  omega

theorem add_eq_ofNat (x y : Word32) : x + y = BitVec.ofNat 32 (x.toNat + y.toNat) := BitVec.eq_of_toNat_eq (by simp)

theorem mul_eq_ofNat (x y : Word32) : x * y = BitVec.ofNat 32 (x.toNat * y.toNat) := BitVec.eq_of_toNat_eq (by simp)

theorem sub_eq_ofInt (x y : Word32) : x - y = BitVec.ofInt 32 ((x.toNat : Int) - y.toNat) := by
  apply BitVec.eq_of_toNat_eq
  simp only [BitVec.toNat_sub, BitVec.toNat_ofInt]
  omega

theorem mulAdd_eq_ofNat (x y z : Word32) : x * y + z = BitVec.ofNat 32 (x.toNat * y.toNat + z.toNat) := BitVec.eq_of_toNat_eq (by simp)

theorem minSigned_eq_ofInt (x y : Word32) : (if x.toInt ≤ y.toInt then x else y) = BitVec.ofInt 32 (min x.toInt y.toInt) := by
  rw [min_def, apply_ite (BitVec.ofInt 32), BitVec.ofInt_toInt, BitVec.ofInt_toInt]

theorem maxSigned_eq_ofInt (x y : Word32) : (if x.toInt ≤ y.toInt then y else x) = BitVec.ofInt 32 (max x.toInt y.toInt) := by
  rw [max_def, apply_ite (BitVec.ofInt 32), BitVec.ofInt_toInt, BitVec.ofInt_toInt]

theorem minUnsigned_eq_ofNat (x y : Word32) : (if x.toNat ≤ y.toNat then x else y) = BitVec.ofNat 32 (min x.toNat y.toNat) := by
  rw [min_def, apply_ite (BitVec.ofNat 32), BitVec.ofNat_toNat, BitVec.ofNat_toNat, BitVec.setWidth_eq, BitVec.setWidth_eq]

theorem maxUnsigned_eq_ofNat (x y : Word32) : (if x.toNat ≤ y.toNat then y else x) = BitVec.ofNat 32 (max x.toNat y.toNat) := by
  rw [max_def, apply_ite (BitVec.ofNat 32), BitVec.ofNat_toNat, BitVec.ofNat_toNat, BitVec.setWidth_eq, BitVec.setWidth_eq]

/-- Settles O1: each word is `State.laneInt` with its operation on words, which is the one on integers. -/
theorem laneIntegerArithmetic : Obligations.LaneIntegerArithmetic := by
  unfold Obligations.LaneIntegerArithmetic
  intro s k h d a b legal op
  have word : ∀ {i : Instr} {f g : Word32 → Word32 → Word32}, exec i s = .next (s.intOp i k d a b f) → (∀ x y, f x y = g x y) → op i g :=
    fun act same => laneWrites_of_laneInt act legal fun _ _ => same _ _
  refine ⟨word rfl add_eq_ofNat, word rfl fun _ _ => satS_eq_satSigned _, word rfl fun _ _ => satN_eq_satUnsigned _,
    word rfl sub_eq_ofInt, word rfl fun _ _ => satS_eq_satSigned _, word rfl fun _ _ => satN_eq_satUnsigned _,
    word rfl mul_eq_ofNat, word rfl fun _ _ => mulHi_eq_highHalf _ _, word rfl fun _ _ => mulHi_eq_highHalf _ _,
    laneWrites_of_laneInt rfl legal fun _ _ => mulAdd_eq_ofNat _ _ _,
    word rfl minSigned_eq_ofInt, word rfl maxSigned_eq_ofInt, word rfl minUnsigned_eq_ofNat, word rfl maxUnsigned_eq_ofNat,
    word rfl fun _ _ => rfl, word rfl fun _ _ => rfl, word rfl fun _ _ => rfl, word rfl fun _ _ => rfl⟩

/-! ### Shifts (R80) -/

theorem shiftL_eq_shifted {w : Nat} (x : BitVec w) (n : Nat) : shiftL x n = shifted 0 x n := by
  refine if_congr Iff.rfl rfl (BitVec.eq_of_toNat_eq ?_)
  rw [BitVec.toNat_shiftLeft, BitVec.toNat_ofNat, Nat.shiftLeft_eq]

theorem shiftR_eq_shifted {w : Nat} (x : BitVec w) (n : Nat) : shiftR x n = shifted 1 x n := by
  refine if_congr Iff.rfl rfl (BitVec.eq_of_toNat_eq ?_)
  rw [BitVec.toNat_ushiftRight, BitVec.toNat_ofNat, Nat.shiftRight_eq_div_pow,
    Nat.mod_eq_of_lt (lt_of_le_of_lt (Nat.div_le_self _ _) x.isLt)]

theorem shiftA_eq_shifted {w : Nat} (x : BitVec w) (n : Nat) : shiftA x n = shifted 2 x n := by
  rw [shiftA, BitVec.sshiftRight, Int.shiftRight_eq_div_pow]
  rfl

theorem shiftBy_eq_shifted {w : Nat} (t : BitVec 2) (x : BitVec w) (n : Nat) : shiftBy t x n = shifted t.toNat x n := by
  unfold shiftBy
  rcases t.toNat with _ | _ | _ | _
  · exact shiftL_eq_shifted x n
  · exact shiftR_eq_shifted x n
  · exact shiftA_eq_shifted x n
  · rfl

/-! ### Counts (R81) -/

/-- Above the highest set bit all bits are zero. -/
theorem leadingZeros_eq_sub_log2 {w : Nat} (x : BitVec w) (hx : x ≠ 0) : ∀ n, Nat.log2 x.toNat < n → leadingZeros x n = n - 1 - Nat.log2 x.toNat
  | n + 1, h => by
    have pos : x.toNat ≠ 0 := fun h => hx (BitVec.eq_of_toNat_eq h)
    rw [leadingZeros]
    split
    next bit =>
      have : n ≤ Nat.log2 x.toNat := (Nat.le_log2 pos).2 (Nat.ge_two_pow_of_testBit bit)
      omega
    next bit =>
      have : Nat.log2 x.toNat ≠ n := by
        rintro rfl
        exact bit (Nat.testBit_log2 pos)
      rw [leadingZeros_eq_sub_log2 x hx n (by omega)]
      omega

theorem leadingZeros_zero {w : Nat} : ∀ n, leadingZeros (0 : BitVec w) n = n
  | 0 => rfl
  | n + 1 => by rw [leadingZeros, leadingZeros_zero n]; simp; omega

theorem leadingZeros_eq_leading {w : Nat} (x : BitVec w) : BitVec.ofNat w (leadingZeros x w) = leading x := by
  unfold leading
  split
  next zero => rw [zero, leadingZeros_zero]
  next some_ =>
    rw [leadingZeros_eq_sub_log2 x some_ w ((Nat.log2_lt fun h => some_ (BitVec.eq_of_toNat_eq h)).2 x.isLt)]

theorem popCount_eq_countP {w : Nat} (x : BitVec w) : ∀ n, popCount x n = (List.range n).countP (fun i => x.getLsbD i)
  | 0 => rfl
  | n + 1 => by
    rw [popCount, popCount_eq_countP x n, List.range_succ, List.countP_append, List.countP_singleton, bit, Nat.add_comm]

/-- A number with bit `k` set and no lower one is 2^k times an odd one, and its lowest bit stands alone in `x &&& -x`. -/
theorem and_neg_eq_twoPow {w k : Nat} {x : BitVec w} (hk : k < w) (set : x.getLsbD k = true) (low : ∀ i < k, x.getLsbD i = false) :
    x &&& -x = BitVec.twoPow w k := by
  apply BitVec.eq_of_getLsbD_eq
  intro i hi
  rw [BitVec.getLsbD_and, BitVec.getLsbD_neg, BitVec.getLsbD_twoPow]
  have lower : (∃ j < i, x.getLsbD j = true) ↔ k < i := by
    refine ⟨fun ⟨j, hj, bit⟩ => ?_, fun h => ⟨k, h, set⟩⟩
    by_contra h
    simp [low j (by omega)] at bit
  rcases lt_trichotomy i k with h | rfl | h
  · simp [low i h, h.ne']
  · simp [hi, set, lower]
  · simp [hi, lower, h, h.ne]

theorem findFirst_eq {w : Nat} (x : BitVec w) : ∀ n ≤ w, (∀ i < w - n, x.getLsbD i = false) →
    BitVec.ofNat w (findFirst x n) = lowestSet x
  | 0, _, low => by
    have zero : x = 0 := BitVec.eq_of_getLsbD_eq fun i hi => by rw [low i hi]; simp
    rw [findFirst, lowestSet, if_pos zero]
  | n + 1, hn, low => by
    rw [findFirst]
    split
    next set =>
      have some_ : x ≠ 0 := by
        rintro rfl
        simp at set
      rw [lowestSet, if_neg some_, and_neg_eq_twoPow (by omega) set low, BitVec.toNat_twoPow,
        Nat.mod_eq_of_lt (Nat.pow_lt_pow_right (by omega) (by omega)), Nat.log2_two_pow]
    next clear =>
      refine findFirst_eq x n (by omega) fun i hi => ?_
      rcases Nat.lt_or_ge i (w - (n + 1)) with h | h
      · exact low i h
      · rw [show i = w - (n + 1) by omega]
        simpa using clear

/-! ### Bit fields (R82) -/

/-- The bits of a field, as a number. -/
theorem toNat_field (x : Word32) (p w : Nat) : ((x >>> p).setWidth w).toNat = x.toNat / 2 ^ p % 2 ^ w := by
  rw [BitVec.toNat_setWidth, BitVec.toNat_ushiftRight, Nat.shiftRight_eq_div_pow]

theorem ofInt_field_signed (x : Word32) (p : Nat) {w : Nat} (hw : w ≠ 0) :
    (if 2 ^ (w - 1) ≤ x.toNat / 2 ^ p % 2 ^ w then BitVec.ofInt 32 ((x.toNat / 2 ^ p % 2 ^ w : Nat) - ((2 ^ w : Nat) : Int))
      else BitVec.ofNat 32 (x.toNat / 2 ^ p % 2 ^ w)) = ((x >>> p).setWidth w).signExtend 32 := by
  obtain ⟨n, rfl⟩ := Nat.exists_eq_succ_of_ne_zero hw
  have double : 2 ^ (n + 1) = 2 * 2 ^ n := by rw [Nat.pow_succ, Nat.mul_comm]
  rw [BitVec.signExtend, BitVec.toInt, toNat_field, Nat.succ_eq_add_one, Nat.add_sub_cancel]
  split <;> rename_i h
  · rw [if_neg (by omega)]
  · rw [if_pos (by omega), BitVec.ofInt_natCast]

theorem bitFieldExtract_eq_fieldOf (signed : Bool) (x desc : Word32) : bitFieldExtract signed x desc = fieldOf signed x desc := by
  unfold bitFieldExtract fieldOf
  simp only [bitsOf_eq, Nat.reduceAdd, Nat.reduceSub, Nat.reducePow, Nat.div_one]
  generalize desc.toNat % 32 = p
  generalize min (min (desc.toNat / 256 % 64) 32) (32 - p) = w
  refine if_ctx_congr Iff.rfl (fun _ => rfl) fun hw => ?_
  cases signed
  · rw [← toNat_field, BitVec.ofNat_toNat]
    rfl
  · simpa using ofInt_field_signed x p hw

theorem ofNat_ones_shifted (w p : Nat) : BitVec.ofNat 32 ((2 ^ w - 1) * 2 ^ p) = ((1#32 <<< w) - 1) <<< p := by
  refine BitVec.eq_of_toNat_eq ?_
  have pos : 0 < 2 ^ w := Nat.two_pow_pos w
  have ones : ((1#32 <<< w) - 1).toNat = (2 ^ w - 1) % 2 ^ 32 := by
    rw [BitVec.toNat_sub, BitVec.toNat_shiftLeft, Nat.shiftLeft_eq, BitVec.toNat_ofNat, show (1 : Word32).toNat = 1 from rfl]
    omega
  rw [BitVec.toNat_shiftLeft, ones, BitVec.toNat_ofNat, Nat.shiftLeft_eq, Nat.mod_mul_mod]

theorem ofNat_upper_shifted (x : Word32) (p : Nat) : BitVec.ofNat 32 (x.toNat / 65536 % 65536 * 2 ^ p) = (x >>> 16) <<< p := by
  refine BitVec.eq_of_toNat_eq ?_
  rw [BitVec.toNat_ofNat, BitVec.toNat_shiftLeft, BitVec.toNat_ushiftRight, Nat.shiftLeft_eq, Nat.shiftRight_eq_div_pow,
    Nat.mod_eq_of_lt (a := x.toNat / 65536) (by omega)]

theorem bitFieldInsert_eq_fieldInto (x desc : Word32) : bitFieldInsert x desc = fieldInto x desc := by
  unfold bitFieldInsert fieldInto
  simp only [bitsOf_eq, Nat.reduceAdd, Nat.reduceSub, Nat.reducePow, Nat.div_one, ofNat_ones_shifted, ofNat_upper_shifted]

/-! ### Immediates (R87) -/

theorem add_imm_eq_ofInt (x : Word32) (i : BitVec 10) : x + imm10 i = BitVec.ofInt 32 ((x.toNat : Int) + i.toInt) := by
  rw [imm10, BitVec.signExtend, BitVec.ofInt_add, BitVec.ofInt_natCast, BitVec.ofNat_toNat, BitVec.setWidth_eq]

theorem mul_imm_eq_ofInt (x : Word32) (i : BitVec 10) : x * imm10 i = BitVec.ofInt 32 ((x.toNat : Int) * i.toInt) := by
  rw [imm10, BitVec.signExtend, BitVec.ofInt_mul, BitVec.ofInt_natCast, BitVec.ofNat_toNat, BitVec.setWidth_eq]

theorem movhi_eq_ofNat (x : Word32) (w : BitVec 16) : (w ++ x.extractLsb' 0 16 : Word32) = BitVec.ofNat 32 (w.toNat * 65536 + x.toNat % 65536) := by
  apply BitVec.eq_of_toNat_eq
  rw [BitVec.toNat_append, ← Nat.shiftLeft_add_eq_or_of_lt (BitVec.isLt _), Nat.shiftLeft_eq, BitVec.extractLsb'_toNat,
    Nat.shiftRight_zero, BitVec.toNat_ofNat]
  omega

theorem ite_bit_eq_ofNat (b : Bool) : (if b then 1#32 else 0#32) = BitVec.ofNat 32 b.toNat := by cases b <;> rfl

/-- Settles O2: the words of shifts, counts, fields, immediates and moves. -/
theorem laneShiftsFieldsAndMoves : Obligations.LaneShiftsFieldsAndMoves := by
  unfold Obligations.LaneShiftsFieldsAndMoves
  refine ⟨fun s k h d a b legal => ?_, fun s k q h t d a i w n legal => ?_, by decide, by decide, by decide⟩
  · intro op op1
    have legal1 : Legal s.me [d, a] := legal_of_subset legal (by simp)
    have word : ∀ {i : Instr} {f g : Word32 → Word32 → Word32}, exec i s = .next (s.intOp i k d a b f) → (∀ x y, f x y = g x y) → op i g :=
      fun act same => laneWrites_of_laneInt act legal fun _ _ => same _ _
    have word1 : ∀ {i : Instr} {f g : Word32 → Word32}, exec i s = .next (s.intOp1 i k d a f) → (∀ x, f x = g x) → op1 i g :=
      fun act same => laneWrites_of_laneInt act legal1 fun _ _ => same _
    exact ⟨word rfl fun _ _ => shiftL_eq_shifted _ _, word rfl fun _ _ => shiftR_eq_shifted _ _, word rfl fun _ _ => shiftA_eq_shifted _ _,
      word rfl fun _ _ => rfl, word1 rfl leadingZeros_eq_leading, word1 rfl fun x => congrArg _ (popCount_eq_countP x 32),
      word1 rfl fun _ => rfl, word1 rfl fun x => findFirst_eq x 32 le_rfl (by simp), word rfl (bitFieldExtract_eq_fieldOf true),
      word rfl (bitFieldExtract_eq_fieldOf false), word rfl bitFieldInsert_eq_fieldInto⟩
  · intro op imm
    have word1 : ∀ {i : Instr} {f g : Word32 → Word32}, exec i s = .next (s.intOp1 i k d a f) → (∀ x, f x = g x) → op i g :=
      fun act same => laneWrites_of_laneInt act legal fun _ _ => same _
    have legal0 : Legal s.me [d] := legal_of_subset legal (by simp)
    exact ⟨word1 rfl fun _ => add_imm_eq_ofInt _ _, word1 rfl fun _ => mul_imm_eq_ofInt _ _, word1 rfl fun _ => rfl, word1 rfl fun _ => rfl,
      word1 rfl fun _ => rfl, word1 rfl fun x => shiftBy_eq_shifted t x n.toNat,
      laneWrites_of_laneInt rfl legal0 fun _ _ => (BitVec.ofNat_toNat 32 w).symm,
      laneWrites_of_laneInt rfl legal0 fun _ _ => movhi_eq_ofNat _ _, word1 rfl fun _ => rfl,
      laneWrites_of_laneInt rfl legal0 fun _ _ => rfl, laneWrites_of_laneInt rfl legal0 fun _ _ => ite_bit_eq_ofNat _⟩

/-! ### Comparisons (R83, R84) -/

/-- The comparison that a condition code names, of signed words, and in the last two of unsigned ones. -/
def conditionHolds (c : Nat) (x y : Word32) : Bool :=
  match c with
  | 0 => decide (x = y)
  | 1 => decide (x ≠ y)
  | 2 => decide (x.toInt < y.toInt)
  | 3 => decide (x.toInt ≤ y.toInt)
  | 4 => decide (x.toInt > y.toInt)
  | 5 => decide (x.toInt ≥ y.toInt)
  | 6 => decide (x.toNat < y.toNat)
  | _ => decide (x.toNat ≥ y.toNat)

theorem bne_eq_decide_ne (x y : Word32) : (x != y) = decide (x ≠ y) := by rw [bne, beq_eq_decide, decide_not]

theorem compareImm_eq_conditionHolds (f : BitVec 3) (x y : Word32) : compareImm f x y = conditionHolds f.toNat x y := by
  unfold compareImm
  rcases f.toNat with _ | _ | n
  · exact beq_eq_decide x y
  · exact bne_eq_decide_ne x y
  · rcases n with _ | _ | _ | _ | _ | n <;> rfl

theorem compareI_eq_conditionHolds (f : BitVec 2) (x y : Word32) : compareI f x y = conditionHolds f.toNat x y := by
  have codes : f.toNat < 4 := f.isLt
  unfold compareI
  generalize f.toNat = c at codes
  interval_cases c
  · exact beq_eq_decide x y
  · exact bne_eq_decide_ne x y
  · rfl
  · rfl

/-- Settles O3: the mask words by their bits, and `sel` by the lanes it writes. -/
theorem laneMasksAndSelection : Obligations.LaneMasksAndSelection := by
  unfold Obligations.LaneMasksAndSelection
  intro s k qa qb f3 h f d a b i legal x y ci
  have legal2 : Legal s.me [a, b] := legal_of_subset legal (by simp)
  have legal1 : Legal s.me [a] := legal_of_subset legal (by simp)
  have legal0 : Legal s.me [] := ⟨legal.1, .inr rfl⟩
  refine ⟨?icmp, ?icmpn, ?icmpi, ?kand, ?kor, ?kxor, ?kandn, ?sel, by decide⟩
  case icmp => exact maskWrites_of_maskOp rfl legal2 fun _ _ => compareI_eq_conditionHolds _ _ _
  case icmpn => exact maskWrites_of_maskOp rfl legal2 fun _ _ => rfl
  case icmpi => exact maskWrites_of_maskOp rfl legal1 fun _ _ => compareImm_eq_conditionHolds _ _ _
  case kand => exact maskWrites_of_maskOp rfl legal0 fun _ _ => BitVec.getLsbD_and
  case kor => exact maskWrites_of_maskOp rfl legal0 fun _ _ => BitVec.getLsbD_or
  case kxor => exact maskWrites_of_maskOp rfl legal0 fun _ _ => BitVec.getLsbD_xor
  case kandn =>
    refine maskWrites_of_maskOp rfl legal0 fun j hj => ?_
    rw [BitVec.getLsbD_and, BitVec.getLsbD_not, decide_eq_true hj, Bool.true_and]
  case sel =>
    refine issues_of_exec (congrArg _ (s.laneWord_legal _ _ legal.1 legal.2)) (by simp) ⟨?_, onlyLanes_logReplay (onlyLanes_setV _ _ _ _) _⟩
    exact lanesWritten_congr (fun _ => logReplay_getV _ _ _) (lanesWritten_setV _ _ _ fun _ _ _ => rfl)

/-! ### Exchanges (R100, R104, R105) -/

/-- The lane that `lshf` names, wherever it lies. -/
def sourceLane (f : Nat) (j e : Nat) : Int :=
  match f with
  | 0 => (e : Int)
  | 1 => (j : Int) - e
  | 2 => (j : Int) + e
  | _ => ((j ^^^ e : Nat) : Int)

/-- The source of `lshf` is the lane it names, when that lies in 0 to 31. -/
theorem shuffleSource_eq_some_iff {f : BitVec 2} {j e : Nat} (hj : j < 32) (he : e < 32) (n : Nat) :
    shuffleSource f j e = some n ↔ sourceLane f.toNat j e = n ∧ n ≤ 31 := by
  have xor : j ^^^ e < 32 := Nat.xor_lt_two_pow (n := 5) hj he
  unfold shuffleSource sourceLane
  rcases f.toNat with _ | _ | _ | _
  · simp only [Option.some.injEq]; omega
  · simp only; split <;> simp <;> omega
  · simp only; split <;> simp <;> omega
  · simp only [Option.some.injEq]; omega

theorem shuffle_eq_ite {f : BitVec 2} {j e : Nat} (hj : j < 32) (he : e < 32) (act : Word32) (x : Nat → Word32) :
    (match shuffleSource f j e with
      | some n => if act.getLsbD n then x n else x j
      | none => x j) =
    if 0 ≤ sourceLane f.toNat j e ∧ sourceLane f.toNat j e ≤ 31 ∧ act.getLsbD (sourceLane f.toNat j e).toNat then
      x (sourceLane f.toNat j e).toNat else x j := by
  cases source : shuffleSource f j e with
  | some n =>
    obtain ⟨eq, le⟩ := (shuffleSource_eq_some_iff hj he n).1 source
    rw [eq]
    simp [le]
  | none =>
    refine (if_neg fun ⟨low, high, _⟩ => ?_).symm
    have := (shuffleSource_eq_some_iff (f := f) hj he (sourceLane f.toNat j e).toNat).2 (by omega)
    simp [this] at source

/-- The last form of `vote`: the lanes' values are all one. -/
theorem all_eq_head_iff (i : Nat) (r : List Nat) (x : Nat → Word32) :
    r.all (fun j => x j == x i) = true ↔ ∀ m ∈ i :: r, ∀ n ∈ i :: r, x m = x n := by
  simp only [List.all_eq_true, beq_iff_eq]
  constructor
  · intro same
    have head : ∀ m ∈ i :: r, x m = x i := List.forall_mem_cons.2 ⟨rfl, same⟩
    exact fun m hm n hn => (head m hm).trans (head n hn).symm
  · exact fun same m hm => same m (List.mem_cons_of_mem _ hm) i List.mem_cons_self

theorem voteBit_eq (f : BitVec 2) (lanes : List Nat) (x : Nat → Word32) :
    voteBit f lanes x = match f.toNat with
      | 0 => decide (∀ j ∈ lanes, x j ≠ 0)
      | 1 => decide (∃ j ∈ lanes, x j ≠ 0)
      | _ => decide (∀ i ∈ lanes, ∀ j ∈ lanes, x i = x j) := by
  unfold voteBit
  rcases f.toNat with _ | _ | n
  · exact Bool.eq_iff_iff.2 (by simp)
  · exact Bool.eq_iff_iff.2 (by simp)
  · cases lanes with
    | nil => simp
    | cons i r => exact Bool.eq_iff_iff.2 ((all_eq_head_iff i r x).trans decide_eq_true_iff.symm)

theorem getLsbD_ite_ones (b : Bool) {j : Nat} (hj : j < 32) : (if b then 0xffffffff#32 else 0).getLsbD j = b := by
  cases b
  · exact BitVec.getLsbD_zero
  · exact (BitVec.getLsbD_allOnes (v := 32)).trans (decide_eq_true hj)

/-- Settles O6: `lshf` by its source lane, `vote` by its bit. -/
theorem laneExchange : Obligations.LaneExchange := by
  unfold Obligations.LaneExchange
  intro s k h f d a b legal act x source voters
  have legal1 : Legal s.me [a] := legal_of_subset legal (by simp)
  refine ⟨?lshf, ?vote, by decide, by decide⟩
  case lshf =>
    refine issues_of_exec (congrArg _ (s.laneWord_legal _ _ legal.1 legal.2)) rfl ⟨?_, rfl⟩
    refine lanesWritten_setV _ _ _ fun i hi _ => ?_
    have lane : s.me.programLane i < 32 := LongLane.programLane_lt _ hi
    simp only [bitsOf_eq, Nat.pow_zero, Nat.div_one]
    exact shuffle_eq_ite lane (Nat.mod_lt _ (by omega)) _ _
  case vote =>
    refine issues_of_exec (congrArg _ (s.laneWord_legal _ _ legal1.1 legal1.2)) (by simp)
      ⟨maskWritten_setK legal.1 _ fun j hj _ => ?_, onlyMasks_setK _ _ _ _⟩
    refine Eq.trans ?_ (voteBit_eq f voters x)
    exact getLsbD_ite_ones _ hj

/-! ### Floating words (R76) -/

theorem resultAt_laneResults {lanes : Word32} (f : Nat → Word32 × Exc) {j : Nat} (hj : j < 32) (active : lanes.getLsbD j = true) :
    resultAt (laneResults lanes f) j = (f j).1 := by
  simp [resultAt, laneResults, hj, active]

/-- With no raised exception enabled a floating word writes its active lanes, and else it traps. -/
theorem floatWrites_of_laneFloat {i : Instr} {s : State} {k : BitVec 3} {d : BitVec 6} {ops : List (BitVec 6)} {f : Ladle → Nat → Word32 × Exc}
    {g : Nat → Word32 × Exc} (act : exec i s = .next (s.laneFloat i k d ops f)) (legal : Legal s.me (d :: ops)) (same : f s.me = g) :
    FloatWrites i s k d g := by
  subst same
  have word := act.trans (congrArg _ (s.laneWord_legal _ _ legal.1 legal.2))
  simp only [resultExc_laneResults] at word
  refine ⟨fun clear => ?_, fun raised => word.trans (congrArg _ (s.arith_trap _ _ raised))⟩
  refine issues_of_exec (word.trans (congrArg _ (s.arith_clear _ _ clear))) (by simp) ⟨?_, rfl, ?_⟩
  · exact lanesWritten_congr (fun _ => logReplay_getV _ _ _)
      (lanesWritten_setV _ _ _ fun j hj active => resultAt_laneResults _ hj active)
  · exact congrArg (fun l : Ladle => { l with fmode := flagged s.me.fmode (unionExc (lanesOf s.me k) (f s.me)) })
      (onlyLanes_logReplay (onlyLanes_setV _ _ _ _) _)

/-- The bit of a comparison's result is the comparison. -/
theorem getLsbD_ofNat_bit (b : Bool) : (BitVec.ofNat 32 (bit b)).getLsbD 0 = b := by cases b <;> rfl

/-! ### The sign operations and the classes (R93) -/

theorem and_magnitude_eq_ofNat (x : Word32) : x &&& 0x7fffffff#32 = BitVec.ofNat 32 (x.toNat % 2 ^ 31) := by
  apply BitVec.eq_of_toNat_eq
  rw [BitVec.toNat_and, BitVec.toNat_ofNat]
  exact (Nat.and_two_pow_sub_one_eq_mod x.toNat 31).trans (Nat.mod_eq_of_lt (by omega)).symm

theorem sign_eq_twoPow : 0x80000000#32 = BitVec.twoPow 32 31 := rfl

/-- A word with a clear sign takes a set one by addition. -/
theorem xor_sign_of_clear {x : Word32} (clear : x.getLsbD 31 = false) : x ^^^ 0x80000000#32 = x + 0x80000000#32 := by
  have apart : x &&& 0x80000000#32 = 0#32 := by
    rw [sign_eq_twoPow, BitVec.and_twoPow, clear]
    rfl
  rw [BitVec.add_eq_or_of_and_eq_zero _ _ apart]
  refine BitVec.eq_of_getLsbD_eq fun i hi => ?_
  have here := congrArg (fun w : Word32 => w.getLsbD i) apart
  simp only [BitVec.getLsbD_and, BitVec.getLsbD_zero] at here
  rw [BitVec.getLsbD_xor, BitVec.getLsbD_or]
  revert here
  cases x.getLsbD i <;> cases (0x80000000#32).getLsbD i <;> simp

theorem xor_sign_eq_ite (x : Word32) : x ^^^ 0x80000000#32 = if x.getLsbD 31 then x - 0x80000000#32 else x + 0x80000000#32 := by
  split
  next set =>
    have flip : (x ^^^ 0x80000000#32).getLsbD 31 = false := by simp [set]
    have back := xor_sign_of_clear flip
    rw [BitVec.xor_assoc, BitVec.xor_self, BitVec.xor_zero] at back
    exact BitVec.eq_sub_iff_add_eq.2 back.symm
  next clear => exact xor_sign_of_clear (by simpa using clear)

theorem copySign_eq_ofNat (x y : Word32) : (x &&& 0x7fffffff#32) ||| (y &&& 0x80000000#32) =
    BitVec.ofNat 32 (x.toNat % 2 ^ 31 + y.toNat / 2 ^ 31 * 2 ^ 31) := by
  have sign : y &&& 0x80000000#32 = BitVec.ofNat 32 (y.toNat / 2 ^ 31 * 2 ^ 31) := by
    rw [sign_eq_twoPow, BitVec.and_twoPow, BitVec.getLsbD, Nat.testBit_eq_decide_div_mod_eq]
    simp only [decide_eq_true_eq]
    split
    next set => rw [show y.toNat / 2 ^ 31 = 1 by omega]; rfl
    next clear => rw [show y.toNat / 2 ^ 31 = 0 by omega]; rfl
  have apart : (x &&& 0x7fffffff#32) &&& (y &&& 0x80000000#32) = 0#32 := by
    rw [BitVec.and_assoc, BitVec.and_comm y, ← BitVec.and_assoc 0x7fffffff#32]
    simp
  rw [← BitVec.add_eq_or_of_and_eq_zero _ _ apart, and_magnitude_eq_ofNat, sign, BitVec.ofNat_add]

/-- The number of an F32 datum's class, by its sign, exponent and fraction. -/
def classNumber (x : Word32) : Nat :=
  let n := x.getLsbD 31
  let e := x.toNat / 2 ^ 23 % 256
  let m := x.toNat % 2 ^ 23
  if e = 255 ∧ m = 0 then (if n then 0 else 7)
  else if e = 255 then (if 2 ^ 22 ≤ m then 9 else 8)
  else if e = 0 ∧ m = 0 then (if n then 3 else 4)
  else if e = 0 then (if n then 2 else 5)
  else if n then 1 else 6

theorem classF32_eq_twoPow (x : Word32) : classF32 x = BitVec.ofNat 32 (2 ^ classNumber x) := by
  unfold classF32 classNumber
  simp only [bitsOf_eq, Nat.reduceAdd, Nat.reduceSub, Nat.pow_zero, Nat.div_one, Nat.reducePow]
  generalize x.toNat / 8388608 % 256 = e
  generalize x.toNat % 8388608 = m
  by_cases top : e = 255
  · by_cases fraction : m = 0
    · cases x.getLsbD 31 <;> simp [top, fraction]
    · by_cases quiet : 4194304 ≤ m
      · simp [top, fraction, quiet, Nat.not_lt.2 quiet]
      · simp [top, fraction, quiet, Nat.not_le.1 quiet]
  · by_cases low : e = 0
    · by_cases fraction : m = 0
      · cases x.getLsbD 31 <;> simp [low, fraction]
      · cases x.getLsbD 31 <;> simp [low, fraction]
    · cases x.getLsbD 31 <;> simp [top, low]

/-- Settles O4: the floating words, `fcmp`, and the words on bits, which are integer words. -/
theorem laneFloatingPointWords : Obligations.LaneFloatingPointWords := by
  unfold Obligations.LaneFloatingPointWords
  refine ⟨fun s k h f d a b c legal => ?arithmetic, fun s k h f a b legal => ?compare, fun s k h d a b legal => ?bits⟩
  case arithmetic =>
    intro x y mode arith pick
    have legal1 : Legal s.me [d, a] := legal_of_subset legal (by simp)
    exact ⟨floatWrites_of_laneFloat rfl legal rfl, floatWrites_of_laneFloat rfl legal rfl, floatWrites_of_laneFloat rfl legal rfl,
      floatWrites_of_laneFloat rfl legal rfl, floatWrites_of_laneFloat rfl legal rfl, floatWrites_of_laneFloat rfl legal rfl,
      floatWrites_of_laneFloat rfl legal rfl, floatWrites_of_laneFloat rfl legal rfl, floatWrites_of_laneFloat rfl legal rfl,
      floatWrites_of_laneFloat rfl legal1 rfl, floatWrites_of_laneFloat rfl legal1 rfl, floatWrites_of_laneFloat rfl legal rfl⟩
  case compare =>
    intro c e
    have word : exec (.fcmp k h f a b) s = .next _ := congrArg Host.Outcome.next (s.laneWord_legal [a, b] _ legal.1 legal.2)
    simp only [resultExc_laneResults] at word
    refine ⟨fun clear => ?_, fun raised => word.trans (congrArg _ (s.arith_trap _ _ raised))⟩
    refine issues_of_exec (word.trans (congrArg _ (s.arith_clear _ _ clear))) (by simp) ⟨?_, rfl, ?_⟩
    · refine maskWritten_congr (fun _ => logReplay_getK _ _ _) (logReplay_k _ _) (maskWritten_setK legal.1 _ fun j hj active => ?_)
      rw [laneMask_getLsbD _ hj, resultAt_laneResults _ hj active]
      exact getLsbD_ofNat_bit _
    · exact congrArg (fun l : Ladle => { l with fmode := flagged s.me.fmode e })
        (onlyMasks_logReplay (l := s.me) (onlyMasks_setK _ _ _ _) _)
  case bits =>
    intro classOf
    have legal1 : Legal s.me [d, a] := legal_of_subset legal (by simp)
    exact ⟨laneWrites_of_laneInt rfl legal1 fun _ _ => and_magnitude_eq_ofNat _, laneWrites_of_laneInt rfl legal1 fun _ _ => xor_sign_eq_ite _,
      laneWrites_of_laneInt rfl legal fun _ _ => copySign_eq_ofNat _ _, laneWrites_of_laneInt rfl legal1 fun _ _ => classF32_eq_twoPow _⟩

end Sys2Proof.LaneWords

/-!
PROOF. O8, first part: the codes of a floating format (R244).
A code without its sign is a significand and an exponent (`parts_codeOf`, `codeOf_parts`), and its magnitude rises with the code
(`magnitude_strictMono`), so that sign and value determine a code.
-/

namespace Sys2Proof.FloatCodes

open Sys2Proof.Machine Sys2Proof.Spec

/-- A format has exponent bits and fraction bits. -/
structure Regular (f : FloatFmt) : Prop where
  eb_pos : 1 ≤ f.eb
  fb_pos : 1 ≤ f.fb

theorem regular_of_mem {f : FloatFmt} (h : f ∈ [f64, f32, bf16, f16, f8e4, f8e5, f6e3, f4e2]) : Regular f := by
  fin_cases h <;> exact ⟨by decide, by decide⟩

/-! ### Magnitudes (R244) -/

/-- The significand and the exponent of a code without its sign, and the magnitude that it stands for. -/
def significand (f : FloatFmt) (c : Nat) : Nat := if c / 2 ^ f.fb = 0 then c % 2 ^ f.fb else c % 2 ^ f.fb + 2 ^ f.fb
def exponent (f : FloatFmt) (c : Nat) : Int := if c / 2 ^ f.fb = 0 then f.qmin else f.qmin + (c / 2 ^ f.fb : Nat) - 1
def magnitude (f : FloatFmt) (c : Nat) : ℚ := (significand f c : ℚ) * (2 : ℚ) ^ exponent f c

/-- A significand has at most the hidden bit above the fraction, and has it above the lowest exponent. -/
structure Normal (f : FloatFmt) (k : Nat) (q : Int) : Prop where
  low : f.qmin ≤ q
  size : k < 2 ^ (f.fb + 1)
  hidden : q = f.qmin ∨ 2 ^ f.fb ≤ k

theorem normal_parts (f : FloatFmt) (c : Nat) : Normal f (significand f c) (exponent f c) := by
  have fraction : c % 2 ^ f.fb < 2 ^ f.fb := Nat.mod_lt _ (Nat.two_pow_pos _)
  have double : 2 ^ (f.fb + 1) = 2 * 2 ^ f.fb := by rw [Nat.pow_succ, Nat.mul_comm]
  unfold significand exponent
  generalize c / 2 ^ f.fb = row
  split
  · exact ⟨le_rfl, by omega, .inl rfl⟩
  · exact ⟨by omega, by omega, .inr (by omega)⟩

/-- The code of a significand and an exponent. -/
def codeOf (f : FloatFmt) (k : Nat) (q : Int) : Nat := (q - f.qmin).toNat * 2 ^ f.fb + k

theorem codeOf_parts (f : FloatFmt) (c : Nat) : codeOf f (significand f c) (exponent f c) = c := by
  have split_ : c / 2 ^ f.fb * 2 ^ f.fb + c % 2 ^ f.fb = c := Nat.div_add_mod' _ _
  unfold codeOf significand exponent
  split
  next zero =>
    rw [zero] at split_
    simpa using split_
  next some_ =>
    obtain ⟨t, ht⟩ := Nat.exists_eq_succ_of_ne_zero some_
    rw [ht, Nat.succ_eq_add_one] at split_ ⊢
    rw [show (f.qmin + ((t + 1 : Nat) : Int) - 1 - f.qmin).toNat = t by omega]
    rw [Nat.add_mul] at split_
    omega

theorem parts_codeOf {f : FloatFmt} {k : Nat} {q : Int} (h : Normal f k q) :
    significand f (codeOf f k q) = k ∧ exponent f (codeOf f k q) = q := by
  obtain ⟨low, size, hidden⟩ := h
  have pos : 0 < 2 ^ f.fb := Nat.two_pow_pos _
  have double : 2 ^ (f.fb + 1) = 2 * 2 ^ f.fb := by rw [Nat.pow_succ, Nat.mul_comm]
  unfold significand exponent codeOf
  rcases Nat.lt_or_ge k (2 ^ f.fb) with plain | normal
  · obtain rfl : q = f.qmin := hidden.resolve_right (Nat.not_le.2 plain)
    simp [Nat.div_eq_of_lt plain, Nat.mod_eq_of_lt plain]
  · obtain ⟨m, rfl⟩ := Nat.exists_eq_add_of_le normal
    have fraction : m < 2 ^ f.fb := by omega
    have whole : (q - f.qmin).toNat * 2 ^ f.fb + (2 ^ f.fb + m) = m + 2 ^ f.fb * ((q - f.qmin).toNat + 1) := by ring
    rw [whole, Nat.add_mul_div_left _ _ pos, Nat.div_eq_of_lt fraction, Nat.add_mul_mod_self_left, Nat.mod_eq_of_lt fraction,
      if_neg (by omega), if_neg (by omega)]
    exact ⟨Nat.add_comm _ _, by omega⟩

theorem two_pow_mul_zpow (n : Nat) (q : Int) : ((2 ^ n : Nat) : ℚ) * (2 : ℚ) ^ q = (2 : ℚ) ^ (n + q) := by
  rw [zpow_add₀ two_ne_zero, zpow_natCast]
  norm_cast

/-- The next significand may need one bit more; it has the next code all the same. -/
theorem magnitude_codeOf {f : FloatFmt} {k : Nat} {q : Int} (low : f.qmin ≤ q) (size : k ≤ 2 ^ (f.fb + 1))
    (hidden : q = f.qmin ∨ 2 ^ f.fb ≤ k) :
    magnitude f (codeOf f k q) = (k : ℚ) * (2 : ℚ) ^ q := by
  rcases Nat.lt_or_eq_of_le size with below | rfl
  · obtain ⟨hk, hq⟩ := parts_codeOf ⟨low, below, hidden⟩
    rw [magnitude, hk, hq]
  · have carry : codeOf f (2 ^ (f.fb + 1)) q = codeOf f (2 ^ f.fb) (q + 1) := by
      rw [codeOf, codeOf, show (q + 1 - f.qmin).toNat = (q - f.qmin).toNat + 1 by omega]
      ring
    obtain ⟨hk, hq⟩ := parts_codeOf (f := f) (k := 2 ^ f.fb) (q := q + 1)
      ⟨by omega, Nat.pow_lt_pow_right one_lt_two (Nat.lt_succ_self _), .inr le_rfl⟩
    rw [carry, magnitude, hk, hq, two_pow_mul_zpow, two_pow_mul_zpow]
    congr 1
    push_cast
    ring

theorem magnitude_succ (f : FloatFmt) (c : Nat) : magnitude f (c + 1) = magnitude f c + (2 : ℚ) ^ exponent f c := by
  obtain ⟨low, size, hidden⟩ := normal_parts f c
  have next : codeOf f (significand f c + 1) (exponent f c) = c + 1 := by
    conv_rhs => rw [← codeOf_parts f c]
    rfl
  rw [← next, magnitude_codeOf low size (hidden.imp_right Nat.le_succ_of_le), magnitude]
  push_cast
  ring

theorem magnitude_strictMono (f : FloatFmt) : StrictMono (magnitude f) :=
  strictMono_nat_of_lt_succ fun c => by
    rw [magnitude_succ]
    exact lt_add_of_pos_right _ (zpow_pos two_pos _)

@[simp] theorem magnitude_zero (f : FloatFmt) : magnitude f 0 = 0 := by simp [magnitude, significand]

theorem magnitude_nonneg (f : FloatFmt) (c : Nat) : 0 ≤ magnitude f c :=
  (magnitude_zero f).symm.trans_le ((magnitude_strictMono f).monotone (Nat.zero_le c))

/-! ### The three kinds of codes (R244) -/

theorem infCode_add (f : FloatFmt) : f.infCode + 2 ^ f.fb = 2 ^ (f.eb + f.fb) := by
  rw [FloatFmt.infCode, Nat.pow_add, ← Nat.succ_mul, Nat.succ_eq_add_one, Nat.sub_add_cancel Nat.one_le_two_pow]

theorem infCode_lt (f : FloatFmt) : f.infCode < 2 ^ (f.eb + f.fb) := by
  have := infCode_add f
  have := Nat.two_pow_pos f.fb
  omega

theorem maxCode_lt (f : FloatFmt) : f.maxCode < 2 ^ (f.eb + f.fb) := by
  have := infCode_lt f
  have := Nat.two_pow_pos (f.eb + f.fb)
  unfold FloatFmt.maxCode
  split <;> omega

section Codes
variable {f : FloatFmt} (regular : Regular f)
include regular

theorem infCode_pos : 0 < f.infCode :=
  Nat.mul_pos (Nat.sub_pos_of_lt (Nat.one_lt_two_pow (by have := regular.eb_pos; omega))) (Nat.two_pow_pos _)

theorem nanCode_lt : f.nanCode < 2 ^ (f.eb + f.fb) := by
  have := infCode_add f
  have := Nat.two_pow_pos (f.eb + f.fb)
  have half : 2 ^ (f.fb - 1) < 2 ^ f.fb := Nat.pow_lt_pow_right one_lt_two (by have := regular.fb_pos; omega)
  unfold FloatFmt.nanCode
  split <;> omega

/-- The codes up to the greatest number are numbers. -/
theorem decode_of_le {x : Nat} (h : x % 2 ^ (f.eb + f.fb) ≤ f.maxCode) : f.decode x =
    .fin (decide (x / 2 ^ (f.eb + f.fb) % 2 = 1)) (significand f (x % 2 ^ (f.eb + f.fb))) (exponent f (x % 2 ^ (f.eb + f.fb))) := by
  have := infCode_pos regular
  have ieee : ¬ (f.kind = .ieee ∧ f.infCode ≤ x % 2 ^ (f.eb + f.fb)) := by
    rintro ⟨kind, ge⟩
    simp only [FloatFmt.maxCode, kind] at h
    omega
  have oneNan : ¬ (f.kind = .oneNan ∧ f.maxCode < x % 2 ^ (f.eb + f.fb)) := fun ⟨_, gt⟩ => absurd h (Nat.not_le.2 gt)
  unfold FloatFmt.decode significand exponent
  simp only [if_neg ieee, if_neg oneNan]
  split <;> rfl

end Codes

/-- Only they are. -/
theorem le_maxCode_of_isNumber {f : FloatFmt} {x : Nat} (h : IsNumber (f.decode x)) : x % 2 ^ (f.eb + f.fb) ≤ f.maxCode := by
  obtain ⟨real, finite⟩ := h
  by_contra above
  have lt : x % 2 ^ (f.eb + f.fb) < 2 ^ (f.eb + f.fb) := Nat.mod_lt _ (Nat.two_pow_pos _)
  unfold FloatFmt.decode at real finite
  rcases kind : f.kind with _ | _ | _
  · have top : f.infCode ≤ x % 2 ^ (f.eb + f.fb) := by
      simp only [FloatFmt.maxCode, kind] at above
      omega
    simp only [kind, top, and_self, if_true] at real finite
    split at real
    next zero => simp [zero, Num.isInf] at finite
    next => exact Bool.false_ne_true real.symm
  · simp [kind, Nat.not_le.1 above, Num.isNan] at real
  · simp only [FloatFmt.maxCode, kind] at above
    omega

/-! ### Signs -/

theorem signed_lt {f : FloatFmt} {c : Nat} (neg : Bool) (h : c < 2 ^ (f.eb + f.fb)) : f.signed neg c < 2 ^ (1 + f.eb + f.fb) := by
  rw [Nat.add_assoc, Nat.pow_add, FloatFmt.signed]
  cases neg <;> simp only [bit] <;> simp <;> omega

theorem signed_mod {f : FloatFmt} {c : Nat} (neg : Bool) (h : c < 2 ^ (f.eb + f.fb)) : f.signed neg c % 2 ^ (f.eb + f.fb) = c := by
  rw [FloatFmt.signed, Nat.mul_add_mod', Nat.mod_eq_of_lt h]

theorem signed_div {f : FloatFmt} {c : Nat} (neg : Bool) (h : c < 2 ^ (f.eb + f.fb)) : f.signed neg c / 2 ^ (f.eb + f.fb) = bit neg := by
  rw [FloatFmt.signed, Nat.add_comm, Nat.add_mul_div_right _ _ (Nat.two_pow_pos _), Nat.div_eq_of_lt h, Nat.zero_add]

/-- A code is its sign and its magnitude's code. -/
theorem signed_parts {f : FloatFmt} {c : Nat} (h : c < 2 ^ (1 + f.eb + f.fb)) :
    f.signed (decide (c / 2 ^ (f.eb + f.fb) % 2 = 1)) (c % 2 ^ (f.eb + f.fb)) = c := by
  have top : c / 2 ^ (f.eb + f.fb) < 2 := by
    rw [Nat.div_lt_iff_lt_mul (Nat.two_pow_pos _)]
    rwa [Nat.add_assoc, Nat.pow_add] at h
  have sign : bit (decide (c / 2 ^ (f.eb + f.fb) % 2 = 1)) = c / 2 ^ (f.eb + f.fb) := by
    generalize c / 2 ^ (f.eb + f.fb) = b at top
    interval_cases b <;> rfl
  rw [FloatFmt.signed, sign, Nat.div_add_mod']

theorem decode_signed {f : FloatFmt} (regular : Regular f) (neg : Bool) {c : Nat} (h : c ≤ f.maxCode) :
    f.decode (f.signed neg c) = .fin neg (significand f c) (exponent f c) := by
  have lt := lt_of_le_of_lt h (maxCode_lt f)
  rw [decode_of_le regular (by rwa [signed_mod neg lt]), signed_mod neg lt, signed_div neg lt]
  cases neg <;> rfl

/-! ### Values -/

theorem valueOf_fin (neg : Bool) (m : Nat) (e : Int) : valueOf (.fin neg m e) = (if neg then -1 else 1) * ((m : ℚ) * (2 : ℚ) ^ e) :=
  mul_assoc _ _ _

theorem abs_valueOf_fin (neg : Bool) (m : Nat) (e : Int) : |valueOf (.fin neg m e)| = (m : ℚ) * (2 : ℚ) ^ e := by
  have pos : 0 ≤ (m : ℚ) * (2 : ℚ) ^ e := mul_nonneg (Nat.cast_nonneg _) (zpow_pos two_pos _).le
  rw [valueOf_fin, abs_mul, abs_of_nonneg pos]
  cases neg <;> simp

theorem isNumber_iff {x : Machine.Num} : IsNumber x ↔ ∃ n m e, x = .fin n m e := by
  cases x <;> simp [IsNumber, Num.isNan, Num.isInf]

/-- The greatest number of a format. -/
theorem valueOf_maxCode {f : FloatFmt} (regular : Regular f) : valueOf (f.decode f.maxCode) = magnitude f f.maxCode := by
  have := decode_signed regular false le_rfl
  rw [FloatFmt.signed, bit, if_neg (by decide), Nat.zero_mul, Nat.zero_add] at this
  rw [this, valueOf_fin, magnitude]
  exact one_mul _

/-- Sign and value determine a code. -/
theorem eq_of_decode {f : FloatFmt} (regular : Regular f) {c c' : Nat} (hc : c < 2 ^ (1 + f.eb + f.fb)) (hc' : c' < 2 ^ (1 + f.eb + f.fb))
    {n : Bool} {m m' : Nat} {e e' : Int} (h : f.decode c = .fin n m e) (h' : f.decode c' = .fin n m' e')
    (value : valueOf (f.decode c) = valueOf (f.decode c')) : c = c' := by
  have le := le_maxCode_of_isNumber (isNumber_iff.2 ⟨_, _, _, h⟩)
  have le' := le_maxCode_of_isNumber (isNumber_iff.2 ⟨_, _, _, h'⟩)
  have parts := (decode_of_le regular le).symm.trans h
  have parts' := (decode_of_le regular le').symm.trans h'
  simp only [Num.fin.injEq] at parts parts'
  obtain ⟨sign, hm, he⟩ := parts
  obtain ⟨sign', hm', he'⟩ := parts'
  have same : magnitude f (c % 2 ^ (f.eb + f.fb)) = magnitude f (c' % 2 ^ (f.eb + f.fb)) := by
    rw [magnitude, magnitude, hm, he, hm', he', ← abs_valueOf_fin n, ← abs_valueOf_fin n, ← h, ← h', value]
  rw [← signed_parts hc, ← signed_parts hc', sign, sign', (magnitude_strictMono f).injective same]

end Sys2Proof.FloatCodes

/-!
PROOF. O8, second part: rounding once (R76, R78, R90, R97, R98).
`quantize` rounds to an integer in units of the last place (`quantize_rounded`); within a binade the numbers of a format are such integers, and
those below it are never better (`rounded_of_roundedInt`); so `roundFin` gives the code that `RoundsTo` asks for (`roundFin_roundsTo`).
-/

namespace Sys2Proof.Rounding

open Sys2Proof.Machine Sys2Proof.Spec Sys2Proof.FloatCodes

/-! ### Signs: a mode on the other side of zero -/

/-- The mode that does below zero what a mode does above. -/
def flip : Round → Round
  | .up => .dn
  | .dn => .up
  | m => m

theorem roundedInt_neg {mode : Round} {x : ℚ} {n : Int} (h : RoundedInt (flip mode) x n) : RoundedInt mode (-x) (-n) := by
  have distance : |-x - -(n : ℚ)| = |x - n| := by rw [neg_sub_neg, abs_sub_comm]
  cases mode <;> simp only [RoundedInt, flip, Int.cast_neg, distance, abs_neg, neg_mul_neg] at h ⊢
  · exact ⟨h.1, fun tie => by have := h.2 tie; omega⟩
  · exact h
  · exact ⟨by linarith [h.1], by linarith [h.2]⟩
  · exact ⟨by linarith [h.1], by linarith [h.2]⟩
  · exact h

theorem onGrid_neg {f : FloatFmt} {low : Int} {v : ℚ} (h : OnGrid f low v) : OnGrid f low (-v) := by
  simpa only [OnGrid, abs_neg] using h

theorem evenOn_neg {f : FloatFmt} {low : Int} {v : ℚ} (h : EvenOn f low v) : EvenOn f low (-v) := by
  simpa only [EvenOn, abs_neg] using h

theorem rounded_neg {f : FloatFmt} {low : Int} {mode : Round} {x r : ℚ} (h : Rounded f low (flip mode) x r) : Rounded f low mode (-x) (-r) := by
  obtain ⟨grid, best⟩ := h
  refine ⟨onGrid_neg grid, fun v hv => ?_⟩
  have other := best (-v) (onGrid_neg hv)
  have distance : ∀ u, |-x - u| = |x - -u| := fun u => (abs_neg _).symm.trans (congrArg _ (by ring))
  have own : |-x - -r| = |x - r| := by rw [distance, neg_neg]
  cases mode <;> simp only [flip, abs_neg, neg_mul_neg, own, distance v] at other ⊢
  · exact ⟨other.1, fun tie => (other.2 tie).imp (fun e => by rw [← e, neg_neg]) evenOn_neg⟩
  · exact other
  · exact ⟨by linarith [other.1], fun le => by linarith [other.2 (by linarith)]⟩
  · exact ⟨by linarith [other.1], fun le => by linarith [other.2 (by linarith)]⟩
  · exact other

/-! ### Rounding to an integer -/

theorem roundedInt_self (mode : Round) (n : Int) : RoundedInt mode n n := by
  cases mode <;> simp [RoundedInt, mul_self_nonneg]

/-- An integer rounds to itself alone. -/
theorem eq_of_roundedInt_int {mode : Round} {z n : Int} (h : RoundedInt mode z n) : n = z := by
  have near (d : |(z : ℚ) - n| ≤ 1 / 2) : n = z := by
    have lt : |(z : ℚ) - n| < 1 := d.trans_lt (by norm_num)
    have := Int.abs_lt_one_iff.1 (show |z - n| < 1 by exact_mod_cast lt)
    omega
  cases mode with
  | ne => exact near h.1
  | na => exact near h.1
  | up =>
    obtain ⟨low, high⟩ := h
    norm_cast at low high
    omega
  | dn =>
    obtain ⟨low, high⟩ := h
    norm_cast at low high
    omega
  | tz =>
    obtain ⟨same, low, high⟩ := h
    norm_cast at same low high
    rcases abs_eq_abs.1 (show |n| = |z| by omega) with eq | opposite
    · exact eq
    · rw [opposite, mul_neg] at same
      have : z = 0 := mul_self_eq_zero.1 (le_antisymm (by omega) (mul_self_nonneg z))
      omega

/-- Above zero, toward zero is down. -/
theorem roundedInt_tz_iff {x : ℚ} {n : Int} (hx : 0 ≤ x) : RoundedInt .tz x n ↔ (n : ℚ) ≤ x ∧ x < n + 1 := by
  simp only [RoundedInt, abs_of_nonneg hx]
  constructor
  · rintro ⟨same, le, lt⟩
    have hn : (0 : ℚ) ≤ n := by
      by_contra neg
      have : x = 0 := by
        by_contra some_
        have := mul_neg_of_pos_of_neg (lt_of_le_of_ne hx (Ne.symm some_)) (not_le.1 neg)
        linarith
      rw [this, abs_nonpos_iff] at le
      linarith
    rw [abs_of_nonneg hn] at le lt
    exact ⟨le, lt⟩
  · rintro ⟨le, lt⟩
    have hn : (0 : ℚ) ≤ n := by
      have : (-1 : ℚ) < n := by linarith
      have : (-1 : Int) < n := by exact_mod_cast this
      exact_mod_cast (by omega : 0 ≤ n)
    rw [abs_of_nonneg hn]
    exact ⟨mul_nonneg hx hn, le, lt⟩

/-- A whole number and a proper fraction round by the fraction. -/
theorem roundedInt_add_fraction {mode : Round} {d : Nat} {t : ℚ} (ht : 0 ≤ t) (ht' : t < 1) {up : Bool}
    (dir : up = match mode with
      | .ne => decide (1 < 2 * t) || (decide (2 * t = 1) && decide (d % 2 = 1))
      | .tz => false
      | .up => decide (t ≠ 0)
      | .dn => false
      | .na => decide (1 ≤ 2 * t)) :
    RoundedInt mode (d + t) (if up then d + 1 else d : Nat) := by
  have hd : (0 : ℚ) ≤ d := Nat.cast_nonneg d
  have below : |(d : ℚ) + t - ((d : Nat) : Int)| = t := by rw [Int.cast_natCast, add_sub_cancel_left, abs_of_nonneg ht]
  have above : |(d : ℚ) + t - ((d + 1 : Nat) : Int)| = 1 - t := by
    rw [Int.cast_natCast, abs_sub_comm, abs_of_nonneg (by push_cast; linarith)]
    push_cast
    ring
  subst dir
  cases mode with
  | ne =>
    rcases lt_trichotomy (2 * t) 1 with h | h | h
    · simp only [not_lt.2 h.le, h.ne, decide_false, Bool.false_and, Bool.or_self, Bool.false_eq_true, if_false, RoundedInt, below]
      exact ⟨by linarith, fun tie => by linarith⟩
    · by_cases odd : d % 2 = 1
      · simp only [h, odd, decide_true, Bool.and_self, Bool.or_true, if_true, RoundedInt, above]
        exact ⟨by linarith, fun _ => by omega⟩
      · simp only [h, odd, lt_irrefl, decide_false, Bool.and_false, Bool.or_self, Bool.false_eq_true, if_false, RoundedInt, below]
        exact ⟨by linarith, fun _ => by omega⟩
    · simp only [h, decide_true, Bool.true_or, if_true, RoundedInt, above]
      exact ⟨by linarith, fun tie => by linarith⟩
  | tz => exact (roundedInt_tz_iff (add_nonneg hd ht)).2 (by simp [ht, ht'])
  | up =>
    by_cases zero : t = 0
    · simpa [zero] using roundedInt_self .up d
    · have pos := lt_of_le_of_ne ht (Ne.symm zero)
      simp only [zero, ne_eq, not_false_eq_true, decide_true, if_true, RoundedInt]
      push_cast
      exact ⟨by linarith, by linarith⟩
  | dn => simp [RoundedInt, ht, ht']
  | na =>
    by_cases h : 1 ≤ 2 * t
    · simp only [h, decide_true, if_true, RoundedInt, above]
      refine ⟨by linarith, fun _ => ?_⟩
      rw [abs_of_nonneg (add_nonneg hd ht), Int.cast_natCast, Nat.abs_cast]
      push_cast
      linarith
    · simp only [h, decide_false, Bool.false_eq_true, if_false, RoundedInt, below]
      exact ⟨by linarith, fun tie => by linarith⟩

/-- The same quotient and remainder, and the direction of the other side. -/
theorem roundShift_neg (mode : Round) (m s : Nat) : roundShift mode true m s = roundShift (flip mode) false m s := by
  cases mode <;> rfl

theorem roundShift_rounded (mode : Round) (m s : Nat) :
    RoundedInt mode ((m : ℚ) / 2 ^ s) (roundShift mode false m s).1 := by
  have pos : (0 : ℚ) < 2 ^ s := pow_pos two_pos s
  have parts : (m : ℚ) / 2 ^ s = (m / 2 ^ s : Nat) + (m % 2 ^ s : Nat) / 2 ^ s := by
    rw [div_eq_iff pos.ne', add_mul, div_mul_cancel₀ _ pos.ne']
    exact_mod_cast (Nat.div_add_mod' m (2 ^ s)).symm
  have small : ((m % 2 ^ s : Nat) : ℚ) < 2 ^ s := by exact_mod_cast Nat.mod_lt m (Nat.two_pow_pos s)
  rw [parts]
  refine roundedInt_add_fraction (div_nonneg (Nat.cast_nonneg _) pos.le) ((div_lt_one pos).2 small) ?_
  have half : 1 < 2 * (((m % 2 ^ s : Nat) : ℚ) / 2 ^ s) ↔ 2 ^ s < 2 * (m % 2 ^ s) := by
    rw [← mul_div_assoc, one_lt_div pos]
    norm_cast
  have half' : 1 ≤ 2 * (((m % 2 ^ s : Nat) : ℚ) / 2 ^ s) ↔ 2 ^ s ≤ 2 * (m % 2 ^ s) := by
    rw [← mul_div_assoc, one_le_div pos]
    norm_cast
  have tie : 2 * (((m % 2 ^ s : Nat) : ℚ) / 2 ^ s) = 1 ↔ 2 * (m % 2 ^ s) = 2 ^ s := by
    rw [← mul_div_assoc, div_eq_one_iff_eq pos.ne']
    norm_cast
  have some_ : ((m % 2 ^ s : Nat) : ℚ) / 2 ^ s ≠ 0 ↔ m % 2 ^ s ≠ 0 := by
    rw [div_ne_zero_iff, and_iff_left pos.ne']
    norm_cast
  cases mode <;> simp only [half, half', tie, some_] <;> rfl

/-- A number with a sign. -/
def withSign (neg : Bool) (n : Int) : Int := if neg then -n else n

theorem valueOf_eq_withSign (neg : Bool) (n : Nat) (q : Int) : valueOf (.fin neg n q) = (withSign neg n : ℚ) * (2 : ℚ) ^ q := by
  rw [valueOf_fin]
  cases neg <;> simp [withSign]

/-- `quantize` gives the multiple of 2^q that the mode chooses, and says whether it is another number. -/
theorem quantize_rounded (mode : Round) (neg : Bool) (m : Nat) (e q : Int) :
    RoundedInt mode (valueOf (.fin neg m (e - q))) (withSign neg (quantize mode neg m e q).1) ∧
      ((quantize mode neg m e q).2 = true ↔ ((withSign neg (quantize mode neg m e q).1 : Int) : ℚ) ≠ valueOf (.fin neg m (e - q))) := by
  unfold quantize
  split
  next whole =>
    have same : valueOf (.fin neg m (e - q)) = ((withSign neg (m * 2 ^ (e - q).toNat : Nat) : Int) : ℚ) := by
      obtain ⟨n, hn⟩ := Int.eq_ofNat_of_zero_le (sub_nonneg.2 whole)
      rw [hn, valueOf_eq_withSign, zpow_natCast, Int.toNat_natCast]
      cases neg <;> simp [withSign]
    rw [same]
    exact ⟨roundedInt_self _ _, by simp⟩
  next cut =>
    have cut' : e - q = -((q - e).toNat : Int) := by omega
    have magnitude_ : valueOf (.fin neg m (e - q)) = (if neg then -1 else 1) * ((m : ℚ) / 2 ^ (q - e).toNat) := by
      rw [valueOf_fin, cut', zpow_neg, zpow_natCast, div_eq_mul_inv]
    have pos : (0 : ℚ) < 2 ^ (q - e).toNat := pow_pos two_pos _
    have rounded : RoundedInt mode (valueOf (.fin neg m (e - q))) (withSign neg (roundShift mode neg m (q - e).toNat).1) := by
      rw [magnitude_]
      cases neg
      · simpa [withSign] using roundShift_rounded mode m (q - e).toNat
      · rw [roundShift_neg]
        simpa [withSign] using roundedInt_neg (roundShift_rounded (flip mode) m (q - e).toNat)
    refine ⟨rounded, ?_⟩
    · rw [show (roundShift mode neg m (q - e).toNat).2 = decide (m % 2 ^ (q - e).toNat ≠ 0) from rfl, decide_eq_true_iff, not_iff_not]
      constructor
      · intro none_
        obtain ⟨d, rfl⟩ := Nat.dvd_of_mod_eq_zero none_
        have integer : valueOf (.fin neg (2 ^ (q - e).toNat * d) (e - q)) = ((withSign neg d : Int) : ℚ) := by
          rw [magnitude_, Nat.cast_mul, Nat.cast_pow, Nat.cast_ofNat, mul_div_cancel_left₀ _ pos.ne']
          cases neg <;> simp [withSign]
        rw [integer] at rounded ⊢
        exact congrArg _ (eq_of_roundedInt_int rounded)
      · intro same
        have size := congrArg abs same
        rw [abs_valueOf_fin, cut', zpow_neg, zpow_natCast, ← div_eq_mul_inv, eq_div_iff pos.ne'] at size
        generalize (roundShift mode neg m (q - e).toNat).1 = k at size
        have size' : k * 2 ^ (q - e).toNat = m := by
          cases neg <;> simp [withSign] at size <;> exact_mod_cast size
        rw [← size', Nat.mul_mod_left]

/-! ### Rounding to a grid -/

/-- Rounding passes no integer. -/
theorem roundedInt_le {mode : Round} {x : ℚ} {n j : Int} (hx : 0 ≤ x) (h : RoundedInt mode x n) (le : x ≤ j) : n ≤ j := by
  have near (d : |x - n| ≤ 1 / 2) : n ≤ j := by
    have lt : (n : ℚ) < j + 1 := by linarith [(abs_le.1 d).1]
    exact Int.lt_add_one_iff.1 (by exact_mod_cast lt)
  have before (lt : (n : ℚ) < x + 1) : n ≤ j := Int.lt_add_one_iff.1 (by exact_mod_cast lt.trans_le (by linarith : x + 1 ≤ (j : ℚ) + 1))
  cases mode with
  | ne => exact near h.1
  | na => exact near h.1
  | up => exact before h.2
  | dn => exact before (h.1.trans_lt (lt_add_one x))
  | tz => exact before (((roundedInt_tz_iff hx).1 h).1.trans_lt (lt_add_one x))

theorem le_roundedInt {mode : Round} {x : ℚ} {n j : Int} (hx : 0 ≤ x) (h : RoundedInt mode x n) (le : j ≤ x) : j ≤ n := by
  have near (d : |x - n| ≤ 1 / 2) : j ≤ n := by
    have lt : (j : ℚ) < n + 1 := by linarith [(abs_le.1 d).2]
    exact Int.lt_add_one_iff.1 (by exact_mod_cast lt)
  have after (lt : x < (n : ℚ) + 1) : j ≤ n := Int.lt_add_one_iff.1 (by exact_mod_cast le.trans_lt lt)
  cases mode with
  | ne => exact near h.1
  | na => exact near h.1
  | up => exact after (h.1.trans_lt (lt_add_one _))
  | dn => exact after h.2
  | tz => exact after ((roundedInt_tz_iff hx).1 h).2

/-- A significand of a grid, with a carry into one bit more. -/
theorem onGrid_of_le {f : FloatFmt} {low q : Int} {v : ℚ} {k : Nat} (hq : low ≤ q) (size : k ≤ 2 ^ (f.fb + 1))
    (hv : |v| = (k : ℚ) * (2 : ℚ) ^ q) :
    OnGrid f low v := by
  rcases Nat.lt_or_eq_of_le size with lt | rfl
  · exact ⟨k, q, lt, hq, hv⟩
  · refine ⟨2 ^ f.fb, q + 1, Nat.pow_lt_pow_right one_lt_two (Nat.lt_succ_self _), by omega, ?_⟩
    rw [hv, two_pow_mul_zpow, two_pow_mul_zpow]
    congr 1
    push_cast
    ring

theorem evenOn_of_le {f : FloatFmt} {low q : Int} {v : ℚ} {k : Nat} (fb_pos : 1 ≤ f.fb) (hq : low ≤ q) (size : k ≤ 2 ^ (f.fb + 1))
    (hidden : q = low ∨ 2 ^ f.fb ≤ k) (even : k % 2 = 0) (hv : |v| = (k : ℚ) * (2 : ℚ) ^ q) : EvenOn f low v := by
  rcases Nat.lt_or_eq_of_le size with lt | rfl
  · exact ⟨k, q, lt, hq, hidden, even, hv⟩
  · refine ⟨2 ^ f.fb, q + 1, Nat.pow_lt_pow_right one_lt_two (Nat.lt_succ_self _), by omega, .inr le_rfl, ?_, ?_⟩
    · obtain ⟨n, hn⟩ := Nat.exists_eq_add_of_le fb_pos
      rw [hn, Nat.pow_add, Nat.pow_one, Nat.mul_mod_right]
    · rw [hv, two_pow_mul_zpow, two_pow_mul_zpow]
      congr 1
      push_cast
      ring

/-- In units of 2^q the numbers of a grid are integers, but for those below the binade of 2^q. -/
theorem integer_or_lt_of_onGrid {f : FloatFmt} {low q : Int} {v : ℚ} (hv : OnGrid f low (v * (2 : ℚ) ^ q)) :
    (∃ z : Int, v = z) ∨ (low < q ∧ |v| < 2 ^ f.fb) := by
  obtain ⟨k, p, size, hp, hv⟩ := hv
  have pos : (0 : ℚ) < (2 : ℚ) ^ q := zpow_pos two_pos q
  have unit : |v| = (k : ℚ) * (2 : ℚ) ^ (p - q) := by
    rw [abs_mul, abs_of_pos pos] at hv
    rw [zpow_sub₀ two_ne_zero, ← mul_div_assoc, eq_div_iff pos.ne', hv]
  rcases le_or_gt q p with le | lt
  · left
    obtain ⟨n, hn⟩ := Int.eq_ofNat_of_zero_le (sub_nonneg.2 le)
    rw [hn, zpow_natCast] at unit
    rcases eq_or_eq_neg_of_abs_eq unit with eq | eq
    · exact ⟨(k * 2 ^ n : Nat), by rw [eq]; push_cast; rfl⟩
    · exact ⟨-(k * 2 ^ n : Nat), by rw [eq]; push_cast; rfl⟩
  · refine .inr ⟨by omega, ?_⟩
    have half : (2 : ℚ) ^ (p - q) ≤ 2 ^ (-1 : Int) := zpow_le_zpow_right₀ one_le_two (by omega)
    have size' : (k : ℚ) < 2 * 2 ^ f.fb := by
      rw [← pow_succ']
      exact_mod_cast size
    rw [unit]
    calc (k : ℚ) * (2 : ℚ) ^ (p - q) ≤ k * 2 ^ (-1 : Int) := mul_le_mul_of_nonneg_left half (Nat.cast_nonneg k)
      _ < 2 ^ f.fb := by rw [zpow_neg_one]; linarith

/-- `r` is at least as good a result for `x` as `v`; at a tie it is `v` itself, or has what ties ask for. -/
def Best (mode : Round) (even : Prop) (x r v : ℚ) : Prop :=
  match mode with
  | .ne => |x - r| ≤ |x - v| ∧ (|x - r| = |x - v| → v = r ∨ even)
  | .na => |x - r| ≤ |x - v| ∧ (|x - r| = |x - v| → |v| ≤ |r|)
  | .tz => 0 ≤ x * r ∧ |r| ≤ |x| ∧ (|v| ≤ |x| → |v| ≤ |r|)
  | .up => x ≤ r ∧ (x ≤ v → r ≤ v)
  | .dn => r ≤ x ∧ (v ≤ x → v ≤ r)

theorem rounded_iff_best {f : FloatFmt} {low : Int} {mode : Round} {x r : ℚ} :
    Rounded f low mode x r ↔ OnGrid f low r ∧ ∀ v, OnGrid f low v → Best mode (EvenOn f low r) x r v := Iff.rfl

theorem Best.scale {mode : Round} {even even' : Prop} {x r v c : ℚ} (hc : 0 < c) (imp : even → even') (h : Best mode even x r v) :
    Best mode even' (x * c) (r * c) (v * c) := by
  have pull : ∀ u, |x * c - u * c| = |x - u| * c := fun u => by rw [← sub_mul, abs_mul, abs_of_pos hc]
  cases mode <;> simp only [Best, pull, abs_mul, abs_of_pos hc, mul_le_mul_iff_left₀ hc, mul_left_inj' hc.ne'] at h ⊢
  · exact ⟨h.1, fun tie => (h.2 tie).imp_right imp⟩
  · exact ⟨by rw [mul_mul_mul_comm]; exact mul_nonneg h.1 (mul_self_nonneg c), h.2⟩
  · exact h
  · exact h
  · exact h

/-- Every other integer is at least half a unit away. -/
theorem half_le_of_ne {x : ℚ} {n z : Int} (near : |x - n| ≤ 1 / 2) (ne : z ≠ n) : 1 / 2 ≤ |x - z| := by
  have one : (1 : ℚ) ≤ |((n - z : Int) : ℚ)| := by exact_mod_cast Int.one_le_abs (sub_ne_zero.2 ne.symm)
  have triangle : |((n - z : Int) : ℚ)| ≤ |x - z| + |x - n| := by
    rw [Int.cast_sub, show (n : ℚ) - z = (x - z) - (x - n) by ring]
    exact abs_sub _ _
  linarith

section Nonnegative
variable {mode : Round} {x : ℚ} {n : Int} (hx : 0 ≤ x) (h : RoundedInt mode x n)
include hx h

theorem best_of_int (z : Int) : Best mode (n % 2 = 0) x n z := by
  have hn : 0 ≤ n := le_roundedInt hx h (by simpa using hx)
  cases mode with
  | ne =>
    by_cases same : z = n
    · exact ⟨by rw [same], fun _ => .inl (by rw [same])⟩
    · have far := half_le_of_ne h.1 same
      exact ⟨h.1.trans far, fun tie => .inr (h.2 (le_antisymm h.1 (tie ▸ far)))⟩
  | na =>
    by_cases same : z = n
    · exact ⟨by rw [same], fun _ => by rw [same]⟩
    · have far := half_le_of_ne h.1 same
      refine ⟨h.1.trans far, fun tie => ?_⟩
      have half : |x - n| = 1 / 2 := le_antisymm h.1 (tie ▸ far)
      have high := h.2 half
      have hn' : |(n : ℚ)| = n := abs_of_nonneg (by exact_mod_cast hn)
      rw [abs_of_nonneg hx, hn'] at high
      have up : n = x + 1 / 2 := by
        rw [abs_of_nonpos (by linarith)] at half
        linarith
      obtain ⟨left, right⟩ := abs_le.1 (tie.symm.trans half).le
      rw [hn', abs_le]
      exact ⟨by linarith, by linarith⟩
  | tz =>
    obtain ⟨same, low, -⟩ := id h
    refine ⟨same, low, fun le => ?_⟩
    rw [abs_of_nonneg hx] at le
    have := le_roundedInt (j := |z|) hx h (by exact_mod_cast le)
    rw [abs_of_nonneg (by exact_mod_cast hn : (0 : ℚ) ≤ n)]
    exact_mod_cast this
  | up => exact ⟨h.1, fun le => by exact_mod_cast roundedInt_le hx h le⟩
  | dn => exact ⟨h.1, fun le => by exact_mod_cast le_roundedInt hx h le⟩

theorem best_of_small {even : Prop} {w : Int} {v : ℚ} (small : |v| < w) (le : (w : ℚ) ≤ x) : Best mode even x n v := by
  have best := best_of_int hx h w
  have hn : (w : ℚ) ≤ n := by exact_mod_cast le_roundedInt hx h le
  have low := (abs_lt.1 small).2
  have size : |v| ≤ |(n : ℚ)| := small.le.trans (hn.trans (le_abs_self _))
  have farther : |x - w| < |x - v| := by
    rw [abs_of_nonneg (sub_nonneg.2 le)]
    exact (by linarith : x - w < x - v).trans_le (le_abs_self _)
  cases mode with
  | ne => exact ⟨(best.1.trans_lt farther).le, fun tie => absurd tie (best.1.trans_lt farther).ne⟩
  | na => exact ⟨(best.1.trans_lt farther).le, fun _ => size⟩
  | tz => exact ⟨best.1, best.2.1, fun _ => size⟩
  | up => exact ⟨best.1, fun ge => by linarith⟩
  | dn => exact ⟨best.1, fun _ => by linarith⟩

/-- A nonnegative number of units 2^q, of at most a format's bits, rounds on the grid as to an integer. -/
theorem rounded_of_roundedInt {f : FloatFmt} {low q : Int} (fb_pos : 1 ≤ f.fb) (hq : low ≤ q)
    (size : x < 2 ^ (f.fb + 1)) (hidden : q = low ∨ 2 ^ f.fb ≤ x) :
    Rounded f low mode (x * (2 : ℚ) ^ q) (n * (2 : ℚ) ^ q) := by
  have pos : (0 : ℚ) < (2 : ℚ) ^ q := zpow_pos two_pos q
  obtain ⟨k, rfl⟩ := Int.eq_ofNat_of_zero_le (le_roundedInt (j := 0) hx h (by simpa using hx))
  have size' : k ≤ 2 ^ (f.fb + 1) := by exact_mod_cast roundedInt_le (j := 2 ^ (f.fb + 1)) hx h (by push_cast; exact size.le)
  have hidden' : q = low ∨ 2 ^ f.fb ≤ k :=
    hidden.imp_right fun le => by exact_mod_cast le_roundedInt (j := 2 ^ f.fb) hx h (by push_cast; exact le)
  have value : |((k : Int) : ℚ) * (2 : ℚ) ^ q| = (k : ℚ) * (2 : ℚ) ^ q := by
    rw [Int.cast_natCast, abs_of_nonneg (mul_nonneg (Nat.cast_nonneg k) pos.le)]
  refine rounded_iff_best.2 ⟨onGrid_of_le hq size' value, fun v hv => ?_⟩
  obtain ⟨u, rfl⟩ : ∃ u, v = u * (2 : ℚ) ^ q := ⟨v / (2 : ℚ) ^ q, (div_mul_cancel₀ _ pos.ne').symm⟩
  have even : (k : Int) % 2 = 0 → EvenOn f low ((k : Int) * (2 : ℚ) ^ q) := fun even =>
    evenOn_of_le fb_pos hq size' hidden' (by omega) value
  refine Best.scale pos even ?_
  rcases integer_or_lt_of_onGrid hv with ⟨z, rfl⟩ | ⟨above, small⟩
  · exact best_of_int hx h z
  · exact best_of_small hx h (w := 2 ^ f.fb) (by push_cast; exact small) (by push_cast; exact hidden.resolve_left above.ne')

end Nonnegative

/-! ### `quantize` on a grid -/

theorem flip_flip (mode : Round) : flip (flip mode) = mode := by cases mode <;> rfl

theorem valueOf_scale (neg : Bool) (m : Nat) (e q : Int) : valueOf (.fin neg m (e - q)) * (2 : ℚ) ^ q = valueOf (.fin neg m e) := by
  rw [valueOf_fin, valueOf_fin, mul_assoc, mul_assoc, ← zpow_add₀ two_ne_zero, sub_add_cancel]

section Quantize
variable {f : FloatFmt} {mode : Round} {neg : Bool} {m : Nat} {e q low : Int}

/-- Without its sign a number is rounded in the mode or its mirror image. -/
theorem quantize_magnitude : RoundedInt (if neg then flip mode else mode) ((m : ℚ) * (2 : ℚ) ^ (e - q)) (quantize mode neg m e q).1 := by
  have rounded := (quantize_rounded mode neg m e q).1
  cases neg
  · simpa [valueOf_fin, withSign] using rounded
  · rw [← flip_flip mode] at rounded
    have mirrored := roundedInt_neg rounded
    rw [flip_flip] at mirrored
    simpa [valueOf_fin, withSign] using mirrored

theorem inexact_iff : (quantize mode neg m e q).2 = true ↔ valueOf (.fin neg (quantize mode neg m e q).1 q) ≠ valueOf (.fin neg m e) := by
  rw [(quantize_rounded mode neg m e q).2, valueOf_eq_withSign _ _ q, ← valueOf_scale neg m e q, ne_eq, ne_eq,
    mul_left_inj' (zpow_pos two_pos q).ne']

variable (fb_pos : 1 ≤ f.fb) (hq : low ≤ q) (size : (m : ℚ) * (2 : ℚ) ^ (e - q) < 2 ^ (f.fb + 1))
  (hidden : q = low ∨ 2 ^ f.fb ≤ (m : ℚ) * (2 : ℚ) ^ (e - q))
include size

theorem quantize_le : (quantize mode neg m e q).1 ≤ 2 ^ (f.fb + 1) := by
  have le := roundedInt_le (j := 2 ^ (f.fb + 1)) (by positivity) (quantize_magnitude (mode := mode) (neg := neg)) (by push_cast; exact size.le)
  exact_mod_cast le

omit size in
theorem le_quantize (le : 2 ^ f.fb ≤ (m : ℚ) * (2 : ℚ) ^ (e - q)) : 2 ^ f.fb ≤ (quantize mode neg m e q).1 := by
  have le := le_roundedInt (j := 2 ^ f.fb) (by positivity) (quantize_magnitude (mode := mode) (neg := neg)) (by push_cast; exact le)
  exact_mod_cast le

include fb_pos hq hidden

theorem rounded_quantize : Rounded f low mode (valueOf (.fin neg m e)) (valueOf (.fin neg (quantize mode neg m e q).1 q)) := by
  have rounded := rounded_of_roundedInt (by positivity) (quantize_magnitude (mode := mode) (neg := neg)) fb_pos hq size hidden
  rw [Int.cast_natCast, mul_assoc, ← zpow_add₀ two_ne_zero, sub_add_cancel] at rounded
  cases neg
  · simpa [valueOf_fin] using rounded
  · simpa [valueOf_fin] using rounded_neg rounded

end Quantize

/-! ### The binade of a number -/

/-- The exponent that gives a number the format's bits, without a bound. -/
def freeExponent (f : FloatFmt) (m : Nat) (e : Int) : Int := e + (Nat.log2 m : Nat) - f.fb

section Binade
variable (f : FloatFmt) {m : Nat} (hm : m ≠ 0) (e : Int)
include hm

theorem mantissa_lt {q : Int} (hq : freeExponent f m e ≤ q) : (m : ℚ) * (2 : ℚ) ^ (e - q) < 2 ^ (f.fb + 1) := by
  have lt : (m : ℚ) < 2 ^ (Nat.log2 m + 1) := by exact_mod_cast (Nat.log2_lt hm).1 (Nat.lt_succ_self _)
  calc (m : ℚ) * (2 : ℚ) ^ (e - q) < 2 ^ (Nat.log2 m + 1) * (2 : ℚ) ^ (e - q) := mul_lt_mul_of_pos_right lt (zpow_pos two_pos _)
    _ = (2 : ℚ) ^ ((Nat.log2 m + 1 : Nat) + (e - q)) := by rw [zpow_add₀ two_ne_zero, zpow_natCast]
    _ ≤ (2 : ℚ) ^ ((f.fb + 1 : Nat) : Int) := zpow_le_zpow_right₀ one_le_two (by unfold freeExponent at hq; omega)
    _ = 2 ^ (f.fb + 1) := zpow_natCast _ _

theorem le_mantissa : 2 ^ f.fb ≤ (m : ℚ) * (2 : ℚ) ^ (e - freeExponent f m e) := by
  have le : (2 : ℚ) ^ Nat.log2 m ≤ m := by exact_mod_cast Nat.log2_self_le hm
  calc (2 : ℚ) ^ f.fb = (2 : ℚ) ^ (Nat.log2 m + (e - freeExponent f m e)) := by
        rw [← zpow_natCast]
        congr 1
        unfold freeExponent
        omega
    _ = 2 ^ Nat.log2 m * (2 : ℚ) ^ (e - freeExponent f m e) := by rw [zpow_add₀ two_ne_zero, zpow_natCast]
    _ ≤ _ := mul_le_mul_of_nonneg_right le (zpow_pos two_pos _).le

theorem binade_le {low : Int} (h : low ≤ freeExponent f m e) : (2 : ℚ) ^ (low + f.fb) ≤ (m : ℚ) * (2 : ℚ) ^ e := by
  have le := mul_le_mul_of_nonneg_right (le_mantissa f hm e) (zpow_pos (two_pos (α := ℚ)) (freeExponent f m e)).le
  rw [mul_assoc, ← zpow_add₀ two_ne_zero, sub_add_cancel, ← zpow_natCast, ← zpow_add₀ two_ne_zero] at le
  exact (zpow_le_zpow_right₀ one_le_two (by omega)).trans le

end Binade

/-- A number rounded with a format's bits lies below the lowest binade of the format, by its exponent or by its carry. -/
theorem tiny_iff {f : FloatFmt} {u : Nat} {free : Int} (low : 2 ^ f.fb ≤ u) (high : u ≤ 2 ^ (f.fb + 1)) :
    (decide (free < f.qmin) && !(decide (free + 1 = f.qmin) && decide (u = 2 ^ (f.fb + 1)))) = true ↔
      (u : ℚ) * (2 : ℚ) ^ free < (2 : ℚ) ^ (f.qmin + f.fb) := by
  have pos : (0 : ℚ) < (2 : ℚ) ^ free := zpow_pos two_pos free
  have low' : (2 : ℚ) ^ (free + f.fb) ≤ (u : ℚ) * (2 : ℚ) ^ free := by
    rw [add_comm, ← two_pow_mul_zpow]
    exact mul_le_mul_of_nonneg_right (by exact_mod_cast low) pos.le
  have high' : (u : ℚ) * (2 : ℚ) ^ free ≤ (2 : ℚ) ^ (free + 1 + f.fb) := by
    rw [show free + 1 + f.fb = (f.fb + 1 : Nat) + free by push_cast; ring, ← two_pow_mul_zpow]
    exact mul_le_mul_of_nonneg_right (by exact_mod_cast high) pos.le
  rcases lt_trichotomy (free + 1) f.qmin with below | at_ | above
  · have lt := high'.trans_lt (zpow_lt_zpow_right₀ one_lt_two (show free + 1 + f.fb < f.qmin + f.fb by omega))
    simp [lt, below.ne, show free < f.qmin by omega]
  · have limit : (2 : ℚ) ^ (f.qmin + f.fb) = ((2 ^ (f.fb + 1) : Nat) : ℚ) * (2 : ℚ) ^ free := by
      rw [two_pow_mul_zpow, ← at_]
      congr 1
      push_cast
      ring
    rw [limit, mul_lt_mul_iff_left₀ pos, Nat.cast_lt]
    simp [at_, show free < f.qmin by omega]
    omega
  · have ge := (zpow_le_zpow_right₀ (one_le_two (α := ℚ)) (show f.qmin + f.fb ≤ free + f.fb by omega)).trans low'
    simp [ge, show ¬ free < f.qmin by omega]

/-! ### Exceptions -/

theorem excIf_NX_UF (x t : Bool) :
    let e := excIf x excNX ||| excIf (t && x) excUF
    e &&& (excNV ||| excDZ ||| excOF) = 0 ∧ (e &&& excNX ≠ 0 ↔ x = true) ∧ (e &&& excUF ≠ 0 ↔ x = true ∧ t = true) := by
  cases x <;> cases t <;> decide

theorem overflowsToInf_iff (mode : Round) (neg : Bool) : overflowsToInf mode neg = true ↔
    mode = .ne ∨ mode = .na ∨ (mode = .up ∧ neg = false) ∨ (mode = .dn ∧ neg = true) := by
  cases mode <;> cases neg <;> decide

/-! ### The code of a rounded number (R76, R90, R97, R98) -/

section RoundFin
variable {f : FloatFmt} {m : Nat} (hm : m ≠ 0) (e : Int) (mode : Round) (neg : Bool)

/-- The exponent of the last place of the result. -/
def lastPlace (f : FloatFmt) (m : Nat) (e : Int) : Int := max (freeExponent f m e) f.qmin

/-- The rounded significand, and its code. -/
def lastBits (f : FloatFmt) (mode : Round) (neg : Bool) (m : Nat) (e : Int) : Nat × Bool := quantize mode neg m e (lastPlace f m e)
def roundedCode (f : FloatFmt) (mode : Round) (neg : Bool) (m : Nat) (e : Int) : Nat :=
  codeOf f (lastBits f mode neg m e).1 (lastPlace f m e)

/-- The significand rounded without a bound of the exponent, and whether the number is tiny so. -/
def freeBits (f : FloatFmt) (mode : Round) (neg : Bool) (m : Nat) (e : Int) : Nat := (quantize mode neg m e (freeExponent f m e)).1
def tiny (f : FloatFmt) (mode : Round) (neg : Bool) (m : Nat) (e : Int) : Bool :=
  decide (freeExponent f m e < f.qmin) && !(decide (freeExponent f m e + 1 = f.qmin) && decide (freeBits f mode neg m e = 2 ^ (f.fb + 1)))

include hm

theorem roundFin_of_le (le : roundedCode f mode neg m e ≤ f.maxCode) : f.roundFin mode neg m e = (f.signed neg (roundedCode f mode neg m e),
    excIf (lastBits f mode neg m e).2 excNX ||| excIf (tiny f mode neg m e && (lastBits f mode neg m e).2) excUF) :=
  (if_neg hm).trans (if_neg (Nat.not_lt.2 le))

theorem roundFin_of_gt (above : f.maxCode < roundedCode f mode neg m e) : f.roundFin mode neg m e =
    (f.signed neg (if f.kind = .ieee ∧ overflowsToInf mode neg then f.infCode else f.maxCode), excOF ||| excNX) :=
  (if_neg hm).trans (if_pos above)

theorem hidden_lastPlace : lastPlace f m e = f.qmin ∨ 2 ^ f.fb ≤ (m : ℚ) * (2 : ℚ) ^ (e - lastPlace f m e) := by
  rcases max_choice (freeExponent f m e) f.qmin with eq | eq
  · exact .inr (by rw [lastPlace, eq]; exact le_mantissa f hm e)
  · exact .inl eq

/-- The number rounded to the format's last place, before any overflow. -/
theorem rounded_lastBits (fb_pos : 1 ≤ f.fb) :
    let r := valueOf (.fin neg (lastBits f mode neg m e).1 (lastPlace f m e))
    Rounded f f.qmin mode (valueOf (.fin neg m e)) r ∧ |r| = magnitude f (roundedCode f mode neg m e) ∧
      ((lastBits f mode neg m e).2 = true ↔ r ≠ valueOf (.fin neg m e)) := by
  have low : f.qmin ≤ lastPlace f m e := le_max_right _ _
  have size := mantissa_lt f hm e (show freeExponent f m e ≤ lastPlace f m e from le_max_left _ _)
  have hidden := hidden_lastPlace (f := f) hm e
  refine ⟨rounded_quantize fb_pos low size hidden, ?_, inexact_iff⟩
  exact (abs_valueOf_fin _ _ _).trans (magnitude_codeOf low (quantize_le size) (hidden.imp_right le_quantize)).symm

theorem decode_roundedCode (regular : Regular f) (le : roundedCode f mode neg m e ≤ f.maxCode) :
    f.signed neg (roundedCode f mode neg m e) < 2 ^ (1 + f.eb + f.fb) ∧
      (∃ m' e', f.decode (f.signed neg (roundedCode f mode neg m e)) = .fin neg m' e') ∧
      valueOf (f.decode (f.signed neg (roundedCode f mode neg m e))) = valueOf (.fin neg (lastBits f mode neg m e).1 (lastPlace f m e)) := by
  have size := (rounded_lastBits hm e mode neg regular.fb_pos).2.1
  have code := decode_signed regular neg le
  rw [abs_valueOf_fin] at size
  refine ⟨signed_lt neg (lt_of_le_of_lt le (maxCode_lt f)), ⟨_, _, code⟩, ?_⟩
  rw [code, valueOf_fin, valueOf_fin, size, magnitude]

/-- The number rounded with an exponent without a bound, which says whether it is tiny. -/
theorem rounded_freeBits (fb_pos : 1 ≤ f.fb) :
    let t := valueOf (.fin neg (freeBits f mode neg m e) (freeExponent f m e))
    Rounded f (min (freeExponent f m e) f.qmin) mode (valueOf (.fin neg m e)) t ∧
      (tiny f mode neg m e = true ↔ |t| < (2 : ℚ) ^ (f.qmin + f.fb)) := by
  have size := mantissa_lt f hm e (le_refl (freeExponent f m e))
  have le := le_mantissa f hm e
  refine ⟨rounded_quantize fb_pos (min_le_left _ _) size (.inr le), ?_⟩
  rw [abs_valueOf_fin]
  exact tiny_iff (le_quantize le) (quantize_le size)

end RoundFin

theorem roundsTo_zero {f : FloatFmt} (regular : Regular f) (mode : Round) (neg : Bool) : RoundsTo f mode neg 0 (f.signed neg 0, 0) := by
  have number := decode_signed regular neg (Nat.zero_le _)
  have value : valueOf (f.decode (f.signed neg 0)) = 0 := by
    rw [number, valueOf_fin]
    simp [significand]
  have rounded := rounded_of_roundedInt (q := f.qmin) le_rfl (by exact_mod_cast roundedInt_self mode 0) regular.fb_pos le_rfl
    (by positivity) (.inl rfl)
  rw [Int.cast_zero, zero_mul] at rounded
  refine ⟨0, rounded, fun _ => ?_, fun above => ?_⟩
  · exact ⟨signed_lt neg (Nat.two_pow_pos _), ⟨_, _, number⟩, value, by simp, by simp, fun _ => rfl, fun some_ => absurd rfl some_⟩
  · rw [valueOf_maxCode regular, abs_zero] at above
    exact absurd above (not_lt.2 (magnitude_nonneg f _))

/-- `roundFin` rounds a number once. -/
theorem roundFin_roundsTo {f : FloatFmt} (regular : Regular f) (mode : Round) (neg : Bool) (m : Nat) (e : Int) :
    RoundsTo f mode neg (valueOf (.fin neg m e)) (f.roundFin mode neg m e) := by
  by_cases hm : m = 0
  · rw [show f.roundFin mode neg m e = _ from if_pos hm, hm, valueOf_fin, Nat.cast_zero, zero_mul, mul_zero]
    exact roundsTo_zero regular mode neg
  have some_ : valueOf (.fin neg m e) ≠ 0 := by
    rw [← abs_ne_zero, abs_valueOf_fin]
    positivity
  obtain ⟨rounded, size, inexact⟩ := rounded_lastBits (f := f) hm e mode neg regular.fb_pos
  obtain ⟨free, tiny_⟩ := rounded_freeBits (f := f) hm e mode neg regular.fb_pos
  have order := (magnitude_strictMono f).le_iff_le (a := roundedCode f mode neg m e) (b := f.maxCode)
  rw [← size, ← valueOf_maxCode regular] at order
  refine ⟨_, rounded, fun within => ?_, fun above => ?_⟩
  · have le := order.1 within
    obtain ⟨code, number, value⟩ := decode_roundedCode hm e mode neg regular le
    obtain ⟨others, nx, uf⟩ := excIf_NX_UF (lastBits f mode neg m e).2 (tiny f mode neg m e)
    rw [roundFin_of_le hm e mode neg le]
    refine ⟨code, number, value, others, nx.trans inexact, fun zero => absurd zero some_, fun _ => ?_⟩
    refine ⟨min (freeExponent f m e) f.qmin, _, min_le_right _ _, ?_, free, uf.trans (and_congr inexact tiny_)⟩
    rw [abs_valueOf_fin]
    exact binade_le f hm e (min_le_left _ _)
  · rw [roundFin_of_gt hm e mode neg (not_le.1 (mt order.2 (not_le.2 above))), ← overflowsToInf_iff]
    exact ⟨fun kind out => by rw [if_pos ⟨kind, out⟩], fun finite => by rw [if_neg (not_and_or.2 finite)]⟩

/-! ### Numbers of a format -/

/-- A number of a format is on its grid, and not above its greatest number. -/
theorem onGrid_of_decode {f : FloatFmt} (regular : Regular f) {c : Nat} {n : Bool} {m : Nat} {e : Int} (h : f.decode c = .fin n m e) :
    f.qmin ≤ e ∧ OnGrid f f.qmin (valueOf (.fin n m e)) ∧ |valueOf (.fin n m e)| ≤ valueOf (f.decode f.maxCode) := by
  have le := le_maxCode_of_isNumber (isNumber_iff.2 ⟨_, _, _, h⟩)
  have parts := (decode_of_le regular le).symm.trans h
  simp only [Num.fin.injEq] at parts
  obtain ⟨-, rfl, rfl⟩ := parts
  obtain ⟨low, size, -⟩ := normal_parts f (c % 2 ^ (f.eb + f.fb))
  refine ⟨low, ⟨_, _, size, low, abs_valueOf_fin _ _ _⟩, ?_⟩
  rw [abs_valueOf_fin, valueOf_maxCode regular]
  exact (magnitude_strictMono f).monotone le

/-- A number of the grid rounds to itself. -/
theorem eq_of_rounded {f : FloatFmt} {low : Int} {mode : Round} {x r : ℚ} (h : Rounded f low mode x r) (grid : OnGrid f low x) : r = x := by
  have best := h.2 x grid
  cases mode with
  | ne => exact (sub_eq_zero.1 (abs_eq_zero.1 (le_antisymm (by simpa using best.1) (abs_nonneg _)))).symm
  | na => exact (sub_eq_zero.1 (abs_eq_zero.1 (le_antisymm (by simpa using best.1) (abs_nonneg _)))).symm
  | up => exact le_antisymm (best.2 le_rfl) best.1
  | dn => exact le_antisymm best.1 (best.2 le_rfl)
  | tz =>
    obtain ⟨same, le, ge⟩ := best
    rcases abs_eq_abs.1 (le_antisymm le (ge le_rfl)) with eq | opposite
    · exact eq
    · rw [opposite, mul_neg] at same
      have : x = 0 := mul_self_eq_zero.1 (le_antisymm (by linarith) (mul_self_nonneg x))
      rw [opposite, this, neg_zero]

theorem exc_eq_zero : ∀ e : Exc, e &&& (excNV ||| excDZ ||| excOF) = 0 → e &&& excNX = 0 → e &&& excUF = 0 → e = 0 := by decide

/-- Rounding a number that the format has gives its code and raises nothing. -/
theorem exact_of_roundsTo {f : FloatFmt} {mode : Round} {neg : Bool} {x : ℚ} {c : Nat × Exc} (h : RoundsTo f mode neg x c)
    (grid : OnGrid f f.qmin x) (le : |x| ≤ valueOf (f.decode f.maxCode)) :
    c.1 < 2 ^ (1 + f.eb + f.fb) ∧ (∃ m e, f.decode c.1 = .fin neg m e) ∧ valueOf (f.decode c.1) = x ∧ c.2 = 0 := by
  obtain ⟨r, rounded, within, -⟩ := h
  obtain rfl := eq_of_rounded rounded grid
  obtain ⟨code, number, value, others, nx, zero, uf⟩ := within le
  refine ⟨code, number, value, ?_⟩
  by_cases some_ : r = 0
  · exact zero some_
  · obtain ⟨_, _, -, -, -, uf⟩ := uf some_
    exact exc_eq_zero _ others (not_ne_iff.1 fun h => nx.1 h rfl) (not_ne_iff.1 fun h => (uf.1 h).1 rfl)

/-- Where nothing overflows the result is the rounded number. -/
theorem number_of_roundsTo {f : FloatFmt} {mode : Round} {neg : Bool} {x : ℚ} {c : Nat × Exc} (h : RoundsTo f mode neg x c)
    (inside : c.2 &&& excOF = 0) : ∃ m e, f.decode c.1 = .fin neg m e ∧ Rounded f f.qmin mode x (valueOf (.fin neg m e)) := by
  obtain ⟨r, rounded, within, beyond⟩ := h
  rcases le_or_gt |r| (valueOf (f.decode f.maxCode)) with le | gt
  · obtain ⟨-, ⟨m, e, number⟩, value, -⟩ := within le
    exact ⟨m, e, number, by rwa [← number, value]⟩
  · have raised : c.2 = excOF ||| excNX := by
      obtain ⟨infinite, greatest⟩ := beyond gt
      by_cases out : f.kind = .ieee ∧ (mode = .ne ∨ mode = .na ∨ (mode = .up ∧ neg = false) ∨ (mode = .dn ∧ neg = true))
      · rw [infinite out.1 out.2]
      · rw [greatest (not_and_or.1 out)]
    rw [raised] at inside
    exact absurd inside (by decide)

/-! ### Rounding to nearest, in whole units (R90, R97) -/

/-- A number in units of 2^low. -/
def unitsOf (low : Int) (neg : Bool) (m : Nat) (e : Int) : Int := (if neg then -1 else 1) * (m * 2 ^ (e - low).toNat : Int)

theorem valueOf_eq_unitsOf {low e : Int} (h : low ≤ e) (neg : Bool) (m : Nat) :
    valueOf (.fin neg m e) = (unitsOf low neg m e : ℚ) * (2 : ℚ) ^ low := by
  obtain ⟨n, hn⟩ := Int.eq_ofNat_of_zero_le (sub_nonneg.2 h)
  rw [valueOf_fin, unitsOf, hn, Int.toNat_natCast, show e = n + low by omega, zpow_add₀ two_ne_zero, zpow_natCast]
  cases neg <;> push_cast <;> ring

theorem natAbs_unitsOf_le {x r v : Int} {low : Int}
    (h : |(x : ℚ) * (2 : ℚ) ^ low - r * (2 : ℚ) ^ low| ≤ |(x : ℚ) * (2 : ℚ) ^ low - v * (2 : ℚ) ^ low|) :
    (x - r).natAbs ≤ (x - v).natAbs := by
  have pos : (0 : ℚ) < (2 : ℚ) ^ low := zpow_pos two_pos low
  rw [← sub_mul, ← sub_mul, abs_mul, abs_mul, mul_le_mul_iff_left₀ (abs_pos.2 pos.ne')] at h
  have h' : |x - r| ≤ |x - v| := by exact_mod_cast h
  rw [Int.abs_eq_natAbs, Int.abs_eq_natAbs] at h'
  exact_mod_cast h'

theorem roundFin_nearest {f : FloatFmt} (regular : Regular f) (neg : Bool) (m : Nat) (e : Int)
    (inside : (f.roundFin .ne neg m e).2 &&& excOF = 0) :
    ∃ n' m' e', f.decode (f.roundFin .ne neg m e).1 = .fin n' m' e' ∧ ∀ c n c' q, f.decode c = .fin n c' q →
      (unitsOf (min e f.qmin) neg m e - unitsOf (min e f.qmin) n' m' e').natAbs ≤
        (unitsOf (min e f.qmin) neg m e - unitsOf (min e f.qmin) n c' q).natAbs := by
  obtain ⟨m', e', number, -, best⟩ := number_of_roundsTo (roundFin_roundsTo regular .ne neg m e) inside
  refine ⟨neg, m', e', number, fun c n c' q other => ?_⟩
  obtain ⟨low', -, -⟩ := onGrid_of_decode regular number
  obtain ⟨low, grid, -⟩ := onGrid_of_decode regular other
  have near := (best _ grid).1
  rw [valueOf_eq_unitsOf (min_le_left e f.qmin), valueOf_eq_unitsOf ((min_le_right e f.qmin).trans low'),
    valueOf_eq_unitsOf ((min_le_right e f.qmin).trans low)] at near
  exact natAbs_unitsOf_le near

/-! ### A format within another (R98) -/

/-- Every number of `f` is one of `g`. -/
structure Within (f g : FloatFmt) : Prop where
  bits : f.fb ≤ g.fb
  low : g.qmin ≤ f.qmin
  top : valueOf (f.decode f.maxCode) ≤ valueOf (g.decode g.maxCode)

theorem Within.onGrid {f g : FloatFmt} (h : Within f g) {v : ℚ} (grid : OnGrid f f.qmin v) : OnGrid g g.qmin v := by
  obtain ⟨k, q, size, low, value⟩ := grid
  exact ⟨k, q, size.trans_le (Nat.pow_le_pow_right two_pos (Nat.succ_le_succ h.bits)), h.low.trans low, value⟩

theorem within_f32_of_top {f : FloatFmt} {m : Nat} {e : Int} (bits : f.fb ≤ f32.fb) (low : f32.qmin ≤ f.qmin)
    (top : f.decode f.maxCode = .fin false m e) (le : (m : ℚ) * (2 : ℚ) ^ e ≤ 16777215 * 2 ^ 104) : Within f f32 := by
  refine ⟨bits, low, ?_⟩
  rw [top, show f32.decode f32.maxCode = .fin false 16777215 104 by decide, valueOf_fin, valueOf_fin]
  norm_num at le ⊢
  exact le

theorem within_f32 {f : FloatFmt} (h : f ∈ [bf16, f16, f8e4, f8e5, f6e3, f4e2]) : Within f f32 := by
  fin_cases h
  · exact within_f32_of_top (m := 255) (e := 120) (by decide) (by decide) (by decide) (by norm_num)
  · exact within_f32_of_top (m := 2047) (e := 5) (by decide) (by decide) (by decide) (by norm_num)
  · exact within_f32_of_top (m := 14) (e := 5) (by decide) (by decide) (by decide) (by norm_num)
  · exact within_f32_of_top (m := 7) (e := 13) (by decide) (by decide) (by decide) (by norm_num)
  · exact within_f32_of_top (m := 7) (e := 2) (by decide) (by decide) (by decide) (by norm_num)
  · exact within_f32_of_top (m := 3) (e := 1) (by decide) (by decide) (by decide) (by norm_num)

/-! ### Conversions between formats (R98) -/

theorem regular_narrow {f : FloatFmt} (h : f ∈ [bf16, f16, f8e4, f8e5, f6e3, f4e2]) : Regular f :=
  regular_of_mem (List.mem_cons_of_mem _ (List.mem_cons_of_mem _ h))

theorem regular_f32 : Regular f32 := regular_of_mem (by simp)

theorem toNat_ofNat_f32 {n : Nat} (h : n < 2 ^ (1 + f32.eb + f32.fb)) : (BitVec.ofNat 32 n).toNat = n := by
  rw [BitVec.toNat_ofNat]
  exact Nat.mod_eq_of_lt h

theorem cvtWiden_infinity {f : FloatFmt} {c : Nat} {n : Bool} (h : f.decode c = .inf n) :
    cvtWiden f c = (BitVec.ofNat 32 (f32.signed n f32.infCode), 0) := by
  simp only [cvtWiden, h]
  rfl

theorem cvtWiden_nan {f : FloatFmt} {c : Nat} {s : Bool} (h : f.decode c = .nan s) : cvtWiden f c = (0x7fc00000#32, if s then excNV else 0) := by
  simp only [cvtWiden, h]
  rfl

section Conversions
variable {f : FloatFmt} (narrow : f ∈ [bf16, f16, f8e4, f8e5, f6e3, f4e2]) {c : Nat}
include narrow

/-- Widening keeps sign and value, and raises nothing. -/
theorem cvtWiden_number {n : Bool} {m : Nat} {e : Int} (h : f.decode c = .fin n m e) :
    (∃ m' e', f32.decode (cvtWiden f c).1.toNat = .fin n m' e') ∧ valueOf (f32.decode (cvtWiden f c).1.toNat) = valueOf (.fin n m e) ∧
      (cvtWiden f c).2 = 0 := by
  obtain ⟨-, grid, le⟩ := onGrid_of_decode (regular_narrow narrow) h
  obtain ⟨code, number, value, clear⟩ := exact_of_roundsTo (roundFin_roundsTo regular_f32 .ne n m e) ((within_f32 narrow).onGrid grid)
    (le.trans (within_f32 narrow).top)
  have word : cvtWiden f c = (BitVec.ofNat 32 (f32.roundFin .ne n m e).1, (f32.roundFin .ne n m e).2) := by
    simp only [cvtWiden, h, FloatFmt.round]
  rw [word, toNat_ofNat_f32 code]
  exact ⟨number, value, clear⟩

/-- Narrowing a number that the format has gives back its code. -/
theorem cvtNarrow_of_decode (mode : Round) {a : Word32} {n : Bool} {m m' : Nat} {e e' : Int} (hc : c < 2 ^ (1 + f.eb + f.fb))
    (h : f.decode c = .fin n m e) (h' : f32.decode a.toNat = .fin n m' e') (same : valueOf (.fin n m' e') = valueOf (.fin n m e)) :
    cvtNarrow f mode a = (BitVec.ofNat 32 c, 0) := by
  have regular := regular_narrow narrow
  obtain ⟨-, grid, le⟩ := onGrid_of_decode regular h
  rw [← same] at grid le
  obtain ⟨code, ⟨_, _, number⟩, value, clear⟩ := exact_of_roundsTo (roundFin_roundsTo regular mode n m' e') grid le
  have back := eq_of_decode regular code hc number h (by rw [value, h, same])
  simp only [cvtNarrow, h', FloatFmt.round, back, clear]

end Conversions

end Sys2Proof.Rounding

/-!
PROOF. O8: the operations on data and on words, by their exact values (R90 to R92, R94 to R98).
Sums and products are exact numbers, infinities or NaNs (`addNum_number`, `mulNum_number`), which `roundFin_roundsTo` rounds once. F32 words other
than NaNs are ordered by their keys as the reals are (`keyValue_strictMonoOn`).
-/

namespace Sys2Proof.Operations

open Sys2Proof.Machine Sys2Proof.Spec Sys2Proof.FloatCodes Sys2Proof.Rounding Sys2Proof.ChainControl

/-! ### Data -/

@[simp] theorem valueOf_neg (x : Machine.Num) : valueOf x.neg = -valueOf x := by
  cases x with
  | fin n m e => cases n <;> simp [Num.neg, valueOf_fin]
  | _ => simp [Num.neg, valueOf]

@[simp] theorem isNan_neg (x : Machine.Num) : x.neg.isNan = x.isNan := by cases x <;> rfl
@[simp] theorem isInf_neg (x : Machine.Num) : x.neg.isInf = x.isInf := by cases x <;> rfl
@[simp] theorem isSignalling_neg (x : Machine.Num) : x.neg.isSignalling = x.isSignalling := by cases x <;> rfl
theorem isNeg_neg {x : Machine.Num} (h : x.isNan = false) : x.neg.isNeg = !x.isNeg := by
  cases x <;> simp_all [Num.neg, Num.isNeg, Num.isNan]
theorem isNumber_neg {x : Machine.Num} : IsNumber x.neg ↔ IsNumber x := by simp [IsNumber]

theorem isInf_iff {x : Machine.Num} : x.isInf = true ↔ ∃ n, x = .inf n := by cases x <;> simp [Num.isInf]
theorem isNan_iff {x : Machine.Num} : x.isNan = true ↔ ∃ s, x = .nan s := by cases x <;> simp [Num.isNan]

/-- A datum whose sign is that of a number's value, or of zero by choice. -/
theorem resultSign_self {mode : Round} {v : ℚ} {p : Bool} {m : Nat} {e : Int} (h : v = valueOf (.fin p m e)) : resultSign mode v p p = p := by
  have pos : (0 : ℚ) < (2 : ℚ) ^ e := zpow_pos two_pos e
  unfold resultSign
  split
  next some_ =>
    have hm : (0 : ℚ) < m := by
      refine lt_of_le_of_ne (Nat.cast_nonneg m) fun zero => some_ ?_
      rw [h, valueOf_fin, ← zero, zero_mul, mul_zero]
    have := mul_pos hm pos
    cases p <;> simp [h, valueOf_fin, this.le, this]
  next => exact if_pos rfl

/-! ### Sums (R90) -/

theorem addNum_nan {mode : Round} {x y : Machine.Num} (h : x.isNan = true ∨ y.isNan = true) :
    addNum mode x y = (.nan false, x.isSignalling || y.isSignalling) := by
  cases x <;> cases y <;> simp_all [addNum, Num.isNan, Num.isSignalling]

theorem addNum_clash {mode : Round} {x y : Machine.Num} (hx : x.isInf = true) (hy : y.isInf = true) (h : x.isNeg ≠ y.isNeg) :
    addNum mode x y = (.nan false, true) := by
  cases x <;> cases y <;> simp_all [addNum, Num.isInf, Num.isNeg]

theorem addNum_infinity {mode : Round} {x y : Machine.Num} (hx : x.isNan = false) (hy : y.isNan = false)
    (clash : ¬ (x.isInf = true ∧ y.isInf = true ∧ x.isNeg ≠ y.isNeg)) (h : x.isInf = true ∨ y.isInf = true) :
    addNum mode x y = (.inf (if x.isInf then x.isNeg else y.isNeg), false) := by
  cases x <;> cases y <;> simp_all [addNum, Num.isInf, Num.isNeg, Num.isNan]

theorem cast_signed_units (n : Bool) (m : Nat) {d q : Int} (h : q ≤ d) :
    (((if n then -((m * 2 ^ (d - q).toNat : Nat) : Int) else ((m * 2 ^ (d - q).toNat : Nat) : Int)) : Int) : ℚ) * (2 : ℚ) ^ q =
      valueOf (.fin n m d) := by
  rw [valueOf_eq_unitsOf h, unitsOf]
  cases n <;> simp

theorem withSign_natAbs (z : Int) : withSign (decide (z < 0)) z.natAbs = z := by
  unfold withSign
  split
  next neg =>
    have := of_decide_eq_true neg
    omega
  next pos =>
    have := of_decide_eq_false (Bool.eq_false_iff.2 pos)
    omega

/-- The sum of two numbers is exact, with the sign of R90. -/
theorem addNum_number (mode : Round) (a b : Bool) (m n : Nat) (d e : Int) :
    let v := valueOf (.fin a m d) + valueOf (.fin b n e)
    ∃ t q, addNum mode (.fin a m d) (.fin b n e) = (.fin (resultSign mode v a b) t q, false) ∧ valueOf (.fin (resultSign mode v a b) t q) = v := by
  intro v
  have left := cast_signed_units a m (min_le_left d e)
  have right := cast_signed_units b n (min_le_right d e)
  have pos : (0 : ℚ) < (2 : ℚ) ^ min d e := zpow_pos two_pos _
  simp only [addNum]
  generalize (if a then -((m * 2 ^ (d - min d e).toNat : Nat) : Int) else ((m * 2 ^ (d - min d e).toNat : Nat) : Int)) = x at left ⊢
  generalize (if b then -((n * 2 ^ (e - min d e).toNat : Nat) : Int) else ((n * 2 ^ (e - min d e).toNat : Nat) : Int)) = y at right ⊢
  have sum : v = ((x + y : Int) : ℚ) * (2 : ℚ) ^ min d e := by
    rw [Int.cast_add, add_mul, left, right]
  split
  next zero =>
    have none_ : v = 0 := by rw [sum, zero, Int.cast_zero, zero_mul]
    refine ⟨0, min d e, ?_, ?_⟩
    · simp [resultSign, none_]
    · rw [none_, valueOf_fin]
      simp
  next some_ =>
    have nonzero : v ≠ 0 := by
      rw [sum]
      exact mul_ne_zero (Int.cast_ne_zero.2 some_) pos.ne'
    have sign : resultSign mode v a b = decide (x + y < 0) := by
      have order := mul_lt_mul_iff_left₀ (b := ((x + y : Int) : ℚ)) (c := 0) pos
      rw [zero_mul, Int.cast_lt_zero] at order
      rw [resultSign, if_pos nonzero, sum, decide_eq_decide, order]
    refine ⟨(x + y).natAbs, min d e, by rw [sign], ?_⟩
    rw [sign, sum, valueOf_eq_withSign, withSign_natAbs]

/-! ### Products -/

/-- 0 times an infinity (R90). -/
def ZeroTimesInf (x y : Machine.Num) : Prop := (x.isInf = true ∧ y.isZero = true) ∨ (x.isZero = true ∧ y.isInf = true)

@[simp] theorem isZero_fin (n : Bool) (m : Nat) (e : Int) : (Num.fin n m e).isZero = decide (m = 0) := by cases m <;> rfl

@[simp] theorem isZero_inf (n : Bool) : (Num.inf n).isZero = false := rfl
@[simp] theorem isZero_nan (s : Bool) : (Num.nan s).isZero = false := rfl

theorem not_zeroTimesInf_of_nan {x y : Machine.Num} (h : x.isNan = true ∨ y.isNan = true) : ¬ ZeroTimesInf x y := by
  cases x <;> cases y <;> simp_all [ZeroTimesInf, Num.isNan, Num.isInf]

theorem mulNum_nan {x y : Machine.Num} (h : x.isNan = true ∨ y.isNan = true) :
    mulNum x y = (.nan false, x.isSignalling || y.isSignalling) := by
  cases x <;> cases y <;> simp_all [mulNum, Num.isNan, Num.isSignalling]

theorem mulNum_zeroTimesInf {x y : Machine.Num} (h : ZeroTimesInf x y) : mulNum x y = (.nan false, true) := by
  rcases h with ⟨hx, hy⟩ | ⟨hx, hy⟩ <;> cases x <;> cases y <;> simp_all [mulNum, Num.isInf]

theorem mulNum_infinity {x y : Machine.Num} (real : ¬ (x.isNan = true ∨ y.isNan = true)) (valid : ¬ ZeroTimesInf x y)
    (h : x.isInf = true ∨ y.isInf = true) : mulNum x y = (.inf (x.isNeg != y.isNeg), false) := by
  cases x <;> cases y <;> simp_all [mulNum, Num.isInf, Num.isNan, Num.isNeg, ZeroTimesInf]

theorem mulNum_number (a b : Bool) (m n : Nat) (d e : Int) :
    mulNum (.fin a m d) (.fin b n e) = (.fin (a != b) (m * n) (d + e), false) ∧
      valueOf (.fin (a != b) (m * n) (d + e)) = valueOf (.fin a m d) * valueOf (.fin b n e) := by
  refine ⟨rfl, ?_⟩
  rw [valueOf_fin, valueOf_fin, valueOf_fin, zpow_add₀ two_ne_zero]
  cases a <;> cases b <;> push_cast <;> simp <;> ring

/-- A product of data that are no NaNs, and not of zero and an infinity. -/
theorem mulNum_valid {x y : Machine.Num} (real : ¬ (x.isNan = true ∨ y.isNan = true)) (valid : ¬ ZeroTimesInf x y) :
    (mulNum x y).2 = false ∧ (mulNum x y).1.isNan = false ∧ (mulNum x y).1.isInf = (x.isInf || y.isInf) ∧
      (mulNum x y).1.isNeg = (x.isNeg != y.isNeg) := by
  by_cases infinite : x.isInf = true ∨ y.isInf = true
  · rw [mulNum_infinity real valid infinite, (Bool.or_eq_true _ _).mpr infinite]
    exact ⟨rfl, rfl, rfl, rfl⟩
  · have nx : IsNumber x := ⟨by simpa using (not_or.1 real).1, by simpa using (not_or.1 infinite).1⟩
    have ny : IsNumber y := ⟨by simpa using (not_or.1 real).2, by simpa using (not_or.1 infinite).2⟩
    obtain ⟨_, _, _, rfl⟩ := isNumber_iff.1 nx
    obtain ⟨_, _, _, rfl⟩ := isNumber_iff.1 ny
    exact ⟨rfl, rfl, rfl, rfl⟩

theorem not_signalling_of_real {x : Machine.Num} (h : x.isNan = false) : x.isSignalling = false := by
  cases x <;> simp_all [Num.isNan, Num.isSignalling]

theorem mulNum_isNan_iff (x y : Machine.Num) : (mulNum x y).1.isNan = true ↔ (x.isNan = true ∨ y.isNan = true) ∨ ZeroTimesInf x y := by
  by_cases nan : x.isNan = true ∨ y.isNan = true
  · exact iff_of_true (by rw [mulNum_nan nan]; rfl) (.inl nan)
  · by_cases zero : ZeroTimesInf x y
    · simp [mulNum_zeroTimesInf zero, zero, Num.isNan]
    · simp only [nan, zero, (mulNum_valid nan zero).2.1, or_self, Bool.false_eq_true]

theorem mulNum_invalid_iff (x y : Machine.Num) : ((mulNum x y).2 || (mulNum x y).1.isSignalling) = true ↔
    (x.isSignalling = true ∨ y.isSignalling = true) ∨ ZeroTimesInf x y := by
  by_cases nan : x.isNan = true ∨ y.isNan = true
  · rw [mulNum_nan nan, or_iff_left (not_zeroTimesInf_of_nan nan), ← Bool.or_eq_true]
    exact Iff.of_eq (congrArg (· = true) (Bool.or_false _))
  · obtain ⟨hx, hy⟩ := not_or.1 nan
    have sx := not_signalling_of_real (Bool.eq_false_iff.2 hx)
    have sy := not_signalling_of_real (Bool.eq_false_iff.2 hy)
    by_cases zero : ZeroTimesInf x y
    · simp [mulNum_zeroTimesInf zero, zero]
    · obtain ⟨valid, real, -⟩ := mulNum_valid nan zero
      simp [valid, not_signalling_of_real real, sx, sy, zero]

/-! ### Sums rounded once -/

theorem infinitySum_of_valid {f : FloatFmt} {bad : Prop} {i j p q : Bool} {c : Nat × Exc} (valid : ¬ bad) (h : InfinitySum f False i j p q c) :
    InfinitySum f bad i j p q c :=
  ⟨fun clash => h.1 (.inr (clash.resolve_left valid)), fun _ => h.2 not_false⟩

theorem infinitySum_of_bad {f : FloatFmt} {bad : Prop} {i j p q : Bool} {c : Nat × Exc} (h : bad) (nan : c = (f.nanCode, excNV)) :
    InfinitySum f bad i j p q c := ⟨fun _ => nan, fun valid => absurd h valid⟩

section Sum
variable {f : FloatFmt} (regular : Regular f) (ieee : f.kind = .ieee) (mode : Round) (x y : Machine.Num) (invalid : Bool)

/-- A sum rounded to a format, where one of its terms may be a NaN of an invalid operation. -/
def roundedSum (f : FloatFmt) (mode : Round) (x y : Machine.Num) (invalid : Bool) : Nat × Exc :=
  f.round mode (addNum mode x y).1 (invalid || (addNum mode x y).2)

variable {x y invalid}

theorem roundedSum_nan (h : x.isNan = true ∨ y.isNan = true) :
    roundedSum f mode x y invalid = (f.nanCode, excIf (invalid || (x.isSignalling || y.isSignalling)) excNV) := by
  rw [roundedSum, addNum_nan h]
  rfl

include ieee in
theorem roundedSum_infinity (hx : x.isNan = false) (hy : y.isNan = false) :
    InfinitySum f False x.isInf y.isInf x.isNeg y.isNeg (roundedSum f mode x y false) := by
  refine ⟨fun clash => ?_, fun _ same infinite => ?_⟩
  · obtain ⟨ix, iy, ne⟩ := clash.resolve_left not_false
    rw [roundedSum, addNum_clash ix iy ne]
    rfl
  · rw [roundedSum, addNum_infinity hx hy same infinite]
    exact if_pos ieee

include regular in
theorem roundedSum_number (hx : IsNumber x) (hy : IsNumber y) :
    RoundsTo f mode (resultSign mode (valueOf x + valueOf y) x.isNeg y.isNeg) (valueOf x + valueOf y) (roundedSum f mode x y false) := by
  obtain ⟨a, m, d, rfl⟩ := isNumber_iff.1 hx
  obtain ⟨b, n, e, rfl⟩ := isNumber_iff.1 hy
  obtain ⟨t, q, sum, value⟩ := addNum_number mode a b m n d e
  have rounds := roundFin_roundsTo regular mode (resultSign mode (valueOf (.fin a m d) + valueOf (.fin b n e)) a b) t q
  rw [value] at rounds
  rw [roundedSum, sum]
  exact rounds

end Sum

/-! ### The operations of R90 -/

/-- The code and the exceptions of a NaN, for its two causes. -/
theorem nan_gives {f : FloatFmt} {c : Nat × Exc} {b : Bool} {sig bad : Prop} (h : c = (f.nanCode, excIf b excNV)) (iff : b = true ↔ sig ∨ bad) :
    c.1 = f.nanCode ∧ (sig ∨ bad → c.2 = excNV) ∧ (¬ sig → ¬ bad → c.2 = 0) := by
  subst h
  refine ⟨rfl, fun raised => if_pos (iff.2 raised), fun quiet valid => if_neg fun raised => ?_⟩
  exact (iff.1 raised).elim quiet valid

section Fused
variable {f : FloatFmt} (mode : Round) {x y z : Machine.Num}

/-- `x * y + z`, rounded once. -/
def roundedFused (f : FloatFmt) (mode : Round) (x y z : Machine.Num) : Nat × Exc := f.round mode (fmaNum mode x y z).1 (fmaNum mode x y z).2

theorem roundedFused_eq_sum : roundedFused f mode x y z = roundedSum f mode (mulNum x y).1 z (mulNum x y).2 := rfl

theorem roundedFused_nan (h : ((x.isNan = true ∨ y.isNan = true) ∨ ZeroTimesInf x y) ∨ z.isNan = true) :
    ∃ b, roundedFused f mode x y z = (f.nanCode, excIf b excNV) ∧
      (b = true ↔ (x.isSignalling = true ∨ y.isSignalling = true ∨ z.isSignalling = true) ∨ ZeroTimesInf x y) := by
  refine ⟨_, roundedSum_nan mode (h.imp_left (mulNum_isNan_iff x y).2), ?_⟩
  rw [← Bool.or_assoc, Bool.or_eq_true, mulNum_invalid_iff]
  tauto

theorem roundedFused_infinity (ieee : f.kind = .ieee) (real : ¬ (x.isNan = true ∨ y.isNan = true)) (hz : z.isNan = false) :
    InfinitySum f (ZeroTimesInf x y) (x.isInf || y.isInf) z.isInf (x.isNeg != y.isNeg) z.isNeg (roundedFused f mode x y z) := by
  by_cases zero : ZeroTimesInf x y
  · obtain ⟨b, code, raised⟩ := roundedFused_nan (f := f) mode (.inl (.inr zero) : ((x.isNan = true ∨ y.isNan = true) ∨ _) ∨ z.isNan = true)
    rw [code, raised.2 (.inr zero)]
    exact infinitySum_of_bad zero rfl
  · obtain ⟨valid, hp, infinite, sign⟩ := mulNum_valid real zero
    rw [roundedFused_eq_sum, valid, ← infinite, ← sign]
    exact infinitySum_of_valid zero (roundedSum_infinity ieee mode hp hz)

theorem roundedFused_number (regular : Regular f) (hx : IsNumber x) (hy : IsNumber y) (hz : IsNumber z) :
    let v := valueOf x * valueOf y + valueOf z
    RoundsTo f mode (resultSign mode v (x.isNeg != y.isNeg) z.isNeg) v (roundedFused f mode x y z) := by
  obtain ⟨a, m, d, rfl⟩ := isNumber_iff.1 hx
  obtain ⟨b, n, e, rfl⟩ := isNumber_iff.1 hy
  obtain ⟨product, value⟩ := mulNum_number a b m n d e
  rw [roundedFused_eq_sum, product, ← value]
  exact roundedSum_number regular mode (isNumber_iff.2 ⟨_, _, _, rfl⟩) hz

end Fused

/-! ### The operations of R90 -/

section Operations
variable {f : FloatFmt} (regular : Regular f) (ieee : f.kind = .ieee) (mode : Round) (x y z : Machine.Num)
include regular ieee

theorem add_gives : OperationGives f .add mode x y z (roundedSum f mode x y false) := by
  simp only [OperationGives, reduceCtorEq, or_false, or_self, not_true, not_false_eq_true, false_and, IsEmpty.forall_iff, forall_const]
  refine ⟨fun nan => ?_, fun real => ?_, fun hx hy => roundedSum_number regular mode hx hy⟩
  · simpa using nan_gives (sig := x.isSignalling = true ∨ y.isSignalling = true) (bad := False)
      (roundedSum_nan mode (invalid := false) nan) (by simp)
  · exact roundedSum_infinity ieee mode (by simpa using (not_or.1 real).1) (by simpa using (not_or.1 real).2)

theorem sub_gives : OperationGives f .sub mode x y z (roundedSum f mode x y.neg false) := by
  simp only [OperationGives, reduceCtorEq, or_true, or_self, or_false, not_true, not_false_eq_true, false_and, IsEmpty.forall_iff, forall_const]
  refine ⟨fun nan => ?_, fun real => ?_, fun hx hy => ?_⟩
  · simpa using nan_gives (sig := x.isSignalling = true ∨ y.isSignalling = true) (bad := False)
      (roundedSum_nan mode (y := y.neg) (invalid := false) (by simpa using nan)) (by simp)
  · have hy : y.isNan = false := by simpa using (not_or.1 real).2
    have := roundedSum_infinity (y := y.neg) ieee mode (by simpa using (not_or.1 real).1) (by simpa using hy)
    rwa [isInf_neg, isNeg_neg hy] at this
  · have := roundedSum_number regular mode hx (isNumber_neg.2 hy)
    rwa [valueOf_neg, isNeg_neg hy.1, ← sub_eq_add_neg] at this

theorem mul_gives : OperationGives f .mul mode x y z (f.round mode (mulNum x y).1 (mulNum x y).2) := by
  simp only [OperationGives, reduceCtorEq, or_self, or_false, not_false_eq_true, true_and, false_and, IsEmpty.forall_iff, forall_const]
  refine ⟨fun nan => ?_, fun real => ?_, fun hx hy => ?_⟩
  · refine nan_gives (sig := x.isSignalling = true ∨ y.isSignalling = true) (bad := ZeroTimesInf x y)
      (b := x.isSignalling || y.isSignalling) (by rw [mulNum_nan nan]; rfl) ?_
    rw [or_iff_left (not_zeroTimesInf_of_nan nan), Bool.or_eq_true]
  · by_cases zero : ZeroTimesInf x y
    · exact infinitySum_of_bad zero (by rw [mulNum_zeroTimesInf zero]; rfl)
    · refine ⟨fun clash => absurd (clash.resolve_left zero).2.1 Bool.false_ne_true, fun _ _ infinite => ?_⟩
      have infinite' := (infinite.resolve_right Bool.false_ne_true)
      rw [mulNum_infinity real zero ((Bool.or_eq_true _ _).mp infinite'), infinite']
      exact if_pos ieee
  · obtain ⟨a, m, d, rfl⟩ := isNumber_iff.1 hx
    obtain ⟨b, n, e, rfl⟩ := isNumber_iff.1 hy
    obtain ⟨product, value⟩ := mulNum_number a b m n d e
    rw [product, ← value]
    have sign := resultSign_self (mode := mode) (p := a != b) (m := m * n) (e := d + e) rfl
    simp only [Num.isNeg, sign]
    exact roundFin_roundsTo regular mode (a != b) (m * n) (d + e)

theorem fma_gives : OperationGives f .fma mode x y z (roundedFused f mode x y z) := by
  simp only [OperationGives, reduceCtorEq, or_false, or_self, not_false_eq_true, true_and, forall_const]
  refine ⟨fun nan => ?_, fun real => ?_, fun hx hy hz => roundedFused_number mode regular hx hy hz⟩
  · obtain ⟨b, code, raised⟩ := roundedFused_nan (f := f) mode (x := x) (y := y) (z := z) (by tauto)
    exact nan_gives code raised
  · exact roundedFused_infinity mode ieee (by tauto) (by simpa using (not_or.1 (not_or.1 real).2).2)

theorem fms_gives : OperationGives f .fms mode x y z (roundedFused f mode x y z.neg) := by
  simp only [OperationGives, reduceCtorEq, or_true, or_self, not_false_eq_true, true_and, forall_const]
  refine ⟨fun nan => ?_, fun real => ?_, fun hx hy hz => ?_⟩
  · obtain ⟨b, code, raised⟩ := roundedFused_nan (f := f) mode (x := x) (y := y) (z := z.neg) (by rw [isNan_neg]; tauto)
    rw [isSignalling_neg] at raised
    exact nan_gives code raised
  · have hz : z.isNan = false := by simpa using (not_or.1 (not_or.1 real).2).2
    have := roundedFused_infinity (z := z.neg) mode ieee (show ¬ (x.isNan = true ∨ y.isNan = true) by tauto) (by simpa using hz)
    rwa [isInf_neg, isNeg_neg hz] at this
  · have := roundedFused_number mode regular hx hy (isNumber_neg.2 hz)
    rwa [valueOf_neg, isNeg_neg hz.1, ← sub_eq_add_neg] at this

end Operations

/-- Each operation of R90 on codes. -/
theorem fop_gives {f : FloatFmt} (regular : Regular f) (ieee : f.kind = .ieee) (op : FOp) (mode : Round) (a b c : Nat) :
    OperationGives f op mode (f.decode a) (f.decode b) (f.decode c) (fop f op mode a b c) := by
  cases op with
  | add => exact add_gives regular ieee mode _ _ _
  | sub => exact sub_gives regular ieee mode _ _ _
  | mul => exact mul_gives regular ieee mode _ _ _
  | fma => exact fma_gives regular ieee mode _ _ _
  | fms => exact fms_gives regular ieee mode _ _ _

/-! ### Results are codes of the format -/

theorem round_lt {f : FloatFmt} (regular : Regular f) (mode : Round) (x : Machine.Num) (invalid : Bool) :
    (f.round mode x invalid).1 < 2 ^ (1 + f.eb + f.fb) := by
  have infinity : ∀ n, f.signed n f.infCode < 2 ^ (1 + f.eb + f.fb) := fun n => signed_lt n (infCode_lt f)
  have greatest : ∀ n, f.signed n f.maxCode < 2 ^ (1 + f.eb + f.fb) := fun n => signed_lt n (maxCode_lt f)
  cases x with
  | nan s =>
    have := nanCode_lt regular
    exact this.trans (Nat.pow_lt_pow_right one_lt_two (by omega))
  | inf n =>
    simp only [FloatFmt.round]
    split
    · exact infinity n
    · exact greatest n
  | fin n m e =>
    obtain ⟨r, -, within, beyond⟩ := roundFin_roundsTo regular mode n m e
    rcases le_or_gt |r| (valueOf (f.decode f.maxCode)) with le | gt
    · exact (within le).1
    · obtain ⟨infinite, finite⟩ := beyond gt
      by_cases out : f.kind = .ieee ∧ (mode = .ne ∨ mode = .na ∨ (mode = .up ∧ n = false) ∨ (mode = .dn ∧ n = true))
      · exact (congrArg Prod.fst (infinite out.1 out.2)).trans_lt (infinity n)
      · exact (congrArg Prod.fst (finite (not_and_or.1 out))).trans_lt (greatest n)

theorem roundFin_lt {f : FloatFmt} (regular : Regular f) (mode : Round) (neg : Bool) (m : Nat) (e : Int) :
    (f.roundFin mode neg m e).1 < 2 ^ (1 + f.eb + f.fb) := round_lt regular mode (.fin neg m e) false

theorem fop_lt {f : FloatFmt} (regular : Regular f) (op : FOp) (mode : Round) (a b c : Nat) : (fop f op mode a b c).1 < 2 ^ (1 + f.eb + f.fb) :=
  round_lt regular mode _ _

/-! ### Packed forms (R90) -/

theorem bitsOf_low_half (a : Word32) : bitsOf a 15 0 = a.toNat % 65536 :=
  (bitsOf_eq a 15 0).trans (congrArg (· % 65536) (Nat.div_one _))

theorem bitsOf_high_half (a : Word32) : bitsOf a 31 16 = a.toNat / 65536 := by
  rw [bitsOf_eq]
  exact Nat.mod_eq_of_lt (by have := a.isLt; omega)

theorem halves_ofNat {low high : Nat} (hl : low < 65536) (hh : high < 65536) :
    (BitVec.ofNat 32 (high * 65536 + low)).toNat % 65536 = low ∧ (BitVec.ofNat 32 (high * 65536 + low)).toNat / 65536 = high := by
  rw [BitVec.toNat_ofNat]
  omega

theorem fopLane_packed {fn : BitVec 2} {f : FloatFmt} (h : (fn = 1#2 ∧ f = bf16) ∨ (fn = 2#2 ∧ f = f16)) (op : FOp) (mode : Round) (a b c : Word32) :
    let low := fop f op mode (a.toNat % 65536) (b.toNat % 65536) (c.toNat % 65536)
    let high := fop f op mode (a.toNat / 65536) (b.toNat / 65536) (c.toNat / 65536)
    fopLane fn op mode a b c = (BitVec.ofNat 32 (high.1 * 65536 + low.1), low.2 ||| high.2) := by
  rcases h with ⟨rfl, rfl⟩ | ⟨rfl, rfl⟩ <;>
  · simp only [fopLane, bitsOf_low_half, bitsOf_high_half]
    rfl

/-- The two halves of a packed result. -/
theorem fopLane_halves {fn : BitVec 2} {f : FloatFmt} (h : (fn = 1#2 ∧ f = bf16) ∨ (fn = 2#2 ∧ f = f16)) (op : FOp) (mode : Round) (a b c : Word32) :
    let low := fop f op mode (a.toNat % 65536) (b.toNat % 65536) (c.toNat % 65536)
    let high := fop f op mode (a.toNat / 65536) (b.toNat / 65536) (c.toNat / 65536)
    let r := fopLane fn op mode a b c
    r.1.toNat % 65536 = low.1 ∧ r.1.toNat / 65536 = high.1 ∧ r.2 = low.2 ||| high.2 := by
  have small : ∀ x y z, (fop f op mode x y z).1 < 65536 := by
    rcases h with ⟨rfl, rfl⟩ | ⟨rfl, rfl⟩
    · exact fop_lt (regular_of_mem (by simp)) op mode
    · exact fop_lt (regular_of_mem (by simp)) op mode
  intro low high r
  have packed : r = _ := fopLane_packed h op mode a b c
  rw [packed]
  obtain ⟨lower, upper⟩ := halves_ofNat (small _ _ _) (small _ _ _)
  exact ⟨lower, upper, rfl⟩

/-! ### The sum of two products (R94) -/

section Dot
variable (mode : Round) (x0 y0 x1 y1 : Machine.Num)

/-- `x0 * y0 + x1 * y1`, rounded once to F32. -/
def roundedDot : Nat × Exc :=
  roundedSum f32 mode (mulNum x0 y0).1 (mulNum x1 y1).1 ((mulNum x0 y0).2 || (mulNum x1 y1).2)

theorem dot2_code (f : FloatFmt) (a b : Word32) :
    ((dot2 f mode a b).1.toNat, (dot2 f mode a b).2) = roundedDot mode (f.decode (a.toNat % 65536)) (f.decode (b.toNat % 65536))
      (f.decode (a.toNat / 65536)) (f.decode (b.toNat / 65536)) := by
  simp only [dot2, bitsOf_low_half, bitsOf_high_half]
  exact Prod.ext (toNat_ofNat_f32 (round_lt regular_f32 mode _ _)) rfl

variable {x0 y0 x1 y1}

theorem roundedDot_nan (h : ((x0.isNan = true ∨ y0.isNan = true) ∨ ZeroTimesInf x0 y0) ∨ (x1.isNan = true ∨ y1.isNan = true) ∨ ZeroTimesInf x1 y1) :
    ∃ b, roundedDot mode x0 y0 x1 y1 = (f32.nanCode, excIf b excNV) ∧ (b = true ↔
      ((x0.isSignalling = true ∨ y0.isSignalling = true) ∨ ZeroTimesInf x0 y0) ∨
      (x1.isSignalling = true ∨ y1.isSignalling = true) ∨ ZeroTimesInf x1 y1) := by
  refine ⟨_, roundedSum_nan mode (h.imp (mulNum_isNan_iff x0 y0).2 (mulNum_isNan_iff x1 y1).2), ?_⟩
  rw [← mulNum_invalid_iff, ← mulNum_invalid_iff]
  simp only [Bool.or_eq_true]
  tauto

theorem exists_mem_four {p : Machine.Num → Prop} {w x y z : Machine.Num} : (∃ d ∈ [w, x, y, z], p d) ↔ (p w ∨ p x) ∨ p y ∨ p z := by
  simp only [List.mem_cons, List.not_mem_nil, or_false, exists_eq_or_imp, exists_eq_left, or_assoc]

theorem forall_mem_four {p : Machine.Num → Prop} {w x y z : Machine.Num} : (∀ d ∈ [w, x, y, z], p d) ↔ (p w ∧ p x) ∧ p y ∧ p z := by
  simp only [List.mem_cons, List.not_mem_nil, or_false, forall_eq_or_imp, forall_eq, and_assoc]

/-- A NaN among the four operands gives the canonical NaN, with NV for a signalling one and for an invalid product. -/
theorem roundedDot_nan_operand (h : ∃ d ∈ [x0, y0, x1, y1], d.isNan = true) :
    ∃ b, roundedDot mode x0 y0 x1 y1 = (f32.nanCode, excIf b excNV) ∧
      (b = true ↔ (∃ d ∈ [x0, y0, x1, y1], d.isSignalling = true) ∨ ZeroTimesInf x0 y0 ∨ ZeroTimesInf x1 y1) := by
  obtain ⟨b, code, raised⟩ := roundedDot_nan mode ((exists_mem_four.1 h).imp .inl .inl)
  exact ⟨b, code, by rw [raised, exists_mem_four, or_or_or_comm]⟩

theorem roundedDot_infinity (real0 : ¬ (x0.isNan = true ∨ y0.isNan = true)) (real1 : ¬ (x1.isNan = true ∨ y1.isNan = true)) :
    InfinitySum f32 (ZeroTimesInf x0 y0 ∨ ZeroTimesInf x1 y1) (x0.isInf || y0.isInf) (x1.isInf || y1.isInf)
      (x0.isNeg != y0.isNeg) (x1.isNeg != y1.isNeg) (roundedDot mode x0 y0 x1 y1) := by
  by_cases zero : ZeroTimesInf x0 y0 ∨ ZeroTimesInf x1 y1
  · obtain ⟨b, code, raised⟩ := roundedDot_nan mode (zero.imp .inr .inr)
    rw [code, raised.2 (zero.imp .inr .inr)]
    exact infinitySum_of_bad zero rfl
  · obtain ⟨zero0, zero1⟩ := not_or.1 zero
    obtain ⟨valid0, hp0, infinite0, sign0⟩ := mulNum_valid real0 zero0
    obtain ⟨valid1, hp1, infinite1, sign1⟩ := mulNum_valid real1 zero1
    rw [roundedDot, valid0, valid1, ← infinite0, ← infinite1, ← sign0, ← sign1]
    exact infinitySum_of_valid zero (roundedSum_infinity rfl mode hp0 hp1)

theorem roundedDot_number (hx0 : IsNumber x0) (hy0 : IsNumber y0) (hx1 : IsNumber x1) (hy1 : IsNumber y1) :
    let v := valueOf x0 * valueOf y0 + valueOf x1 * valueOf y1
    RoundsTo f32 mode (resultSign mode v (x0.isNeg != y0.isNeg) (x1.isNeg != y1.isNeg)) v (roundedDot mode x0 y0 x1 y1) := by
  obtain ⟨a, m, d, rfl⟩ := isNumber_iff.1 hx0
  obtain ⟨b, n, e, rfl⟩ := isNumber_iff.1 hy0
  obtain ⟨a', m', d', rfl⟩ := isNumber_iff.1 hx1
  obtain ⟨b', n', e', rfl⟩ := isNumber_iff.1 hy1
  obtain ⟨product, value⟩ := mulNum_number a b m n d e
  obtain ⟨product', value'⟩ := mulNum_number a' b' m' n' d' e'
  rw [roundedDot, product, product', ← value, ← value']
  exact roundedSum_number regular_f32 mode (isNumber_iff.2 ⟨_, _, _, rfl⟩) (isNumber_iff.2 ⟨_, _, _, rfl⟩)

end Dot

/-! ### F32 words (R91, R92) -/

/-- The code of a word's magnitude. -/
theorem bitsOf_magnitude (a : Word32) : bitsOf a 30 0 = a.toNat % 2 ^ 31 := by
  rw [bitsOf_eq, Nat.pow_zero, Nat.div_one]

theorem sign_of_word (a : Word32) : decide (a.toNat / 2 ^ (f32.eb + f32.fb) % 2 = 1) = a.getLsbD 31 := by
  rw [BitVec.getLsbD, Nat.testBit_eq_decide_div_mod_eq]
  rfl

theorem decode_word_number {a : Word32} (h : a.toNat % 2 ^ 31 < f32.infCode) :
    f32.decode a.toNat = .fin (a.getLsbD 31) (significand f32 (a.toNat % 2 ^ 31)) (exponent f32 (a.toNat % 2 ^ 31)) := by
  rw [← sign_of_word]
  exact decode_of_le regular_f32 (Nat.le_sub_one_of_lt h)

theorem decode_word_infinity {a : Word32} (h : a.toNat % 2 ^ 31 = f32.infCode) : f32.decode a.toNat = .inf (a.getLsbD 31) := by
  rw [← sign_of_word]
  unfold FloatFmt.decode
  rw [if_pos ⟨rfl, h.ge⟩]
  exact if_pos (by rw [show a.toNat % 2 ^ (f32.eb + f32.fb) = f32.infCode from h]; decide)

theorem decode_word_nan {a : Word32} (h : f32.infCode < a.toNat % 2 ^ 31) : (f32.decode a.toNat).isNan = true := by
  unfold FloatFmt.decode
  rw [if_pos ⟨rfl, h.le⟩]
  have fraction : ¬ a.toNat % 2 ^ (f32.eb + f32.fb) % 2 ^ f32.fb = 0 := by
    have code : f32.infCode = 2139095040 := by decide
    have bits : f32.eb + f32.fb = 31 := rfl
    have lt := Nat.mod_lt a.toNat (Nat.two_pow_pos 31)
    rw [code] at h
    rw [bits, show f32.fb = 23 from rfl]
    omega
  simp only [if_neg fraction]
  rfl

/-- A number by its key. -/
def signedMagnitude (k : Int) : ℚ := if k < 0 then -magnitude f32 k.natAbs else magnitude f32 k.natAbs

theorem signedMagnitude_strictMono : StrictMono signedMagnitude := by
  intro j k lt
  have order := magnitude_strictMono f32
  unfold signedMagnitude
  by_cases hj : j < 0
  · by_cases hk : k < 0
    · rw [if_pos hj, if_pos hk, neg_lt_neg_iff]
      exact order (by omega)
    · rw [if_pos hj, if_neg hk]
      have pos : 0 < magnitude f32 j.natAbs := (magnitude_zero f32).symm.trans_lt (order (by omega))
      linarith [magnitude_nonneg f32 k.natAbs]
  · rw [if_neg hj, if_neg (by omega)]
    exact order (by omega)

/-- What a key stands for, in the order of the reals with the infinities outermost. -/
def keyValue (k : Int) : WithBot (WithTop ℚ) :=
  if k = f32.infCode then ((⊤ : WithTop ℚ) : WithBot (WithTop ℚ)) else if k = -f32.infCode then ⊥
  else ((signedMagnitude k : WithTop ℚ) : WithBot (WithTop ℚ))

theorem keyValue_strictMonoOn : StrictMonoOn keyValue {k | -(f32.infCode : Int) ≤ k ∧ k ≤ f32.infCode} := by
  rintro j ⟨lowj, -⟩ k ⟨-, highk⟩ lt
  unfold keyValue
  rw [if_neg (show j ≠ f32.infCode by omega), if_neg (show k ≠ -f32.infCode by omega)]
  by_cases bottom : j = -f32.infCode
  · rw [if_pos bottom]
    split <;> exact WithBot.bot_lt_coe _
  · rw [if_neg bottom]
    split
    · exact WithBot.coe_lt_coe.2 (WithTop.coe_lt_top _)
    · exact WithBot.coe_lt_coe.2 (WithTop.coe_lt_coe.2 (signedMagnitude_strictMono lt))

theorem extValue_word {a : Word32} (real : (f32.decode a.toNat).isNan = false) :
    extValue (f32.decode a.toNat) = keyValue (f32Key a) ∧ -(f32.infCode : Int) ≤ f32Key a ∧ f32Key a ≤ f32.infCode := by
  have key : f32Key a = if a.getLsbD 31 then -((a.toNat % 2 ^ 31 : Nat) : Int) else (a.toNat % 2 ^ 31 : Nat) := by rw [f32Key, bitsOf_magnitude]
  have pos := infCode_pos regular_f32
  rcases lt_trichotomy (a.toNat % 2 ^ 31) f32.infCode with lt | eq | gt
  · have value : signedMagnitude (f32Key a) = valueOf (f32.decode a.toNat) := by
      rw [decode_word_number lt, valueOf_fin, key, signedMagnitude]
      change _ = _ * magnitude f32 _
      generalize a.toNat % 2 ^ 31 = c
      cases a.getLsbD 31
      · simp
      · rcases Nat.eq_zero_or_pos c with rfl | some_
        · simp
        · simp [some_]
    refine ⟨?_, by rw [key]; split <;> omega⟩
    rw [keyValue, if_neg (by rw [key]; split <;> omega), if_neg (by rw [key]; split <;> omega), value, decode_word_number lt]
    rfl
  · rw [decode_word_infinity eq, key, eq]
    cases a.getLsbD 31
    · exact ⟨(if_pos rfl).symm, by simp, le_rfl⟩
    · refine ⟨?_, le_rfl, by simp⟩
      rw [keyValue, if_neg (by simp; omega), if_pos (by simp)]
      rfl
  · exact absurd (decode_word_nan gt) (by rw [real]; decide)

section Order
variable {a b : Word32} (ha : (f32.decode a.toNat).isNan = false) (hb : (f32.decode b.toNat).isNan = false)
include ha hb

theorem extValue_lt_iff : extValue (f32.decode a.toNat) < extValue (f32.decode b.toNat) ↔ f32Key a < f32Key b := by
  rw [(extValue_word ha).1, (extValue_word hb).1]
  exact keyValue_strictMonoOn.lt_iff_lt (extValue_word ha).2 (extValue_word hb).2

theorem extValue_le_iff : extValue (f32.decode a.toNat) ≤ extValue (f32.decode b.toNat) ↔ f32Key a ≤ f32Key b := by
  rw [(extValue_word ha).1, (extValue_word hb).1]
  exact keyValue_strictMonoOn.le_iff_le (extValue_word ha).2 (extValue_word hb).2

theorem extValue_eq_iff : extValue (f32.decode a.toNat) = extValue (f32.decode b.toNat) ↔ f32Key a = f32Key b := by
  rw [(extValue_word ha).1, (extValue_word hb).1]
  exact keyValue_strictMonoOn.eq_iff_eq (extValue_word ha).2 (extValue_word hb).2

end Order

/-- A comparison holds of data that are no NaNs, by their keys. -/
theorem compare_iff {a b : Word32} {p : Prop} [Decidable p] {q : Prop}
    (h : (f32.decode a.toNat).isNan = false → (f32.decode b.toNat).isNan = false → (p ↔ q)) :
    (!(f32IsNan a || f32IsNan b) && decide p) = true ↔ ¬ ((f32.decode a.toNat).isNan = true ∨ (f32.decode b.toNat).isNan = true) ∧ q := by
  simp only [f32IsNan, Bool.and_eq_true, Bool.not_eq_true', Bool.or_eq_false_iff, decide_eq_true_iff, not_or, Bool.not_eq_true]
  exact and_congr_right fun real => h real.1 real.2

theorem raises_excIf {b : Bool} {p : Prop} (h : b = true ↔ p) : (p → excIf b excNV = excNV) ∧ (¬ p → excIf b excNV = 0) :=
  ⟨fun hp => if_pos (h.2 hp), fun hp => if_neg (mt h.1 hp)⟩

/-! ### Minimum and maximum (R91) -/

/-- The order with -0 below +0 refines that of the keys. -/
theorem key_le_of_key0_le {a b : Word32} (h : f32Key0 a ≤ f32Key0 b) : f32Key a ≤ f32Key b := by
  unfold f32Key0 at h
  unfold f32Key
  split at h <;> split at h <;> simp only [*, if_true, if_false, Bool.false_eq_true] <;> omega

/-- The operand that a minimum or maximum of data other than NaNs picks. -/
def picked (greater : Bool) (a b : Word32) : Word32 :=
  if (if greater then decide (f32Key0 b < f32Key0 a) else decide (f32Key0 a < f32Key0 b)) then a else b

theorem minMaxF32_exc (greater num : Bool) (a b : Word32) : (minMaxF32 greater num a b).2 = excIf (f32IsSnan a || f32IsSnan b) excNV := by
  unfold minMaxF32
  split_ifs <;> rfl

theorem picked_mem (greater : Bool) (a b : Word32) : picked greater a b = a ∨ picked greater a b = b := ite_eq_or_eq _ _ _

theorem picked_min (a b : Word32) : picked false a b = if f32Key0 a < f32Key0 b then a else b := by simp [picked]

theorem picked_max (a b : Word32) : picked true a b = if f32Key0 b < f32Key0 a then a else b := by simp [picked]

theorem key0_picked_min (a b : Word32) : f32Key0 (picked false a b) ≤ f32Key0 a ∧ f32Key0 (picked false a b) ≤ f32Key0 b := by
  rw [picked_min]
  split
  next less => exact ⟨le_rfl, less.le⟩
  next ge => exact ⟨not_lt.1 ge, le_rfl⟩

theorem key0_picked_max (a b : Word32) : f32Key0 a ≤ f32Key0 (picked true a b) ∧ f32Key0 b ≤ f32Key0 (picked true a b) := by
  rw [picked_max]
  split
  next more => exact ⟨le_rfl, more.le⟩
  next le => exact ⟨not_lt.1 le, le_rfl⟩

theorem key0_zeros : f32Key0 0x80000000#32 = -1 ∧ f32Key0 0 = 0 := by decide

/-- A minimum with -0 is not +0, a maximum with +0 not -0. -/
theorem picked_min_ne_zero {a b : Word32} (h : a = 0x80000000#32 ∨ b = 0x80000000#32) : picked false a b ≠ 0 := by
  intro zero
  obtain ⟨lea, leb⟩ := key0_picked_min a b
  rw [zero, key0_zeros.2] at lea leb
  rcases h with rfl | rfl
  · rw [key0_zeros.1] at lea; omega
  · rw [key0_zeros.1] at leb; omega

theorem picked_max_ne_negZero {a b : Word32} (h : a = 0 ∨ b = 0) : picked true a b ≠ 0x80000000#32 := by
  intro zero
  obtain ⟨gea, geb⟩ := key0_picked_max a b
  rw [zero, key0_zeros.1] at gea geb
  rcases h with rfl | rfl
  · rw [key0_zeros.2] at gea; omega
  · rw [key0_zeros.2] at geb; omega

section MinMax
variable {greater num : Bool} {a b : Word32}

theorem minMaxF32_real (ha : (f32.decode a.toNat).isNan = false) (hb : (f32.decode b.toNat).isNan = false) :
    (minMaxF32 greater num a b).1 = picked greater a b := by
  simp only [minMaxF32, f32IsNan, ha, hb, Bool.and_self, Bool.false_eq_true, if_false]
  rfl

theorem minMaxF32_nans (ha : (f32.decode a.toNat).isNan = true) (hb : (f32.decode b.toNat).isNan = true) :
    (minMaxF32 greater num a b).1 = nan32 := by
  simp only [minMaxF32, f32IsNan, ha, hb, Bool.and_self, if_true]

theorem minMaxF32_nan_left (ha : (f32.decode a.toNat).isNan = true) (hb : (f32.decode b.toNat).isNan = false) :
    (minMaxF32 greater num a b).1 = if num then b else nan32 := by
  simp only [minMaxF32, f32IsNan, ha, hb, Bool.and_false, Bool.false_eq_true, if_true, if_false]

theorem minMaxF32_nan_right (ha : (f32.decode a.toNat).isNan = false) (hb : (f32.decode b.toNat).isNan = true) :
    (minMaxF32 greater num a b).1 = if num then a else nan32 := by
  simp only [minMaxF32, f32IsNan, ha, hb, Bool.and_true, Bool.false_eq_true, if_true, if_false]

theorem minMaxF32_nan (h : (f32.decode a.toNat).isNan = true ∨ (f32.decode b.toNat).isNan = true) : (minMaxF32 greater false a b).1 = nan32 := by
  cases ha : (f32.decode a.toNat).isNan <;> cases hb : (f32.decode b.toNat).isNan
  · simp [ha, hb] at h
  · exact minMaxF32_nan_right ha hb
  · exact minMaxF32_nan_left ha hb
  · exact minMaxF32_nans ha hb

/-- The picked operand is no NaN, and lies as the reals do. -/
theorem picked_order (ha : (f32.decode a.toNat).isNan = false) (hb : (f32.decode b.toNat).isNan = false) :
    let z := extValue (f32.decode (picked greater a b).toNat)
    (greater = false → z ≤ extValue (f32.decode a.toNat) ∧ z ≤ extValue (f32.decode b.toNat)) ∧
      (greater = true → extValue (f32.decode a.toNat) ≤ z ∧ extValue (f32.decode b.toNat) ≤ z) := by
  have real : (f32.decode (picked greater a b).toNat).isNan = false := by
    rcases picked_mem greater a b with eq | eq <;> rw [eq]
    · exact ha
    · exact hb
  intro z
  rw [extValue_le_iff real ha, extValue_le_iff real hb, extValue_le_iff ha real, extValue_le_iff hb real]
  refine ⟨fun least => ?_, fun greatest => ?_⟩
  · subst least
    exact (key0_picked_min a b).imp key_le_of_key0_le key_le_of_key0_le
  · subst greatest
    exact (key0_picked_max a b).imp key_le_of_key0_le key_le_of_key0_le

end MinMax

/-! ### Rounding to an integer (R95, R97) -/

section Word
variable {a : Word32} {n : Bool} {m : Nat} {e : Int} (h : f32.decode a.toNat = .fin n m e)
include h

theorem sign_of_decode : a.getLsbD 31 = n := by
  have le := le_maxCode_of_isNumber (isNumber_iff.2 ⟨_, _, _, h⟩)
  have parts := (decode_of_le regular_f32 le).symm.trans h
  rw [← sign_of_word]
  exact (Num.fin.inj parts).1

theorem significand_lt : m < 2 ^ (f32.fb + 1) := by
  have le := le_maxCode_of_isNumber (isNumber_iff.2 ⟨_, _, _, h⟩)
  have parts := (decode_of_le regular_f32 le).symm.trans h
  rw [← (Num.fin.inj parts).2.1]
  exact (normal_parts f32 _).size

end Word

/-- An integer of an F32 significand's size is an F32 number. -/
theorem roundFin_integer (n : Bool) {k : Nat} (hk : k ≤ 2 ^ (f32.fb + 1)) :
    let c := (f32.roundFin .ne n k 0).1
    c < 2 ^ (1 + f32.eb + f32.fb) ∧ (∃ m e, f32.decode c = .fin n m e) ∧ valueOf (f32.decode c) = withSign n k := by
  have size := abs_valueOf_fin n k 0
  have grid : OnGrid f32 f32.qmin (valueOf (.fin n k 0)) := onGrid_of_le (by decide) hk size
  have top : |valueOf (.fin n k 0)| ≤ valueOf (f32.decode f32.maxCode) := by
    have le : (k : ℚ) ≤ 2 ^ 24 := by exact_mod_cast hk
    rw [size, show f32.decode f32.maxCode = .fin false 16777215 104 by decide, valueOf_fin]
    norm_num at le ⊢
    linarith
  obtain ⟨code, number, value, -⟩ := exact_of_roundsTo (roundFin_roundsTo regular_f32 .ne n k 0) grid top
  refine ⟨code, number, value.trans ?_⟩
  rw [valueOf_eq_withSign, zpow_zero, mul_one]

theorem valueOf_integer (n : Bool) (m : Nat) {e : Int} (h : m = 0 ∨ 0 ≤ e) : ∃ z : Int, valueOf (.fin n m e) = z := by
  rcases h with rfl | pos
  · exact ⟨0, by simp [valueOf_fin]⟩
  · obtain ⟨t, rfl⟩ := Int.eq_ofNat_of_zero_le pos
    exact ⟨withSign n m * 2 ^ t, by rw [valueOf_eq_withSign, zpow_natCast]; push_cast; rfl⟩

/-- `frnd` gives an integral number of the same sign, and raises nothing. -/
theorem rndF32_number (mode : Round) {a : Word32} (h : IsNumber (f32.decode a.toNat)) :
    ∃ n : Int, RoundedInt mode (valueOf (f32.decode a.toNat)) n ∧ IsNumber (f32.decode (rndF32 mode a).1.toNat) ∧
      valueOf (f32.decode (rndF32 mode a).1.toNat) = n ∧ (rndF32 mode a).1.getLsbD 31 = a.getLsbD 31 ∧ (rndF32 mode a).2 = 0 := by
  obtain ⟨n, m, e, code⟩ := isNumber_iff.1 h
  by_cases whole : m = 0 ∨ 0 ≤ e
  · have same : rndF32 mode a = (a, 0) := by
      simp only [rndF32, code]
      exact if_pos whole
    obtain ⟨z, hz⟩ := valueOf_integer n m whole
    rw [same, code, hz]
    exact ⟨z, roundedInt_self mode z, isNumber_iff.2 ⟨_, _, _, rfl⟩, rfl, rfl, rfl⟩
  · have result : rndF32 mode a = (BitVec.ofNat 32 (f32.roundFin .ne n (quantize mode n m e 0).1 0).1, 0) := by
      simp only [rndF32, code]
      exact if_neg whole
    have size : (m : ℚ) * (2 : ℚ) ^ (e - 0) < 2 ^ (f32.fb + 1) := by
      have lt : (m : ℚ) < 2 ^ (f32.fb + 1) := by exact_mod_cast significand_lt code
      refine lt_of_le_of_lt (mul_le_of_le_one_right (Nat.cast_nonneg m) ?_) lt
      exact zpow_le_one_of_nonpos₀ one_le_two (by omega)
    obtain ⟨lt, ⟨m', e', number⟩, value⟩ := roundFin_integer n (quantize_le (mode := mode) (neg := n) size)
    have rounded := (quantize_rounded mode n m e 0).1
    rw [sub_zero] at rounded
    have sign := sign_of_decode (a := BitVec.ofNat 32 (f32.roundFin .ne n (quantize mode n m e 0).1 0).1) (by rwa [toNat_ofNat_f32 lt])
    refine ⟨_, by rw [code]; exact rounded, ?_⟩
    rw [result, toNat_ofNat_f32 lt, sign, sign_of_decode code]
    exact ⟨isNumber_iff.2 ⟨_, _, _, number⟩, value, rfl, rfl⟩

theorem rndF32_infinity (mode : Round) {a : Word32} {n : Bool} (h : f32.decode a.toNat = .inf n) : rndF32 mode a = (a, 0) := by
  simp only [rndF32, h]

theorem rndF32_nan (mode : Round) {a : Word32} {s : Bool} (h : f32.decode a.toNat = .nan s) :
    rndF32 mode a = (0x7fc00000#32, if s then excNV else 0) := by
  simp only [rndF32, h]
  rfl

/-- A conversion to an integer rounds, and saturates with NV. -/
theorem cvtInt_number (mode : Round) {lo hi : Int} (range : lo ≤ hi) {a : Word32} (h : IsNumber (f32.decode a.toNat)) :
    ∃ n : Int, RoundedInt mode (valueOf (f32.decode a.toNat)) n ∧ cvtInt mode lo hi a =
      (BitVec.ofInt 32 (max lo (min hi n)), if n < lo ∨ hi < n then excNV else if (n : ℚ) = valueOf (f32.decode a.toNat) then 0 else excNX) := by
  obtain ⟨n, m, e, code⟩ := isNumber_iff.1 h
  obtain ⟨rounded, inexact⟩ := quantize_rounded mode n m e 0
  rw [sub_zero] at rounded inexact
  refine ⟨_, by rw [code]; exact rounded, ?_⟩
  simp only [cvtInt, code]
  change (if withSign n (quantize mode n m e 0).1 < lo then _ else if hi < withSign n (quantize mode n m e 0).1 then _ else
    (BitVec.ofInt 32 (withSign n (quantize mode n m e 0).1), _)) = _
  generalize withSign n (quantize mode n m e 0).1 = v at *
  by_cases below : v < lo
  · rw [if_pos below, if_pos (.inl below), max_eq_left (by omega)]
  · by_cases above : hi < v
    · rw [if_neg below, if_pos above, if_pos (.inr above), min_eq_left above.le, max_eq_right range]
    · rw [if_neg below, if_neg above, if_neg (by omega), min_eq_right (by omega), max_eq_right (by omega)]
      by_cases same : (v : ℚ) = valueOf (.fin n m e)
      · rw [if_pos same, excIf, if_neg (mt inexact.1 (not_not.2 same))]
      · rw [if_neg same, excIf, if_pos (inexact.2 same)]

theorem cvtInt_infinity (mode : Round) (lo hi : Int) {a : Word32} {n : Bool} (h : f32.decode a.toNat = .inf n) :
    cvtInt mode lo hi a = (BitVec.ofInt 32 (if n then lo else hi), excNV) := by
  simp only [cvtInt, h]

theorem cvtInt_nan (mode : Round) (lo hi : Int) {a : Word32} {s : Bool} (h : f32.decode a.toNat = .nan s) : cvtInt mode lo hi a = (0, excNV) := by
  simp only [cvtInt, h]

theorem cvtFromInt_roundsTo (mode : Round) (v : Int) :
    RoundsTo f32 mode (decide (v < 0)) v ((cvtFromInt mode v).1.toNat, (cvtFromInt mode v).2) := by
  have value : valueOf (.fin (decide (v < 0)) v.natAbs 0) = v := by
    rw [valueOf_eq_withSign, withSign_natAbs, zpow_zero, mul_one]
  have rounds := roundFin_roundsTo regular_f32 mode (decide (v < 0)) v.natAbs 0
  rw [value] at rounds
  rw [cvtFromInt, toNat_ofNat_f32 (roundFin_lt regular_f32 mode _ _ _)]
  exact rounds

/-! ### Narrowing (R97, R98) -/

section Narrow
variable {f : FloatFmt} (narrow : f ∈ [bf16, f16, f8e4, f8e5, f6e3, f4e2]) (mode : Round) {a : Word32}

include narrow in
theorem cvtNarrow_number (h : IsNumber (f32.decode a.toNat)) :
    RoundsTo f mode (f32.decode a.toNat).isNeg (valueOf (f32.decode a.toNat)) ((cvtNarrow f mode a).1.toNat, (cvtNarrow f mode a).2) := by
  obtain ⟨n, m, e, code⟩ := isNumber_iff.1 h
  have bits : 2 ^ (1 + f.eb + f.fb) ≤ 2 ^ 32 := by fin_cases narrow <;> decide
  have lt := (roundFin_lt (regular_narrow narrow) mode n m e).trans_le bits
  have word : cvtNarrow f mode a = (BitVec.ofNat 32 (f.roundFin mode n m e).1, (f.roundFin mode n m e).2) := by
    simp only [cvtNarrow, code, FloatFmt.round]
  rw [word, BitVec.toNat_ofNat, Nat.mod_eq_of_lt lt, code]
  exact roundFin_roundsTo (regular_narrow narrow) mode n m e

theorem cvtNarrow_infinity {n : Bool} (h : f32.decode a.toNat = .inf n) : cvtNarrow f mode a =
    if f.kind = .ieee then (BitVec.ofNat 32 (f.signed n f.infCode), 0) else (BitVec.ofNat 32 (f.signed n f.maxCode), excOF ||| excNX) := by
  simp only [cvtNarrow, h, FloatFmt.round]
  split <;> rfl

theorem cvtNarrow_nan {s : Bool} (h : f32.decode a.toNat = .nan s) : cvtNarrow f mode a =
    (BitVec.ofNat 32 f.nanCode, if f.kind = .plain then excNV else if s then excNV else 0) := by
  simp only [cvtNarrow, h, FloatFmt.round, Num.isSignalling]
  by_cases plain : f.kind = .plain <;> cases s <;> simp [plain, excIf]

end Narrow

/-! ### The codes of `fcvt` (R96) -/

theorem cvtLane_narrow (mode : Round) (a : Word32) :
    ∀ e ∈ ([(4, f16), (7, bf16), (10, f8e4), (11, f8e5), (12, f6e3), (13, f4e2)] : List (BitVec 6 × FloatFmt)),
      cvtLane e.1 mode a = cvtNarrow e.2 mode a := by
  simp only [List.forall_mem_cons]
  exact ⟨rfl, rfl, rfl, rfl, rfl, rfl, nofun⟩

theorem cvtLane_widen (mode : Round) (a : Word32) :
    ∀ e ∈ ([(5, f16, 0, 16), (6, f16, 16, 16), (8, bf16, 0, 16), (9, bf16, 16, 16), (14, f8e4, 0, 8), (15, f8e5, 0, 8), (16, f6e3, 0, 6),
        (17, f4e2, 0, 4)] : List (BitVec 6 × FloatFmt × Nat × Nat)),
      cvtLane e.1 mode a = cvtWiden e.2.1 (a.toNat / 2 ^ e.2.2.1 % 2 ^ e.2.2.2) := by
  have field : ∀ f hi lo, cvtWiden f (bitsOf a hi lo) = cvtWiden f (a.toNat / 2 ^ lo % 2 ^ (hi + 1 - lo)) := fun f hi lo => by rw [bitsOf_eq]
  simp only [List.forall_mem_cons]
  exact ⟨field f16 15 0, field f16 31 16, field bf16 15 0, field bf16 31 16, field f8e4 7 0, field f8e5 7 0, field f6e3 5 0, field f4e2 3 0, nofun⟩

theorem excIf_NV (b : Bool) : (excIf b excNV = excNV ∨ excIf b excNV = 0) ∧ (excIf b excNV = excNV ↔ b = true) := by
  cases b <;> decide

/-- A word with the code of a NaN. -/
theorem eq_nan32 {w : Word32} (h : w.toNat = f32.nanCode) : w = 0x7fc00000#32 := BitVec.eq_of_toNat_eq h

/-- Settles O8: each conversion, operation and comparison by its exact value, rounded once. -/
theorem numberFormats : Obligations.NumberFormats := by
  unfold Obligations.NumberFormats
  refine ⟨?roundTrip, ?nearest, ?operations, ?packed, ?dot, ?compare, ?convert, ?widen⟩
  case roundTrip =>
    intro f narrow mode c code real finite
    obtain ⟨n, m, e, number⟩ := isNumber_iff.1 ⟨real, finite⟩
    obtain ⟨⟨m', e', wide⟩, value, clear⟩ := cvtWiden_number narrow number
    exact ⟨clear, cvtNarrow_of_decode narrow mode code number wide (by rw [← wide, value])⟩
  case nearest =>
    intro f hf neg m e inside
    have regular : Regular f := by fin_cases hf <;> exact ⟨by decide, by decide⟩
    obtain ⟨n', m', e', number, near⟩ := roundFin_nearest regular neg m e inside
    exact ⟨n', m', e', number, fun c _ => near c⟩
  case operations =>
    intro f hf op mode a b c
    have regular : Regular f := by fin_cases hf <;> exact ⟨by decide, by decide⟩
    have ieee : f.kind = .ieee := by fin_cases hf <;> rfl
    exact fop_gives regular ieee op mode a b c
  case packed => exact fun op mode a b c => ⟨rfl, fun fn f h => fopLane_halves h op mode a b c⟩
  case dot =>
    intro f _ mode a b x0 y0 x1 y1 r c data bad sum p q
    have result : c = roundedDot mode x0 y0 x1 y1 := dot2_code mode f a b
    clear_value x0 y0 x1 y1
    refine ⟨fun nan => ?_, fun real => ?_, fun numbers => ?_⟩
    · obtain ⟨v, code, raised⟩ := roundedDot_nan_operand mode nan
      have exc : c.2 = excIf v excNV := congrArg Prod.snd (result.trans code)
      rw [exc]
      exact ⟨eq_nan32 (congrArg Prod.fst (result.trans code)), (excIf_NV v).1, (excIf_NV v).2.trans raised⟩
    · obtain ⟨⟨hx0, hy0⟩, hx1, hy1⟩ := forall_mem_four.1 real
      rw [result]
      exact roundedDot_infinity mode (by simp [hx0, hy0]) (by simp [hx1, hy1])
    · obtain ⟨⟨hx0, hy0⟩, hx1, hy1⟩ := forall_mem_four.1 numbers
      rw [result]
      exact roundedDot_number mode hx0 hy0 hx1 hy1
  case compare =>
    intro a b x y nan signalling raises
    have anyNan : (f32IsNan a || f32IsNan b) = true ↔ nan := Bool.or_eq_true _ _ ▸ Iff.rfl
    have anySignalling : (f32IsSnan a || f32IsSnan b) = true ↔ signalling := Bool.or_eq_true _ _ ▸ Iff.rfl
    refine ⟨compare_iff fun ha hb => (extValue_eq_iff ha hb).symm, compare_iff fun ha hb => (extValue_lt_iff ha hb).symm,
      compare_iff fun ha hb => (extValue_le_iff ha hb).symm, anyNan, raises_excIf anySignalling, raises_excIf anyNan, raises_excIf anyNan,
      raises_excIf anySignalling, fun greater num => ?_⟩
    intro r z
    refine ⟨?_, fun real => ?_, fun some_ form => ?_, fun ha hb => minMaxF32_nans ha hb, fun form ha hb => ?_, fun form ha hb => ?_⟩
    · rw [minMaxF32_exc]
      exact raises_excIf anySignalling
    · have ha : x.isNan = false := by simpa using (not_or.1 real).1
      have hb : y.isNan = false := by simpa using (not_or.1 real).2
      have result : r = picked greater a b := minMaxF32_real ha hb
      simp only [z, result]
      obtain ⟨least, greatest⟩ := picked_order (greater := greater) ha hb
      refine ⟨picked_mem greater a b, least, greatest, fun form zero => ?_, fun form zero => ?_⟩
      · subst form
        exact picked_min_ne_zero zero
      · subst form
        exact picked_max_ne_negZero zero
    · subst form
      exact minMaxF32_nan some_
    · exact (minMaxF32_nan_left ha hb).trans (if_pos form)
    · exact (minMaxF32_nan_right ha hb).trans (if_pos form)
  case convert =>
    intro mode a x nv
    refine ⟨rndF32_number mode, fun infinite => ?_, fun nan => ?_, fun lo hi range => ⟨?_, fun infinite => ?_, fun nan => ?_⟩,
      fun f narrow => ⟨cvtNarrow_number narrow mode, fun infinite => ?_, fun nan => ?_⟩, fun v _ _ => cvtFromInt_roundsTo mode v,
      rfl, rfl, rfl, rfl, cvtLane_narrow mode a, cvtLane_widen mode a⟩
    · obtain ⟨n, code⟩ := isInf_iff.1 infinite
      exact rndF32_infinity mode code
    · obtain ⟨s, code⟩ := isNan_iff.1 nan
      simp only [nv, x, code]
      exact rndF32_nan mode code
    · exact cvtInt_number mode (by omega)
    · obtain ⟨n, code⟩ := isInf_iff.1 infinite
      simp only [x, code]
      exact cvtInt_infinity mode lo hi code
    · obtain ⟨s, code⟩ := isNan_iff.1 nan
      exact cvtInt_nan mode lo hi code
    · obtain ⟨n, code⟩ := isInf_iff.1 infinite
      simp only [x, code]
      exact cvtNarrow_infinity mode code
    · obtain ⟨s, code⟩ := isNan_iff.1 nan
      simp only [nv, x, code]
      exact cvtNarrow_nan mode code
  case widen =>
    intro f narrow c _ x r
    refine ⟨fun number => ?_, fun infinite => ?_, fun nan => ?_⟩
    · obtain ⟨n, m, e, code⟩ := isNumber_iff.1 number
      obtain ⟨⟨m', e', wide⟩, value, clear⟩ := cvtWiden_number narrow code
      exact ⟨isNumber_iff.2 ⟨_, _, _, wide⟩, by rw [value, code], clear⟩
    · obtain ⟨n, code⟩ := isInf_iff.1 infinite
      simp only [x, code]
      exact cvtWiden_infinity code
    · obtain ⟨s, code⟩ := isNan_iff.1 nan
      simp only [x, code]
      exact cvtWiden_nan code

end Sys2Proof.Operations

/-!
PROOF. O9: uniform instructions, `smov` and `sysr` (R108 to R116).
The scalar words act through `State.uni`, and the words that read a register outside the ladle's own through `State.outside`; what each shape
writes and leaves is said once, and what is left for a word is its value.
-/

namespace Sys2Proof.Uniform

open Sys2Proof.Machine Sys2Proof.Spec Sys2Proof.Completion Sys2Proof.LaneWords Sys2Proof.ExtendedBlock

/-! ### The shared shapes of the uniform words -/

section Shapes
variable {i : Instr} {s : State} {d : BitVec 6} {x : Word64}

/-- A scalar word writes its value, which it has read before the write. -/
theorem uniWrites_of_exec {v : Word64} (act : exec i s = .next { s with me := (s.me.issued.setS d v).advance }) (value : v = x) :
    UniWrites i s d x := by
  refine issues_of_exec (f := fun l => l.setS d v) act rfl ⟨⟨?_, fun r other => Ladle.getS_setS_other _ _ other⟩, rfl⟩
  rw [Ladle.getS_setS_self, value]

/-- A value from outside the registers, with room in the load-value queue for it. -/
theorem outsideWrites_of_outside (room : s.valuesFull = false) (act : exec i s = .next (s.outside d x)) : OutsideWrites i s d x :=
  issues_of_exec (act.trans (congrArg _ (if_neg (ne_true_of_eq_false room)))) rfl ⟨uniformWritten_setOutside _ _ _ _ rfl, rfl⟩

end Shapes

/-! ### Words and integers, of any width (R108, R109) -/

section Width
variable {w : Nat}

theorem satS_clamps (pos : 0 < w) (x : Int) : satS w x = satSigned w x := by
  obtain ⟨n, rfl⟩ : ∃ n, w = n + 1 := ⟨w - 1, by omega⟩
  have half : (0 : Int) < 2 ^ n := by positivity
  unfold satS satSigned
  push_cast
  congr 1
  split <;> [skip; split] <;> omega

theorem satN_clamps (x : Int) : satN w x = satUnsigned w x := by
  have full : (0 : Int) < 2 ^ w := by positivity
  unfold satN satUnsigned
  push_cast
  congr 1
  split <;> [skip; split] <;> omega

/-- The digit above the lowest, in a base. -/
theorem emod_sq_ediv {b : Int} (pos : 0 < b) (x : Int) : x % (b * b) / b = x / b % b := by
  have above : x % (b * b) = x + b * -(b * (x / b / b)) := by
    rw [Int.emod_def, Int.ediv_ediv_of_nonneg pos.le]
    ring
  rw [above, Int.add_mul_ediv_left _ _ pos.ne', Int.emod_def]
  ring

/-- The upper half of a double-width product is its floor quotient. -/
theorem mulHi_is_highHalf (x y : Int) : mulHi w x y = highHalf w (x * y) := by
  have base : (0 : Int) < (2 ^ w : Nat) := by positivity
  apply BitVec.eq_of_toNat_eq
  zify
  simp only [mulHi, highHalf, BitVec.toNat_ofInt, BitVec.extractLsb'_toNat, Nat.shiftRight_eq_div_pow, Int.natCast_mod, Int.natCast_ediv,
    Int.toNat_of_nonneg (Int.emod_nonneg _ base.ne'), Nat.two_mul, Nat.pow_add, Nat.cast_mul]
  rw [Int.toNat_of_nonneg (Int.emod_nonneg _ (mul_pos base base).ne'), emod_sq_ediv base, Int.emod_emod_of_dvd _ dvd_rfl]

theorem add_eq (x y : BitVec w) : x + y = BitVec.ofNat w (x.toNat + y.toNat) := BitVec.eq_of_toNat_eq (by simp)

theorem mul_eq (x y : BitVec w) : x * y = BitVec.ofNat w (x.toNat * y.toNat) := BitVec.eq_of_toNat_eq (by simp)

theorem ofInt_toNat (x : BitVec w) : BitVec.ofInt w x.toNat = x := by
  rw [BitVec.ofInt_natCast, BitVec.ofNat_toNat, BitVec.setWidth_eq]

theorem sub_eq (x y : BitVec w) : x - y = BitVec.ofInt w ((x.toNat : Int) - y.toNat) := by
  rw [BitVec.sub_eq_add_neg, sub_eq_add_neg, BitVec.ofInt_add, BitVec.ofInt_neg, ofInt_toNat, ofInt_toNat]

theorem add_signExtend_eq {n : Nat} (x : BitVec w) (i : BitVec n) : x + i.signExtend w = BitVec.ofInt w ((x.toNat : Int) + i.toInt) := by
  rw [BitVec.ofInt_add, ofInt_toNat, BitVec.signExtend]

theorem minSigned_eq (x y : BitVec w) : (if x.toInt ≤ y.toInt then x else y) = BitVec.ofInt w (min x.toInt y.toInt) := by
  rw [min_def, apply_ite (BitVec.ofInt w), BitVec.ofInt_toInt, BitVec.ofInt_toInt]

theorem maxSigned_eq (x y : BitVec w) : (if x.toInt ≤ y.toInt then y else x) = BitVec.ofInt w (max x.toInt y.toInt) := by
  rw [max_def, apply_ite (BitVec.ofInt w), BitVec.ofInt_toInt, BitVec.ofInt_toInt]

theorem minUnsigned_eq (x y : BitVec w) : (if x.toNat ≤ y.toNat then x else y) = BitVec.ofNat w (min x.toNat y.toNat) := by
  rw [min_def, apply_ite (BitVec.ofNat w), BitVec.ofNat_toNat, BitVec.ofNat_toNat, BitVec.setWidth_eq, BitVec.setWidth_eq]

theorem maxUnsigned_eq (x y : BitVec w) : (if x.toNat ≤ y.toNat then y else x) = BitVec.ofNat w (max x.toNat y.toNat) := by
  rw [max_def, apply_ite (BitVec.ofNat w), BitVec.ofNat_toNat, BitVec.ofNat_toNat, BitVec.setWidth_eq, BitVec.setWidth_eq]

/-- Bits below a multiple of a power of two. -/
theorem ofNat_or_low (a : Nat) {b k : Nat} (low : b < 2 ^ k) :
    BitVec.ofNat w (a * 2 ^ k) ||| BitVec.ofNat w b = BitVec.ofNat w (a * 2 ^ k + b) := by
  apply BitVec.eq_of_toNat_eq
  rw [BitVec.toNat_or, BitVec.toNat_ofNat, BitVec.toNat_ofNat, BitVec.toNat_ofNat, ← Nat.or_mod_two_pow, ← Nat.shiftLeft_eq,
    Nat.shiftLeft_add_eq_or_of_lt low]

/-- A value shifted up, with another below it. -/
theorem shiftLeft_or_zeroExtend {n : Nat} (x : BitVec w) (i : BitVec n) :
    x <<< n ||| i.zeroExtend w = BitVec.ofNat w (x.toNat * 2 ^ n + i.toNat) := by
  have shifted : x <<< n = BitVec.ofNat w (x.toNat * 2 ^ n) := BitVec.eq_of_toNat_eq (by simp [Nat.shiftLeft_eq])
  rw [shifted, ← ofNat_or_low _ i.isLt, BitVec.ofNat_toNat]

/-- A bit of a mask is set where the mask's list holds it. -/
theorem getLsbD_maskOf (l : List Nat) {j : Nat} (hj : j < w) : (maskOf w l).getLsbD j = l.contains j := by
  have all : ∀ (l : List Nat) (m : BitVec w), (l.foldl (fun m i => m ||| BitVec.ofNat w (2 ^ i)) m).getLsbD j = (m.getLsbD j || l.contains j) := by
    intro l
    induction l with
    | nil => simp
    | cons i r ih =>
      intro m
      have one : (BitVec.ofNat w (2 ^ i)).getLsbD j = (j == i) := by
        simp only [BitVec.getLsbD_ofNat, hj, decide_true, Bool.true_and, Nat.testBit_two_pow, beq_eq_decide, eq_comm]
      rw [List.foldl_cons, ih, BitVec.getLsbD_or, one, List.contains_cons, Bool.or_assoc]
  exact (all l 0).trans (by simp)

/-- The lowest set bit, from bit w - n up. -/
theorem findFirst_eq_find (x : BitVec w) : ∀ n ≤ w, findFirst x n = ((List.range' (w - n) n).find? (fun j => x.getLsbD j)).getD w
  | 0, _ => rfl
  | n + 1, h => by
    have next : w - (n + 1) + 1 = w - n := by omega
    rw [findFirst, List.range'_succ, List.find?_cons, next]
    split
    next set => simp [set]
    next clear => simp [clear, findFirst_eq_find x n (by omega)]

end Width

/-- The condition that a fn of `scmp` names. -/
def comparisonHolds (c : Nat) (x y : Word64) : Bool :=
  match c with
  | 0 => decide (x = y)
  | 1 => decide (x ≠ y)
  | 2 => decide (x.toInt < y.toInt)
  | _ => decide (x.toNat < y.toNat)

theorem compareS_eq_comparisonHolds (f : BitVec 2) (x y : Word64) : compareS f x y = comparisonHolds f.toNat x y := by
  unfold compareS
  rcases f.toNat with _ | _ | _ | _
  · exact beq_eq_decide x y
  · exact (congrArg not (beq_eq_decide x y)).trans (decide_not).symm
  · rfl
  · rfl

/-! ### `smov` to a mask (R111) -/

/-- The lanes whose bits it writes. -/
def maskLanes (l : Ladle) : Word32 := if l.control then l.sp.mask &&& 1#32 else l.sp.mask

theorem getLsbD_maskLanes (l : Ladle) (j : Nat) : (maskLanes l).getLsbD j = (l.sp.mask.getLsbD j && (!l.control || j == 0)) := by
  unfold maskLanes
  cases l.control <;> simp [BitVec.getLsbD_one, beq_eq_decide]

theorem setK_get_self (l : Ladle) {k : BitVec 3} (hk : k ≠ 0) (m x : Word32) {j : Nat} (hj : j < 32) :
    ((l.setK k m x).k.get k.toFin).getLsbD j = if m.getLsbD j then x.getLsbD j else (l.k.get k.toFin).getLsbD j := by
  have written : (l.setK k m x).k.get k.toFin = (l.k.get k.toFin &&& ~~~m) ||| (x &&& m) := by
    simp only [Ladle.setK, hk, if_false, get_of_val]
    exact Vector.getElem_set_self _
  rw [written, BitVec.getLsbD_or, BitVec.getLsbD_and, BitVec.getLsbD_and, BitVec.getLsbD_not, decide_eq_true hj, Bool.true_and]
  cases m.getLsbD j <;> simp

theorem setK_get_other (l : Ladle) {k q : BitVec 3} (m x : Word32) (h : q ≠ k ∨ q = 0) : (l.setK k m x).k.get q.toFin = l.k.get q.toFin := by
  unfold Ladle.setK
  split
  · rfl
  next hk =>
    have hq : q ≠ k := h.elim id fun zero => zero ▸ Ne.symm hk
    have apart : k.toNat ≠ q.toNat := fun e => hq (BitVec.eq_of_toNat_eq e).symm
    simp only [get_of_val]
    exact Vector.getElem_set_ne _ _ apart

theorem setK_changes (l : Ladle) (k : BitVec 3) (m x : Word32) : l.setK k m x = { l with k := (l.setK k m x).k } := by
  unfold Ladle.setK
  split <;> rfl

/-! ### Special registers (R112 to R116) -/

theorem leader_eq (l : Ladle) : l.leader = ((List.range 32).find? (fun j => l.sp.mask.getLsbD j)).getD 32 := by
  rw [Ladle.leader, findFirst_eq_find _ 32 le_rfl, List.range_eq_range']

/-- %pkg is the package number's 10 bits (R112). -/
theorem and_tenBits (x : Word64) : x &&& 0x3ff = BitVec.ofNat 64 (x.toNat % 1024) := by
  apply BitVec.eq_of_toNat_eq
  rw [BitVec.toNat_and, BitVec.toNat_ofNat, show (0x3ff : Word64).toNat = 2 ^ 10 - 1 from rfl, Nat.and_two_pow_sub_one_eq_mod]
  omega

theorem special_eq_specialValue (s : State) (n : Nat) : s.special n = specialValue s n := by
  match n with
  | 0 => simp only [State.special, specialValue, leader_eq]
  | 1 => simp only [State.special, specialValue, leader_eq]
  | 6 => simp only [State.special, specialValue, and_tenBits]
  | 14 => exact congrArg some (BitVec.ofNat_toNat 64 s.me.fmode).symm
  | 2 | 3 | 4 | 5 | 7 | 8 | 9 | 10 | 11 | 12 | 13 | 15 => rfl
  | _ + 16 => rfl

/-- A cluster's bit is set where the partition owns it (R115). -/
theorem getLsbD_partClusters (s : State) (p : Nat) {c : Nat} (hc : c < 64) :
    (s.partClusters p).getLsbD c = decide (FMap.get 0 s.owners c = p + 1) := by
  rw [State.partClusters, getLsbD_maskOf _ hc, List.contains_eq_mem]
  simp [hc]

section SystemRegister
variable {s : State} {n : Nat}

theorem sysRead_special (h : n < 0x40) : s.sysRead n = specialValue s n := (if_pos h).trans (special_eq_specialValue s n)

theorem sysRead_reserved (above : 0x44 ≤ n) (below : n < 0x100) : s.sysRead n = none := by
  unfold State.sysRead
  repeat rw [if_neg (by omega)]
  exact if_pos below

/-- A device register is read by a privileged ladle, and where it is open to the ladle's partition (R116). -/
theorem sysRead_device (device : 0x100 ≤ n) :
    s.sysRead n = if regAssigned n && (s.me.privileged || regOpen s.me.part n) then some (s.readReg n) else none := by
  unfold State.sysRead
  repeat rw [if_neg (by omega)]

end SystemRegister

section Read
variable {s : State} (d n : BitVec 6) (m : BitVec 13)

theorem smovSpecial_writes (room : s.valuesFull = false) {x : Word64} (value : s.special n.toNat = some x) : OutsideWrites (.smovSpecial d n) s d x :=
  outsideWrites_of_outside room (show execSmovSpecial d n s = _ by simp only [execSmovSpecial, value])

theorem smovSpecial_faults (none_ : s.special n.toNat = none) : Faults (.smovSpecial d n) s .illegal :=
  show execSmovSpecial d n s = _ by simp only [execSmovSpecial, none_]; rfl

theorem sysr_writes (room : s.valuesFull = false) {x : Word64} (value : s.sysRead m.toNat = some x) : OutsideWrites (.sysr d m) s d x :=
  outsideWrites_of_outside room (show execSysr d m s = _ by simp only [execSysr, value])

theorem sysr_faults (none_ : s.sysRead m.toNat = none) : Faults (.sysr d m) s .illegal :=
  show execSysr d m s = _ by simp only [execSysr, none_]; rfl

end Read

/-- Settles O9: the scalar words and moves by their values, and the special and system registers by what each number reads. -/
theorem uniformWords : Obligations.UniformWords := by
  unfold Obligations.UniformWords
  refine ⟨⟨?scalar, ?moves⟩, ?special, by decide, by decide, by decide, by decide, by decide⟩
  case scalar =>
    intro s f d a b x y truth
    have word : ∀ {i : Instr} {v z : Word64}, exec i s = .next { s with me := (s.me.issued.setS d v).advance } → v = z → UniWrites i s d z :=
      uniWrites_of_exec
    exact ⟨word rfl (add_eq _ _), word rfl (satS_clamps (by decide) _), word rfl (satN_clamps _),
      word rfl (sub_eq _ _), word rfl (satS_clamps (by decide) _), word rfl (satN_clamps _),
      word rfl (mul_eq _ _), word rfl (mulHi_is_highHalf _ _), word rfl (mulHi_is_highHalf _ _),
      word rfl rfl, word rfl rfl, word rfl rfl, word rfl rfl,
      word rfl (shiftL_eq_shifted _ _), word rfl (shiftR_eq_shifted _ _), word rfl (shiftA_eq_shifted _ _), word rfl rfl,
      word rfl (minSigned_eq _ _), word rfl (maxSigned_eq _ _), word rfl (minUnsigned_eq _ _), word rfl (maxUnsigned_eq _ _),
      word rfl (congrArg boolWord (compareS_eq_comparisonHolds _ _ _)), word rfl (ite_not _ _ _).symm,
      word rfl (leadingZeros_eq_leading _), word rfl (congrArg (BitVec.ofNat 64) (popCount_eq_countP _ 64)), word rfl rfl,
      word rfl (findFirst_eq _ 64 le_rfl (by simp))⟩
  case moves =>
    intro s k t d a i n x
    have word : ∀ {i : Instr} {v z : Word64}, exec i s = .next { s with me := (s.me.issued.setS d v).advance } → v = z → UniWrites i s d z :=
      uniWrites_of_exec
    refine ⟨word rfl (add_signExtend_eq _ _), word rfl (BitVec.ofNat_toNat 64 i).symm, word rfl (shiftLeft_or_zeroExtend _ _), word rfl rfl,
      word rfl (shiftBy_eq_shifted _ _ _), word rfl rfl, word rfl (BitVec.ofNat_toNat 64 _).symm,
      issues_of_exec (f := fun l => l.setK k (maskLanes l) ((l.getS a).setWidth 32)) rfl ?_
        ⟨fun j hj hk => ?_, fun q hq => setK_get_other _ _ _ hq, setK_changes _ _ _ _⟩⟩
    · rw [setK_changes]; rfl
    · rw [setK_get_self _ hk _ _ hj, getLsbD_maskLanes, BitVec.getLsbD_setWidth, decide_eq_true hj, Bool.true_and]
      rfl
  case special =>
    intro s d n m room
    have value : specialValue s n.toNat = s.special n.toNat := (special_eq_specialValue _ _).symm
    rw [value]
    have number : ∀ {k : Nat} {x : Word64}, s.sysRead k = some x → m.toNat = k → OutsideWrites (.sysr d m) s d x :=
      fun read eq => sysr_writes d m room (eq ▸ read)
    refine ⟨fun x => smovSpecial_writes d n room, smovSpecial_faults d n,
      fun own x is => sysr_writes d m room ((sysRead_special own).trans is), fun own is => sysr_faults d m ((sysRead_special own).trans is),
      number rfl, fun is => ⟨s.partClusters s.me.part, fun c hc => getLsbD_partClusters _ _ hc, number rfl is⟩, number rfl, number rfl,
      fun above below => sysr_faults d m (sysRead_reserved above below), fun device shut => sysr_faults d m ?_,
      fun device assigned may => sysr_writes d m room ?_⟩
    · rw [sysRead_device device, if_neg]
      rcases shut with unassigned | ⟨unprivileged, closed⟩
      · simp [unassigned]
      · simp [unprivileged, closed]
    · rw [sysRead_device device, if_pos]
      simpa [assigned] using may

end Sys2Proof.Uniform

/-!
PROOF. O10: `sysw` (R114, R116, R117), without a trailing shadow.
-/

namespace Sys2Proof.SystemWrites

open Sys2Proof.Machine Sys2Proof.Spec Sys2Proof.Completion Sys2Proof.Uniform

/-! ### The fields of the writable special registers (R75, R155, R156) -/

theorem and_fieldMask (x : Word64) (hi lo : Nat) :
    x &&& fieldMask hi lo = BitVec.ofNat 64 (x.toNat / 2 ^ lo % 2 ^ (hi + 1 - lo) * 2 ^ lo) := by
  have bits : x.toNat &&& (2 ^ (hi + 1 - lo) - 1) * 2 ^ lo = x.toNat / 2 ^ lo % 2 ^ (hi + 1 - lo) * 2 ^ lo := by
    apply Nat.eq_of_testBit_eq
    intro i
    rw [Nat.testBit_and, Nat.testBit_mul_two_pow, Nat.testBit_mul_two_pow, Nat.testBit_two_pow_sub_one, Nat.testBit_mod_two_pow,
      Nat.testBit_div_two_pow]
    by_cases above : lo ≤ i
    · rw [Nat.sub_add_cancel above, decide_eq_true above, Bool.true_and, Bool.true_and, Bool.and_comm]
    · simp [above]
  have word : x = BitVec.ofNat 64 x.toNat := by simp
  rw [fieldMask, ← bits]
  apply BitVec.eq_of_toNat_eq
  rw [BitVec.toNat_and, BitVec.toNat_ofNat, BitVec.toNat_ofNat, Nat.and_mod_two_pow, Nat.mod_eq_of_lt x.isLt]

theorem and_tpcBits (x : Word64) : x &&& tpcBits = BitVec.ofNat 64 (x.toNat / 4 % 2 ^ 55 * 4) := and_fieldMask x 56 2

theorem and_tvecBits (x : Word64) : x &&& tvecBits = BitVec.ofNat 64 (x.toNat / 2 % 2 ^ 56 * 2) := and_fieldMask x 56 1

/-- Fields from the highest down, each of them a multiple that the lower ones do not reach. -/
theorem and_tcauseBits (x : Word64) : x &&& tcauseBits = BitVec.ofNat 64
    (x.toNat / 2 ^ 63 * 2 ^ 63 + x.toNat / 2 ^ 56 % 32 * 2 ^ 56 + x.toNat / 2 ^ 22 % 2 ^ 30 * 2 ^ 22 + x.toNat % 8192) := by
  simp only [tcauseBits, BitVec.and_or_distrib_left, and_fieldMask, BitVec.or_assoc]
  rw [ofNat_or_low _ (by omega), ofNat_or_low _ (by omega), ofNat_or_low _ (by omega)]
  exact congrArg _ (by omega)

theorem and_fmodeBits (x : Word64) : (x &&& fmodeBits).setWidth 32 = BitVec.ofNat 32
    (x.toNat / 2 ^ 16 % 32 * 2 ^ 16 + x.toNat / 2 ^ 8 % 32 * 2 ^ 8 + x.toNat % 4) := by
  simp only [fmodeBits, BitVec.and_or_distrib_left, and_fieldMask, BitVec.or_assoc]
  rw [ofNat_or_low _ (by omega), ofNat_or_low _ (by omega), BitVec.setWidth_ofNat_of_le (by decide)]
  exact congrArg _ (by omega)

/-! ### Without a trailing shadow nothing is compared and no value is queued (R335) -/

theorem valuesFull_off {s : State} (off : s.me.shadow = none) : s.valuesFull = false := by simp [State.valuesFull, State.shadowed, off]

theorem compared_none {s : State} (off : s.me.shadow = none) (w : List Word64) (f : State → State) : s.compared w f = f s :=
  s.compared_off w f (by simp [State.shadowed, off])

theorem outside_off {s : State} (off : s.me.shadow = none) (d : BitVec 6) (x : Word64) : s.outside d x = s.done (fun l => l.setS d x) := by
  have shadow : s.me.issued.shadow = none := off
  rw [State.outside, if_neg (ne_true_of_eq_false (valuesFull_off off)), State.done_eq, State.done_eq, Ladle.setOutside_off _ _ _ shadow]

/-! ### The word -/

theorem mayWrite_iff (s : State) (m : Nat) : s.mayWrite m = true ↔ s.me.privileged = true ∧ regAssigned m = true ∧ regReadOnly m = false := by
  simp [State.mayWrite, and_assoc]

section Fields
variable (l : Ladle) (x : Word64)

theorem writeSpecial_tpc : l.writeSpecial 11 x = some { l with tpc := BitVec.ofNat 64 (x.toNat / 4 % 2 ^ 55 * 4) } := by
  rw [← and_tpcBits]; rfl

theorem writeSpecial_tvec : l.writeSpecial 12 x = some { l with tvec := BitVec.ofNat 64 (x.toNat / 2 % 2 ^ 56 * 2) } := by
  rw [← and_tvecBits]; rfl

theorem writeSpecial_tcause : l.writeSpecial 13 x = some { l with
    tcause := BitVec.ofNat 64
      (x.toNat / 2 ^ 63 * 2 ^ 63 + x.toNat / 2 ^ 56 % 32 * 2 ^ 56 + x.toNat / 2 ^ 22 % 2 ^ 30 * 2 ^ 22 + x.toNat % 8192) } := by
  rw [← and_tcauseBits]; rfl

theorem writeSpecial_fmode : l.writeSpecial 14 x = some { l with
    fmode := BitVec.ofNat 32
      (x.toNat / 2 ^ 16 % 32 * 2 ^ 16 + x.toNat / 2 ^ 8 % 32 * 2 ^ 8 + x.toNat % 4) } := by
  rw [← and_fmodeBits]; rfl

end Fields

theorem writeSpecial_none (l : Ladle) {m : Nat} (h : m ∉ [11, 12, 13, 14]) (x : Word64) : l.writeSpecial m x = none := by
  simp only [List.mem_cons, List.not_mem_nil, or_false, not_or] at h
  obtain ⟨h11, h12, h13, h14⟩ := h
  unfold Ladle.writeSpecial
  split <;> [contradiction; contradiction; contradiction; contradiction; rfl]

section Word
variable {s : State} (d a : BitVec 6) {n : BitVec 13}

theorem exec_sysw : exec (.sysw d a n) s = execSysw d a n s := rfl

theorem sysw_own_illegal (own : n.toNat < 0x40) (none_ : s.me.writeSpecial n.toNat (s.me.getS a) = none) : Faults (.sysw d a n) s .illegal := by
  refine (exec_sysw d a).trans ?_
  simp only [execSysw, own, none_, if_true]
  rfl

theorem sysw_device_illegal (device : 0x40 ≤ n.toNat) (may : s.mayWrite n.toNat = false) : Faults (.sysw d a n) s .illegal := by
  refine (exec_sysw d a).trans ?_
  simp only [execSysw, Nat.not_lt.2 device, may, Bool.false_eq_true, if_false]
  rfl

variable (off : s.me.shadow = none)
include off

/-- A register of the ladle's own takes the value's fields, and the status is 0. -/
theorem sysw_own {f : Ladle → Ladle} (own : n.toNat < 0x40) (writes : ∀ l, Ladle.writeSpecial l n.toNat (s.me.getS a) = some (f l))
    (pad : ∀ l, (f l).pad = l.pad) (shadow : ∀ l, (f l).shadow = l.shadow) :
    Issues (.sysw d a n) s (fun l => l = (f s.me.issued).setS d 0) := by
  have act : exec (.sysw d a n) s = .next (s.done (fun l => (f l).setOutside d 0)) := by
    simp only [exec_sysw, execSysw, own, writes, valuesFull_off off, compared_none off, Option.getD_some, Bool.false_eq_true, if_true, if_false]
  exact issues_of_exec act (pad _) (Ladle.setOutside_off _ _ _ ((shadow _).trans off))

/-- A device register is written once the ladle's earlier accesses have been performed (R117). -/
theorem sysw_device (device : 0x40 ≤ n.toNat) (may : s.mayWrite n.toNat = true) : exec (.sysw d a n) s =
    .next (if s.unperformed s.me.uid 4 s.nextReq then s else s.sysWrite d n.toNat (s.me.getS a)) := by
  simp only [exec_sysw, execSysw, Nat.not_lt.2 device, may, valuesFull_off off, compared_none off, Bool.or_false, if_true, if_false]

theorem sysWrite_refused {m : Nat} {x : Word64} (refused : s.writeReg m x = none) : s.sysWrite d m x = s.done (fun l => l.setS d 1) := by
  unfold State.sysWrite
  rw [refused]
  exact outside_off off d 1

omit off in
theorem sysWrite_accepted {t : State} {m : Nat} {x : Word64} (accepted : s.writeReg m x = some t) (tables : t.fmtLoads = [])
    (off : t.me.shadow = none) : s.sysWrite d m x = t.done (fun l => l.setS d 0) := by
  unfold State.sysWrite
  rw [accepted]
  simp only [tables, List.find?_nil, outside_off off]

end Word

/-- Settles O10: by whose register it is, and by what stands in the way of the write. -/
theorem systemRegisterWrites : Obligations.SystemRegisterWrites := by
  unfold Obligations.SystemRegisterWrites
  intro s d a n off x m cause mode own
  have takes : ∀ {f : Ladle → Ladle} (k : Nat), k < 0x40 → (∀ l, Ladle.writeSpecial l k x = some (f l)) → (∀ l, (f l).pad = l.pad) →
      (∀ l, (f l).shadow = l.shadow) → m = k → own f := by
    rintro f _ below writes pad shadow rfl
    exact sysw_own d a off below writes pad shadow
  refine ⟨takes 11 (by decide) (writeSpecial_tpc · x) (fun _ => rfl) fun _ => rfl, takes 12 (by decide) (writeSpecial_tvec · x) (fun _ => rfl) fun _ => rfl,
    takes 13 (by decide) (writeSpecial_tcause · x) (fun _ => rfl) fun _ => rfl, takes 14 (by decide) (writeSpecial_fmode · x) (fun _ => rfl) fun _ => rfl,
    fun below other => sysw_own_illegal d a below (writeSpecial_none _ other x), fun device shut => sysw_device_illegal d a device ?shut,
    fun device privileged assigned writable => ?device, fun device privileged assigned writable performed => ?performed⟩
  case shut =>
    refine Bool.eq_false_iff.2 fun may => ?_
    obtain ⟨privileged, assigned, writable⟩ := (mayWrite_iff s m).1 may
    simp [privileged, assigned, writable] at shut
  all_goals have act := sysw_device d a off device ((mayWrite_iff s m).2 ⟨privileged, assigned, writable⟩)
  case device =>
    intro waits
    exact act.trans (congrArg _ (if_pos waits))
  case performed =>
    replace act := act.trans (congrArg _ (if_neg (ne_true_of_eq_false performed)))
    refine ⟨fun refused => uniWrites_of_exec (act.trans (congrArg _ (sysWrite_refused d off refused))) rfl, fun t accepted tables still => ?_⟩
    exact act.trans (congrArg _ (sysWrite_accepted d accepted tables still))

end Sys2Proof.SystemWrites

/-!
PROOF. O12 and O13: where a ladle goes after an instruction, inside a loop's body and outside one, and how `loop` fills its buffer (R121 to R125).
-/

namespace Sys2Proof.Loops

open Sys2Proof.Machine Sys2Proof.Spec Sys2Proof.Completion Sys2Proof.LadleEvents

/-! ### The next word (R121, R122) -/

theorem uniformWritten_of_setS {l m : Ladle} {d : BitVec 6} {x : Word64} (h : m.s = (l.setS d x).s) : UniformWritten l m d x := by
  have same : ∀ r, m.getS r = (l.setS d x).getS r := fun r => congrArg (fun v => Vector.get v r.toFin) h
  exact ⟨(same d).trans (l.getS_setS_self d x), fun r hr => (same r).trans (l.getS_setS_other x hr)⟩

section Body
variable {l : Ladle} {b : LoopBuf} (running : l.loop = some b) (looping : l.sp.looping = true)
include running looping

/-- Inside a body, by whether its last word has been reached. -/
theorem advance_looping :
    l.advance = if b.index + 1 < b.words.length then
      { l with loop := some { b with index := b.index + 1 }, sp := { l.sp with pc := l.sp.pc + 4 } } else l.endPass b := by
  simp only [Ladle.advance, running, looping, if_true]

theorem advance_last (last : b.words.length ≤ b.index + 1) : l.advance = l.endPass b :=
  (advance_looping running looping).trans (if_neg (Nat.not_lt.2 last))

end Body

/-- With passes left the body starts again. -/
theorem endPass_again (l : Ladle) {b : LoopBuf} (more : b.rem ≠ 1) :
    l.endPass b = { l.setS b.count (b.rem - 1) with
      loop := some { b with rem := b.rem - 1, pass := b.pass + 1, index := 0 }, piPass := b.pass + 1, sp := { l.sp with pc := b.first } } :=
  if_neg (mt sub_eq_zero.1 more)

/-- With none left the loop ends after the body, and the splits that waited for the buffer are ready. -/
theorem endPass_over (l : Ladle) {b : LoopBuf} (done : b.rem = 1) :
    l.endPass b = Ladle.freeLoop { l.setS b.count 0 with sp := { l.sp with pc := b.after, looping := false } } := by
  have left : b.rem - 1 = 0 := sub_eq_zero.2 done
  rw [Ladle.endPass, if_pos left, left]
  rfl

/-- Giving the buffer back changes, besides the buffer, the standing of splits alone: not where the issuing one goes on. -/
theorem freeLoop_changes (l : Ladle) : ∃ blocked slot splits,
    l.freeLoop = { l with loop := none, piPass := 0, sp := { l.sp with blocked := blocked, slot := slot }, splits := splits } := by
  obtain ⟨slot, splits, filled, -⟩ := fillSlots_slot
    (Ladle.mapSplits { l with loop := none, piPass := 0 } (fun x => x.blocked == .loopBusy) (fun x => { x with blocked := .ready }))
  rw [Ladle.freeLoop, filled]
  simp only [Ladle.mapSplits]
  split <;> exact ⟨_, _, _, rfl⟩

/-- Settles O13: by whether the ladle is in a body, at its last word, and in its last pass. -/
theorem nextWord : Obligations.NextWord := by
  unfold Obligations.NextWord
  intro l
  refine ⟨l.advance_plain, fun b running looping inside => ?within, fun b running looping last more => ?again,
    fun b running looping last done => ?ends⟩
  case within => exact (advance_looping running looping).trans (if_pos inside)
  case again =>
    rw [advance_last running looping last, endPass_again l more]
    exact ⟨uniformWritten_of_setS rfl, rfl, rfl, rfl, rfl⟩
  case ends =>
    obtain ⟨blocked, slot, splits, freed⟩ := freeLoop_changes { l.setS b.count 0 with sp := { l.sp with pc := b.after, looping := false } }
    rw [advance_last running looping last, endPass_over l done, freed]
    exact ⟨uniformWritten_of_setS rfl, rfl, rfl, rfl, rfl, rfl, rfl, rfl, rfl⟩

/-! ### `loop` (R122, R124, R125, R337) -/

/-- The ladle that runs a body it has captured: the passes that remain, and the step and stride registers, as at the `loop` word. -/
def looped (l : Ladle) (ws : List Word32) (c i t : BitVec 6) : Ladle :=
  { l with
    loop := some { addr := l.sp.pc, words := ws, rem := l.getS c, steps := l.getS i, stride := l.getS t, pass := 0, index := 0, count := c,
                   suspended := false }
    piPass := 0
    sp := { l.sp with looping := true } }

/-- The correction of the words that a `loop` captures changes what a correction changes. -/
theorem correctWords_changes (s : State) (pc n : Nat) :
    s.correctWords pc n = { s with slices := (s.correctWords pc n).slices, regs := (s.correctWords pc n).regs } := by
  unfold State.correctWords
  split
  · rfl
  · exact s.correctBytes_changes _

theorem correctWords_me (s : State) (pc n : Nat) : (s.correctWords pc n).me = s.me := by rw [correctWords_changes]

theorem correctWords_mem (s : State) (pc n : Nat) : (s.correctWords pc n).mem = s.mem := by rw [correctWords_changes]

section Word
variable {s : State} (n : BitVec 5) (c i t : BitVec 6)

theorem exec_loop : exec (.loop n c i t) s = execLoop n c i t s := rfl

theorem exec_loop_busy {b : LoopBuf} (busy : s.me.loop = some b) : exec (.loop n c i t) s =
    if b.suspended && s.me.sp.handler then .next (s.castFault .illegal) else .next (s.blockMe .loopBusy) := by
  simp only [exec_loop, execLoop, busy]

variable (free : s.me.loop = none)
include free

theorem exec_loop_many (many : 2 ^ 48 ≤ (s.me.getS c).toNat) : exec (.loop n c i t) s = .next (s.castFault .illegal) := by
  simp only [exec_loop, execLoop, free, many, if_true]

theorem exec_loop_skips (none_ : s.me.getS c = 0) :
    exec (.loop n c i t) s = .next (s.jump (s.me.sp.pc + BitVec.ofNat 64 (4 + 4 * n.toNat)) (fun l => l)) := by
  simp only [exec_loop, execLoop, free, none_, if_true]
  rfl

variable (some_ : s.me.getS c ≠ 0) (few : (s.me.getS c).toNat < 2 ^ 48)
include some_ few

theorem exec_loop_captures {ws : List Word32} (words : s.captureWords (s.me.sp.pc.toNat + 4) n.toNat = .ok ws) :
    exec (.loop n c i t) s = .next { s.correctWords (s.me.sp.pc.toNat + 4) n.toNat with
      me := (looped s.me.issued ws c i t).setPc (s.me.sp.pc + 4) } := by
  simp only [exec_loop, execLoop, free, Nat.not_le.2 few, some_, if_false, words, State.jump_eq, correctWords_me]
  rfl

theorem exec_loop_unread {e : Stop} (stop : s.captureWords (s.me.sp.pc.toNat + 4) n.toNat = .error e) :
    exec (.loop n c i t) s = .next (s.stopAt e) := by
  simp only [exec_loop, execLoop, free, Nat.not_le.2 few, some_, if_false, stop]

end Word

/-- Settles O12: by whether the buffer is free, how many passes are asked for, and whether the body can be read. -/
theorem loopStarts : Obligations.LoopStarts := by
  unfold Obligations.LoopStarts
  intro s n c i t x
  refine ⟨fun free many => exec_loop_many n c i t free many, fun free none_ => jumps_of_exec (exec_loop_skips n c i t free none_) rfl rfl,
    fun free some_ few ws words => ?captures, fun free some_ few f stop => exec_loop_unread n c i t free some_ few stop,
    fun b busy nested => (exec_loop_busy n c i t busy).trans (if_pos nested),
    fun b busy outer => (exec_loop_busy n c i t busy).trans (if_neg (ne_true_of_eq_false outer))⟩
  case captures =>
    intro u
    have bytes : ∀ a, u.mem.read a = s.mem.read a := fun a => by simp only [u, correctWords_mem]
    exact ⟨s.correctWords_clean _ _, looped s.me.issued ws c i t, exec_loop_captures n c i t free some_ few words, ⟨bytes, fun _ => rfl⟩,
      ⟨_, rfl, rfl, rfl, rfl, rfl, rfl, rfl, rfl, rfl, rfl⟩, rfl, rfl, rfl⟩

end Sys2Proof.Loops

/-!
PROOF. O58: one step, of the agenda or of the issuing split (R121, R122, R337, R338, R359, R373).
-/

namespace Sys2Proof.Stepping

open Sys2Proof.Machine Sys2Proof.Spec

/-! ### What time changes (R7, R360, R370) -/

/-- One step later, with nothing done yet: time has passed, its consumption has been counted, and the pool has noted its heads. -/
def Later (s u : State) : Prop :=
  u = { s with ticks := s.ticks + 1, service := u.service, windows := u.windows, consumed := u.consumed, heads := u.heads }

theorem noteAllHeads_changes (s : State) : ∃ h, s.noteAllHeads = { s with heads := h } := by
  have all : ∀ (l : List Nat) (h : FMap (List Head)), ∃ h', l.foldl State.noteHeads { s with heads := h } = { s with heads := h' } := by
    intro l
    induction l with
    | nil => exact fun h => ⟨h, rfl⟩
    | cons p r ih => exact fun h => ih _
  exact all _ _

theorem consume_changes (s : State) (e : Word64) (x : Nat) : ∃ w c, s.consume e x = { s with windows := w, consumed := c } := by
  unfold State.consume
  extract_lets p
  split
  · exact ⟨_, _, rfl⟩
  · exact ⟨_, _, rfl⟩

theorem tick_changes (s : State) : ∃ v w c, s.tick = { s with ticks := s.ticks + 1, service := v, windows := w, consumed := c } := by
  have all : ∀ (e : Word64) (l : List Nat) (u : State), ∃ w c, l.foldl (fun t x => t.consume e x) u = { u with windows := w, consumed := c } := by
    intro e l
    induction l with
    | nil => exact fun u => ⟨_, _, rfl⟩
    | cons x r ih =>
      intro u
      obtain ⟨w, c, first⟩ := consume_changes u e x
      obtain ⟨w', c', rest⟩ := ih (u.consume e x)
      exact ⟨w', c', by rw [List.foldl_cons, rest, first]⟩
  obtain ⟨w, c, passed⟩ := all (Sys2Proof.Config.elapsed s.ticks) s.heldClusters
    { s with ticks := s.ticks + 1, service := s.service + Sys2Proof.Config.elapsed s.ticks }
  exact ⟨_, w, c, passed⟩

theorem later_tick (s : State) : Later s s.noteAllHeads.tick := by
  obtain ⟨h, noted⟩ := noteAllHeads_changes s
  obtain ⟨v, w, c, passed⟩ := tick_changes s.noteAllHeads
  rw [Later, passed, noted]

namespace Later
variable {s u : State} (h : Later s u)
include h

theorem me : u.me = s.me := (congrArg State.me h).trans rfl
theorem ladles : u.ladles = s.ladles := (congrArg State.ladles h).trans rfl
theorem agenda : u.agenda = s.agenda := (congrArg State.agenda h).trans rfl
theorem mem : u.mem = s.mem := (congrArg State.mem h).trans rfl
theorem lastCommit : u.lastCommit = s.lastCommit := (congrArg State.lastCommit h).trans rfl
theorem noErrors : u.noErrors = s.noErrors := (congrArg State.noErrors h).trans rfl
theorem retrains (cluster core : Nat) : u.retrains cluster core = s.retrains cluster core :=
  (congrArg (State.retrains · cluster core) h).trans rfl

end Later

/-! ### The agenda (R359, R373) -/

section Agenda
variable {s : State} {r : List Move}

theorem step_event {i : Instr} (head : s.noteAllHeads.tick.agenda = .event i :: r) : step s =
    poolAfter i { s.noteAllHeads.tick with agenda := r } (exec i { s.noteAllHeads.tick with agenda := r }) := by
  simp only [step, head]

theorem step_outside {o : Outside} (head : s.noteAllHeads.tick.agenda = .outside o :: r) : step s =
    .next (({ s.noteAllHeads.tick with agenda := r } : State).world o) := by
  simp only [step, head]

/-- After an event that is not the pool's own nothing follows. -/
theorem poolAfter_other {i : Instr} (other : poolEvent i = false) (s : State) (x : Result) : poolAfter i s x = x := by
  unfold poolAfter
  split
  · rw [other]; rfl
  · rfl

/-- After one of the pool's own its slot follows. -/
theorem poolAfter_pool {i : Instr} (own : poolEvent i = true) (s t : State) : poolAfter i s (.next t) = .next (s.slotAfter t) := if_pos own

end Agenda

/-! ### Nothing moves -/

theorem readyLadle_none {s : State} (none_ : ∀ l ∈ s.ladles, l.canRun = true → ∀ x ∈ l.allSplits, l.canIssue x = false) :
    s.readyLadle = none := by
  refine List.findSome?_eq_none_iff.2 fun l hl => ?_
  split
  next runs =>
    have blocked : l.allSplits.find? (fun x => l.canIssue x) = none :=
      List.find?_eq_none.2 fun x hx => by simp [none_ l hl runs x hx]
    rw [Ladle.readySlot, blocked]
    rfl
  next => rfl

section Issuing
variable {s : State} (empty : s.noteAllHeads.tick.agenda = [])
include empty

theorem step_issue (runs : s.noteAllHeads.tick.me.canRun = true) (issues : s.noteAllHeads.tick.me.canIssue s.noteAllHeads.tick.me.sp = true) :
    step s = issueStep s.noteAllHeads.tick := by
  simp only [step, empty, runs, issues, Bool.and_self, if_true]

theorem step_idle (none_ : ∀ l ∈ s.noteAllHeads.tick.ladles, l.canRun = true → ∀ x ∈ l.allSplits, l.canIssue x = false) :
    step s = .next s.noteAllHeads.tick := by
  have stays : (s.noteAllHeads.tick.me.canRun && s.noteAllHeads.tick.me.canIssue s.noteAllHeads.tick.me.sp) = false := by
    have := none_ _ List.mem_cons_self
    cases runs : s.noteAllHeads.tick.me.canRun
    · rfl
    · exact this runs _ List.mem_cons_self
  simp only [step, empty, stays, readyLadle_none none_, Bool.false_eq_true, if_false]

end Issuing

/-! ### Readying the issuing split -/

theorem canIssue_ready {l : Ladle} {x : Split} (h : l.canIssue x = true) : x.blocked = .ready := by
  simp only [Ladle.canIssue, Bool.and_eq_true, beq_iff_eq] at h
  obtain ⟨⟨⟨⟨-, ready⟩, -⟩, -⟩, -⟩ := h
  exact ready

section Alone
variable {u : State} (single : u.me.splits = []) (landed : u.me.pend = [])
include single

theorem mergePartner_none : u.me.mergePartner = none := by
  simp [Ladle.mergePartner, single]

theorem mergeAll_alone : ∀ n, Ladle.mergeAll n u.me = u.me
  | 0 => rfl
  | n + 1 => by
    simp only [Ladle.mergeAll, mergePartner_none single]
    split <;> rfl

include landed

/-- A single split with no result pending has nothing to merge with and nothing to land. -/
theorem prepare_alone (ready : u.me.sp.blocked = .ready) : u.prepare = u := by
  have apart : u.me.meetsAt = none := by rw [Ladle.meetsAt, mergePartner_none single]
  have same : u.mapMe (fun l => (Ladle.mergeAll 32 l).fenceFrom u.nextReq) = u := by
    rw [State.mapMe, mergeAll_alone single, Ladle.fenceFrom, ready]
  simp only [State.prepare, apart, same]
  exact u.settle_nil landed

end Alone

/-! ### Fetching (R121, R122, R337, R338) -/

section Fetch
variable {u : State} {pa : Nat} {leaf : Leaf} (straight : u.me.sp.looping = false)

@[simp] theorem fetched_me (u : State) : u.fetched.me = u.me := u.correctBytes_me _

theorem fetchAddr_mapped (low : u.me.sp.pc.toNat < 2 ^ 57) (mapped : u.physical u.me.who u.me.sp.pc.toNat .fetch = .ok (pa, leaf)) :
    u.fetchAddr = .ok pa := by
  rw [State.fetchAddr, if_neg (Nat.not_le.2 low), mapped]
  rfl

theorem fetch_body {b : LoopBuf} (looping : u.me.sp.looping = true) (running : u.me.loop = some b) {i : Instr} (word : b.instr = some i) :
    u.fetch = .ok i := by
  simp only [State.fetch, looping, running, word, if_true]

theorem fetch_body_illegal {b : LoopBuf} (looping : u.me.sp.looping = true) (running : u.me.loop = some b) (word : b.instr = none) :
    u.fetch = .error (.fault .illegal) := by
  simp only [State.fetch, looping, running, word, if_true]

/-- Nothing is read, and so nothing corrected, where a loop runs from its buffer. -/
theorem fetched_looping (looping : u.me.sp.looping = true) : u.fetched = u := by
  simp [State.fetched, State.fetchBytes, looping, State.correctBytes]

variable (addr : u.fetchAddr = .ok pa)
include straight addr

theorem fetched_straight : u.fetched = u.correctBytes ((List.range 4).map (pa + ·)) := by
  simp only [State.fetched, State.fetchBytes, straight, addr, Bool.false_eq_true, if_false]

theorem fetch_poisoned (poison : u.poisonedIn pa 4 = true) : u.fetch = .error (.fault .uncorrectable) := by
  simp only [State.fetch, straight, addr, poison, Bool.false_eq_true, if_false, if_true]

variable (clean : u.poisonedIn pa 4 = false)
include clean

theorem fetch_word {i : Instr} {r : List Byte} (word : decode ((List.range 4).map (fun k => u.mem.read (pa + k))) = .ok (i, r)) :
    u.fetch = .ok i := by
  simp only [State.fetch, straight, addr, clean, word, Bool.false_eq_true, if_false]

theorem fetch_illegal {e : Reject} (word : decode ((List.range 4).map (fun k => u.mem.read (pa + k))) = .error e) :
    u.fetch = .error (.fault .illegal) := by
  simp only [State.fetch, straight, addr, clean, word, Bool.false_eq_true, if_false]

end Fetch

/-! ### Issuing (R57, R60, R230) -/

/-- A core that realigns issues nothing. -/
theorem issueStep_retrains {u : State} (realigns : u.retrains u.me.cluster u.me.core = true) : issueStep u = .next u := by
  simp [issueStep, realigns]

/-- What the issuing split makes of its fetch. -/
def outcomeOf (u : State) (x : Except Stop Instr) : Result :=
  match x with
  | .ok i => if u.interlocked i then .next u.fetched else u.fetched.afterIssue (exec i u.fetched)
  | .error e => .next (u.stopAt e)

section Issue
variable {u : State} (runs : u.me.canRun = true) (issues : u.me.canIssue u.me.sp = true) (steady : u.retrains u.me.cluster u.me.core = false)
  (single : u.me.splits = []) (landed : u.me.pend = [])
include runs issues steady single landed

theorem issueStep_alone : issueStep u = outcomeOf u u.fetch := by
  have free : u.me.mustWait = false := by rw [Ladle.mustWait, landed]; rfl
  simp only [issueStep, prepare_alone single landed (canIssue_ready issues), runs, issues, steady, free, Bool.not_false, Bool.and_self, if_true]
  rfl

/-- Nothing is pending, so nothing lands after the instruction. -/
theorem issueStep_runs {i : Instr} (word : u.fetch = .ok i) (free : u.interlocked i = false) : issueStep u = exec i u.fetched := by
  rw [issueStep_alone runs issues steady single landed, word]
  simp only [outcomeOf, free, Bool.false_eq_true, if_false]
  cases exec i u.fetched <;> simp [State.afterIssue, landed]

theorem issueStep_waits {i : Instr} (word : u.fetch = .ok i) (held : u.interlocked i = true) : issueStep u = .next u.fetched := by
  rw [issueStep_alone runs issues steady single landed, word]
  simp only [outcomeOf, held, if_true]

theorem issueStep_stops {c : Cause} (word : u.fetch = .error (.fault c)) : issueStep u = .next (u.castFault c) := by
  rw [issueStep_alone runs issues steady single landed, word]
  rfl

end Issue

/-- Settles O58: what time changes, each head of the agenda, and, for the issuing split, each outcome of its fetch. -/
theorem stepRunsDecoded : Obligations.StepRunsDecoded := by
  unfold Obligations.StepRunsDecoded
  intro s u
  have later : Later s u := later_tick s
  refine ⟨later, fun i r head => ?event, fun o r head => step_outside (later.agenda.trans head), fun empty none_ => ?idle,
    fun empty runs issues single landed steady => ?issue, fun empty runs issues realigns => ?retrains⟩
  case event =>
    have act := step_event (later.agenda.trans head)
    refine ⟨fun other => act.trans (poolAfter_other other _ _), fun own t done => ?_⟩
    rw [act, done, poolAfter_pool own, State.slotAfter]
    simp only [show s.noteAllHeads.tick.lastCommit = s.lastCommit from later.lastCommit]
  case idle => exact step_idle (later.agenda.trans empty) (later.ladles ▸ none_)
  all_goals
    rw [← later.me] at runs issues
    have act : step s = issueStep u := step_issue (later.agenda.trans empty) runs issues
    rw [act]
  case issue =>
    rw [← later.me] at single landed steady
    rw [← later.retrains] at steady
    refine ⟨fun pa leaf straight low mapped => ?straight, fun b looping running => ?body⟩
    case straight =>
      rw [← later.me] at straight low mapped
      rw [← later.mem, ← later.noErrors]
      have addr := fetchAddr_mapped low mapped
      have corrected := fetched_straight straight addr
      refine ⟨u.correctBytes_clean _, fun poison => issueStep_stops runs issues steady single landed (fetch_poisoned straight addr poison),
        fun i r clean word => ?_, fun e clean word => issueStep_stops runs issues steady single landed (fetch_illegal straight addr clean word)⟩
      have fetched := fetch_word straight addr clean word
      exact ⟨fun free => (issueStep_runs runs issues steady single landed fetched free).trans (congrArg (exec i) corrected),
        fun held => (issueStep_waits runs issues steady single landed fetched held).trans (congrArg _ corrected)⟩
    case body =>
      rw [← later.me] at looping running
      have same := fetched_looping looping
      exact ⟨fun i word free => (issueStep_runs runs issues steady single landed (fetch_body looping running word) free).trans (congrArg (exec i) same),
        fun word => issueStep_stops runs issues steady single landed (fetch_body_illegal looping running word)⟩
  case retrains =>
    rw [← later.me, ← later.retrains] at realigns
    exact issueStep_retrains realigns

end Sys2Proof.Stepping
